-- ==== Sys2Proof/Word.lean ====
section
/-! DEFINITION. Words, bytes and sparse maps: the plainest data the AK8 model is written in (R7, R8). -/

namespace Sys2Proof

/-- A register or record word: every register is 64 bits wide (R30). -/
abbrev Word := BitVec 64

/-- One byte of memory (R8). -/
abbrev Byte := BitVec 8

/-- A sparse table: keys strictly rising, one value a key. -/
abbrev Map (α : Type) := List (Nat × α)

/-- A stamp of the tick timebase, in ns (R40). -/
abbrev Stamp := Nat

/-- One microsecond in ns (R7). -/
abbrev us : Nat := 1000

end Sys2Proof
end

