-- ==== Sys2Proof/Syntax.lean ====
section
/-! DEFINITION. The commands of the AK8 block: one constructor per row of the table of operations and events,
in the table's order. Each docstring gives the row and its rule. An operand `t` is the event's stamp (R40). -/

namespace Sys2Proof

/-- A context id: home die in bits [12:11], slot in bits [10:0] (R83). -/
abbrev CtxId := Fin 8192
/-- A crest die C0 to C3 (R12). -/
abbrev Crest := Fin 4
/-- A toe die T0 to T3, a BML port, an Ethernet port or a host (R14, R366). -/
abbrev Port := Fin 4
/-- A memory stack S00 to S19 (R12). -/
abbrev Stack := Fin 20
/-- A pseudo-channel B00 to B63 (R16). -/
abbrev Pc := Fin 64
/-- A polder number (R4). -/
abbrev PolderNo := Fin 4096
/-- A collection or table number (R135, R330). -/
abbrev CollNo := Fin 256
/-- A connection number (R427). -/
abbrev ConnNo := Fin 262144

/-- Who makes a register access or an image operation (R27, R511). -/
inductive Requester where
  | host (h : Port)
  | reeve
  | i3c
  deriving DecidableEq, Repr

/-- The unit that lost a request's state (R534): a slot of a walker, a job of a die's selection unit, a die's slot for the context. -/
inductive ErrUnit where
  | walkerSlot (walker : Fin 512) (slot : Fin 16)
  | selectionJob (die : Crest)
  | contextSlot (die : Crest)
  deriving DecidableEq, Repr

/-- What a JTAG instruction register can hold (R554). -/
inductive JtagOp where
  | bypass | idcode | samplePreload | extest | clamp | highz
  deriving DecidableEq, Repr

/-- The failed unit that the reeve declares, with the cause's kind left to the sender (R536). -/
inductive FailUnit where
  | pseudoChannel (s : Stack) (p : Pc)
  | stack (s : Stack)
  | crest (d : Crest)
  | toe (n : Port)
  deriving DecidableEq, Repr

/-- A cause of R537 that ends the part, by its value 1 to 7. -/
inductive FatalCause where
  | thermal | current | supply | reeveWatchdog | packageUnit | t0Lost | noCrest
  deriving DecidableEq, Repr

/-- A BSU command record: 8 words (R248). -/
abbrev BsuRec := Vector Word 8

/-- The fields of an arriving SEND packet that its rules read (R421 to R424). -/
structure Packet where
  conn    : ConnNo
  psn     : BitVec 24
  key     : BitVec 32
  length  : Nat
  incarn  : BitVec 8
  ackReq  : Bool
  ecnCe   : Bool
  imm     : BitVec 32
  payload : List Byte
  deriving DecidableEq, Repr

/-- The fields of an arriving Acknowledge (R422, R424). -/
structure AckPacket where
  conn   : ConnNo
  psn    : BitVec 24
  becn   : Bool
  incarn : BitVec 8
  deriving DecidableEq, Repr

/-- The 64-byte header of a MEMBER, SHARD or POOL message, less its type, and its body (R444, R445). -/
structure FabMsg where
  conn    : ConnNo
  attempt : Nat
  epoch   : Nat
  origin  : BitVec 16
  context : CtxId
  gen     : BitVec 8
  arg0    : Word
  arg1    : Word
  body    : List Byte
  deriving DecidableEq, Repr

/-- What a tile's SRAM and array checks found while a job ran: one-bit errors corrected, and 1 for an uncorrectable SRAM error or 2 for
an array parity error (R306). -/
structure TileErr where
  corrected : Nat
  kind      : Fin 3
  deriving DecidableEq, Repr

/-- A reading of the power controller: every sensor, the input voltage (10 mV), current (A) and power (W) (R533). -/
structure Sensors where
  tj   : List Int
  ts   : List Int
  vin  : Nat
  iin  : Nat
  pin  : Nat
  pmean100 : Nat
  deriving DecidableEq, Repr

/-- The content that a training exchange of a BML port settles (R463, R464). -/
structure BmlTrain where
  lanesOk  : BitVec 8
  version  : Nat
  farRes   : List Nat
  farPool  : Nat
  rttNs    : Nat
  rxNext   : BitVec 10
  equalInits : Nat
  deriving DecidableEq, Repr

/-- The commands. -/
inductive Instr where
  -- the tick unit
  /-- TICK_BOUNDARY (R46). -/
  | tickBoundary
  /-- BERM_NOTICE (R46). -/
  | bermNotice
  /-- EPOCH_FREEZE (R46, R47): `late` names the collections with a group whose reports are incomplete, each with the number of its due
  groups before that one; `lateTables` the tables. -/
  | epochFreeze (late lateTables : List (Nat × Nat))
  /-- STEP_START (R42): the unit (bits [31:16] of its block), the step's proven bound and the time. -/
  | stepStart (unit : BitVec 16) (bound : Nat) (t : Stamp)
  /-- STALE_PIN (R56). -/
  | stalePin (c : CtxId)
  /-- RETAINED_VERSION_FREE (R58). -/
  | retainedVersionFree (coll : CollNo)
  /-- TICK_START (R68): a write of TCK_CTL with start 1. -/
  | tickStart (startTick : BitVec 48) (t : Stamp)
  /-- TICK_STOP (R68). -/
  | tickStop
  /-- STOP_JUDGEMENT (R68). -/
  | stopJudgement
  /-- TICK_IN_EDGE (R60). -/
  | tickInEdge (t : Stamp)
  /-- PTP_EVENT_MESSAGE (R420): the recovered PTP time at the stamp. -/
  | ptpEventMessage (port : Port) (ptpNs : Nat) (t : Stamp)
  /-- ALIGN_LOST (R62). -/
  | alignLost
  /-- REALIGN (R64). -/
  | realign
  /-- ALIGN_REGAINED (R64). -/
  | alignRegained
  /-- ACQUIRING_EXIT (R65). -/
  | acquiringExit
  -- requests
  /-- COMMAND_ENTRY_READ (R483). -/
  | commandEntryRead (port : Port) (ring : Fin 64) (t : Stamp)
  /-- AFT_DESCRIPTOR (R78): the connection's oldest SEND is taken. -/
  | aftDescriptor (conn : ConnNo) (t : Stamp)
  /-- SLUICE_GRANT (R118). -/
  | sluiceGrant
  /-- WAIT_LIMIT (R120). -/
  | waitLimit (p : PolderNo)
  /-- CANCEL (R99). -/
  | cancel (p : PolderNo) (target : Word)
  /-- DEADLINE (R98). -/
  | deadline (c : CtxId)
  /-- HANDOFF (R90). -/
  | handoff (c : CtxId) (dst : Crest) (t : Stamp)
  /-- HND (R90): the link from `src` to `dst` delivers its next HND message. -/
  | hnd (src dst : Crest) (t : Stamp)
  /-- HAK (R90): the link from `src` to `dst` delivers its next HAK message. -/
  | hak (src dst : Crest) (t : Stamp)
  /-- HAK_TIMEOUT (R90). -/
  | hakTimeout (die : Crest) (c : CtxId) (t : Stamp)
  /-- ABORT (R92): the link from `src` to `dst` delivers its next ABORT message. -/
  | abort (src dst : Crest)
  /-- SUB_REQUEST (R560): one partial walk or scan of `part` on `dst`. -/
  | subRequest (c : CtxId) (dst : Crest) (part : Nat) (t : Stamp)
  /-- PARTIAL_RESULT_RETURN (R561). -/
  | partialResultReturn (die : Crest) (c : CtxId) (h : BitVec 16) (t : Stamp)
  /-- PARTIAL_RESULT_RESEND (R561). -/
  | partialResultResend (die : Crest) (c : CtxId) (h : BitVec 16) (t : Stamp)
  /-- LOSS_NOTICE (R95). -/
  | lossNotice (d : Crest)
  /-- DIE_LOST_FINDING (R95). -/
  | dieLostFinding (src home : Crest)
  /-- REEVE_DIE_LOST_COMPLETION (R95). -/
  | reeveDieLostCompletion (d : Crest)
  /-- REEVE_COMPLETION (R100). -/
  | reeveCompletion (c : CtxId)
  /-- CONTAINED_ERROR (R534). -/
  | containedError (u : ErrUnit) (c : CtxId) (idReadable : Bool)
  /-- STAGE_PASS (R88). -/
  | stagePass (c : CtxId) (t : Stamp)
  /-- RETIREMENT (R86). -/
  | retirement (c : CtxId) (t : Stamp)
  /-- COMPLETION_WRITE (R484). -/
  | completionWrite (port : Port) (t : Stamp)
  -- polders, sluice, weirs
  /-- POLDER_ACTIVATE (R109). -/
  | polderActivate
  /-- PLD_UNLOAD (R110). -/
  | pldUnload (p : PolderNo) (abort : Bool) (t : Stamp)
  /-- DRAINING_START (R110). -/
  | drainingStart (p : PolderNo)
  /-- POLDER_ABSENT (R111). -/
  | polderAbsent (p : PolderNo)
  /-- DEFERRED_RATE_APPLY (R114). -/
  | deferredRateApply
  /-- SLU_GCFG_WRITE (R133). -/
  | sluGcfgWrite (v : Word)
  /-- WEI_RATE_WRITE (R124). -/
  | weiRateWrite (w : Fin 16384) (v : Word)
  /-- WEIR_TOKEN_ADD (R122). -/
  | weirTokenAdd (t : Stamp)
  /-- WEIR_PASS (R123). -/
  | weirPass (w : Fin 16384) (t : Stamp)
  -- the graph walk and selection
  /-- WALK_START (R165). -/
  | walkStart (c : CtxId) (part : Nat) (walker : Fin 512) (slot : Fin 16)
  /-- BATCH_0 (R188). -/
  | batch0 (walker : Fin 512) (slot : Fin 16) (t : Stamp)
  /-- EXPANSION_BATCH (R188). -/
  | expansionBatch (walker : Fin 512) (slot : Fin 16) (t : Stamp)
  /-- MERGE (R205). -/
  | merge (die : Crest) (c : CtxId) (t : Stamp)
  -- mutation
  /-- APPLY_STEP (R225): the step's end stamp is `t`. -/
  | applyStep (coll : CollNo) (t : Stamp)
  /-- CONSOLIDATION (R229). -/
  | consolidation (coll : CollNo) (seg : Nat)
  /-- REPLICA_APPLY_STEP (R233). -/
  | replicaApplyStep (coll : CollNo) (t : Stamp)
  /-- REPL_COMMIT_DECISION (R233). -/
  | replCommitDecision (coll : CollNo)
  /-- PLAN_ACCEPT (R236). -/
  | planAccept
  /-- ATOMIC_SWAP (R238). -/
  | atomicSwap (coll : CollNo)
  /-- ROLLING_SWAP (R239). -/
  | rollingSwap (coll : CollNo)
  -- bank-side units
  /-- BSU_SEGMENT (R246): window `win` of the tick. -/
  | bsuSegment (s : Stack) (p : Pc) (win : Nat) (t : Stamp)
  /-- SCAN (R252): the command record; the controller takes its page list, set-up and batch from the stage queue for segment `seg`. -/
  | scan (s : Stack) (p : Pc) (r : BsuRec) (seg : Nat)
  /-- SHADOW (R250). -/
  | shadow (s : Stack) (p : Pc) (r : BsuRec) (seg : Nat)
  /-- FILTER (R250). -/
  | filter (s : Stack) (p : Pc) (r : BsuRec) (seg : Nat)
  /-- POOL (R338): for the bags of a request. -/
  | pool (s : Stack) (p : Pc) (r : BsuRec) (c : CtxId)
  /-- PRUNE (R251): for record `item` of a request. -/
  | prune (s : Stack) (p : Pc) (r : BsuRec) (c : CtxId) (item : Nat)
  /-- EDGESCAN (R250): of segment `seg`, for the consolidation of segment `cons` and its dead-set window at `base`. -/
  | edgescan (s : Stack) (p : Pc) (r : BsuRec) (cons seg base : Nat)
  /-- COPY (R262): the page list names the source pages. -/
  | copy (s : Stack) (p : Pc) (r : BsuRec) (pages : List Word)
  /-- FILL (R250). -/
  | fill (s : Stack) (p : Pc) (r : BsuRec)
  /-- SCAN_SEGMENT_LIST (R254). -/
  | scanSegmentList (c : CtxId) (seg : Nat) (isShadow : Bool)
  /-- SCRUB (R260). -/
  | scrub (s : Stack) (p : Pc) (t : Stamp)
  /-- PATROL_SCRUB (R364): the line the patrol reads. -/
  | patrolScrub (s : Stack) (line : Nat) (t : Stamp)
  /-- REFRESH (R245): a refresh of the pseudo-channel falls due. -/
  | refresh (s : Stack) (p : Pc) (t : Stamp)
  /-- ECC_MODE_CHANGE (R263): the guard at which a written ecc field takes effect. -/
  | eccModeChange (s : Stack) (row : Fin 1024)
  -- tensor tiles
  /-- PASS_START (R278). -/
  | passStart (c : CtxId) (die : Crest) (slot : Fin 96)
  /-- LINEAR_SLICE (R318): operator `op` for the passes of `slots`, on one tile. -/
  | linearSlice (die : Crest) (tile : Fin 64) (op : Nat) (slots : List (Fin 96)) (err : TileErr) (t : Stamp)
  /-- VECTOR (R286). -/
  | vector (die : Crest) (tile : Fin 64) (op : Nat) (slots : List (Fin 96)) (err : TileErr) (t : Stamp)
  /-- EMBED (R337). -/
  | embed (die : Crest) (tile : Fin 64) (op : Nat) (slot : Fin 96) (err : TileErr) (t : Stamp)
  /-- APPEND (R296). -/
  | append (die : Crest) (tile : Fin 64) (op : Nat) (slot : Fin 96) (err : TileErr) (t : Stamp)
  /-- ATTN (R290): query block `qb` of head `head`. -/
  | attn (die : Crest) (tile : Fin 64) (op : Nat) (slot : Fin 96) (head qb : Nat) (err : TileErr) (t : Stamp)
  /-- ATTN_BACK (R302). -/
  | attnBack (die : Crest) (tile : Fin 64) (op : Nat) (slot : Fin 96) (head qb : Nat) (err : TileErr) (t : Stamp)
  /-- OPTIM (R303). -/
  | optim (die : Crest) (tile : Fin 64) (slot : Fin 96) (adapter : Fin 16) (err : TileErr) (t : Stamp)
  /-- WEIGHT_RELOAD (R306). -/
  | weightReload (die : Crest) (tile : Fin 64)
  -- embedding tables
  /-- HOT_LOAD (R340). -/
  | hotLoad (die : Crest) (tile : Fin 64) (by_ : Requester)
  /-- HOT_LIST_SWITCH (R340). -/
  | hotListSwitch (die : Crest) (tile : Fin 64)
  /-- HOT_ROW_FETCH (R341). -/
  | hotRowFetch (die : Crest) (tile : Fin 64) (row : BitVec 32)
  /-- PREFETCH (R342). -/
  | prefetch (die : Crest) (slot : Fin 96) (table : CollNo) (row : BitVec 32)
  /-- TABLE_APPLY_STEP (R344). -/
  | tableApplyStep (table : CollNo) (t : Stamp)
  /-- MOVE_COPY (R348). -/
  | moveCopy (table : CollNo) (t : Stamp)
  -- memory tiers
  /-- MOVER_LIST_DOORBELL (R354). -/
  | moverListDoorbell (die : Crest) (by_ : Requester)
  /-- MOVER_COPY (R357): the mover of `die` takes its next list entry, a COPY. -/
  | moverCopy (die : Crest) (t : Stamp)
  /-- PUBLISH (R378): the mover of `die` takes its next list entry, a PUBLISH. -/
  | publish (die : Crest) (t : Stamp)
  /-- MOVER_TILE (R359): `poolErr` when the crest-pool read of its source was uncorrectable (R363). -/
  | moverTile (die : Crest) (poolErr : Bool) (t : Stamp)
  /-- AGE_EVICTION (R361). -/
  | ageEviction
  /-- PUBLICATION_FLIP (R379). -/
  | publicationFlip (p : PolderNo) (region : Fin 4096)
  /-- RECALL_TIMEOUT (R371). -/
  | recallTimeout (line : Nat) (t : Stamp)
  /-- HOST_LOST (R487). -/
  | hostLost (h : Port) (t : Stamp)
  /-- WINDOW_CLOSE (R373). -/
  | windowClose (h : Port)
  /-- WINDOW_OPEN (R373). -/
  | windowOpen (h : Port)
  /-- MIRROR_REBUILD (R375). -/
  | mirrorRebuild (s : Stack)
  -- flash
  /-- FLASH_READ (R388): `okStep` is the ladder step that succeeds, if any. -/
  | flashRead (ns : Fin 4096) (unit : Nat) (c : Option CtxId) (okStep : Option Nat) (t : Stamp)
  /-- FLASH_LATE (R389). -/
  | flashLate (io : Nat) (t : Stamp)
  /-- UNIT_WRITE (R397): bytes `data` at `offset` of the unit; `src` names the toe die whose list or pipeline writes. -/
  | unitWrite (ns : Fin 4096) (unit : Nat) (offset : Nat) (data : List Byte) (c : Option CtxId) (t : Stamp)
  /-- WORD_LINE_PADDING (R399). -/
  | wordLinePadding
  /-- PROGRAM_END (R399): the word line holding the write of sequence number `seq` ends its program. -/
  | programEnd (seq : Nat) (t : Stamp)
  /-- MAP_COMMIT (R400). -/
  | mapCommit
  /-- COMMIT_LOG (R406). -/
  | commitLog (t : Stamp)
  /-- GARBAGE_COLLECTION (R403) on one LUN. -/
  | garbageCollection (lun : Nat) (badPages : List Nat) (t : Stamp)
  /-- BLOCK_REFRESH (R403); the pages whose reads fail are named, ascending. -/
  | blockRefresh (block : Nat) (badPages : List Nat) (t : Stamp)
  /-- BLOCK_ERASE (R403). -/
  | blockErase (block : Nat)
  /-- PROGRAM_FAILURE (R404). -/
  | programFailure (block : Nat) (t : Stamp)
  /-- ERASE_FAILURE (R404). -/
  | eraseFailure (block : Nat)
  /-- LUN_FAILED (R404). -/
  | lunFailed (lun : Nat)
  /-- CHANNEL_FAILED (R404). -/
  | channelFailed (ch : Fin 32)
  /-- CHECKPOINT (R405). -/
  | checkpoint
  /-- FLASH_LIST_DOORBELL (R412). -/
  | flashListDoorbell (n : Port) (by_ : Requester)
  /-- READ (R413): the flash list's next entry, a READ; `okSteps` gives each unit's ladder step. -/
  | read (n : Port) (okSteps : List (Option Nat)) (t : Stamp)
  /-- WRITE (R413). -/
  | write (n : Port) (t : Stamp)
  /-- DISCARD (R401). -/
  | discard (n : Port) (t : Stamp)
  /-- FLASH_ENABLE (R411). -/
  | flashEnable (v : Word)
  -- fabric
  /-- PORT_MODE (R417). -/
  | portMode (n : Port) (v : Word)
  /-- LANE_TRAINED (R417). -/
  | laneTrained (n : Port) (lane : Fin 8)
  /-- HALF_TRAINING_TIMEOUT (R417). -/
  | halfTrainingTimeout (n : Port) (half : Fin 2)
  /-- ETHERNET_FRAME (R418). -/
  | ethernetFrame (n : Port) (isAft : Bool) (vlan : Option (BitVec 12)) (pcp : Fin 8) (bytes : Nat) (fcsOk icrcOk : Bool) (t : Stamp)
  /-- PFC_FRAME (R419): for each class a time in 512-bit quanta. -/
  | pfcFrame (n : Port) (half : Fin 2) (quanta : List (Fin 8 × BitVec 16)) (t : Stamp)
  /-- PFC_CONFIG_WRITE (R419). -/
  | pfcConfigWrite (n : Port) (v : Word)
  /-- SEND_FIRST (R434). -/
  | sendFirst (p : Packet) (t : Stamp)
  /-- SEND_MIDDLE (R434). -/
  | sendMiddle (p : Packet) (t : Stamp)
  /-- SEND_LAST (R434). -/
  | sendLast (p : Packet) (t : Stamp)
  /-- SEND_LAST_WITH_IMMEDIATE (R434). -/
  | sendLastWithImmediate (p : Packet) (t : Stamp)
  /-- SEND_ONLY (R434). -/
  | sendOnly (p : Packet) (t : Stamp)
  /-- SEND_ONLY_WITH_IMMEDIATE (R434). -/
  | sendOnlyWithImmediate (p : Packet) (t : Stamp)
  /-- KEEPALIVE (R426). -/
  | keepalive (n : Port) (peer : Fin 1024) (tick : BitVec 48) (t : Stamp)
  /-- KEEPALIVE_SEND (R426). -/
  | keepaliveSend (n : Port)
  /-- PEER_LOST (R426). -/
  | peerLost (n : Port) (peer : Fin 1024)
  /-- ACK (R432). -/
  | ack (p : AckPacket) (t : Stamp)
  /-- RNR_NAK (R433). -/
  | rnrNak (p : AckPacket) (wait : Fin 32) (t : Stamp)
  /-- NAK_SEQUENCE (R432). -/
  | nakSequence (p : AckPacket) (t : Stamp)
  /-- NAK_INVALID (R429). -/
  | nakInvalid (p : AckPacket)
  /-- NAK_ACCESS (R438). -/
  | nakAccess (p : AckPacket)
  /-- RETRANSMIT_TIMEOUT (R432). -/
  | retransmitTimeout (c : ConnNo) (t : Stamp)
  /-- RNR_WAIT_END (R433). -/
  | rnrWaitEnd (c : ConnNo) (t : Stamp)
  /-- ACK_DELAY (R434). -/
  | ackDelay (c : ConnNo) (t : Stamp)
  /-- CONNECTING_ACK (R429). -/
  | connectingAck (c : ConnNo)
  /-- CONTEXT_FETCH (R430). -/
  | contextFetch (c : ConnNo) (t : Stamp)
  /-- AFT_DB (R435). -/
  | aftDb (n : Port) (by_ : Requester) (v : Word)
  /-- SEND (R436). -/
  | send (c : ConnNo) (t : Stamp)
  /-- SEND_IMM (R436). -/
  | sendImm (c : ConnNo) (t : Stamp)
  /-- NOP (R436). -/
  | nop (c : ConnNo) (t : Stamp)
  /-- CHAIN_START (R439). -/
  | chainStart (c : ConnNo)
  /-- EGRESS_START (R441). -/
  | egressStart (n : Port) (half : Fin 2) (t : Stamp)
  /-- GATE_SWAP (R441). -/
  | gateSwap (n : Port)
  /-- REOPEN (R429). -/
  | reopen (n : Port)
  /-- REOPEN_EFFECT (R429). -/
  | reopenEffect (c : ConnNo)
  -- collectives, shard map, replication, pool
  /-- FANOUT (R443). -/
  | fanout (c : CtxId) (t : Stamp)
  /-- SUB (R446). -/
  | sub (m : FabMsg) (t : Stamp)
  /-- LIST (R448). -/
  | list (m : FabMsg) (t : Stamp)
  /-- COLLECTIVE_ABORT (R449). -/
  | collectiveAbort (m : FabMsg)
  /-- PREPARE (R451). -/
  | prepare (m : FabMsg)
  /-- PREPARED (R451). -/
  | prepared (m : FabMsg)
  /-- REFUSE (R451). -/
  | refuse (m : FabMsg)
  /-- MAP_COMMIT_DECISION (R451). -/
  | mapCommitDecision
  /-- COMMIT (R451). -/
  | commit (m : FabMsg) (t : Stamp)
  /-- MAP_ABORT (R451). -/
  | mapAbort (m : FabMsg)
  /-- IN_DOUBT (R452). -/
  | inDoubt
  /-- STATUS_SEND (R452). -/
  | statusSend
  /-- STATUS (R452). -/
  | status (m : FabMsg)
  /-- OUTCOME (R452). -/
  | outcome (m : FabMsg)
  /-- REPL_STAGE (R453). -/
  | replStage (m : FabMsg) (coll : CollNo)
  /-- REPL_STAGED (R233). -/
  | replStaged (m : FabMsg) (coll : CollNo)
  /-- REPL_COMMIT (R234). -/
  | replCommit (m : FabMsg) (coll : CollNo) (t : Stamp)
  /-- REPL_DEFER (R233). -/
  | replDefer (m : FabMsg) (coll : CollNo)
  /-- POOL_READ (R454). -/
  | poolRead (m : FabMsg) (okSteps : List (Option Nat)) (t : Stamp)
  /-- POOL_WRITE (R454). -/
  | poolWrite (m : FabMsg) (t : Stamp)
  /-- POOL_DONE (R445). -/
  | poolDone (m : FabMsg) (t : Stamp)
  /-- RELAY (R455). -/
  | relay (c : ConnNo) (bytes : List Byte) (t : Stamp)
  -- the Byldomund Link
  /-- BML_TRAINING (R463). -/
  | bmlTraining (n : Port) (tr : BmlTrain) (t : Stamp)
  /-- TRAINING_RETRY (R463). -/
  | trainingRetry (n : Port) (t : Stamp)
  /-- RETRAIN (R465). -/
  | retrain (n : Port) (t : Stamp)
  /-- RETRAIN_TIMEOUT (R465). -/
  | retrainTimeout (n : Port) (t : Stamp)
  /-- DATA_FLIT (R468): the 256 bytes as received. -/
  | dataFlit (n : Port) (bytes : List Byte) (t : Stamp)
  /-- IDLE_FLIT (R467). -/
  | idleFlit (n : Port) (bytes : List Byte)
  /-- NAK_FLIT (R469). -/
  | nakFlit (n : Port) (bytes : List Byte) (t : Stamp)
  /-- INIT_FLIT (R464). -/
  | initFlit (n : Port) (bytes : List Byte) (t : Stamp)
  /-- NAK_REPEAT (R468). -/
  | nakRepeat (n : Port) (t : Stamp)
  /-- RD_S (R369). -/
  | rdS (h : Port) (addr : BitVec 48) (tag : BitVec 16) (t : Stamp)
  /-- RD_O (R369). -/
  | rdO (h : Port) (addr : BitVec 48) (tag : BitVec 16) (t : Stamp)
  /-- WR_LINE (R475). -/
  | wrLine (h : Port) (addr : BitVec 48) (tag : BitVec 16) (data : List Byte) (t : Stamp)
  /-- DROP (R369). -/
  | drop (h : Port) (addr : BitVec 48) (tag : BitVec 16) (t : Stamp)
  /-- WB_KEEP (R369). -/
  | wbKeep (h : Port) (addr : BitVec 48) (tag : BitVec 16) (data : List Byte) (t : Stamp)
  /-- WB_DROP (R369). -/
  | wbDrop (h : Port) (addr : BitVec 48) (tag : BitVec 16) (data : List Byte) (t : Stamp)
  /-- SNP_ACK (R478). -/
  | snpAck (h : Port) (addr : BitVec 48) (t : Stamp)
  /-- SNP_DATA (R369). -/
  | snpData (h : Port) (addr : BitVec 48) (data : List Byte) (t : Stamp)
  /-- CSR_RD (R480). -/
  | csrRd (h : Port) (addr : BitVec 32) (tag : BitVec 16)
  /-- CSR_WR (R480). -/
  | csrWr (h : Port) (addr : BitVec 32) (v : Word) (t : Stamp)
  /-- HB (R486). -/
  | hb (n : Port) (t : Stamp)
  /-- HB_ACK (R486). -/
  | hbAck (n : Port) (seq : BitVec 32) (t : Stamp)
  /-- HOST_ATTACH (R489). -/
  | hostAttach (n : Port)
  /-- COMMAND_PRODUCER_DOORBELL (R482). -/
  | commandProducerDoorbell (n : Port) (ring : Fin 64) (index : BitVec 32) (t : Stamp)
  /-- COMPLETION_CONSUMER_DOORBELL (R482). -/
  | completionConsumerDoorbell (n : Port) (ring : Fin 64) (index : BitVec 32) (t : Stamp)
  -- images and boot
  /-- LOAD (R512). -/
  | load (by_ : Requester) (t : Stamp)
  /-- STAGING_END (R512): `memFault` when a memory error or a loss met the staging. -/
  | stagingEnd (memFault : Bool) (t : Stamp)
  /-- UNLOAD (R511). -/
  | unload (by_ : Requester) (abort : Bool) (t : Stamp)
  /-- PLAN (R511). -/
  | plan (by_ : Requester) (t : Stamp)
  /-- ATTEST (R508). -/
  | attest (by_ : Requester)
  /-- UPDATE (R511). -/
  | update (by_ : Requester)
  /-- OWNER_RECORD_COMMIT (R506). -/
  | ownerRecordCommit (by_ : Requester)
  /-- PART_BOOT (R514): the outcome of the physical steps: the PUF read, the links that did not train within 1 ms of reset (R36), the
  stacks trained, the flash root record found. -/
  | partBoot (pufOk : Bool) (badLinks : List (Fin 8 × Fin 8)) (stacksOk flashOk : Bool) (ms : BitVec 32)
  /-- LINK_TRAIN_TIMEOUT (R36): the end of a link, by die codes. -/
  | linkTrainTimeout (a b : Fin 8)
  /-- LINK_FAILED (R33). -/
  | linkFailed (a b : Fin 8)
  /-- CLASSES_OPEN (R31): a write of MEM_LINK_CFG at the end `a` of the link to `b`. -/
  | classesOpen (a b : Fin 8) (v : Word)
  /-- FAILURE_DECLARATION (R536). -/
  | failureDeclaration (u : FailUnit)
  /-- PSEUDO_CHANNEL_TIMEOUT (R536). -/
  | pseudoChannelTimeout (s : Stack) (p : Pc)
  /-- UNMAPPED_ACCESS (R516). -/
  | unmappedAccess (by_ : Requester) (addr : Word) (isWrite : Bool)
  /-- REGISTER_WRITE (R9). -/
  | registerWrite (by_ : Requester) (addr : BitVec 32) (v : Word) (t : Stamp)
  -- power
  /-- ENTER_SLEEP (R523). -/
  | enterSleep (by_ : Requester) (t : Stamp)
  /-- ENTER_DEEP (R523). -/
  | enterDeep (by_ : Requester) (t : Stamp)
  /-- ENTER_OFF (R523). -/
  | enterOff (by_ : Requester) (t : Stamp)
  /-- STATE_ENTRY (R523). -/
  | stateEntry
  /-- DRAIN_REFUSAL (R523). -/
  | drainRefusal
  /-- WAKE (R525). -/
  | wake (by_ : Requester) (t : Stamp)
  /-- WAKE_EVENT (R526): a source of R529, by its bit. -/
  | wakeEvent (src : Fin 7) (t : Stamp)
  /-- SLEEP_EXIT (R526). -/
  | sleepExit
  /-- DEEP_EXIT (R527). -/
  | deepExit (t : Stamp)
  /-- WAKE_TIMER (R529). -/
  | wakeTimer (t : Stamp)
  /-- WAKE_N (R529): WAKE_N was low from `t0` to `t`. -/
  | wakeN (t0 t : Stamp)
  /-- OPERATING_POINT_TARGET (R532). -/
  | operatingPointTarget (by_ : Requester) (target : Fin 4)
  /-- FREQUENCY_SWITCH (R531). -/
  | frequencySwitch (t : Stamp)
  /-- SENSOR_SAMPLE (R533). -/
  | sensorSample (m : Sensors) (t : Stamp)
  /-- EMERGENCY_RETURN (R533). -/
  | emergencyReturn (t : Stamp)
  /-- THROTTLE_STEP (R533). -/
  | throttleStep (t : Stamp)
  /-- FATAL (R537). -/
  | fatal (cause : FatalCause) (t : Stamp)
  /-- WATCHDOG_EXPIRY (R535). -/
  | watchdogExpiry (t : Stamp)
  /-- PART_RESET (R553): RESET_N was low from `t0` to `t`. -/
  | partReset (t0 t : Stamp)
  /-- RESET_N_RISE (R553). -/
  | resetNRise
  /-- VAUX_RISE (R549): the straps as sampled. -/
  | vauxRise (autoon : Bool) (i3cAddr : Fin 4)
  /-- VIN_FAULT (R550): VIN was outside its range from `t0` to `t`. -/
  | vinFault (t0 t : Stamp)
  /-- VIN_COLLAPSE (R550). -/
  | vinCollapse
  /-- VAUX_LOSS (R550): VAUX was below 3.0 V from `t0` to `t`. -/
  | vauxLoss (t0 t : Stamp)
  /-- VIN_ENTERS_RANGE (R549). -/
  | vinEntersRange
  -- the last rows of the table
  /-- HOST_METER_REFILL (R380). -/
  | hostMeterRefill (t : Stamp)
  /-- BML_CRD_WRITE (R491). -/
  | bmlCrdWrite (n : Port) (v : Word)
  /-- BML_HB_CFG_WRITE (R491). -/
  | bmlHbCfgWrite (n : Port) (v : Word)
  /-- JTAG_INSTRUCTION (R554). -/
  | jtagInstruction (op : JtagOp)
  deriving DecidableEq, Repr

end Sys2Proof
end

