-- ==== Sys2Proof/Machine/Codes.lean ====
section
/-! DEFINITION. The disposition codes (R11), each at the value its chapter gives it
(R69, R104, R126, R241, R271, R307, R382, R414, R457, R517, R518, R544 and the lists of the other chapters). -/

namespace Sys2Proof.Machine.Code

/-- Served within its deadline (R11). -/
abbrev OK : Nat := 0
/-- DIKE_DROP (R126). -/
abbrev DIKE_DROP : Nat := 0x0101
/-- CLASS_DENIED (R126). -/
abbrev CLASS_DENIED : Nat := 0x0102
/-- SLUICE_FULL (R126). -/
abbrev SLUICE_FULL : Nat := 0x0103
/-- WAIT_LIMIT (R126). -/
abbrev WAIT_LIMIT : Nat := 0x0104
/-- POLDER_UNLOADED (R126). -/
abbrev POLDER_UNLOADED : Nat := 0x0105
/-- DELAYED (R126). -/
abbrev DELAYED : Nat := 0x0110
/-- STALE_PIN (R69). -/
abbrev STALE_PIN : Nat := 0x0201
/-- EPOCH_GONE (R69). -/
abbrev EPOCH_GONE : Nat := 0x0202
/-- EPOCH_AHEAD (R69). -/
abbrev EPOCH_AHEAD : Nat := 0x0203
/-- EPOCH_UNALIGNED (R69). -/
abbrev EPOCH_UNALIGNED : Nat := 0x0204
/-- ITEM_EXISTS (R241). -/
abbrev ITEM_EXISTS : Nat := 0x0210
/-- BAD_ITEM (R241). -/
abbrev BAD_ITEM : Nat := 0x0211
/-- ITEM_ABSENT (R241). -/
abbrev ITEM_ABSENT : Nat := 0x0212
/-- DELTA_FULL (R241). -/
abbrev DELTA_FULL : Nat := 0x0213
/-- COLL_REPLACING (R241). -/
abbrev COLL_REPLACING : Nat := 0x0214
/-- NOT_WRITER (R241). -/
abbrev NOT_WRITER : Nat := 0x0215
/-- REPLICA_IN_DOUBT (R241). -/
abbrev REPLICA_IN_DOUBT : Nat := 0x0216
/-- MEM_POISON (R382). -/
abbrev MEM_POISON : Nat := 0x0301
/-- MEM_UNCORRECTABLE (R382). -/
abbrev MEM_UNCORRECTABLE : Nat := 0x0302
/-- MEM_STACK_LOST (R382). -/
abbrev MEM_STACK_LOST : Nat := 0x0303
/-- HOSTWIN_LATE (R382). -/
abbrev HOSTWIN_LATE : Nat := 0x0305
/-- HOSTWIN_LOST (R382). -/
abbrev HOSTWIN_LOST : Nat := 0x0306
/-- MOVER_INVALID (R382). -/
abbrev MOVER_INVALID : Nat := 0x0307
/-- PUBLISH_CONFLICT (R382). -/
abbrev PUBLISH_CONFLICT : Nat := 0x0308
/-- PUBLISH_STALE (R382). -/
abbrev PUBLISH_STALE : Nat := 0x0309
/-- BSU_POISON (R271). -/
abbrev BSU_POISON : Nat := 0x0380
/-- BSU_UNCORRECTABLE (R271). -/
abbrev BSU_UNCORRECTABLE : Nat := 0x0381
/-- BSU_OPAQUE (R271). -/
abbrev BSU_OPAQUE : Nat := 0x0382
/-- BSU_LAYOUT (R271). -/
abbrev BSU_LAYOUT : Nat := 0x0383
/-- FLASH_POISON (R414). -/
abbrev FLASH_POISON : Nat := 0x0401
/-- FLASH_UNCORRECTABLE (R414). -/
abbrev FLASH_UNCORRECTABLE : Nat := 0x0402
/-- FLASH_LATE (R414). -/
abbrev FLASH_LATE : Nat := 0x0403
/-- FLASH_RANGE (R414). -/
abbrev FLASH_RANGE : Nat := 0x0404
/-- FLASH_READONLY (R414). -/
abbrev FLASH_READONLY : Nat := 0x0405
/-- FLASH_LOST (R414). -/
abbrev FLASH_LOST : Nat := 0x0406
/-- FLASH_MAP_LOST (R414). -/
abbrev FLASH_MAP_LOST : Nat := 0x0407
/-- FLASH_LIST_INVALID (R414). -/
abbrev FLASH_LIST_INVALID : Nat := 0x0408
/-- FLASH_NS (R414). -/
abbrev FLASH_NS : Nat := 0x0409
/-- CONN_LOST (R457). -/
abbrev CONN_LOST : Nat := 0x0501
/-- CONN_CLOSED (R457). -/
abbrev CONN_CLOSED : Nat := 0x0502
/-- REMOTE_ACCESS (R457). -/
abbrev REMOTE_ACCESS : Nat := 0x0503
/-- LOCAL_ACCESS (R457). -/
abbrev LOCAL_ACCESS : Nat := 0x0504
/-- RECV_NOT_READY (R457). -/
abbrev RECV_NOT_READY : Nat := 0x0505
/-- CHAIN_INVALID (R457). -/
abbrev CHAIN_INVALID : Nat := 0x0506
/-- CHAIN_DENIED (R457). -/
abbrev CHAIN_DENIED : Nat := 0x0507
/-- COLL_ABORTED (R457). -/
abbrev COLL_ABORTED : Nat := 0x0508
/-- COLL_MEMBER_LOST (R457). -/
abbrev COLL_MEMBER_LOST : Nat := 0x0509
/-- SHARD_ABSENT (R457). -/
abbrev SHARD_ABSENT : Nat := 0x050A
/-- MAP_IN_DOUBT (R457). -/
abbrev MAP_IN_DOUBT : Nat := 0x050B
/-- POOL_DENIED (R457). -/
abbrev POOL_DENIED : Nat := 0x050C
/-- PORT_LOST (R457). -/
abbrev PORT_LOST : Nat := 0x050D
/-- TOKEN_RANGE (R307). -/
abbrev TOKEN_RANGE : Nat := 0x0601
/-- SEQ_LIMIT (R307). -/
abbrev SEQ_LIMIT : Nat := 0x0602
/-- KV_SPACE (R307). -/
abbrev KV_SPACE : Nat := 0x0603
/-- TILE_FAULT (R307). -/
abbrev TILE_FAULT : Nat := 0x0604
/-- ADAPTER_NONFINITE (R307). -/
abbrev ADAPTER_NONFINITE : Nat := 0x0605
/-- ENCODE_NONFINITE (R326). -/
abbrev ENCODE_NONFINITE : Nat := 0x0610
/-- DIE_LOST (R104). -/
abbrev DIE_LOST : Nat := 0x0701
/-- ORPHANED (R104). -/
abbrev ORPHANED : Nat := 0x0702
/-- OWNER_CONFLICT (R104). -/
abbrev OWNER_CONFLICT : Nat := 0x0703
/-- HANDOFF_TIMEOUT (R104). -/
abbrev HANDOFF_TIMEOUT : Nat := 0x0704
/-- DEADLINE (R104). -/
abbrev DEADLINE : Nat := 0x0705
/-- CANCELLED (R104). -/
abbrev CANCELLED : Nat := 0x0706
/-- CANCEL_MISS (R104). -/
abbrev CANCEL_MISS : Nat := 0x0707
/-- BAD_DESCRIPTOR (R104). -/
abbrev BAD_DESCRIPTOR : Nat := 0x0710
/-- POLDER_MISMATCH (R104). -/
abbrev POLDER_MISMATCH : Nat := 0x0711
/-- BAD_ENTRY (R104). -/
abbrev BAD_ENTRY : Nat := 0x0712
/-- BAD_REGION (R104). -/
abbrev BAD_REGION : Nat := 0x0713
/-- BAD_COLLECTION (R104). -/
abbrev BAD_COLLECTION : Nat := 0x0714
/-- BAD_MAGIC (R517). -/
abbrev BAD_MAGIC : Nat := 0x0801
/-- IMG_FORMAT (R517). -/
abbrev IMG_FORMAT : Nat := 0x0802
/-- BAD_SIGNATURE (R517). -/
abbrev BAD_SIGNATURE : Nat := 0x0803
/-- KEY_RANGE (R517). -/
abbrev KEY_RANGE : Nat := 0x0804
/-- ROLLBACK (R517). -/
abbrev ROLLBACK : Nat := 0x0805
/-- POLDER_ZERO (R517). -/
abbrev POLDER_ZERO : Nat := 0x0806
/-- POLDER_BUSY (R517). -/
abbrev POLDER_BUSY : Nat := 0x0807
/-- HOST_DENIED (R517). -/
abbrev HOST_DENIED : Nat := 0x0808
/-- LOAD_FAULT (R517). -/
abbrev LOAD_FAULT : Nat := 0x0809
/-- FLOOR_INVALID (R517). -/
abbrev FLOOR_INVALID : Nat := 0x0810
/-- RESOURCE_BUSY (R517). -/
abbrev RESOURCE_BUSY : Nat := 0x0811
/-- CTX_SHARE (R517). -/
abbrev CTX_SHARE : Nat := 0x0812
/-- RESERVE_EXCEEDED (R517). -/
abbrev RESERVE_EXCEEDED : Nat := 0x0813
/-- CLASS_CONFIG (R517). -/
abbrev CLASS_CONFIG : Nat := 0x0814
/-- WEIR_MISSING (R517). -/
abbrev WEIR_MISSING : Nat := 0x0815
/-- POOL_SPACE (R517). -/
abbrev POOL_SPACE : Nat := 0x0816
/-- BSU_WINDOWS (R517). -/
abbrev BSU_WINDOWS : Nat := 0x0817
/-- REGION_INVALID (R517). -/
abbrev REGION_INVALID : Nat := 0x0820
/-- REGION_OVERLAP (R517). -/
abbrev REGION_OVERLAP : Nat := 0x0821
/-- REGION_SPACE (R517). -/
abbrev REGION_SPACE : Nat := 0x0822
/-- NS_INVALID (R517). -/
abbrev NS_INVALID : Nat := 0x0823
/-- NS_SPACE (R517). -/
abbrev NS_SPACE : Nat := 0x0824
/-- CONN_INVALID (R517). -/
abbrev CONN_INVALID : Nat := 0x0825
/-- CONN_LIMIT (R517). -/
abbrev CONN_LIMIT : Nat := 0x0826
/-- GRAPH_INVALID (R517). -/
abbrev GRAPH_INVALID : Nat := 0x0830
/-- FANOUT_PRIV (R517). -/
abbrev FANOUT_PRIV : Nat := 0x0831
/-- SEL_LIMIT (R517). -/
abbrev SEL_LIMIT : Nat := 0x0832
/-- STEP_BOUND (R517). -/
abbrev STEP_BOUND : Nat := 0x0833
/-- COLL_INVALID (R517). -/
abbrev COLL_INVALID : Nat := 0x0840
/-- COLL_OVERLAP (R517). -/
abbrev COLL_OVERLAP : Nat := 0x0841
/-- COLL_PARTITION (R517). -/
abbrev COLL_PARTITION : Nat := 0x0842
/-- COLL_SPACE (R517). -/
abbrev COLL_SPACE : Nat := 0x0843
/-- WALK_NONDET (R517). -/
abbrev WALK_NONDET : Nat := 0x0844
/-- WALK_LIMIT (R517). -/
abbrev WALK_LIMIT : Nat := 0x0845
/-- WALK_ENTRY (R517). -/
abbrev WALK_ENTRY : Nat := 0x0846
/-- BSU_PLACEMENT (R517). -/
abbrev BSU_PLACEMENT : Nat := 0x0847
/-- BSU_LIMIT (R517). -/
abbrev BSU_LIMIT : Nat := 0x0848
/-- MODEL_OPERATOR (R517). -/
abbrev MODEL_OPERATOR : Nat := 0x0850
/-- MODEL_LIMIT (R517). -/
abbrev MODEL_LIMIT : Nat := 0x0851
/-- MODEL_SHAPE (R517). -/
abbrev MODEL_SHAPE : Nat := 0x0852
/-- MODEL_SPLIT (R517). -/
abbrev MODEL_SPLIT : Nat := 0x0853
/-- MODEL_ADAPTER (R517). -/
abbrev MODEL_ADAPTER : Nat := 0x0854
/-- MODEL_SPACE (R517). -/
abbrev MODEL_SPACE : Nat := 0x0855
/-- NUM_SCALE (R517). -/
abbrev NUM_SCALE : Nat := 0x0856
/-- NUM_NONDET (R517). -/
abbrev NUM_NONDET : Nat := 0x0857
/-- TABLE_INVALID (R517). -/
abbrev TABLE_INVALID : Nat := 0x0860
/-- TABLE_SPACE (R517). -/
abbrev TABLE_SPACE : Nat := 0x0861
/-- REPLACE_INVALID (R517). -/
abbrev REPLACE_INVALID : Nat := 0x0870
/-- REPLACE_SPACE (R517). -/
abbrev REPLACE_SPACE : Nat := 0x0871
/-- REPLACE_PAGES (R517). -/
abbrev REPLACE_PAGES : Nat := 0x0872
/-- SCHED_INVALID (R517). -/
abbrev SCHED_INVALID : Nat := 0x0880
/-- POWER_ABORTED (R518). -/
abbrev POWER_ABORTED : Nat := 0x0901
/-- THERMAL_ABORTED (R518). -/
abbrev THERMAL_ABORTED : Nat := 0x0902

end Sys2Proof.Machine.Code
end

