-- ==== Sys2Proof/Machine/Maps.lean ====
section
/-! DEFINITION. Sparse tables, the byte store and bit fields: the named operations every unit is written over
(R7 bit ranges, R8 byte order). -/

namespace Sys2Proof.Machine

/-- The value listed at key `k`, if any. -/
def mapGet {α : Type} : Map α → Nat → Option α
  | [], _ => none
  | (a, v) :: m, k => if a = k then some v else mapGet m k

/-- `m` with key `k` listing `v`, keys kept rising. -/
def mapSet {α : Type} : Map α → Nat → α → Map α
  | [], k, v => [(k, v)]
  | (a, w) :: m, k, v =>
    if k < a then (k, v) :: (a, w) :: m
    else if k = a then (k, v) :: m
    else (a, w) :: mapSet m k v

/-- `m` with nothing listed at `k`. -/
def mapDel {α : Type} : Map α → Nat → Map α
  | [], _ => []
  | (a, w) :: m, k => if a = k then mapDel m k else (a, w) :: mapDel m k

/-- The value listed at `k`, or `d`. -/
def mapGetD {α : Type} (m : Map α) (k : Nat) (d : α) : α := (mapGet m k).getD d

/-- `m` with the value at `k`, where one is listed, changed by `f`. -/
def mapMod {α : Type} : Map α → Nat → (α → α) → Map α
  | [], _, _ => []
  | (a, w) :: m, k, f => if a = k then (a, f w) :: m else (a, w) :: mapMod m k f

/-- A table whose unlisted keys read as `d`: writing `d` removes the entry. -/
def mapPut {α : Type} [DecidableEq α] (d : α) (m : Map α) (k : Nat) (v : α) : Map α :=
  if v = d then mapDel m k else mapSet m k v

/-- The byte at an address: an unlisted address reads 0 (R34, R35). -/
def cellGet (m : List Host.Cell) (k : Nat) : Byte := (mapGet m k).getD 0

/-- Write one byte, keeping the canonical form: addresses rising and no zero listed. -/
def cellSet (m : List Host.Cell) (k : Nat) (b : Byte) : List Host.Cell := mapPut 0 m k b

/-- The canonical form of the byte store: addresses strictly rising, no zero listed. -/
def Memory.wf : List Host.Cell → Bool
  | [] => true
  | [(_, b)] => decide (b ≠ 0)
  | (a, b) :: (a', b') :: m => decide (a < a') && decide (b ≠ 0) && Memory.wf ((a', b') :: m)

/-- `n` bytes from `a`, lowest address first. -/
def cellBytes (m : List Host.Cell) (a : Nat) : Nat → List Byte
  | 0 => []
  | n + 1 => cellGet m a :: cellBytes m (a + 1) n

/-- Store a run of bytes from `a`. -/
def cellPut (m : List Host.Cell) (a : Nat) : List Byte → List Host.Cell
  | [] => m
  | b :: bs => cellPut (cellSet m a b) (a + 1) bs

/-- Bits [hi:lo] of a number (R7). -/
def bits (w hi lo : Nat) : Nat := (w >>> lo) % 2 ^ (hi + 1 - lo)

/-- Bits [hi:lo] of a word. -/
def fld (w : Word) (hi lo : Nat) : Nat := bits w.toNat hi lo

/-- The word with bits [hi:lo] set to the low bits of `v`. -/
def setFld (w : Word) (hi lo v : Nat) : Word :=
  let mask : Word := BitVec.ofNat 64 ((2 ^ (hi + 1 - lo) - 1) <<< lo)
  (w &&& ~~~mask) ||| ((BitVec.ofNat 64 (v <<< lo)) &&& mask)

/-- A count that saturates at the field's greatest value (R76). -/
def satAdd (width v n : Nat) : Nat := min (v + n) (2 ^ width - 1)

/-- A number from little-endian bytes (R8). -/
def leNat : List Byte → Nat
  | [] => 0
  | b :: bs => b.toNat + 256 * leNat bs

/-- `n` little-endian bytes of a number (R8). -/
def leBytes : Nat → Nat → List Byte
  | 0, _ => []
  | n + 1, v => BitVec.ofNat 8 v :: leBytes n (v / 256)

/-- A number from big-endian bytes (R8, published standards). -/
def beNat (bs : List Byte) : Nat := leNat bs.reverse

/-- Bytes into little-endian 64-bit words. -/
def leWords : Nat → List Byte → List Word
  | 0, _ => []
  | n + 1, bs => BitVec.ofNat 64 (leNat (bs.take 8)) :: leWords n (bs.drop 8)

/-- Words as bytes, each little-endian. -/
def wordBytes (ws : List Word) : List Byte := ws.flatMap fun w => leBytes 8 w.toNat

/-- ⌈a / b⌉. -/
def cdiv (a b : Nat) : Nat := (a + b - 1) / b

/-- The two's-complement value of the low `n` bits of `v`. -/
def toSigned (n v : Nat) : Int := if v % 2 ^ n < 2 ^ (n - 1) then (v % 2 ^ n : Nat) else (v % 2 ^ n : Nat) - (2 ^ n : Nat)

/-- A two's-complement number of `n` bits as a natural. -/
def ofSigned (n : Nat) (v : Int) : Nat := (v % (2 ^ n : Nat)).toNat

/-- Insert keeping a list ordered by `lt`, after the entries that are not greater. -/
def insertBy {α : Type} (lt : α → α → Bool) (x : α) : List α → List α
  | [] => [x]
  | y :: ys => if lt x y then x :: y :: ys else y :: insertBy lt x ys

/-- A stable insertion sort: equal elements keep their order (R205). -/
def sortBy {α : Type} (lt : α → α → Bool) : List α → List α
  | [] => []
  | x :: xs => ins x (sortBy lt xs)
where
  /-- `x` goes before every element that is not less than it. -/
  ins (x : α) : List α → List α
    | [] => [x]
    | y :: ys => if lt y x then y :: ins x ys else x :: y :: ys

/-- Insert into an ascending list without repeats. -/
def insertUniq (x : Nat) : List Nat → List Nat
  | [] => [x]
  | y :: ys => if x < y then x :: y :: ys else if x = y then y :: ys else y :: insertUniq x ys

/-- The members of a list, ascending, without repeats. -/
def ascending (xs : List Nat) : List Nat := xs.foldl (fun acc x => insertUniq x acc) []

/-- The element of a list at an index, if any. -/
def nth? {α : Type} : List α → Nat → Option α
  | [], _ => none
  | x :: _, 0 => some x
  | _ :: xs, n + 1 => nth? xs n

/-- The list with the element at an index changed. -/
def modAt {α : Type} : List α → Nat → (α → α) → List α
  | [], _, _ => []
  | x :: xs, 0, f => f x :: xs
  | x :: xs, n + 1, f => x :: modAt xs n f

/-- The least element `n ≤ i < n + fuel` that meets `p`. -/
def findFrom (p : Nat → Bool) : Nat → Nat → Option Nat
  | 0, _ => none
  | fuel + 1, n => if p n then some n else findFrom p fuel (n + 1)

end Sys2Proof.Machine
end

