-- ==== Sys2Proof/Machine/F32.lean ====
section
/-! DEFINITION. The number formats and the exact rounding of every operation and function
(R170, R253, R311 to R313, R315). Values are exact dyadic rationals; each operation rounds once, to nearest with ties to even. -/

namespace Sys2Proof.Machine

/-- Binary32 bits. -/
abbrev F32 := BitVec 32

/-- A decoded value: NaN, an infinity with its sign, or ±m × 2^e (R312). -/
inductive FV where
  | nan
  | inf (neg : Bool)
  | fin (neg : Bool) (m : Nat) (e : Int)
  deriving DecidableEq, Repr

/-- The quiet NaN of binary32 (R313). -/
abbrev f32NaN : F32 := 0x7FC00000#32

/-- Round p / q, q > 0, to the grid with `F` fraction bits and least exponent `umin` of the last place:
the integer encoding of the magnitude, exponent field above fraction (R313). -/
def roundRat (F : Nat) (umin : Int) (p q : Nat) : Nat :=
  if p = 0 then 0 else
    let e0 : Int := (Nat.log2 p : Int) - Nat.log2 q
    let below : Bool := if e0 ≥ 0 then decide (p < q * 2 ^ e0.toNat) else decide (p * 2 ^ (-e0).toNat < q)
    let e : Int := if below then e0 - 1 else e0
    let u : Int := max (e - F) umin
    let num := if u ≥ 0 then p else p * 2 ^ (-u).toNat
    let den := if u ≥ 0 then q * 2 ^ u.toNat else q
    let d := num / den
    let r := num % den
    let m := if 2 * r > den ∨ (2 * r = den ∧ d % 2 = 1) then d + 1 else d
    (u - umin).toNat * 2 ^ F + m

/-- Binary32 bits of ±p / q; a magnitude past the largest finite value becomes an infinity (R313). -/
def f32OfRat (neg : Bool) (p q : Nat) : F32 :=
  let c := min (roundRat 23 (-149) p q) 0x7F800000
  BitVec.ofNat 32 ((if neg then 2 ^ 31 else 0) + c)

/-- Binary32 bits of the exact value v × 2^e; an exact zero is +0 unless `negZero`. -/
def f32OfInt (v : Int) (e : Int) (negZero : Bool := false) : F32 :=
  if v = 0 then (if negZero then 0x80000000#32 else 0)
  else if e ≥ 0 then f32OfRat (v < 0) (v.natAbs * 2 ^ e.toNat) 1
  else f32OfRat (v < 0) v.natAbs (2 ^ (-e).toNat)

/-- Decode a floating-point encoding of `E` exponent and `F` fraction bits, with IEEE 754 special values (R312). -/
def decodeIeee (E F : Nat) (bias : Int) (w : Nat) : FV :=
  let s := decide (bits w (E + F) (E + F) = 1)
  let e := bits w (E + F - 1) F
  let f := w % 2 ^ F
  if e = 2 ^ E - 1 then (if f = 0 then .inf s else .nan)
  else if e = 0 then .fin s f (1 - bias - F)
  else .fin s (2 ^ F + f) ((e : Int) - bias - F)

/-- The value of binary32 bits. -/
def f32Val (x : F32) : FV := decodeIeee 8 23 127 x.toNat

def f32IsNaN (x : F32) : Bool := decide (bits x.toNat 30 23 = 255) && decide (bits x.toNat 22 0 ≠ 0)
def f32IsInf (x : F32) : Bool := decide (bits x.toNat 30 0 = 0x7F800000)
def f32Finite (x : F32) : Bool := decide (bits x.toNat 30 23 ≠ 255)

/-- A finite value as a signed mantissa. -/
def sgn (neg : Bool) (m : Nat) : Int := if neg then -(m : Int) else m

/-- Two dyadic numbers on one exponent. -/
def alignTwo (a : Int) (ea : Int) (b : Int) (eb : Int) : Int × Int × Int :=
  if ea ≤ eb then (a, b * 2 ^ (eb - ea).toNat, ea) else (a * 2 ^ (ea - eb).toNat, b, eb)

/-- fl(x + y) (R170). -/
def f32Add (x y : F32) : F32 :=
  match f32Val x, f32Val y with
  | .nan, _ => f32NaN
  | _, .nan => f32NaN
  | .inf a, .inf b => if a = b then x else f32NaN
  | .inf _, _ => x
  | _, .inf _ => y
  | .fin sa ma ea, .fin sb mb eb =>
    let (a, b, e) := alignTwo (sgn sa ma) ea (sgn sb mb) eb
    f32OfInt (a + b) e (sa && sb)

/-- The sign flipped. -/
def f32Neg (x : F32) : F32 := if f32IsNaN x then f32NaN else x ^^^ 0x80000000#32

/-- The magnitude. -/
def f32Abs (x : F32) : F32 := if f32IsNaN x then f32NaN else x &&& 0x7FFFFFFF#32

/-- fl(x − y). -/
def f32Sub (x y : F32) : F32 := f32Add x (f32Neg y)

/-- fl(x × y). -/
def f32Mul (x y : F32) : F32 :=
  match f32Val x, f32Val y with
  | .nan, _ => f32NaN
  | _, .nan => f32NaN
  | .inf a, .inf b => if a = b then 0x7F800000#32 else 0xFF800000#32
  | .inf a, .fin b m _ => if m = 0 then f32NaN else if a = b then 0x7F800000#32 else 0xFF800000#32
  | .fin b m _, .inf a => if m = 0 then f32NaN else if a = b then 0x7F800000#32 else 0xFF800000#32
  | .fin sa ma ea, .fin sb mb eb => f32OfInt (sgn sa ma * sgn sb mb) (ea + eb) (sa != sb)

/-- fl of a product of three numbers, rounded once (R302). -/
def f32Mul3 (x y z : F32) : F32 :=
  match f32Val x, f32Val y, f32Val z with
  | .fin sa ma ea, .fin sb mb eb, .fin sc mc ec => f32OfInt (sgn sa ma * sgn sb mb * sgn sc mc) (ea + eb + ec) ((sa != sb) != sc)
  | _, _, _ => f32Mul (f32Mul x y) z

/-- fl(x / y). -/
def f32Div (x y : F32) : F32 :=
  match f32Val x, f32Val y with
  | .nan, _ => f32NaN
  | _, .nan => f32NaN
  | .inf _, .inf _ => f32NaN
  | .inf a, .fin b _ _ => if a = b then 0x7F800000#32 else 0xFF800000#32
  | .fin a _ _, .inf b => if a = b then 0 else 0x80000000#32
  | .fin sa ma ea, .fin sb mb eb =>
    if mb = 0 then (if ma = 0 then f32NaN else if sa = sb then 0x7F800000#32 else 0xFF800000#32)
    else if ma = 0 then (if sa = sb then 0 else 0x80000000#32)
    else
      let e := ea - eb
      if e ≥ 0 then f32OfRat (sa != sb) (ma * 2 ^ e.toNat) mb
      else f32OfRat (sa != sb) ma (mb * 2 ^ (-e).toNat)

/-- The integer square root, by its bits from `i` down. -/
def isqrtGo (v : Nat) : Nat → Nat → Nat
  | 0, r => r
  | i + 1, r => let c := r + 2 ^ i; isqrtGo v i (if c * c ≤ v then c else r)

/-- ⌊√v⌋. -/
def isqrt (v : Nat) : Nat := isqrtGo v (Nat.log2 v / 2 + 1) 0

/-- fl(√x) (R315). -/
def f32Sqrt (x : F32) : F32 :=
  match f32Val x with
  | .nan => f32NaN
  | .inf false => x
  | .inf true => f32NaN
  | .fin s m e =>
    if m = 0 then x else if s then f32NaN else
      let (m1, e1) := if e % 2 = 0 then (m, e) else (2 * m, e - 1)
      let v := m1 * 2 ^ 80
      let r := isqrt v
      f32OfInt ((2 * r + if r * r = v then 0 else 1 : Nat) : Int) (e1 / 2 - 41)

/-- x < y numerically; −0 equals +0, and a comparison with NaN is false (R203). -/
def f32Lt (x y : F32) : Bool :=
  match f32Val x, f32Val y with
  | .nan, _ => false
  | _, .nan => false
  | .inf a, .inf b => a && !b
  | .inf a, _ => a
  | _, .inf b => !b
  | .fin sa ma ea, .fin sb mb eb =>
    let (a, b, _) := alignTwo (sgn sa ma) ea (sgn sb mb) eb
    decide (a < b)

/-- x = y numerically. -/
def f32Eq (x y : F32) : Bool := !f32IsNaN x && !f32IsNaN y && !f32Lt x y && !f32Lt y x

/-- x ≤ y numerically. -/
def f32Le (x y : F32) : Bool := f32Lt x y || f32Eq x y

/-- The greater magnitude of two values, NaN if either is (R173, R317). -/
def f32MaxAbs (a x : F32) : F32 :=
  if f32IsNaN a || f32IsNaN x then f32NaN else if f32Lt a (f32Abs x) then f32Abs x else a

abbrev f32One : F32 := 0x3F800000#32

/-! ### Functions evaluated on a fixed-point grid far finer than binary32, then rounded once (R315) -/

/-- Fraction bits of the working grid. -/
abbrev fxBits : Nat := 600

/-- 2^600. -/
def fxOne : Nat := 2 ^ fxBits

/-- x × 2^600, toward zero. -/
def fxOf (m : Nat) (e : Int) : Nat :=
  let k : Int := e + fxBits
  if k ≥ 0 then m * 2 ^ k.toNat else m / 2 ^ (-k).toNat

/-- Σ x^n / n!, continuing from term `t` at index `n`. -/
def fxExpGo (x : Nat) : Nat → Nat → Nat → Nat → Nat
  | 0, _, _, acc => acc
  | fuel + 1, n, t, acc =>
    if t = 0 then acc else fxExpGo x fuel (n + 1) (t * x / fxOne / n) (acc + t)

/-- Σ t^(2n+1) / (2n+1), with alternating signs when `alt`. -/
def fxAtanGo (t2 : Nat) (alt : Bool) : Nat → Nat → Nat → Int → Int
  | 0, _, _, acc => acc
  | fuel + 1, n, p, acc =>
    if p = 0 then acc else
      let term : Int := (p / (2 * n + 1) : Nat)
      fxAtanGo t2 alt fuel (n + 1) (p * t2 / fxOne) (if alt && n % 2 == 1 then acc - term else acc + term)

/-- artanh t on the grid. -/
def fxArtanh (t : Nat) : Int := fxAtanGo (t * t / fxOne) false 700 0 t 0

/-- ln 2. -/
def fxLn2 : Int := 2 * fxArtanh (fxOne / 3)

/-- π, by Machin's formula. -/
def fxPi : Int :=
  16 * fxAtanGo (fxOne / 25) true 700 0 (fxOne / 5) 0 - 4 * fxAtanGo (fxOne / 57121) true 700 0 (fxOne / 239) 0

/-- Σ (−1)^n x^(2n+1) / (n! (2n+1)). -/
def fxErfGo (x2 : Nat) : Nat → Nat → Nat → Int → Int
  | 0, _, _, acc => acc
  | fuel + 1, n, p, acc =>
    if p = 0 then acc else
      let term : Int := (p / (2 * n + 1) : Nat)
      fxErfGo x2 fuel (n + 1) (p * x2 / fxOne / (n + 1)) (if n % 2 = 1 then acc - term else acc + term)

/-- exp(x) to binary32 (R315). -/
def f32Exp (x : F32) : F32 :=
  match f32Val x with
  | .nan => f32NaN
  | .inf neg => if neg then 0 else x
  | .fin neg m e =>
    if m = 0 then f32One
    else if f32Lt 0x42D20000#32 (f32Abs x) then (if neg then 0 else 0x7F800000#32)
    else
      let v := fxExpGo (fxOf m e) 900 1 fxOne 0
      if neg then f32OfRat false fxOne v else f32OfRat false v fxOne

/-- log1p(x) to binary32 (R315). -/
def f32Log1p (x : F32) : F32 :=
  match f32Val x with
  | .nan => f32NaN
  | .inf neg => if neg then f32NaN else x
  | .fin neg m e =>
    if m = 0 then x else
      let y : Int := fxOne + sgn neg (fxOf m e)
      if y < 0 then f32NaN else if y = 0 then 0xFF800000#32 else
        let yn := y.toNat
        let k : Int := (Nat.log2 yn : Int) - fxBits
        let z := if k ≥ 0 then yn / 2 ^ k.toNat else yn * 2 ^ (-k).toNat
        f32OfInt (2 * fxArtanh ((z - fxOne) * fxOne / (z + fxOne)) + k * fxLn2) (-(fxBits : Int))

/-- erf(x) to binary32 (R315): past 4 the nearest value is ±1. -/
def f32Erf (x : F32) : F32 :=
  match f32Val x with
  | .nan => f32NaN
  | .inf neg => if neg then 0xBF800000#32 else f32One
  | .fin neg m e =>
    if m = 0 then x
    else if f32Lt 0x40800000#32 (f32Abs x) then (if neg then 0xBF800000#32 else f32One)
    else
      let v := fxOf m e
      let s := fxErfGo (v * v / fxOne) 900 0 v 0
      f32OfRat neg (2 * s.toNat * fxOne) (isqrt (fxPi.toNat * fxOne) * fxOne)

/-! ### Conversions (R312, R313) -/

/-- BF16 widened to binary32, exactly. -/
def bf16Widen (x : BitVec 16) : F32 :=
  let y : F32 := x.zeroExtend 32 <<< 16
  if f32IsNaN y then f32NaN else y

/-- Binary32 to BF16. -/
def toBf16 (x : F32) : BitVec 16 :=
  match f32Val x with
  | .nan => 0x7FC0#16
  | .inf neg => if neg then 0xFF80#16 else 0x7F80#16
  | .fin neg m e =>
    let c := if e ≥ 0 then roundRat 7 (-133) (m * 2 ^ e.toNat) 1 else roundRat 7 (-133) m (2 ^ (-e).toNat)
    BitVec.ofNat 16 ((if neg then 2 ^ 15 else 0) + min c 0x7F80)

/-- E4M3 decoded to binary32, exactly: only S.1111.111 is NaN. -/
def e4m3Dec (x : Byte) : F32 :=
  let w := x.toNat
  let s := decide (bits w 7 7 = 1)
  let e := bits w 6 3
  let f := bits w 2 0
  if e = 15 ∧ f = 7 then f32NaN
  else if e = 0 then f32OfInt (sgn s f) (-9) s
  else f32OfInt (sgn s (8 + f)) ((e : Int) - 10)

/-- Binary32 to E4M3, saturating at ±448. -/
def toE4m3 (x : F32) : Byte :=
  match f32Val x with
  | .nan => 0x7F#8
  | .inf neg => if neg then 0xFE#8 else 0x7E#8
  | .fin neg m e =>
    let c := if e ≥ 0 then roundRat 3 (-9) (m * 2 ^ e.toNat) 1 else roundRat 3 (-9) m (2 ^ (-e).toNat)
    BitVec.ofNat 8 ((if neg then 128 else 0) + min c 0x7E)

/-- E2M1 decoded to binary32, exactly. -/
def e2m1Dec (x : BitVec 4) : F32 :=
  let w := x.toNat
  let s := decide (bits w 3 3 = 1)
  let e := bits w 2 1
  let f := w % 2
  if e = 0 then f32OfInt (sgn s f) (-1) s else f32OfInt (sgn s (2 + f)) ((e : Int) - 2)

/-- Binary32 to E2M1, saturating at ±6; NaN becomes +0. -/
def toE2m1 (x : F32) : BitVec 4 :=
  match f32Val x with
  | .nan => 0
  | .inf neg => if neg then 0xF#4 else 0x7#4
  | .fin neg m e =>
    let c := if e ≥ 0 then roundRat 1 (-1) (m * 2 ^ e.toNat) 1 else roundRat 1 (-1) m (2 ^ (-e).toNat)
    BitVec.ofNat 4 ((if neg then 8 else 0) + min c 7)

/-- The nearest integer, ties to even. -/
def roundInt (m : Nat) (e : Int) : Nat :=
  if e ≥ 0 then m * 2 ^ e.toNat else
    let d := 2 ^ (-e).toNat
    let q := m / d
    let r := m % d
    if 2 * r > d ∨ (2 * r = d ∧ q % 2 = 1) then q + 1 else q

/-- Binary32 to the nearest integer, clipped to ±`lim`; NaN becomes 0 (R173, R313). -/
def f32ToIntClip (lim : Nat) (x : F32) : Int :=
  match f32Val x with
  | .nan => 0
  | .inf neg => sgn neg lim
  | .fin neg m e => sgn neg (min (roundInt m e) lim)

/-- An integer to binary32, to nearest (R173). -/
def f32OfNatInt (v : Int) : F32 := f32OfInt v 0

/-- The reduction tree of 64 lanes (R171). -/
def laneTree (a : List F32) : Nat → List F32
  | 0 => a
  | n + 1 => laneTree (pairs a) n
where
  /-- Each pair of neighbours added. -/
  pairs : List F32 → List F32
    | x :: y :: zs => f32Add x y :: pairs zs
    | [x] => [x]
    | [] => []

/-- Lane `l` holds the terms l, l + 64, … added in ascending order from +0. -/
def laneFill : List F32 → List F32 → List F32
  | lanes, [] => lanes
  | lanes, ts => laneFillGo lanes ts ts.length
where
  /-- Add 64 terms at a time. -/
  laneFillGo : List F32 → List F32 → Nat → List F32
    | lanes, _, 0 => lanes
    | lanes, ts, fuel + 1 =>
      match ts with
      | [] => lanes
      | _ => laneFillGo (addTo lanes (ts.take 64)) (ts.drop 64) fuel
  /-- Lane by lane. -/
  addTo : List F32 → List F32 → List F32
    | a :: as, t :: ts => f32Add a t :: addTo as ts
    | as, [] => as
    | [], _ => []

/-- The sum of R171: 64 lanes, then the tree. -/
def laneSum (ts : List F32) : F32 :=
  (laneTree (laneFill (List.replicate 64 0) ts) 6).headD 0

/-- Binary32 added in order from `acc`. -/
def seqSum (acc : F32) (xs : List F32) : F32 := xs.foldl f32Add acc

/-- The exact value of a finite score in units of 2^-149 (R253). -/
def f32Exact (x : F32) : Int :=
  match f32Val x with
  | .fin neg m e => sgn neg (m * 2 ^ (e + 149).toNat)
  | _ => 0

/-- An exact sum in units of 2^-149 rounded to binary32 (R254). -/
def f32OfExact (v : Int) : F32 := f32OfInt v (-149)

/-- σ(x) (R315). -/
def f32Sigma (x : F32) : F32 := f32Div f32One (f32Add f32One (f32Exp (f32Neg x)))
/-- SILU (R315). -/
def f32Silu (x : F32) : F32 := f32Mul x (f32Sigma x)
/-- GELU (R315): 0x3F3504F3 is 0.70710677. -/
def f32Gelu (x : F32) : F32 :=
  f32Mul (f32Mul 0x3F000000#32 x) (f32Add f32One (f32Erf (f32Mul x 0x3F3504F3#32)))
/-- RELU (R315). -/
def f32Relu (x : F32) : F32 := if f32IsNaN x then f32NaN else if f32Lt 0 x then x else 0
/-- softplus (R315). -/
def f32Softplus (z : F32) : F32 :=
  if f32Lt 0 z then f32Add z (f32Log1p (f32Exp (f32Neg z))) else f32Log1p (f32Exp z)

end Sys2Proof.Machine
end

