-- ==== Sys2Proof/Machine/RegTable.lean ====
section
/-! DEFINITION. The register map: every register of the manual with its fields, access codes and reset values
(the field maps of R31 to R33, R71 to R76, R127 to R134, R195 to R199, R214, R215, R268 to R270, R308 to R310, R327 to R329,
R349, R350, R383 to R385, R415, R416, R458 to R461, R490 to R493, R519, R520, R543 to R545), and where each lies (R28, R29). -/

namespace Sys2Proof.Machine

/-- Field access codes (R9). -/
inductive Access where
  | RW | RO | W1C | WO | RWL
  deriving DecidableEq, Repr

/-- A field of a register: bits [hi:lo], its access code and its reset value. -/
structure Field where
  hi    : Nat
  lo    : Nat
  name  : String
  acc   : Access
  reset : Nat
  deriving DecidableEq, Repr

/-- The kinds of register block, with the instance numbers that R29 gives. -/
inductive RegClass where
  | link | tck | pld | dik | slu | sluG | wei | walker | walkSlot | sel | ctl | ctlRow | ctlWin | bsu | tile | tileDie
  | num | numDie | emb | embHot | crestMem | mover | hw | fss | fssCh | aft | aftGate | bml | ring | img | rv | rvId
  | rvData | pwr
  deriving DecidableEq, Repr

/-- The registers of the manual. RV_ID stands for RV_ID0 to RV_ID3, by its second index. -/
inductive RegName where
  | MEM_LINK_CFG | MEM_LINK_CRD | MEM_LINK_STS | TCK_CFG | TCK_CTL | TCK_BASE | TCK_NOW | TCK_EPOCH
  | TCK_PIN_SEL | TCK_PIN_VAL | TCK_STS | TCK_OFFSET | TCK_CNT0 | TCK_CNT1 | TCK_OVR_LAST | PLD_STATE
  | PLD_CFG | PLD_CTX | PLD_PRIV | PLD_CTL | PLD_CNT0 | PLD_CNT1 | DIK_CFG | DIK_TOK
  | DIK_CNT0 | DIK_CNT1 | SLU_CFG | SLU_STS | SLU_CNT0 | SLU_CNT1 | SLU_CNT2 | SLU_GCFG
  | SLU_GSTS | SLU_ROT | WEI_CFG | WEI_RATE | WEI_TOK | WEI_CNT | WLK_STS | WLK_SLOT_CFG
  | WLK_SLOT_STS | WLK_SLOT_EXP | WLK_SLOT_SCORE | WLK_SLOT_CNT | WLK_SLOT_SHORT | WLK_SLOT_ERR0 | WLK_SLOT_ERR1 | SEL_STS
  | SEL_CNT0 | SEL_CNT1 | SEL_CNT2 | SEL_CNT3 | MEM_BSU_CFG | MEM_BSU_STS | MEM_ROW | MEM_BSU_WIN
  | BSU_STS | BSU_CNT0 | BSU_CNT1 | BSU_CNT2 | BSU_CNT3 | BSU_CNT4 | BSU_ERR | TEN_CFG
  | TEN_STS | TEN_CNT0 | TEN_CNT1 | TEN_CNT2 | TEN_ERR | TEN_SEQ_STS | TEN_SEQ_SEL | TEN_SEQ_VAL
  | TEN_SEQ_CNT | TEN_ADP_SEL | TEN_ADP_VAL0 | TEN_ADP_VAL1 | NUM_CNT0 | NUM_CNT1 | NUM_CNT2 | NUM_LAST0
  | NUM_LAST1 | NUM_SCL_SEL | NUM_SCL_VAL | NUM_SCL_AMAX | NUM_SCL_CNT | EMB_CFG | EMB_STS | EMB_CNT0
  | EMB_CNT1 | EMB_CNT2 | EMB_CNT3 | EMB_LOAD_SEL | EMB_LOAD_VAL | EMB_HOT_ADDR | EMB_HOT_CTL | EMB_HOT_VAL
  | MEM_POOL_CFG | MEM_POOL_STS | MEM_POOL_CNT | MEM_POOL_SEL | MEM_POOL_VAL | MEM_MOV_ADDR | MEM_MOV_CTL | MEM_MOV_STS
  | MEM_MOV_CNT0 | MEM_MOV_CNT1 | MEM_CTL_STS | MEM_PC_FAIL | MEM_SCRUB_CFG | MEM_SCRUB_STS | MEM_ECC_CNT | MEM_ECC_LAST
  | MEM_HW_CFG | MEM_HW_BASE | MEM_HW_SIZE | MEM_HW_STS | MEM_HW_RATE | MEM_HW_CNT0 | MEM_HW_CNT1 | MEM_HW_CNT2
  | FSS_CFG | FSS_CKPT | FSS_WEAR | FSS_STS | FSS_CNT0 | FSS_CNT1 | FSS_CNT2 | FSS_LIST_ADDR
  | FSS_LIST_CTL | FSS_CH_CFG | FSS_CH_STS | FSS_CH_CNT0 | FSS_CH_CNT1 | FSS_CH_CNT2 | AFT_PORT_CFG | AFT_PORT_STS
  | AFT_PFC_CFG | AFT_GATE_CTL | AFT_GATE_WIN | AFT_CONN_SEL | AFT_CONN_STS | AFT_CONN_PSN | AFT_CONN_CTL | AFT_DB
  | AFT_PEER_SEL | AFT_PEER_STS | AFT_CNT0 | AFT_CNT1 | AFT_CNT2 | AFT_CNT3 | AFT_CNT4 | AFT_CNT5
  | AFT_COLL_CFG | AFT_COLL_CNT | AFT_MAP_STS | BML_CFG | BML_LINK_STS | BML_CRD | BML_HB_CFG | BML_HB_STS
  | BML_DB | BML_CNT0 | BML_CNT1 | BML_CNT2 | BML_CNT3 | BML_RING_CFG | BML_RING_CMD | BML_RING_CPL
  | BML_RING_STS | IMG_SRC | IMG_LEN | IMG_ARG | IMG_CTL | IMG_STS | IMG_TICK | IMG_ERR0
  | IMG_ERR1 | IMG_CNT | RV_BOOT | RV_ID | RV_FLOOR | RV_SVN | RV_BADADDR | RV_BADSRC
  | RV_CLAIM_DATA | RV_CLAIM_CTL | PWR_STATE | PWR_CTL | PWR_OP | PWR_WAKE | PWR_CAP | PWR_SENSE
  | PWR_TEMP_SEL | PWR_TEMP_VAL | PWR_REFUSE0 | PWR_REFUSE1 | PWR_CNT0 | PWR_CNT1 | PWR_CNT2 | PWR_CNT3
  | PWR_CNT4 | PWR_CNT5 | PWR_PLD_SEL | PWR_PLD_VAL | PWR_LOST | PWR_FATAL
  deriving DecidableEq, Repr

/-- The class of a register and its offset within the class's block (its first instance). -/
def RegName.place : RegName → RegClass × Nat
  | .MEM_LINK_CFG => (.link, 0x0000)
  | .MEM_LINK_CRD => (.link, 0x0008)
  | .MEM_LINK_STS => (.link, 0x0010)
  | .TCK_CFG => (.tck, 0x0000)
  | .TCK_CTL => (.tck, 0x0008)
  | .TCK_BASE => (.tck, 0x0010)
  | .TCK_NOW => (.tck, 0x0018)
  | .TCK_EPOCH => (.tck, 0x0020)
  | .TCK_PIN_SEL => (.tck, 0x0028)
  | .TCK_PIN_VAL => (.tck, 0x0030)
  | .TCK_STS => (.tck, 0x0038)
  | .TCK_OFFSET => (.tck, 0x0040)
  | .TCK_CNT0 => (.tck, 0x0048)
  | .TCK_CNT1 => (.tck, 0x0050)
  | .TCK_OVR_LAST => (.tck, 0x0058)
  | .PLD_STATE => (.pld, 0x0000)
  | .PLD_CFG => (.pld, 0x0008)
  | .PLD_CTX => (.pld, 0x0010)
  | .PLD_PRIV => (.pld, 0x0018)
  | .PLD_CTL => (.pld, 0x0020)
  | .PLD_CNT0 => (.pld, 0x0028)
  | .PLD_CNT1 => (.pld, 0x0030)
  | .DIK_CFG => (.dik, 0x0000)
  | .DIK_TOK => (.dik, 0x0008)
  | .DIK_CNT0 => (.dik, 0x0010)
  | .DIK_CNT1 => (.dik, 0x0018)
  | .SLU_CFG => (.slu, 0x0000)
  | .SLU_STS => (.slu, 0x0008)
  | .SLU_CNT0 => (.slu, 0x0010)
  | .SLU_CNT1 => (.slu, 0x0018)
  | .SLU_CNT2 => (.slu, 0x0020)
  | .SLU_GCFG => (.sluG, 0x8000)
  | .SLU_GSTS => (.sluG, 0x8008)
  | .SLU_ROT => (.sluG, 0x8010)
  | .WEI_CFG => (.wei, 0x0000)
  | .WEI_RATE => (.wei, 0x0008)
  | .WEI_TOK => (.wei, 0x0010)
  | .WEI_CNT => (.wei, 0x0018)
  | .WLK_STS => (.walker, 0x0000)
  | .WLK_SLOT_CFG => (.walkSlot, 0x0100)
  | .WLK_SLOT_STS => (.walkSlot, 0x0108)
  | .WLK_SLOT_EXP => (.walkSlot, 0x0110)
  | .WLK_SLOT_SCORE => (.walkSlot, 0x0118)
  | .WLK_SLOT_CNT => (.walkSlot, 0x0120)
  | .WLK_SLOT_SHORT => (.walkSlot, 0x0128)
  | .WLK_SLOT_ERR0 => (.walkSlot, 0x0130)
  | .WLK_SLOT_ERR1 => (.walkSlot, 0x0138)
  | .SEL_STS => (.sel, 0x0000)
  | .SEL_CNT0 => (.sel, 0x0008)
  | .SEL_CNT1 => (.sel, 0x0010)
  | .SEL_CNT2 => (.sel, 0x0018)
  | .SEL_CNT3 => (.sel, 0x0020)
  | .MEM_BSU_CFG => (.ctl, 0x0100)
  | .MEM_BSU_STS => (.ctl, 0x0108)
  | .MEM_ROW => (.ctlRow, 0x1000)
  | .MEM_BSU_WIN => (.ctlWin, 0x3000)
  | .BSU_STS => (.bsu, 0x0000)
  | .BSU_CNT0 => (.bsu, 0x0008)
  | .BSU_CNT1 => (.bsu, 0x0010)
  | .BSU_CNT2 => (.bsu, 0x0018)
  | .BSU_CNT3 => (.bsu, 0x0020)
  | .BSU_CNT4 => (.bsu, 0x0028)
  | .BSU_ERR => (.bsu, 0x0030)
  | .TEN_CFG => (.tile, 0x0000)
  | .TEN_STS => (.tile, 0x0008)
  | .TEN_CNT0 => (.tile, 0x0010)
  | .TEN_CNT1 => (.tile, 0x0018)
  | .TEN_CNT2 => (.tile, 0x0020)
  | .TEN_ERR => (.tile, 0x0028)
  | .TEN_SEQ_STS => (.tileDie, 0x8000)
  | .TEN_SEQ_SEL => (.tileDie, 0x8008)
  | .TEN_SEQ_VAL => (.tileDie, 0x8010)
  | .TEN_SEQ_CNT => (.tileDie, 0x8018)
  | .TEN_ADP_SEL => (.tileDie, 0x8020)
  | .TEN_ADP_VAL0 => (.tileDie, 0x8028)
  | .TEN_ADP_VAL1 => (.tileDie, 0x8030)
  | .NUM_CNT0 => (.num, 0x0000)
  | .NUM_CNT1 => (.num, 0x0008)
  | .NUM_CNT2 => (.num, 0x0010)
  | .NUM_LAST0 => (.num, 0x0018)
  | .NUM_LAST1 => (.num, 0x0020)
  | .NUM_SCL_SEL => (.numDie, 0x8000)
  | .NUM_SCL_VAL => (.numDie, 0x8008)
  | .NUM_SCL_AMAX => (.numDie, 0x8010)
  | .NUM_SCL_CNT => (.numDie, 0x8018)
  | .EMB_CFG => (.emb, 0x0000)
  | .EMB_STS => (.emb, 0x0008)
  | .EMB_CNT0 => (.emb, 0x0010)
  | .EMB_CNT1 => (.emb, 0x0018)
  | .EMB_CNT2 => (.emb, 0x0020)
  | .EMB_CNT3 => (.emb, 0x0028)
  | .EMB_LOAD_SEL => (.emb, 0x0030)
  | .EMB_LOAD_VAL => (.emb, 0x0038)
  | .EMB_HOT_ADDR => (.emb, 0x0040)
  | .EMB_HOT_CTL => (.emb, 0x0048)
  | .EMB_HOT_VAL => (.embHot, 0x0100)
  | .MEM_POOL_CFG => (.crestMem, 0x0000)
  | .MEM_POOL_STS => (.crestMem, 0x0008)
  | .MEM_POOL_CNT => (.crestMem, 0x0010)
  | .MEM_POOL_SEL => (.crestMem, 0x0018)
  | .MEM_POOL_VAL => (.crestMem, 0x0020)
  | .MEM_MOV_ADDR => (.crestMem, 0x0028)
  | .MEM_MOV_CTL => (.crestMem, 0x0030)
  | .MEM_MOV_STS => (.mover, 0x0038)
  | .MEM_MOV_CNT0 => (.mover, 0x0040)
  | .MEM_MOV_CNT1 => (.crestMem, 0x0048)
  | .MEM_CTL_STS => (.ctl, 0x0000)
  | .MEM_PC_FAIL => (.ctl, 0x0008)
  | .MEM_SCRUB_CFG => (.ctl, 0x0010)
  | .MEM_SCRUB_STS => (.ctl, 0x0018)
  | .MEM_ECC_CNT => (.ctl, 0x0020)
  | .MEM_ECC_LAST => (.ctl, 0x0028)
  | .MEM_HW_CFG => (.hw, 0x0100)
  | .MEM_HW_BASE => (.hw, 0x0108)
  | .MEM_HW_SIZE => (.hw, 0x0110)
  | .MEM_HW_STS => (.hw, 0x0118)
  | .MEM_HW_RATE => (.hw, 0x0120)
  | .MEM_HW_CNT0 => (.hw, 0x0128)
  | .MEM_HW_CNT1 => (.hw, 0x0130)
  | .MEM_HW_CNT2 => (.hw, 0x0138)
  | .FSS_CFG => (.fss, 0x0000)
  | .FSS_CKPT => (.fss, 0x0008)
  | .FSS_WEAR => (.fss, 0x0010)
  | .FSS_STS => (.fss, 0x0018)
  | .FSS_CNT0 => (.fss, 0x0020)
  | .FSS_CNT1 => (.fss, 0x0028)
  | .FSS_CNT2 => (.fss, 0x0030)
  | .FSS_LIST_ADDR => (.fss, 0x0038)
  | .FSS_LIST_CTL => (.fss, 0x0040)
  | .FSS_CH_CFG => (.fssCh, 0x0000)
  | .FSS_CH_STS => (.fssCh, 0x0008)
  | .FSS_CH_CNT0 => (.fssCh, 0x0010)
  | .FSS_CH_CNT1 => (.fssCh, 0x0018)
  | .FSS_CH_CNT2 => (.fssCh, 0x0020)
  | .AFT_PORT_CFG => (.aft, 0x0000)
  | .AFT_PORT_STS => (.aft, 0x0008)
  | .AFT_PFC_CFG => (.aft, 0x0010)
  | .AFT_GATE_CTL => (.aft, 0x0018)
  | .AFT_GATE_WIN => (.aftGate, 0x0200)
  | .AFT_CONN_SEL => (.aft, 0x0020)
  | .AFT_CONN_STS => (.aft, 0x0028)
  | .AFT_CONN_PSN => (.aft, 0x0030)
  | .AFT_CONN_CTL => (.aft, 0x0038)
  | .AFT_DB => (.aft, 0x0040)
  | .AFT_PEER_SEL => (.aft, 0x0048)
  | .AFT_PEER_STS => (.aft, 0x0050)
  | .AFT_CNT0 => (.aft, 0x0058)
  | .AFT_CNT1 => (.aft, 0x0060)
  | .AFT_CNT2 => (.aft, 0x0068)
  | .AFT_CNT3 => (.aft, 0x0070)
  | .AFT_CNT4 => (.aft, 0x0078)
  | .AFT_CNT5 => (.aft, 0x0080)
  | .AFT_COLL_CFG => (.aft, 0x0088)
  | .AFT_COLL_CNT => (.aft, 0x0090)
  | .AFT_MAP_STS => (.aft, 0x0098)
  | .BML_CFG => (.bml, 0x0000)
  | .BML_LINK_STS => (.bml, 0x0008)
  | .BML_CRD => (.bml, 0x0010)
  | .BML_HB_CFG => (.bml, 0x0018)
  | .BML_HB_STS => (.bml, 0x0020)
  | .BML_DB => (.bml, 0x0028)
  | .BML_CNT0 => (.bml, 0x0030)
  | .BML_CNT1 => (.bml, 0x0038)
  | .BML_CNT2 => (.bml, 0x0040)
  | .BML_CNT3 => (.bml, 0x0048)
  | .BML_RING_CFG => (.ring, 0x1000)
  | .BML_RING_CMD => (.ring, 0x1008)
  | .BML_RING_CPL => (.ring, 0x1010)
  | .BML_RING_STS => (.ring, 0x1018)
  | .IMG_SRC => (.img, 0x0000)
  | .IMG_LEN => (.img, 0x0008)
  | .IMG_ARG => (.img, 0x0010)
  | .IMG_CTL => (.img, 0x0018)
  | .IMG_STS => (.img, 0x0020)
  | .IMG_TICK => (.img, 0x0028)
  | .IMG_ERR0 => (.img, 0x0030)
  | .IMG_ERR1 => (.img, 0x0038)
  | .IMG_CNT => (.img, 0x0040)
  | .RV_BOOT => (.rv, 0x0000)
  | .RV_ID => (.rvId, 0x0008)
  | .RV_FLOOR => (.rv, 0x0028)
  | .RV_SVN => (.rv, 0x0030)
  | .RV_BADADDR => (.rv, 0x0038)
  | .RV_BADSRC => (.rv, 0x0040)
  | .RV_CLAIM_DATA => (.rvData, 0x0100)
  | .RV_CLAIM_CTL => (.rv, 0x01C0)
  | .PWR_STATE => (.pwr, 0x0000)
  | .PWR_CTL => (.pwr, 0x0008)
  | .PWR_OP => (.pwr, 0x0010)
  | .PWR_WAKE => (.pwr, 0x0018)
  | .PWR_CAP => (.pwr, 0x0020)
  | .PWR_SENSE => (.pwr, 0x0028)
  | .PWR_TEMP_SEL => (.pwr, 0x0030)
  | .PWR_TEMP_VAL => (.pwr, 0x0038)
  | .PWR_REFUSE0 => (.pwr, 0x0040)
  | .PWR_REFUSE1 => (.pwr, 0x0048)
  | .PWR_CNT0 => (.pwr, 0x0050)
  | .PWR_CNT1 => (.pwr, 0x0058)
  | .PWR_CNT2 => (.pwr, 0x0060)
  | .PWR_CNT3 => (.pwr, 0x0068)
  | .PWR_CNT4 => (.pwr, 0x0070)
  | .PWR_CNT5 => (.pwr, 0x0078)
  | .PWR_PLD_SEL => (.pwr, 0x0080)
  | .PWR_PLD_VAL => (.pwr, 0x0088)
  | .PWR_LOST => (.pwr, 0x0090)
  | .PWR_FATAL => (.pwr, 0x0098)

/-- The fields of a register, most significant first; reserved bits (R10) are not listed. -/
def RegName.fields : RegName → List Field
  | .MEM_LINK_CFG => [⟨16, 16, "classes_open", .RW, 0x0⟩,
      ⟨9, 0, "pool_slots", .RW, 0x0⟩]
  | .MEM_LINK_CRD => [⟨63, 56, "ctl_reserve", .RW, 0x4⟩,
      ⟨55, 48, "hwc_reserve", .RW, 0x4⟩,
      ⟨47, 40, "hak_reserve", .RW, 0x4⟩,
      ⟨39, 32, "hnd_reserve", .RW, 0x4⟩,
      ⟨31, 24, "wra_reserve", .RW, 0x4⟩,
      ⟨23, 16, "wrd_reserve", .RW, 0x4⟩,
      ⟨15, 8, "rdd_reserve", .RW, 0x4⟩,
      ⟨7, 0, "rdq_reserve", .RW, 0x4⟩]
  | .MEM_LINK_STS => [⟨63, 32, "flit_retries", .RO, 0x0⟩,
      ⟨31, 16, "pool_in_use", .RO, 0x0⟩,
      ⟨3, 3, "cfg_error", .W1C, 0x0⟩,
      ⟨2, 2, "lost", .W1C, 0x0⟩,
      ⟨1, 0, "state", .RO, 0x0⟩]
  | .TCK_CFG => [⟨63, 48, "align_tol_ns", .RW, 0x3E8⟩,
      ⟨47, 40, "retain_min_ticks", .RW, 0x8⟩,
      ⟨36, 35, "ptp_port", .RW, 0x0⟩,
      ⟨34, 34, "tick_out_en", .RW, 0x0⟩,
      ⟨33, 32, "align_mode", .RW, 0x0⟩,
      ⟨23, 16, "berm_us", .RW, 0x8⟩,
      ⟨9, 0, "period_us", .RW, 0x64⟩]
  | .TCK_CTL => [⟨63, 16, "start_tick", .RW, 0x0⟩,
      ⟨1, 1, "stop", .WO, 0x0⟩,
      ⟨0, 0, "start", .WO, 0x0⟩]
  | .TCK_BASE => [⟨63, 0, "base_ns", .RW, 0x0⟩]
  | .TCK_NOW => [⟨47, 0, "tick", .RO, 0x0⟩]
  | .TCK_EPOCH => [⟨47, 0, "epoch", .RO, 0x0⟩]
  | .TCK_PIN_SEL => [⟨7, 0, "collection", .RW, 0x0⟩]
  | .TCK_PIN_VAL => [⟨61, 48, "pinned", .RO, 0x0⟩,
      ⟨47, 0, "oldest_epoch", .RO, 0xFFFFFFFFFFFF⟩]
  | .TCK_STS => [⟨7, 7, "stop_refused", .W1C, 0x0⟩,
      ⟨6, 6, "cfg_error", .W1C, 0x0⟩,
      ⟨5, 5, "number_mismatch", .W1C, 0x0⟩,
      ⟨4, 4, "realigned", .W1C, 0x0⟩,
      ⟨3, 3, "align_lost", .W1C, 0x0⟩,
      ⟨2, 1, "align_state", .RO, 0x0⟩,
      ⟨0, 0, "running", .RO, 0x0⟩]
  | .TCK_OFFSET => [⟨63, 0, "offset_ns", .RO, 0x0⟩]
  | .TCK_CNT0 => [⟨63, 32, "overruns", .RO, 0x0⟩,
      ⟨31, 0, "deferred", .RO, 0x0⟩]
  | .TCK_CNT1 => [⟨63, 32, "stretch_us", .RO, 0x0⟩,
      ⟨31, 0, "skipped", .RO, 0x0⟩]
  | .TCK_OVR_LAST => [⟨63, 16, "tick", .RO, 0x0⟩,
      ⟨15, 0, "unit", .RO, 0x0⟩]
  | .PLD_STATE => [⟨63, 16, "since_tick", .RO, 0x0⟩,
      ⟨15, 2, "live", .RO, 0x0⟩,
      ⟨1, 0, "state", .RO, 0x0⟩]
  | .PLD_CFG => [⟨63, 54, "max_pin_ticks", .RWL, 0x40⟩,
      ⟨53, 44, "default_deadline", .RWL, 0x0⟩,
      ⟨43, 43, "class_s", .RWL, 0x0⟩,
      ⟨42, 42, "class_e", .RWL, 0x0⟩,
      ⟨41, 41, "class_g", .RWL, 0x0⟩,
      ⟨40, 39, "proof_point", .RO, 0x0⟩]
  | .PLD_CTX => [⟨47, 36, "ctx_c3", .RWL, 0x0⟩,
      ⟨35, 24, "ctx_c2", .RWL, 0x0⟩,
      ⟨23, 12, "ctx_c1", .RWL, 0x0⟩,
      ⟨11, 0, "ctx_c0", .RWL, 0x0⟩]
  | .PLD_PRIV => [⟨5, 5, "host_publish", .RWL, 0x0⟩,
      ⟨4, 4, "adapter_train", .RWL, 0x0⟩,
      ⟨3, 3, "pool_serve", .RWL, 0x0⟩,
      ⟨2, 2, "shard_map", .RWL, 0x0⟩,
      ⟨1, 1, "coordinate", .RWL, 0x0⟩,
      ⟨0, 0, "chain_arm", .RWL, 0x0⟩]
  | .PLD_CTL => [⟨1, 1, "abort", .WO, 0x0⟩,
      ⟨0, 0, "unload", .WO, 0x0⟩]
  | .PLD_CNT0 => [⟨63, 32, "admitted", .RO, 0x0⟩,
      ⟨31, 0, "delayed", .RO, 0x0⟩]
  | .PLD_CNT1 => [⟨63, 32, "delay_sum", .RO, 0x0⟩,
      ⟨31, 0, "ended", .RO, 0x0⟩]
  | .DIK_CFG => [⟨63, 32, "rate_rps", .RW, 0x0⟩,
      ⟨31, 16, "burst", .RW, 0x0⟩]
  | .DIK_TOK => [⟨47, 32, "whole", .RO, 0x0⟩,
      ⟨31, 0, "fraction", .RO, 0x0⟩]
  | .DIK_CNT0 => [⟨63, 32, "passed", .RO, 0x0⟩,
      ⟨31, 0, "dropped", .RO, 0x0⟩]
  | .DIK_CNT1 => [⟨63, 32, "unreported", .RO, 0x0⟩,
      ⟨31, 0, "class_denied", .RO, 0x0⟩]
  | .SLU_CFG => [⟨63, 48, "reserve", .RWL, 0x0⟩,
      ⟨47, 40, "weight", .RWL, 0x0⟩,
      ⟨39, 26, "depth", .RWL, 0x0⟩,
      ⟨23, 16, "wait_g", .RWL, 0x0⟩,
      ⟨15, 8, "wait_e", .RWL, 0x0⟩,
      ⟨7, 0, "wait_s", .RWL, 0x0⟩]
  | .SLU_STS => [⟨63, 50, "waiting_g", .RO, 0x0⟩,
      ⟨49, 36, "waiting_e", .RO, 0x0⟩,
      ⟨35, 22, "waiting_s", .RO, 0x0⟩,
      ⟨21, 0, "deficit", .RO, 0x0⟩]
  | .SLU_CNT0 => [⟨63, 32, "slots_reserved", .RO, 0x0⟩,
      ⟨31, 0, "slots_shared", .RO, 0x0⟩]
  | .SLU_CNT1 => [⟨63, 32, "sluice_full", .RO, 0x0⟩,
      ⟨31, 0, "wait_limit", .RO, 0x0⟩]
  | .SLU_CNT2 => [⟨63, 32, "unloaded", .RO, 0x0⟩,
      ⟨31, 0, "ctx_waits", .RO, 0x0⟩]
  | .SLU_GCFG => [⟨63, 48, "slots_per_tick", .RW, 0x0⟩,
      ⟨47, 40, "quantum", .RW, 0x8⟩]
  | .SLU_GSTS => [⟨63, 48, "used_g", .RO, 0x0⟩,
      ⟨47, 32, "used_e", .RO, 0x0⟩,
      ⟨31, 16, "used_s", .RO, 0x0⟩,
      ⟨0, 0, "cfg_error", .W1C, 0x0⟩]
  | .SLU_ROT => [⟨27, 16, "rot_e", .RO, 0x0⟩,
      ⟨11, 0, "rot_s", .RO, 0x0⟩]
  | .WEI_CFG => [⟨63, 52, "polder", .RWL, 0x0⟩,
      ⟨51, 48, "kind", .RWL, 0x0⟩,
      ⟨47, 40, "target", .RWL, 0x0⟩,
      ⟨1, 1, "cfg_error", .W1C, 0x0⟩,
      ⟨0, 0, "enable", .RWL, 0x0⟩]
  | .WEI_RATE => [⟨63, 32, "rate", .RW, 0x0⟩,
      ⟨31, 0, "burst", .RW, 0x0⟩]
  | .WEI_TOK => [⟨63, 20, "whole", .RO, 0x0⟩,
      ⟨19, 0, "fraction", .RO, 0x0⟩]
  | .WEI_CNT => [⟨63, 32, "held_us", .RO, 0x0⟩,
      ⟨31, 0, "berm_waits", .RO, 0x0⟩]
  | .WLK_STS => [⟨31, 16, "live", .RO, 0x0⟩,
      ⟨15, 0, "granted", .RO, 0x0⟩]
  | .WLK_SLOT_CFG => [⟨63, 52, "polder", .RWL, 0x0⟩,
      ⟨51, 46, "stage", .RWL, 0x0⟩,
      ⟨45, 36, "queue_len", .RWL, 0x0⟩,
      ⟨35, 31, "max_beam", .RWL, 0x0⟩,
      ⟨30, 26, "max_filter", .RWL, 0x0⟩,
      ⟨25, 20, "batch_rounds", .RWL, 0x0⟩,
      ⟨0, 0, "enable", .RWL, 0x0⟩]
  | .WLK_SLOT_STS => [⟨63, 51, "context", .RO, 0x0⟩,
      ⟨50, 43, "generation", .RO, 0x0⟩,
      ⟨37, 22, "partition", .RO, 0x0⟩,
      ⟨21, 6, "expansions", .RO, 0x0⟩,
      ⟨2, 0, "state", .RO, 0x0⟩]
  | .WLK_SLOT_EXP => [⟨63, 0, "expansions", .RO, 0x0⟩]
  | .WLK_SLOT_SCORE => [⟨63, 0, "scores", .RO, 0x0⟩]
  | .WLK_SLOT_CNT => [⟨63, 32, "walks", .RO, 0x0⟩,
      ⟨31, 0, "q_lost", .RO, 0x0⟩]
  | .WLK_SLOT_SHORT => [⟨63, 32, "short_budget", .RO, 0x0⟩,
      ⟨31, 0, "short_exhausted", .RO, 0x0⟩]
  | .WLK_SLOT_ERR0 => [⟨63, 32, "bad_edges", .RO, 0x0⟩,
      ⟨31, 0, "nan_scores", .RO, 0x0⟩]
  | .WLK_SLOT_ERR1 => [⟨63, 32, "visited_full", .RO, 0x0⟩,
      ⟨31, 0, "aborted", .RO, 0x0⟩]
  | .SEL_STS => [⟨6, 0, "jobs_live", .RO, 0x0⟩]
  | .SEL_CNT0 => [⟨63, 32, "merges", .RO, 0x0⟩,
      ⟨31, 0, "short_results", .RO, 0x0⟩]
  | .SEL_CNT1 => [⟨63, 0, "entries_in", .RO, 0x0⟩]
  | .SEL_CNT2 => [⟨63, 32, "dup_removed", .RO, 0x0⟩,
      ⟨31, 0, "nan_dropped", .RO, 0x0⟩]
  | .SEL_CNT3 => [⟨63, 32, "tie_results", .RO, 0x0⟩,
      ⟨31, 0, "aborted", .RO, 0x0⟩]
  | .MEM_BSU_CFG => [⟨15, 8, "batch_max", .RW, 0x1⟩,
      ⟨0, 0, "enable", .RW, 0x0⟩]
  | .MEM_BSU_STS => [⟨63, 48, "windows", .RO, 0x0⟩,
      ⟨47, 32, "queued", .RO, 0x0⟩]
  | .MEM_ROW => [⟨3, 3, "in_use", .RW, 0x0⟩,
      ⟨2, 2, "code", .RW, 0x0⟩,
      ⟨1, 1, "ecc", .RW, 0x0⟩,
      ⟨0, 0, "layout", .RW, 0x0⟩]
  | .MEM_BSU_WIN => [⟨11, 0, "polder", .RW, 0x0⟩]
  | .BSU_STS => [⟨63, 52, "polder", .RO, 0x0⟩,
      ⟨51, 44, "opcode", .RO, 0x0⟩,
      ⟨43, 28, "job", .RO, 0x0⟩,
      ⟨27, 12, "window", .RO, 0x0⟩,
      ⟨1, 0, "state", .RO, 0x0⟩]
  | .BSU_CNT0 => [⟨63, 32, "segments", .RO, 0x0⟩,
      ⟨31, 0, "commands", .RO, 0x0⟩]
  | .BSU_CNT1 => [⟨63, 0, "bytes_read", .RO, 0x0⟩]
  | .BSU_CNT2 => [⟨63, 32, "ecc_corrected", .RO, 0x0⟩,
      ⟨31, 0, "ecc_uncorrectable", .RO, 0x0⟩]
  | .BSU_CNT3 => [⟨63, 32, "poison_reads", .RO, 0x0⟩,
      ⟨31, 0, "refused", .RO, 0x0⟩]
  | .BSU_CNT4 => [⟨63, 32, "nan_scores", .RO, 0x0⟩,
      ⟨31, 0, "scrub_dropped", .RO, 0x0⟩]
  | .BSU_ERR => [⟨63, 62, "kind", .RO, 0x0⟩,
      ⟨30, 0, "pc_addr", .RO, 0x0⟩]
  | .TEN_CFG => [⟨63, 52, "polder", .RWL, 0x0⟩,
      ⟨51, 44, "model", .RWL, 0xFF⟩,
      ⟨43, 38, "group_index", .RWL, 0x0⟩,
      ⟨37, 31, "group_tiles", .RWL, 0x0⟩,
      ⟨0, 0, "enable", .RWL, 0x0⟩]
  | .TEN_STS => [⟨63, 61, "state", .RO, 0x0⟩,
      ⟨60, 57, "job", .RO, 0x0⟩,
      ⟨56, 50, "slot", .RO, 0x0⟩,
      ⟨49, 43, "layer", .RO, 0x0⟩]
  | .TEN_CNT0 => [⟨63, 32, "jobs", .RO, 0x0⟩,
      ⟨31, 0, "pairs_skipped", .RO, 0x0⟩]
  | .TEN_CNT1 => [⟨63, 0, "blocks", .RO, 0x0⟩]
  | .TEN_CNT2 => [⟨63, 32, "pairs_computed", .RO, 0x0⟩,
      ⟨31, 0, "rows_appended", .RO, 0x0⟩]
  | .TEN_ERR => [⟨63, 32, "corrected", .RO, 0x0⟩,
      ⟨31, 16, "faults", .RO, 0x0⟩,
      ⟨15, 14, "last_kind", .RO, 0x0⟩]
  | .TEN_SEQ_STS => [⟨63, 57, "live", .RO, 0x0⟩,
      ⟨56, 32, "kv_pages", .RO, 0x0⟩]
  | .TEN_SEQ_SEL => [⟨6, 0, "slot", .RW, 0x0⟩]
  | .TEN_SEQ_VAL => [⟨63, 51, "context", .RO, 0x0⟩,
      ⟨50, 43, "generation", .RO, 0x0⟩,
      ⟨42, 35, "model", .RO, 0xFF⟩,
      ⟨34, 18, "rows", .RO, 0x0⟩,
      ⟨17, 11, "layer", .RO, 0x0⟩]
  | .TEN_SEQ_CNT => [⟨63, 32, "passes", .RO, 0x0⟩,
      ⟨31, 0, "kv_space", .RO, 0x0⟩]
  | .TEN_ADP_SEL => [⟨15, 8, "model", .RW, 0x0⟩,
      ⟨3, 0, "adapter", .RW, 0x0⟩]
  | .TEN_ADP_VAL0 => [⟨47, 0, "published", .RO, 0x0⟩]
  | .TEN_ADP_VAL1 => [⟨63, 32, "steps", .RO, 0x0⟩,
      ⟨31, 0, "nonfinite", .RO, 0x0⟩]
  | .NUM_CNT0 => [⟨63, 32, "rows_escalated", .RO, 0x0⟩,
      ⟨31, 0, "jobs_escalated", .RO, 0x0⟩]
  | .NUM_CNT1 => [⟨63, 32, "over_fail", .RO, 0x0⟩,
      ⟨31, 0, "under_fail", .RO, 0x0⟩]
  | .NUM_CNT2 => [⟨63, 0, "blocks_quantised", .RO, 0x0⟩]
  | .NUM_LAST0 => [⟨63, 16, "tick", .RO, 0x0⟩,
      ⟨15, 8, "model", .RO, 0xFF⟩]
  | .NUM_LAST1 => [⟨63, 52, "point", .RO, 0x0⟩]
  | .NUM_SCL_SEL => [⟨20, 8, "point", .RW, 0x0⟩,
      ⟨7, 0, "model", .RW, 0x0⟩]
  | .NUM_SCL_VAL => [⟨63, 56, "exponent", .RO, 0x0⟩,
      ⟨47, 0, "valid_from", .RO, 0x0⟩]
  | .NUM_SCL_AMAX => [⟨63, 32, "run_amax", .RO, 0x0⟩,
      ⟨31, 0, "obs_amax", .RO, 0x0⟩]
  | .NUM_SCL_CNT => [⟨63, 32, "rows_escalated", .RO, 0x0⟩,
      ⟨31, 0, "versions", .RO, 0x0⟩]
  | .EMB_CFG => [⟨63, 48, "prefetch_kib", .RW, 0x0⟩,
      ⟨0, 0, "prefetch_en", .RW, 0x0⟩]
  | .EMB_STS => [⟨63, 48, "prefetch_used_kib", .RO, 0x0⟩,
      ⟨47, 40, "moves_open", .RO, 0x0⟩]
  | .EMB_CNT0 => [⟨63, 32, "lookups", .RO, 0x0⟩,
      ⟨31, 0, "hot_hits", .RO, 0x0⟩]
  | .EMB_CNT1 => [⟨63, 32, "prefetched", .RO, 0x0⟩,
      ⟨31, 0, "prefetch_hits", .RO, 0x0⟩]
  | .EMB_CNT2 => [⟨63, 32, "rows_updated", .RO, 0x0⟩,
      ⟨31, 0, "nonfinite_rows", .RO, 0x0⟩]
  | .EMB_CNT3 => [⟨63, 32, "moves_flipped", .RO, 0x0⟩,
      ⟨31, 0, "moves_deferred", .RO, 0x0⟩]
  | .EMB_LOAD_SEL => [⟨12, 5, "table", .RW, 0x0⟩,
      ⟨4, 0, "stack", .RW, 0x0⟩]
  | .EMB_LOAD_VAL => [⟨63, 32, "rows_read", .RO, 0x0⟩,
      ⟨31, 0, "rows_written", .RO, 0x0⟩]
  | .EMB_HOT_ADDR => [⟨59, 48, "region", .RW, 0x0⟩,
      ⟨47, 0, "offset", .RW, 0x0⟩]
  | .EMB_HOT_CTL => [⟨7, 7, "cfg_error", .W1C, 0x0⟩,
      ⟨6, 6, "load", .WO, 0x0⟩,
      ⟨5, 0, "tile", .RW, 0x0⟩]
  | .EMB_HOT_VAL => [⟨63, 56, "table", .RO, 0xFF⟩,
      ⟨55, 41, "rows", .RO, 0x0⟩,
      ⟨40, 26, "fetched", .RO, 0x0⟩]
  | .MEM_POOL_CFG => [⟨15, 0, "age_ticks", .RW, 0x0⟩]
  | .MEM_POOL_STS => [⟨63, 52, "free", .RO, 0x800⟩,
      ⟨51, 40, "pinned", .RO, 0x0⟩,
      ⟨39, 28, "dirty", .RO, 0x0⟩]
  | .MEM_POOL_CNT => [⟨63, 32, "evictions", .RO, 0x0⟩,
      ⟨31, 0, "writebacks", .RO, 0x0⟩]
  | .MEM_POOL_SEL => [⟨11, 0, "polder", .RW, 0x0⟩]
  | .MEM_POOL_VAL => [⟨63, 52, "quota", .RO, 0x0⟩,
      ⟨51, 40, "limit", .RO, 0x0⟩,
      ⟨39, 28, "held", .RO, 0x0⟩]
  | .MEM_MOV_ADDR => [⟨63, 52, "polder", .RW, 0x0⟩,
      ⟨51, 40, "region", .RW, 0x0⟩,
      ⟨39, 0, "offset", .RW, 0x0⟩]
  | .MEM_MOV_CTL => [⟨7, 7, "cfg_error", .W1C, 0x0⟩,
      ⟨6, 6, "go", .WO, 0x0⟩]
  | .MEM_MOV_STS => [⟨63, 57, "lists_queued", .RO, 0x0⟩]
  | .MEM_MOV_CNT0 => [⟨63, 32, "tiles_moved", .RO, 0x0⟩,
      ⟨31, 0, "lists_done", .RO, 0x0⟩]
  | .MEM_MOV_CNT1 => [⟨63, 32, "recall_waits", .RO, 0x0⟩,
      ⟨31, 0, "lists_ended", .RO, 0x0⟩]
  | .MEM_CTL_STS => [⟨1, 0, "state", .RO, 0x0⟩]
  | .MEM_PC_FAIL => [⟨63, 0, "failed", .RO, 0x0⟩]
  | .MEM_SCRUB_CFG => [⟨15, 8, "hours", .RW, 0x18⟩,
      ⟨0, 0, "enable", .RW, 0x0⟩]
  | .MEM_SCRUB_STS => [⟨63, 32, "passes", .RO, 0x0⟩,
      ⟨31, 0, "lines_poisoned", .RO, 0x0⟩]
  | .MEM_ECC_CNT => [⟨63, 32, "corrected", .RO, 0x0⟩,
      ⟨31, 0, "uncorrectable", .RO, 0x0⟩]
  | .MEM_ECC_LAST => [⟨63, 62, "kind", .RO, 0x0⟩,
      ⟨40, 0, "addr", .RO, 0x0⟩]
  | .MEM_HW_CFG => [⟨63, 54, "recall_us", .RW, 0x32⟩,
      ⟨53, 50, "ring_log2", .RO, 0x0⟩]
  | .MEM_HW_BASE => [⟨63, 0, "base", .RO, 0x0⟩]
  | .MEM_HW_SIZE => [⟨63, 0, "bytes", .RO, 0x0⟩]
  | .MEM_HW_STS => [⟨63, 32, "owned", .RO, 0x0⟩,
      ⟨1, 0, "state", .RO, 0x0⟩]
  | .MEM_HW_RATE => [⟨63, 32, "rate", .RW, 0x0⟩,
      ⟨31, 0, "burst", .RW, 0x0⟩]
  | .MEM_HW_CNT0 => [⟨63, 32, "recalls", .RO, 0x0⟩,
      ⟨31, 0, "recall_late", .RO, 0x0⟩]
  | .MEM_HW_CNT1 => [⟨63, 32, "lines_poisoned", .RO, 0x0⟩,
      ⟨31, 0, "notices_lost", .RO, 0x0⟩]
  | .MEM_HW_CNT2 => [⟨63, 32, "throttled_us", .RO, 0x0⟩,
      ⟨31, 0, "publish_refused", .RO, 0x0⟩]
  | .FSS_CFG => [⟨63, 48, "io_limit_us", .RW, 0x7D0⟩,
      ⟨47, 32, "ckpt_ticks", .RW, 0x2710⟩,
      ⟨31, 24, "gc_low", .RW, 0x8⟩,
      ⟨23, 16, "gc_high", .RW, 0x10⟩,
      ⟨15, 12, "retry_refresh", .RW, 0x4⟩,
      ⟨0, 0, "enable", .RW, 0x0⟩]
  | .FSS_CKPT => [⟨63, 32, "ckpt_units", .RW, 0x400000⟩,
      ⟨31, 16, "refresh_days", .RW, 0x5A⟩,
      ⟨15, 0, "read_disturb", .RW, 0x1F4⟩]
  | .FSS_WEAR => [⟨63, 40, "pe_rated", .RW, 0xBB8⟩,
      ⟨39, 16, "spare_blocks", .RW, 0x0⟩]
  | .FSS_STS => [⟨63, 40, "free_blocks", .RO, 0x0⟩,
      ⟨39, 16, "retired", .RO, 0x0⟩,
      ⟨15, 8, "life_pct", .RO, 0x0⟩,
      ⟨1, 0, "state", .RO, 0x0⟩]
  | .FSS_CNT0 => [⟨63, 32, "gc_units", .RO, 0x0⟩,
      ⟨31, 0, "refresh_units", .RO, 0x0⟩]
  | .FSS_CNT1 => [⟨63, 32, "poisoned", .RO, 0x0⟩,
      ⟨31, 0, "late", .RO, 0x0⟩]
  | .FSS_CNT2 => [⟨63, 32, "checkpoints", .RO, 0x0⟩,
      ⟨31, 0, "recover_ms", .RO, 0x0⟩]
  | .FSS_LIST_ADDR => [⟨63, 52, "polder", .RW, 0x0⟩,
      ⟨51, 40, "region", .RW, 0x0⟩,
      ⟨39, 0, "offset", .RW, 0x0⟩]
  | .FSS_LIST_CTL => [⟨7, 7, "cfg_error", .W1C, 0x0⟩,
      ⟨6, 6, "go", .WO, 0x0⟩]
  | .FSS_CH_CFG => [⟨63, 62, "iface", .RW, 0x0⟩,
      ⟨61, 58, "rate", .RW, 0x0⟩,
      ⟨57, 54, "targets", .RW, 0x0⟩,
      ⟨53, 51, "luns_m1", .RW, 0x0⟩,
      ⟨50, 49, "planes", .RW, 0x0⟩,
      ⟨48, 34, "blocks", .RW, 0x0⟩,
      ⟨33, 22, "pages_m1", .RW, 0x0⟩,
      ⟨21, 18, "retry_n", .RW, 0x0⟩]
  | .FSS_CH_STS => [⟨1, 0, "state", .RO, 0x0⟩]
  | .FSS_CH_CNT0 => [⟨63, 32, "reads", .RO, 0x0⟩,
      ⟨31, 0, "programs", .RO, 0x0⟩]
  | .FSS_CH_CNT1 => [⟨63, 32, "erases", .RO, 0x0⟩,
      ⟨31, 0, "retries", .RO, 0x0⟩]
  | .FSS_CH_CNT2 => [⟨63, 32, "uncorrectable", .RO, 0x0⟩,
      ⟨31, 16, "luns_failed", .RO, 0x0⟩,
      ⟨15, 0, "retired", .RO, 0x0⟩]
  | .AFT_PORT_CFG => [⟨63, 52, "vlan", .RW, 0x0⟩,
      ⟨47, 40, "hop_limit", .RW, 0x40⟩,
      ⟨37, 36, "mode", .RW, 0x0⟩,
      ⟨35, 32, "retry_max", .RW, 0x7⟩,
      ⟨31, 16, "rto_us", .RW, 0xC8⟩,
      ⟨15, 12, "rnr_retry", .RW, 0x7⟩,
      ⟨7, 0, "ack_us", .RW, 0x4⟩]
  | .AFT_PORT_STS => [⟨63, 56, "lanes", .RO, 0x0⟩,
      ⟨51, 50, "half1", .RO, 0x0⟩,
      ⟨49, 48, "half0", .RO, 0x0⟩,
      ⟨42, 32, "peers_up", .RO, 0x0⟩,
      ⟨31, 20, "cached", .RO, 0x0⟩,
      ⟨19, 11, "parked", .RO, 0x0⟩]
  | .AFT_PFC_CFG => [⟨63, 56, "lossless", .RW, 0x0⟩,
      ⟨55, 46, "cable_m", .RW, 0x0⟩,
      ⟨45, 34, "xoff_kib", .RW, 0x100⟩,
      ⟨33, 22, "hr_kib", .RW, 0x0⟩,
      ⟨0, 0, "cfg_error", .W1C, 0x0⟩]
  | .AFT_GATE_CTL => [⟨1, 1, "swap", .WO, 0x0⟩,
      ⟨0, 0, "active", .RO, 0x0⟩]
  | .AFT_GATE_WIN => [⟨31, 31, "enable", .RW, 0x0⟩,
      ⟨30, 21, "start_us", .RW, 0x0⟩,
      ⟨20, 11, "end_us", .RW, 0x0⟩,
      ⟨7, 0, "classes", .RW, 0x0⟩]
  | .AFT_CONN_SEL => [⟨17, 0, "conn", .RW, 0x0⟩]
  | .AFT_CONN_STS => [⟨63, 62, "state", .RO, 0x0⟩,
      ⟨61, 54, "incarnation", .RO, 0x0⟩,
      ⟨53, 43, "window", .RO, 0x0⟩,
      ⟨42, 42, "cached", .RO, 0x0⟩,
      ⟨41, 39, "lost_reason", .RO, 0x0⟩]
  | .AFT_CONN_PSN => [⟨47, 24, "next_psn", .RO, 0x0⟩,
      ⟨23, 0, "epsn", .RO, 0x0⟩]
  | .AFT_CONN_CTL => [⟨0, 0, "reopen", .WO, 0x0⟩]
  | .AFT_DB => [⟨63, 46, "conn", .WO, 0x0⟩,
      ⟨45, 45, "queue", .WO, 0x0⟩,
      ⟨15, 0, "producer", .WO, 0x0⟩]
  | .AFT_PEER_SEL => [⟨9, 0, "peer", .RW, 0x0⟩]
  | .AFT_PEER_STS => [⟨63, 62, "state", .RO, 0x0⟩,
      ⟨61, 46, "node", .RO, 0x0⟩,
      ⟨31, 0, "lost_count", .RO, 0x0⟩]
  | .AFT_CNT0 => [⟨63, 32, "retransmits", .RO, 0x0⟩,
      ⟨31, 0, "timeouts", .RO, 0x0⟩]
  | .AFT_CNT1 => [⟨63, 32, "dup_sends", .RO, 0x0⟩,
      ⟨31, 0, "naks_sent", .RO, 0x0⟩]
  | .AFT_CNT2 => [⟨63, 32, "parked", .RO, 0x0⟩,
      ⟨31, 0, "park_drops", .RO, 0x0⟩]
  | .AFT_CNT3 => [⟨63, 32, "violations", .RO, 0x0⟩,
      ⟨31, 16, "db_refused", .RO, 0x0⟩,
      ⟨15, 0, "icrc_errors", .RO, 0x0⟩]
  | .AFT_CNT4 => [⟨63, 32, "ecn_marked", .RO, 0x0⟩,
      ⟨31, 0, "cache_misses", .RO, 0x0⟩]
  | .AFT_CNT5 => [⟨63, 32, "gate_waits", .RO, 0x0⟩,
      ⟨31, 0, "pfc_rx", .RO, 0x0⟩]
  | .AFT_COLL_CFG => [⟨63, 48, "node", .RO, 0x0⟩,
      ⟨41, 40, "retries", .RW, 0x2⟩]
  | .AFT_COLL_CNT => [⟨63, 32, "collectives", .RO, 0x0⟩,
      ⟨31, 16, "retried", .RO, 0x0⟩,
      ⟨15, 0, "member_lost", .RO, 0x0⟩]
  | .AFT_MAP_STS => [⟨63, 16, "version", .RO, 0x0⟩,
      ⟨15, 14, "state", .RO, 0x0⟩]
  | .BML_CFG => [⟨2, 2, "cfg_error", .W1C, 0x0⟩,
      ⟨1, 1, "width4_ok", .RW, 0x1⟩,
      ⟨0, 0, "open", .RW, 0x0⟩]
  | .BML_LINK_STS => [⟨63, 32, "flit_retries", .RO, 0x0⟩,
      ⟨31, 21, "rtt_ns", .RO, 0x0⟩,
      ⟨20, 13, "lanes_up", .RO, 0x0⟩,
      ⟨12, 9, "width", .RO, 0x0⟩,
      ⟨8, 6, "step", .RO, 0x0⟩,
      ⟨5, 4, "state", .RO, 0x0⟩,
      ⟨3, 3, "attached", .RO, 0x0⟩,
      ⟨2, 2, "lost", .W1C, 0x0⟩,
      ⟨1, 1, "train_fail", .W1C, 0x0⟩]
  | .BML_CRD => [⟨63, 52, "pool_slots", .RW, 0xFB0⟩,
      ⟨39, 32, "evt_reserve", .RW, 0x10⟩,
      ⟨31, 24, "csrq_reserve", .RW, 0x10⟩,
      ⟨23, 16, "snpr_reserve", .RW, 0x10⟩,
      ⟨15, 8, "mwb_reserve", .RW, 0x10⟩,
      ⟨7, 0, "mreq_reserve", .RW, 0x10⟩]
  | .BML_HB_CFG => [⟨23, 20, "miss_limit", .RW, 0x3⟩,
      ⟨16, 0, "interval_us", .RW, 0x3E8⟩]
  | .BML_HB_STS => [⟨63, 32, "hb_sent", .RO, 0x0⟩,
      ⟨31, 16, "missed", .RO, 0x0⟩]
  | .BML_DB => [⟨63, 58, "ring", .WO, 0x0⟩,
      ⟨57, 57, "queue", .WO, 0x0⟩,
      ⟨31, 0, "index", .WO, 0x0⟩]
  | .BML_CNT0 => [⟨63, 32, "db_refused", .RO, 0x0⟩,
      ⟨31, 0, "csr_refused", .RO, 0x0⟩]
  | .BML_CNT1 => [⟨63, 32, "naks_sent", .RO, 0x0⟩,
      ⟨31, 0, "retrains", .RO, 0x0⟩]
  | .BML_CNT2 => [⟨63, 32, "train_fails", .RO, 0x0⟩,
      ⟨31, 0, "hosts_lost", .RO, 0x0⟩]
  | .BML_CNT3 => [⟨63, 32, "cpl_discarded", .RO, 0x0⟩,
      ⟨31, 0, "bad_msgs", .RO, 0x0⟩]
  | .BML_RING_CFG => [⟨63, 52, "polder", .RWL, 0x0⟩,
      ⟨51, 47, "cmd_log2", .RWL, 0x0⟩,
      ⟨46, 42, "cpl_log2", .RWL, 0x0⟩,
      ⟨41, 41, "notify_en", .RWL, 0x0⟩,
      ⟨0, 0, "enable", .RWL, 0x0⟩]
  | .BML_RING_CMD => [⟨63, 0, "cmd_base", .RWL, 0x0⟩]
  | .BML_RING_CPL => [⟨63, 0, "cpl_base", .RWL, 0x0⟩]
  | .BML_RING_STS => [⟨63, 32, "cmd_consumer", .RO, 0x0⟩,
      ⟨31, 0, "cpl_producer", .RO, 0x0⟩]
  | .IMG_SRC => [⟨63, 0, "addr", .RW, 0x0⟩]
  | .IMG_LEN => [⟨40, 0, "bytes", .RW, 0x0⟩]
  | .IMG_ARG => [⟨63, 52, "polder", .RW, 0x0⟩,
      ⟨51, 40, "region", .RW, 0x0⟩,
      ⟨39, 0, "offset", .RW, 0x0⟩]
  | .IMG_CTL => [⟨7, 7, "cfg_error", .W1C, 0x0⟩,
      ⟨3, 3, "abort", .WO, 0x0⟩,
      ⟨2, 0, "op", .WO, 0x0⟩]
  | .IMG_STS => [⟨63, 48, "code", .RO, 0x0⟩,
      ⟨47, 45, "state", .RO, 0x0⟩,
      ⟨44, 42, "op", .RO, 0x0⟩,
      ⟨41, 30, "polder", .RO, 0x0⟩,
      ⟨29, 27, "requester", .RO, 0x0⟩]
  | .IMG_TICK => [⟨47, 0, "tick", .RO, 0x0⟩]
  | .IMG_ERR0 => [⟨63, 48, "code", .RO, 0x0⟩,
      ⟨47, 40, "section", .RO, 0x0⟩,
      ⟨39, 0, "offset", .RO, 0x0⟩]
  | .IMG_ERR1 => [⟨63, 32, "detail_a", .RO, 0x0⟩,
      ⟨31, 0, "detail_b", .RO, 0x0⟩]
  | .IMG_CNT => [⟨63, 32, "loads", .RO, 0x0⟩,
      ⟨31, 0, "refusals", .RO, 0x0⟩]
  | .RV_BOOT => [⟨63, 56, "step", .RO, 0x0⟩,
      ⟨55, 54, "state", .RO, 0x0⟩,
      ⟨53, 50, "fail", .RO, 0x0⟩,
      ⟨49, 49, "flash_off", .RO, 0x0⟩,
      ⟨31, 0, "boot_ms", .RO, 0x0⟩]
  | .RV_ID => [⟨63, 0, "id", .RO, 0x0⟩]
  | .RV_FLOOR => [⟨63, 32, "counter", .RO, 0x0⟩,
      ⟨31, 0, "fw_svn_min", .RO, 0x0⟩]
  | .RV_SVN => [⟨63, 32, "boot_svn_min", .RO, 0x0⟩,
      ⟨31, 0, "boot_svn", .RO, 0x0⟩]
  | .RV_BADADDR => [⟨63, 0, "addr", .RO, 0x0⟩]
  | .RV_BADSRC => [⟨63, 32, "count", .RO, 0x0⟩,
      ⟨31, 16, "source", .RO, 0x0⟩,
      ⟨15, 15, "write", .RO, 0x0⟩]
  | .RV_CLAIM_DATA => [⟨63, 0, "data", .RW, 0x0⟩]
  | .RV_CLAIM_CTL => [⟨1, 1, "cfg_error", .W1C, 0x0⟩,
      ⟨0, 0, "commit", .WO, 0x0⟩]
  | .PWR_STATE => [⟨63, 16, "since_tick", .RO, 0x0⟩,
      ⟨6, 4, "entering", .RO, 0x0⟩,
      ⟨3, 3, "draining", .RO, 0x0⟩,
      ⟨2, 0, "state", .RO, 0x0⟩]
  | .PWR_CTL => [⟨23, 16, "drain_ticks", .RW, 0x10⟩,
      ⟨10, 10, "cfg_error", .W1C, 0x0⟩,
      ⟨9, 9, "wake", .WO, 0x0⟩,
      ⟨8, 8, "idle_en", .RW, 0x1⟩,
      ⟨3, 3, "abort_mode", .RW, 0x0⟩,
      ⟨2, 0, "enter", .WO, 0x0⟩]
  | .PWR_OP => [⟨63, 48, "vcore_mv", .RO, 0x26C⟩,
      ⟨9, 8, "current", .RO, 0x3⟩,
      ⟨6, 6, "emergency", .RO, 0x0⟩,
      ⟨5, 4, "floor", .RO, 0x3⟩,
      ⟨1, 0, "target", .RW, 0x3⟩]
  | .PWR_WAKE => [⟨63, 32, "timer_ms", .RW, 0x0⟩,
      ⟨14, 8, "last", .RO, 0x0⟩,
      ⟨6, 0, "enable", .RW, 0x3⟩]
  | .PWR_CAP => [⟨63, 52, "cap_w", .RW, 0x960⟩,
      ⟨51, 44, "tj_throttle_c", .RW, 0x5F⟩,
      ⟨43, 36, "ts_throttle_c", .RW, 0x5A⟩]
  | .PWR_SENSE => [⟨63, 48, "vin_10mv", .RO, 0x0⟩,
      ⟨47, 32, "pin_w", .RO, 0x0⟩,
      ⟨31, 24, "tj_max_c", .RO, 0x0⟩,
      ⟨23, 16, "ts_max_c", .RO, 0x0⟩]
  | .PWR_TEMP_SEL => [⟨4, 0, "sensor", .RW, 0x0⟩]
  | .PWR_TEMP_VAL => [⟨63, 56, "temp_c", .RO, 0x0⟩,
      ⟨55, 48, "peak_c", .RO, 0x0⟩]
  | .PWR_REFUSE0 => [⟨63, 16, "tick", .RO, 0x0⟩,
      ⟨15, 13, "kind", .RO, 0x0⟩,
      ⟨12, 10, "target", .RO, 0x0⟩,
      ⟨9, 9, "aborted", .RO, 0x0⟩,
      ⟨8, 4, "reason", .RO, 0x0⟩]
  | .PWR_REFUSE1 => [⟨17, 0, "who", .RO, 0x0⟩]
  | .PWR_CNT0 => [⟨63, 32, "by_polder", .RO, 0x0⟩,
      ⟨31, 0, "by_bml", .RO, 0x0⟩]
  | .PWR_CNT1 => [⟨63, 32, "by_flash", .RO, 0x0⟩,
      ⟨31, 0, "by_fabric", .RO, 0x0⟩]
  | .PWR_CNT2 => [⟨63, 32, "by_reeve", .RO, 0x0⟩,
      ⟨31, 0, "aborted", .RO, 0x0⟩]
  | .PWR_CNT3 => [⟨63, 32, "entries", .RO, 0x0⟩,
      ⟨31, 0, "power_aborted", .RO, 0x0⟩]
  | .PWR_CNT4 => [⟨63, 32, "throttle_steps", .RO, 0x0⟩,
      ⟨31, 0, "floor_refusals", .RO, 0x0⟩]
  | .PWR_CNT5 => [⟨63, 32, "emergencies", .RO, 0x0⟩,
      ⟨31, 0, "thermal_aborted", .RO, 0x0⟩]
  | .PWR_PLD_SEL => [⟨11, 0, "polder", .RW, 0x0⟩]
  | .PWR_PLD_VAL => [⟨63, 32, "entry_refusals", .RO, 0x0⟩,
      ⟨31, 0, "floor_refusals", .RO, 0x0⟩]
  | .PWR_LOST => [⟨27, 8, "stacks", .RO, 0x0⟩,
      ⟨7, 0, "dies", .RO, 0x0⟩]
  | .PWR_FATAL => [⟨63, 16, "tick", .RO, 0x0⟩,
      ⟨7, 0, "cause", .RO, 0x0⟩]

/-- Every register, in the order of the manual. -/
def RegName.all : List RegName := [
  .MEM_LINK_CFG, .MEM_LINK_CRD, .MEM_LINK_STS, .TCK_CFG, .TCK_CTL, .TCK_BASE, .TCK_NOW, .TCK_EPOCH,
  .TCK_PIN_SEL, .TCK_PIN_VAL, .TCK_STS, .TCK_OFFSET, .TCK_CNT0, .TCK_CNT1, .TCK_OVR_LAST, .PLD_STATE,
  .PLD_CFG, .PLD_CTX, .PLD_PRIV, .PLD_CTL, .PLD_CNT0, .PLD_CNT1, .DIK_CFG, .DIK_TOK,
  .DIK_CNT0, .DIK_CNT1, .SLU_CFG, .SLU_STS, .SLU_CNT0, .SLU_CNT1, .SLU_CNT2, .SLU_GCFG,
  .SLU_GSTS, .SLU_ROT, .WEI_CFG, .WEI_RATE, .WEI_TOK, .WEI_CNT, .WLK_STS, .WLK_SLOT_CFG,
  .WLK_SLOT_STS, .WLK_SLOT_EXP, .WLK_SLOT_SCORE, .WLK_SLOT_CNT, .WLK_SLOT_SHORT, .WLK_SLOT_ERR0, .WLK_SLOT_ERR1, .SEL_STS,
  .SEL_CNT0, .SEL_CNT1, .SEL_CNT2, .SEL_CNT3, .MEM_BSU_CFG, .MEM_BSU_STS, .MEM_ROW, .MEM_BSU_WIN,
  .BSU_STS, .BSU_CNT0, .BSU_CNT1, .BSU_CNT2, .BSU_CNT3, .BSU_CNT4, .BSU_ERR, .TEN_CFG,
  .TEN_STS, .TEN_CNT0, .TEN_CNT1, .TEN_CNT2, .TEN_ERR, .TEN_SEQ_STS, .TEN_SEQ_SEL, .TEN_SEQ_VAL,
  .TEN_SEQ_CNT, .TEN_ADP_SEL, .TEN_ADP_VAL0, .TEN_ADP_VAL1, .NUM_CNT0, .NUM_CNT1, .NUM_CNT2, .NUM_LAST0,
  .NUM_LAST1, .NUM_SCL_SEL, .NUM_SCL_VAL, .NUM_SCL_AMAX, .NUM_SCL_CNT, .EMB_CFG, .EMB_STS, .EMB_CNT0,
  .EMB_CNT1, .EMB_CNT2, .EMB_CNT3, .EMB_LOAD_SEL, .EMB_LOAD_VAL, .EMB_HOT_ADDR, .EMB_HOT_CTL, .EMB_HOT_VAL,
  .MEM_POOL_CFG, .MEM_POOL_STS, .MEM_POOL_CNT, .MEM_POOL_SEL, .MEM_POOL_VAL, .MEM_MOV_ADDR, .MEM_MOV_CTL, .MEM_MOV_STS,
  .MEM_MOV_CNT0, .MEM_MOV_CNT1, .MEM_CTL_STS, .MEM_PC_FAIL, .MEM_SCRUB_CFG, .MEM_SCRUB_STS, .MEM_ECC_CNT, .MEM_ECC_LAST,
  .MEM_HW_CFG, .MEM_HW_BASE, .MEM_HW_SIZE, .MEM_HW_STS, .MEM_HW_RATE, .MEM_HW_CNT0, .MEM_HW_CNT1, .MEM_HW_CNT2,
  .FSS_CFG, .FSS_CKPT, .FSS_WEAR, .FSS_STS, .FSS_CNT0, .FSS_CNT1, .FSS_CNT2, .FSS_LIST_ADDR,
  .FSS_LIST_CTL, .FSS_CH_CFG, .FSS_CH_STS, .FSS_CH_CNT0, .FSS_CH_CNT1, .FSS_CH_CNT2, .AFT_PORT_CFG, .AFT_PORT_STS,
  .AFT_PFC_CFG, .AFT_GATE_CTL, .AFT_GATE_WIN, .AFT_CONN_SEL, .AFT_CONN_STS, .AFT_CONN_PSN, .AFT_CONN_CTL, .AFT_DB,
  .AFT_PEER_SEL, .AFT_PEER_STS, .AFT_CNT0, .AFT_CNT1, .AFT_CNT2, .AFT_CNT3, .AFT_CNT4, .AFT_CNT5,
  .AFT_COLL_CFG, .AFT_COLL_CNT, .AFT_MAP_STS, .BML_CFG, .BML_LINK_STS, .BML_CRD, .BML_HB_CFG, .BML_HB_STS,
  .BML_DB, .BML_CNT0, .BML_CNT1, .BML_CNT2, .BML_CNT3, .BML_RING_CFG, .BML_RING_CMD, .BML_RING_CPL,
  .BML_RING_STS, .IMG_SRC, .IMG_LEN, .IMG_ARG, .IMG_CTL, .IMG_STS, .IMG_TICK, .IMG_ERR0,
  .IMG_ERR1, .IMG_CNT, .RV_BOOT, .RV_ID, .RV_FLOOR, .RV_SVN, .RV_BADADDR, .RV_BADSRC,
  .RV_CLAIM_DATA, .RV_CLAIM_CTL, .PWR_STATE, .PWR_CTL, .PWR_OP, .PWR_WAKE, .PWR_CAP, .PWR_SENSE,
  .PWR_TEMP_SEL, .PWR_TEMP_VAL, .PWR_REFUSE0, .PWR_REFUSE1, .PWR_CNT0, .PWR_CNT1, .PWR_CNT2, .PWR_CNT3,
  .PWR_CNT4, .PWR_CNT5, .PWR_PLD_SEL, .PWR_PLD_VAL, .PWR_LOST, .PWR_FATAL]

end Sys2Proof.Machine
end

