-- ==== Sys2Proof/Machine/TypesA.lean ====
section
/-! DEFINITION. The records the state is built of: the tick unit, requests, polders, walks, selection, mutation,
bank-side units and the memory tiers (Ticks and epochs to Bank-side units, Memory tiers). -/

namespace Sys2Proof.Machine

/-- A register by name and instance: `i` is the primary instance, `j` the second (R28, R29). -/
structure Reg where
  name : RegName
  i    : Nat := 0
  j    : Nat := 0
  deriving DecidableEq, Repr

/-! ### The tick unit -/

/-- TCK_STS.align_state (R75). -/
inductive AlignState where
  | free | aligned | unaligned | acquiring
  deriving DecidableEq, Repr

/-- A step that is running: its unit, where its window ends and when it ends (R42, R45). -/
structure StepRun where
  unit  : BitVec 16
  endAt : Stamp
  /-- Its overrun is counted (R45). -/
  overran : Bool := false
  deriving DecidableEq, Repr

/-- A step that waits for the next tick (R42). -/
structure StepWait where
  unit  : BitVec 16
  bound : Nat
  deriving DecidableEq, Repr

/-- The tick unit (R37 to R76): what its registers do not hold. -/
structure TickUnit where
  /-- TCK_STS.running. -/
  running  : Bool
  /-- False between a start and the first boundary (R68). -/
  begun    : Bool
  tick     : Nat
  epoch    : Nat
  /-- B(tick). -/
  base     : Stamp
  /-- Number and time of the next boundary; time none while a first TICK_IN edge or PTP tolerance is awaited. -/
  nextNum  : Nat
  nextAt   : Option Stamp
  /-- The berm notice for the next boundary went out, and when. -/
  bermAt   : Option Stamp
  /-- The content of the next epoch is frozen (R46). -/
  frozen   : Bool
  /-- Collections, and tables, whose reports the freeze found incomplete (R47). -/
  late     : List (Nat × Nat)
  lateTab  : List (Nat × Nat)
  stopReq  : Bool
  align    : AlignState
  /-- Consecutive boundaries out of tolerance, and within it. -/
  bad      : Nat
  good     : Nat
  /-- Last measured offset in ns and whether a reference stood at the last boundary. -/
  offset   : Int
  hasRef   : Bool
  /-- Time of the last TICK_IN edge, and the edge that still awaits its boundary. -/
  edge     : Option Stamp
  ref      : Option Stamp
  /-- Offset of recovered PTP time from the local clock, and whether it was updated since the last boundary. -/
  ptpOff   : Option Int
  ptpFresh : Bool
  /-- number_mismatch holds UNALIGNED until the tick restarts (R66). -/
  mismatch : Bool
  /-- In PIN mode: no edge came for the last boundary before it, and one may still follow (R62). -/
  unjudged : Bool
  /-- A realignment planned for the next boundary: time added to the tick in ns, numbers skipped (R64). -/
  stretch  : Option (Nat × Nat)
  /-- Time added to ticks since part reset, in ns (R76). -/
  added    : Nat
  steps    : List StepRun
  waiting  : List StepWait
  deriving DecidableEq, Repr

/-! ### Requests -/

/-- The sub-request of a collective that a member serves (R445, R446): its MEMBER connection, the coordinator's node, context and
generation, the attempt, the shard, the carried deadline boundary (0: none), and where its operand was placed, with its block. -/
structure MemberInfo where
  conn     : Nat
  origin   : Nat
  ctx      : Nat
  gen      : Nat
  attempt  : Nat
  shard    : Nat
  deadline : Nat
  operand  : Nat
  bytes    : Nat
  deriving DecidableEq, Repr

/-- Where a request came from and where its completion goes (R77, R78, R446). -/
inductive Src where
  | ring (port ring : Nat)
  | conn (n : Nat)
  | member (m : MemberInfo)
  /-- A ring whose host was lost after the request was taken: its completion is discarded (R487). -/
  | gone (port ring : Nat)
  | none
  deriving DecidableEq, Repr

/-- The states of a context slot (R86). -/
inductive CtxState where
  | free | live | retired
  deriving DecidableEq, Repr

/-- Why a walk or list ended (R186). -/
inductive EndReason where
  | none | budget | exhausted
  deriving DecidableEq, Repr

/-- An entry of a list: score bits, position, id (R182, R187). -/
structure Entry where
  score : F32
  pos   : Nat
  id    : Nat
  deriving DecidableEq, Repr

/-- A partial list with the fields of R187; `full` when it holds k entries. -/
structure PList where
  src       : Nat
  entries   : List Entry
  full      : Bool
  leftCount : Nat
  leftSum   : F32
  tie       : Nat
  kth       : F32
  reason    : EndReason
  expanded  : Nat
  /-- A line of it was poisoned. -/
  poison    : Bool
  /-- Source numbers the list stands for: its own, or the segments of a die-level merge (R206). -/
  covers    : List Nat
  /-- Duplicates removed at the levels behind it (R211). -/
  dups      : Nat := 0
  deriving DecidableEq, Repr

/-- A shard of a collective at its coordinator (R443): the node chosen, none for the coordinator itself, and its list. -/
structure Shardlet where
  shard : Nat
  node  : Option Nat
  list  : Option PList
  deriving DecidableEq, Repr

/-- A collective at its coordinator (R443, R449): shards ascending, the attempt, and the nodes that failed in this request. -/
structure Gather where
  attempt : Nat
  shards  : List Shardlet
  failed  : List Nat
  deriving DecidableEq, Repr

/-- An entry of a merged list, with its source number (R212). -/
structure RankEntry where
  score : F32
  id    : Nat
  src   : Nat
  deriving DecidableEq, Repr

/-- A merged list (R208 to R210). -/
structure Ranked where
  k         : Nat
  entries   : List RankEntry
  reason    : EndReason
  tie       : Nat
  selSum    : F32
  leftSum   : F32
  leftCount : Nat
  dups      : Nat
  deriving DecidableEq, Repr

/-- What a request has produced so far, stage by stage. -/
structure Work where
  /-- The query of walks and scans: BF16 components (R170). -/
  query    : List (BitVec 16)
  /-- Lists that arrived for the next selection stage, and those of a shadow stage (R194, R200). -/
  lists    : List PList
  shadows  : List PList
  ranked   : Option Ranked
  shadowed : Option Ranked
  /-- Candidate global ids for a rerank (R281). -/
  cands    : List Nat
  /-- Full vectors read from flash, by candidate or record index. -/
  vectors  : Map (List (BitVec 16))
  /-- Bytes that wait for the result write before retirement, and the record size at which they are cut (R82). -/
  output   : List Byte
  grain    : Nat
  /-- When the current stage was entered. -/
  since    : Stamp
  /-- The latest commit boundary of the request's flash writes, whose durability its completion waits for (R402). -/
  wroteFl  : Option Nat
  written  : Nat
  items    : Nat
  escal    : Bool
  applied  : Bool
  /-- Per-record statuses of a mutation (R219). -/
  status   : List Nat
  /-- Search results by record index, pruned records by record index, records whose full vector is written. -/
  searches : Map PList
  adj      : Map (List Nat)
  vecDone  : List Nat
  /-- Mutation sequence number (R221) or table sequence number (R343), once given. -/
  seq      : Option Nat
  /-- The commit epoch its group completed at. -/
  commit   : Option Nat
  /-- 0: not asked; 1: queued at its weir; 2: passed (R222). -/
  weir     : Nat
  /-- Rows of a TABLE_UPDATE whose staging batches have passed the weir (R344). -/
  batched  : Nat
  /-- The current stage's work is done. -/
  done     : Bool
  /-- Flash reads this request still waits for (R389). -/
  flash    : List Nat
  /-- A code that refused the mutation, while its statuses wait to be written (R219). -/
  refuse   : Option Nat
  /-- Partial sums that POOL commands returned: bag, shard, sum (R337, R338). -/
  partials : List (Nat × Nat × List F32) := []
  /-- The collective that a fan-out stage began (R443). -/
  gather   : Option Gather
  /-- Bytes of its result that have passed the weir of the window's port. -/
  resSent  : Nat
  deriving DecidableEq, Repr

/-- A context slot (R83 to R86); `admitted`, `firstElig` are boundaries. -/
structure Ctx where
  st        : CtxState
  gen       : Nat
  hseq      : Nat
  desc      : List Word
  src       : Src
  polder    : Nat
  pin       : Nat
  admitted  : Nat
  firstElig : Nat
  deadline  : Option Nat
  stage     : Nat
  work      : Work
  /-- The stages it has left, the latest first: they feed its selection stages (R194, R200). -/
  path      : List Nat := []
  deriving DecidableEq, Repr

/-- A completion that the reeve writes from the copies on T0 at boundary `due`, unless one was written (R95, R100). -/
structure ReeveDue where
  ctx   : Nat
  gen   : Nat
  src   : Src
  code  : Nat
  words : List Word
  due   : Nat
  deriving DecidableEq, Repr

/-- A handoff in progress (R90). -/
structure Handing where
  dst    : Nat
  h      : Nat
  sends  : Nat
  sentAt : Stamp
  acked  : Bool
  deriving DecidableEq, Repr

/-- Ownership of a context by a die (R90). -/
structure Own where
  ctx     : Nat
  gen     : Nat
  handing : Option Handing
  deriving DecidableEq, Repr

/-- A sub-request that an owner awaits (R560): acknowledged in `ackTick`. -/
structure Await where
  ctx     : Nat
  gen     : Nat
  die     : Nat
  h       : Nat
  part    : Nat
  sends   : Nat
  sentAt  : Stamp
  ackTick : Option Nat
  deriving DecidableEq, Repr

/-- A sub-request a die holds for an owner; `list` once its work has ended, `sends` once it returns it (R561). -/
structure Sub where
  ctx    : Nat
  gen    : Nat
  h      : Nat
  owner  : Nat
  part   : Nat
  list   : List PList
  shadow : List PList
  ready  : Bool
  sends  : Nat
  sentAt : Stamp
  deriving DecidableEq, Repr

/-- A dead mark: for every handoff, or up to h (R92). -/
structure Dead where
  ctx  : Nat
  gen  : Nat
  upTo : Option Nat
  deriving DecidableEq, Repr

/-- A claim report: contexts owned and accepted sub-requests held, with its boundary (R93). -/
structure Claim where
  at_  : Nat
  owns : List (Nat × Nat)
  subs : List (Nat × Nat)
  /-- The crest dies that the report reaches: none over a FAILED link. -/
  heard : List Nat
  deriving DecidableEq, Repr

/-- What a crest die keeps about contexts (R90 to R95). -/
structure DieCtx where
  lost     : Bool
  /-- Second boundary after the loss notice (R95). -/
  lostDue  : Nat
  owns     : List Own
  awaits   : List Await
  subs     : List Sub
  last     : Map Nat
  dead     : List Dead
  handedTo : List (Nat × Nat × Nat)
  /-- Claim reports taken, newest first (R93). -/
  reports  : List Claim
  deriving DecidableEq, Repr

/-- The eight credit classes of a link, in the order of their values (R19). -/
inductive LinkClass where
  | rdq | rdd | wrd | wra | hnd | hak | hwc | ctl
  deriving DecidableEq, Repr

/-- A class's value (R19). -/
def LinkClass.num : LinkClass → Nat
  | .rdq => 0
  | .rdd => 1
  | .wrd => 2
  | .wra => 3
  | .hnd => 4
  | .hak => 5
  | .hwc => 6
  | .ctl => 7

/-- The messages between crest dies that the request rules read (R90, R92, R95, R561). An ABORT of R100 carries the cause that its owner
reports; one of R90, R94 and R95 carries none. -/
inductive LinkMsg where
  | hnd (c g h : Nat) (stage : Nat)
  | sub (c g h part owner : Nat)
  | result (c g h : Nat) (lists shadows : List PList)
  | hak (c g h : Nat)
  | abort (c g : Nat) (h : Option Nat) (code : Option Nat)
  | finding (c g : Nat)
  deriving DecidableEq, Repr

/-- The class a message travels in (R90 to R95, R560, R561). -/
def LinkMsg.cls : LinkMsg → LinkClass
  | .hnd .. => .hnd
  | .sub .. => .hnd
  | .result .. => .hnd
  | .hak .. => .hak
  | .abort .. => .ctl
  | .finding .. => .ctl

/-- A message on the link from `src` to `dst` (R19, R21): the credits it holds from its class reserve and from the pool of the receive
buffer (R20), none while it waits at its sender (R23). -/
structure Flight where
  src : Nat
  dst : Nat
  msg : LinkMsg
  credit : Option (Nat × Nat) := none
  deriving DecidableEq, Repr

/-- A completion that waits to be written: the port or connection, the record's words, and the context it ends (R102). -/
structure Pending where
  src   : Src
  words : List Word
  /-- The ready tick: none when it may be written at once; a commit boundary's durability otherwise (R402). -/
  hold  : Option Nat
  /-- A completion of a dike refusal or drop, which counts against the report queue (R115). -/
  report : Bool
  /-- The merged list of a member's sub-request (R447). -/
  ranked : Option Ranked
  deriving DecidableEq, Repr

/-- A request waiting at the sluice (R116): its arrival stamp and first eligible boundary. -/
structure Waiting where
  polder : Nat
  cls    : Nat
  desc   : List Word
  src    : Src
  arrive : Stamp
  elig   : Nat
  /-- Toe die, ring or connection, and position in the ring, for equal stamps. -/
  toe    : Nat
  line   : Nat
  ix     : Nat
  deriving DecidableEq, Repr

/-- A CANCEL that waits for its boundary (R99); `hits` once a LIVE match was found at it. -/
structure CancelReq where
  polder : Nat
  target : Word
  desc   : List Word
  src    : Src
  arrive : Stamp
  elig   : Nat
  hits   : Bool
  deriving DecidableEq, Repr

/-! ### Polders, dikes, sluice, weirs -/

/-- The states of a polder (R108). -/
inductive PolderState where
  | absent | active | draining
  deriving DecidableEq, Repr

/-- The kinds of stage (R501). -/
inductive StageKind where
  | encode | walk | scan | shadow | select | fetch | rerank | prune | flashWr | apply | bag | fanout | train
  | lookup | tableApply
  deriving DecidableEq, Repr

/-- A stage record of a queue graph (R501); `succ` none for COMPLETE. -/
structure Stage where
  num       : Nat
  succ      : Option Nat
  kind      : StageKind
  object    : Nat
  entries   : Nat
  dies      : List Nat
  firstPart : Nat
  parts     : Nat
  deriving DecidableEq, Repr

/-- An entry record (R501). -/
structure EntryPt where
  num   : Nat
  first : Nat
  cost  : Nat
  kinds : Nat
  deriving DecidableEq, Repr

/-- A consolidation record of a SCHEDULE section (R503). -/
structure ConsolRec where
  coll   : Nat
  seg    : Nat
  period : Nat
  deriving DecidableEq, Repr

/-- A polder (R105, R108): what its registers do not hold. -/
structure Polder where
  st       : PolderState
  since    : Nat
  stages   : List Stage
  entries  : List EntryPt
  /-- Address of the region table in the system area (R352). -/
  regTab   : Nat
  /-- Pool quota and limit of each crest die (R360), sequence slots of each die (R278). -/
  quotas   : List (Nat × Nat)
  seqSlots : List Nat
  /-- Register blocks granted to hosts (R499). -/
  grants   : List (Nat × Nat)
  consol   : List ConsolRec
  /-- Boundary of a latched unload and its abort mark (R110). -/
  unload   : Option (Nat × Bool)
  /-- Blocks of the system area and layout rows that it holds (R161, R353). -/
  sysMem   : List (Nat × Nat)
  rows     : List (Nat × Nat)
  deriving DecidableEq, Repr

/-- A dike's bucket (R113): tokens in units of 2^-32, the last refill, a deferred DIK_CFG (R114). -/
structure Dike where
  tok   : Nat
  last  : Stamp
  defer : Option Word
  deriving DecidableEq, Repr

/-- What a weir's unit carries (R121). -/
inductive WeirTag where
  | mutate (c g : Nat)
  | flow (id : Nat)
  deriving DecidableEq, Repr

/-- A unit in a weir's queue: cost, transfer time, its timing-wheel time (R122, R123). -/
structure WeirUnit where
  tag    : WeirTag
  cost   : Nat
  dur    : Nat
  wheel  : Stamp
  deriving DecidableEq, Repr

/-- A weir's bucket and queue (R122): tokens in units of 2^-20. -/
structure Weir where
  tok    : Nat
  last   : Stamp
  queue  : List WeirUnit
  passed : List WeirTag
  defer  : Option Word
  deriving DecidableEq, Repr

/-- The sluice (R116 to R120): what its registers do not hold. -/
structure Sluice where
  waiting  : List Waiting
  cancels  : List CancelReq
  deficit  : Map Nat
  /-- Contexts LIVE at the start of the berm of the last tick (R118). -/
  bermLive : List Nat
  defer    : Option Word
  /-- The boundary whose grants were released last. -/
  granted  : Nat
  /-- Descriptors refused at intake, by the polder of the ring or connection (R80); no register shows the count. -/
  refused  : Map Nat
  deriving DecidableEq, Repr

/-! ### Walks and selection -/

/-- The states of a walker slot (R198); an idle slot is not listed. -/
inductive SlotState where
  | setup | ready | running | offering
  deriving DecidableEq, Repr

/-- A queue entry: scored, numbered, expanded or not (R182). -/
structure QEntry where
  score : F32
  pos   : Nat
  id    : Nat
  exp   : Bool
  deriving DecidableEq, Repr

/-- A walk in a slot (R164). `item` is the record index of a mutation's search; `sub` the sub-request it serves. -/
structure Walk where
  ctx     : Nat
  gen     : Nat
  coll    : Nat
  part    : Nat
  item    : Option Nat
  sub     : Option Nat
  st      : SlotState
  k       : Nat
  beam    : Nat
  budget  : Nat
  filter  : List Word
  query   : List (BitVec 16)
  pin     : Nat
  queue   : List QEntry
  visited : List Nat
  results : List Entry
  /-- Version map: segment and version record address, 0 when the segment has none. -/
  vers    : List (Nat × Nat)
  next    : Nat
  expand  : Nat
  leftN   : Nat
  leftSum : F32
  tieS    : F32
  tieN    : Nat
  reason  : EndReason
  /-- A memory error met by the walk (R363), or 0. -/
  err     : Nat
  deriving DecidableEq, Repr

/-- An open merge job (R200). -/
structure Job where
  ctx     : Nat
  gen     : Nat
  die     : Nat
  stage   : Nat
  lists   : List PList
  shadows : List PList
  deriving DecidableEq, Repr

/-! ### Mutation -/

/-- What a group changes in one segment: the new version record, which lies in the system area unpublished (R226). -/
structure SegChange where
  seg    : Nat
  newVer : Nat
  deriving DecidableEq, Repr

/-- A request taken into a group: context, generation, records that changed the collection, per-record statuses (R219). -/
structure Taken where
  ctx    : Nat
  gen    : Nat
  items  : Nat
  status : List Nat
  deriving DecidableEq, Repr

/-- A staged group of a collection (R47, R225, R233). -/
structure Group where
  mseqLo : Nat
  mseqHi : Nat
  stamp  : Stamp
  commit : Nat
  segs   : List SegChange
  /-- New entry-point records by partition. -/
  eps    : List (Nat × Nat)
  taken  : List Taken
  /-- Ids whose records the group wrote, for the images of a replicated collection (R233). -/
  wrote  : List Nat
  /-- Replication: peers that reported STAGED; `named` once the writer's commit names the boundary. -/
  staged : List Nat
  named  : Option Nat
  deriving DecidableEq, Repr

/-- A superseded record that R58 retains: the boundary that superseded it, the record whose prev names it, and the blocks of
the system area that are freed with it (R227). -/
structure Retained where
  sup    : Nat
  newer  : Nat
  sysMem : List (Nat × Nat)
  deriving DecidableEq, Repr

/-- A consolidation under way (R229). -/
structure Consol where
  seg   : Nat
  mseq  : Nat
  pin   : Nat
  dead  : List Nat
  /-- Ids that EDGESCAN commands returned, and the scans done: BSU, segment, base of the dead-set window (R229, R251). -/
  found : List Nat := []
  scans : List (Nat × Nat × Nat) := []
  deriving DecidableEq, Repr

/-- The states of a replacement (R235). -/
inductive PlanState where
  | waiting | running | done | ended
  deriving DecidableEq, Repr

/-- An entry of a plan that was swapped: its ring index, segment, the superseded and the new version record, the pages of its run,
swap boundary, freed boundary. -/
structure Swapped where
  ix    : Nat
  seg   : Nat
  old   : Nat
  new   : Nat
  pages : List Nat
  at_   : Nat
  freed : Option Nat
  deriving DecidableEq, Repr

/-- An accepted or waiting replacement plan (R235 to R240): `hdr` is the header's address, `eps` the entry-point lists copied at
acceptance, `swapAt` the boundary of an ATOMIC swap, `seen` the appended count as of the last berm notice (R239). -/
structure Plan where
  hdr     : Nat
  atomic  : Bool
  window  : Nat
  perTick : Nat
  ringLog : Nat
  segs    : Nat
  r0      : Nat
  swapAt  : Nat
  /-- The boundary at which a ROLLING plan last took entries (R239). -/
  rollAt  : Nat := 0
  eps     : List (Nat × List Nat)
  swaps   : List Swapped
  st      : PlanState
  seen    : Nat
  dispo   : Nat
  lastEp  : Nat
  deriving DecidableEq, Repr

/-- Images of a group that a replica holds (R233): writer's connection, mseq range, body. -/
structure ReplImage where
  conn  : Nat
  lo    : Nat
  hi    : Nat
  epoch : Nat
  body  : List Byte
  deriving DecidableEq, Repr

/-- A collection's entry in the BSUs' geometry tables (R242). -/
structure Geom where
  metric     : Nat
  format     : Nat
  dim        : Nat
  pqM        : Nat
  degree     : Nat
  attrBytes  : Nat
  attrFields : Nat
  slack      : F32
  fill       : Bool
  deriving DecidableEq, Repr

/-- A collection: its descriptor's address in the system area (R162) and what the pipeline holds. -/
structure Coll where
  polder   : Nat
  desc     : Nat
  /-- The base page from which a segment's delta page was first copied: segment, component word, page, address (R231). -/
  bases    : List (Nat × Nat × Nat × Nat)
  groups   : List Group
  retained : List Retained
  consol   : List Consol
  plan     : Option Plan
  /-- Plans that are over and whose superseded versions are not all freed (R235). -/
  past     : List Plan := []
  /-- Tick whose apply step has run, and the proven bound of the step (R225). -/
  stepTick : Option Nat
  stepB    : Nat := 0
  images   : List ReplImage
  inDoubt  : Bool
  /-- The shard map names this part as the collection's writer (R232). -/
  writer   : Bool
  /-- The latest epoch that some freed version belonged to (R67). -/
  goneTo   : Nat := 0
  /-- Its geometry, which the controllers enter when it activates (R242). -/
  geom     : Option Geom := none
  deriving DecidableEq, Repr

/-! ### Bank-side units -/

/-- The opcodes of a BSU command (R250). -/
inductive BsuOp where
  | scan | shadow | filter | pool | prune | edgescan | copy | fill
  deriving DecidableEq, Repr

/-- One query's list in a BSU (R253). -/
structure BsuList where
  ctx    : Nat
  entries : List Entry
  valid  : Nat
  acc    : Int
  posInf : Nat
  negInf : Nat
  tieS   : F32
  tieN   : Nat
  deriving DecidableEq, Repr

/-- What a command returns. -/
inductive BsuOut where
  | lists (ls : List BsuList)
  /-- Per query, the ids that pass its filter. -/
  | pass (ids : List (Nat × List Nat))
  | sums (bags : List (List F32 × Nat))
  | kept (anchor : Nat) (ids : List Nat)
  | ids (ids : List Nat)
  | nothing
  deriving DecidableEq, Repr

/-- One query of a SCAN, SHADOW or FILTER batch: its request, pinned epoch, vector and filter words. -/
structure BsuQuery where
  ctx    : Nat
  gen    : Nat
  pin    : Nat
  vec    : List (BitVec 16)
  filter : List Word
  deriving DecidableEq, Repr

/-- A candidate of a PRUNE operand: id, code and score against the anchor (R251). -/
structure PruneCand where
  id    : Nat
  code  : List Byte
  score : F32
  deriving DecidableEq, Repr

/-- A bag record of a POOL operand (R338): the bag and shard it stands for, row format, width, PC addresses of its rows. -/
structure PoolBag where
  bag   : Nat
  shard : Nat
  e4m3  : Bool
  width : Nat
  rows  : List Nat
  deriving DecidableEq, Repr

/-- What the set-up and operand buffers hold for a command (R242, R251). -/
inductive BsuArg where
  | queries (qs : List BsuQuery)
  | bags (bs : List PoolBag)
  /-- PRUNE for record `item` of a request. -/
  | anchor (item id : Nat) (code : List Byte) (cands : List PruneCand)
  /-- EDGESCAN for the consolidation of segment `cons`: the bitmap's base and members. -/
  | dead (cons base : Nat) (ids : List Nat)
  | none
  deriving DecidableEq, Repr

/-- A command the BSU holds (R246 to R248): its 64-byte record, the requests it serves (context and generation), the segment it reads, its
page list, set-up and operand; how many records are done, and what it has formed. -/
structure BsuCmd where
  op    : BsuOp
  head  : List Word
  reqs  : List (Nat × Nat)
  seg   : Nat
  pages : List Word
  arg   : BsuArg
  done  : Nat
  out   : BsuOut
  deriving DecidableEq, Repr

/-- A bank-side unit and its controller's queues for it. -/
structure Bsu where
  queue   : List BsuCmd
  /-- The command of the current or last segment, when that segment's slot ends, its tick and window (R243, R246). -/
  run     : Option BsuCmd
  segEnd  : Stamp
  used    : Option (Nat × Nat)
  window  : Nat
  /-- Scrub queue: addresses of corrected lines (R260). -/
  scrub   : List Nat
  /-- When the refreshes that wait fell due; the last guard that took one (tick and window) and how many; when the last refresh ends (R245). -/
  refresh : List Stamp
  guard   : Nat × Nat
  guardN  : Nat
  refEnd  : Stamp
  /-- Results returned and not yet taken by their stage. -/
  results : List BsuCmd
  deriving DecidableEq, Repr

/-! ### Memory tiers -/

/-- A mover list queued or running (R354, R356). -/
structure MovList where
  polder : Nat
  addr   : Nat
  host   : Option Nat
  entry  : Nat
  tile   : Nat
  begun  : Bool
  /-- The tile has passed the MOVER weir and waits for a host (R359). -/
  passed : Bool := false
  deriving DecidableEq, Repr

/-- A pool tile of an unpinned POOL region that is resident (R361). -/
structure PoolTile where
  die    : Nat
  polder : Nat
  region : Nat
  tile   : Nat
  index  : Nat
  lastUse : Nat
  dirty  : Bool
  deriving DecidableEq, Repr

/-- States of a host window (R373). -/
inductive WinState where
  | closed | open_ | recovering | lost
  deriving DecidableEq, Repr

/-- A recall or invalidation the part waits for (R371, R478): the line, when it was sent, the requests that wait. -/
structure Recall where
  line   : Nat
  host   : Nat
  /-- Its message type: 0x28 RECALL_S, 0x29 RECALL_I, 0x2A INVAL (R475). -/
  kind   : Nat
  sentAt : Stamp
  /-- An SNP_ACK came and a crossing write-back is still awaited. -/
  acked  : Bool
  waits  : List Nat
  deriving DecidableEq, Repr

/-- A host's window (R366, R373) and its meter (R380): tokens in units of 2^-20. -/
structure Window where
  st       : WinState
  /-- Notice ring: notices taken up, and those that wait to be written, by index (R376). -/
  noticeIx : Nat
  notices  : List (Nat × List Word)
  recalls  : List Recall
  tok      : Nat
  tokLast  : Stamp
  /-- Bytes metered in this tick and in the previous one (R381). -/
  bytes    : Nat
  bytesPrev : Nat
  withheld : Option Stamp
  deriving DecidableEq, Repr

/-- A pending version of a shared region (R378, R379). -/
structure PubPend where
  polder : Nat
  region : Nat
  version : Nat
  host   : Nat
  length : Nat
  /-- Commit boundary, once its last tile has landed. -/
  commit : Option Nat
  deriving DecidableEq, Repr

end Sys2Proof.Machine
end

