-- ==== Sys2Proof/Machine/TypesB.lean ====
section
/-! DEFINITION. The records the state is built of: models and passes (Tensor tiles; Numbers, scales and escalation), embedding
tables (Embedding tables) and the flash subsystem (Flash subsystem). -/

namespace Sys2Proof.Machine

/-! ### Models -/

/-- Weight and activation formats of a LINEAR (R275, R311). -/
inductive WFmt where
  | e4m3 | e2m1 | int4 | bf16
  deriving DecidableEq, Repr

/-- What an operator reads: the model input or the output of an earlier operator (R273). -/
inductive Operand where
  | input
  | op (n : Nat)
  deriving DecidableEq, Repr

/-- The weight of a LINEAR, ITEM_PROJ or SCORE: K × N, its format, where it lies in the weight region, bias, the exponent of its tile
scale and its scale point (R274, R316, R319). -/
structure Weights where
  k     : Nat
  n     : Nat
  fmt   : WFmt
  off   : Nat
  bias  : Option Nat
  sExp  : Int
  point : Option Nat
  deriving DecidableEq, Repr

/-- An operator of a model (R273). Offsets are in the weight region. -/
inductive ModelOp where
  | embed (tokens : Weights) (positions : Option Weights)
  | bag (features : List Word)
  | itemProj (w : Weights)
  | linear (x : Operand) (w : Weights) (adapters : List Nat)
  | attention (x : Operand) (layer qCol kCol vCol : Nat)
  | norm (x : Operand) (rms : Bool) (gamma beta : List (BitVec 16)) (eps : F32)
  | act (x : Operand) (kind : Nat)
  | gate (x y : Operand)
  | add (x y : Operand)
  | pool (x : Operand)
  | l2norm (x : Operand)
  | score (x : Operand) (w : Weights)
  deriving DecidableEq, Repr

/-- A tile group of a model on a die (R285, R498). -/
structure TileGroup where
  die      : Nat
  tiles    : List Nat
  rowsMax  : Nat
  kbJob    : Nat
  hotBytes : Nat
  resident : List Nat
  deriving DecidableEq, Repr

/-- A published or staged version of an adapter or scale set: the record's address in the weight region. -/
structure Staged where
  rec_   : Nat
  commit : Nat
  deriving DecidableEq, Repr

/-- What an adapter's steps hold: next step sequence number, steps in order, the staged version (R300). -/
structure Adapter where
  seqNext   : Nat
  staged    : Option Staged
  /-- The request whose version is staged. -/
  by_       : Option (Nat × Nat)
  deriving DecidableEq, Repr

/-- A model (R277, R319, R320): its descriptor's address, operators and groups; observations of each scale point in the current
tick and in the ticks before it, newest first; the address in its weight region from which versions are placed. -/
structure Model where
  polder   : Nat
  desc     : Nat
  ops      : List ModelOp
  groups   : List TileGroup
  adapters : Map Adapter
  retained : List Retained
  obs      : Map (BitVec 32)
  obsDie   : Map (BitVec 32)
  hist     : List (Map (BitVec 32))
  amax     : Map (BitVec 32)
  top      : Nat
  deriving DecidableEq, Repr

/-- The running statistics of one query block of one head (R287, R290): next key block, m, l, o. -/
structure AttnRun where
  next : Nat
  m    : List (BitVec 32)
  l    : List (BitVec 32)
  o    : List (List (BitVec 32))
  deriving DecidableEq, Repr

/-- A pass in a sequence slot (R278). Rows computed so far are kept by operator and part: a slice of a group, or a head. -/
structure Pass where
  ctx     : Nat
  gen     : Nat
  model   : Nat
  die     : Nat
  rows    : Nat
  prefix_ : Nat
  pin     : Nat
  tokens  : List Nat
  bags    : List (Nat × List Nat)
  /-- Global ids of the candidates, and where their vectors come from (R283). -/
  ids     : List Nat
  source  : Nat
  cands   : List (List (BitVec 16))
  deadC   : List Nat
  outs    : Map (List (List (BitVec 32)))
  attn    : Map AttnRun
  /-- The entries of the KV page table, by index, in the format of R294. -/
  kv      : Map Word
  /-- Rows appended for each ATTENTION operator (R296). -/
  appended : Map Nat
  escal   : Bool
  /-- Training (R302): the example that runs, and in its backward the operator reached. -/
  example_ : Option Nat
  back    : Option Nat
  grads   : Map (List (List (BitVec 32)))
  blocks  : Map (List (List (BitVec 32)))
  layer   : Nat
  deriving DecidableEq, Repr

/-- A training step in its slot (R302 to R305): gradients by adapter and parameter index, the loss, optimised adapters. -/
structure Train where
  ctx     : Nat
  gen     : Nat
  model   : Nat
  adapter : Nat
  seq     : Nat
  acc     : Map (BitVec 32)
  loss    : BitVec 32
  ran     : Nat
  gradEp  : Nat
  /-- Slices of the group whose OPTIM job has run, and the version record they fill. -/
  optim   : List Nat
  newRec  : Nat
  deriving DecidableEq, Repr

/-! ### Embedding tables -/

/-- A staged group of a table (R344): its version record, the requests in it with items and statuses,
rows changed, and the MOVEs it flips: context, shard, page. -/
structure TabGroup where
  newVer : Nat
  commit : Nat
  taken  : List Taken
  rows   : List Nat
  flips  : List (Nat × Nat × Nat)
  deriving DecidableEq, Repr

/-- A MOVE taken and not yet flipped (R348): the page of its shard, its target page, and the epoch of its finished copy. -/
structure Move where
  ctx    : Nat
  gen    : Nat
  shard  : Nat
  page   : Nat
  target : Nat
  taken  : Nat
  copied : Option Nat
  deriving DecidableEq, Repr

/-- A table (R330): its descriptor's address and what its apply step holds. -/
structure Table where
  polder   : Nat
  desc     : Nat
  groups   : List TabGroup
  moves    : List Move
  retained : List Retained
  stepTick : Option Nat
  /-- The proven bound of the table's apply step (R225, R344). -/
  stepB    : Nat := 0
  /-- Rows read this tick, read in the last tick and written by the last apply step, by stack. -/
  readNow  : Map Nat
  readLast : Map Nat
  written  : Map Nat
  deriving DecidableEq, Repr

/-- A tile's hot-row set (R340, R341): rows listed, boundary of the load, boundaries at which updated rows were dropped, rows fetched; a
copy is valid from the boundary of its last drop, or of the load. -/
structure Hot where
  table   : Nat
  rows    : List Nat
  from_   : Nat
  fetched : Map Nat
  since   : Map Nat := []
  deriving DecidableEq, Repr

/-- A hot list asked for and not yet loaded: die, tile, polder, table, rows. -/
structure HotLoad where
  die   : Nat
  tile  : Nat
  table : Nat
  rows  : List Nat
  deriving DecidableEq, Repr

/-- A prefetched row (R342): the pass's slot and die, table, row, bytes. -/
structure Prefetched where
  die   : Nat
  slot  : Nat
  ctx   : Nat
  gen   : Nat
  table : Nat
  row   : Nat
  bytes : Nat
  deriving DecidableEq, Repr

/-! ### Flash -/

/-- The states of a NAND block. -/
inductive BlkState where
  | free | open_ | closed | retired
  deriving DecidableEq, Repr

/-- A block: next page to program, counts since erase, time of the last program, its stream (0 HOT, 1 COLD, 2 RELOC), whether it is
queued for refresh, and whether its valid pages have been copied (R397, R403). -/
structure FlashBlk where
  st      : BlkState
  stream  : Nat
  next    : Nat
  erases  : Nat
  reads   : Nat
  progAt  : Stamp
  refresh : Bool
  copied  : Bool
  deriving DecidableEq, Repr

/-- What a programmed page holds: its unit header (R387) and its data; trailing zeros may be left off. -/
structure FlashPg where
  ns     : Nat
  unit   : Nat
  stream : Nat
  seq    : Nat
  srcSeq : Nat
  data   : List Byte
  deriving DecidableEq, Repr

/-- A namespace (R390, R391): `newest` is its newest map version record, 0 for none; `bound` whether an image holds it. -/
structure FlashNs where
  polder : Nat
  isHost : Bool
  host   : Nat
  cold   : Bool
  units  : Nat
  tag    : Word
  newest : Nat
  desc   : Nat
  bound  : Bool
  deriving DecidableEq, Repr

/-- A unit write or relocation that has not committed (R397 to R400): `commit` once its word line's program has ended. -/
structure FlashWr where
  seq    : Nat
  loc    : Nat
  ns     : Nat
  unit   : Nat
  reloc  : Option Nat
  ctx    : Option (Nat × Nat)
  list   : Option Nat
  commit : Option Nat
  /-- The map change waits for a collection's group (R218, R222, R233): the context and generation of the request that the group takes, or
  8,192 + the collection and the last mseq of a replica's group. -/
  hold   : Option (Nat × Nat) := none
  deriving DecidableEq, Repr

/-- A discard or poison mark that waits for its boundary, at its place in seq order (R400, R401, R404). -/
structure FlashMark where
  seq    : Nat
  ns     : Nat
  unit   : Nat
  poison : Bool
  commit : Nat
  list   : Option Nat
  deriving DecidableEq, Repr

/-- A commit log record (R406). -/
structure LogRec where
  epoch    : Nat
  hi       : Nat
  discards : List (Nat × Nat × Nat)
  poisons  : List (Nat × Nat × Nat)
  written  : Bool
  deriving DecidableEq, Repr

/-- A checkpoint (R405): the highest seq it covers, map entries by namespace and unit, namespaces, retired blocks, erase and read counts,
and its epoch. -/
structure Ckpt where
  cSeq    : Nat
  maps    : Map (Map Word)
  nss     : Map FlashNs
  bad     : List Nat
  counts  : Map (Nat × Nat)
  epoch   : Nat
  deriving DecidableEq, Repr

/-- A flash list queued on a toe die (R412, R413): the entry reached and its units done; `since` when the entry began, in which
epoch, and the latest commit boundary of its writes, whose durability its DONE state waits for. -/
structure FlashList where
  polder : Nat
  addr   : Nat
  host   : Option Nat
  entry  : Nat
  unit   : Nat
  since  : Option Stamp
  epoch  : Nat
  wrote  : Option Nat
  waiting : Bool
  deriving DecidableEq, Repr

/-- The flash subsystem: what its registers and the map in memory do not hold. -/
structure Fss where
  nss      : Map FlashNs
  blks     : Map FlashBlk
  pages    : Map FlashPg
  seq      : Nat
  wrs      : List FlashWr
  marks    : List FlashMark
  lists    : Map (List FlashList)
  /-- The LUN each stream last wrote to. -/
  cursor   : Map Nat
  ckpt     : Option Ckpt
  ckptTick : Nat
  ckptNew  : Nat
  log      : List LogRec
  durable  : Nat
  mapBase  : Nat
  mapBytes : Nat
  retained : List (Nat × Retained)
  /-- LUNs declared failed (R404), LUNs under collection (R403). -/
  badLuns  : List Nat
  gc       : List Nat
  deriving DecidableEq, Repr

end Sys2Proof.Machine
end

