-- ==== Sys2Proof/Machine/ImgTypes.lean ====
section
/-! DEFINITION. What the COLLECTIONS, MODELS and TABLES sections of an image hold for one object each (R498). The manual names the parts of
an object and not how they lie in the section, so reading a section is a constant of Config. -/

namespace Sys2Proof.Machine

/-- Offsets in its section of the records of an object that a refusal can name (R510). -/
structure ImgOffs where
  desc   : Nat
  mutRec : Nat
  schema : Nat
  tables : Nat
  /-- Of each partition's and each segment's entry. -/
  parts  : List Nat
  segs   : List Nat
  deriving DecidableEq, Repr

/-- A collection: descriptor words (R162), mutation record (R220), schema descriptors (R145), scale table or codebook, walk_die of each
partition, partition of each segment (none where the table names none), entry points of each partition. -/
structure ImgColl where
  offs   : ImgOffs
  desc   : List Word
  mutRec : List Word
  schema : List Nat
  tables : List Byte
  parts  : List Nat
  segPart : List (Option Nat)
  eps    : List (List Nat)
  deriving DecidableEq, Repr

/-- A model: descriptor words (R277), operators with their offsets, adapter records
(R299), groups (R285), and where its weights lie: offset in the WEIGHTS section, offset in the weight region, bytes. -/
structure ImgModel where
  off      : Nat
  desc     : List Word
  ops      : List (Nat × ModelOp)
  /-- The operator value of each record of the operator list, with its offset (R273), and the list as the image holds it (R277). -/
  opVals   : List (Nat × Nat)
  opList   : List Byte
  adapters : List (List Word)
  groups   : List TileGroup
  copies   : List (Nat × Nat × Nat)
  deriving DecidableEq, Repr

/-- A table: descriptor words (R330) and the page addresses of each shard, or of each die's copy. -/
structure ImgTable where
  off    : Nat
  desc   : List Word
  shards : List (List Nat)
  deriving DecidableEq, Repr

end Sys2Proof.Machine
end

