-- ==== Sys2Proof/Config.lean ====
section
/-! DEFINITION. The values the manual leaves open, as constants nothing can see into: a statement about one holds for every value. -/

namespace Sys2Proof.Config

/-! ### Tensor tiles -/

/-- Place of weight element (k, n) of a K × N weight in its storage, counted in elements: format, K, N, k, n. -/
opaque weightPlace : Nat → Nat → Nat → Nat → Nat → Nat
/-- Byte offset of the block scale of chunk c, column n of a K × N weight: format, K, N, c, n. -/
opaque blockScalePlace : Nat → Nat → Nat → Nat → Nat → Nat
/-- Rotary position applied to a query or key row: position, head dimension, row. -/
opaque rotary : Nat → Nat → List (BitVec 32) → List (BitVec 32)
/-- The gradient carried back through the rotary of a row. -/
opaque rotaryBack : Nat → Nat → List (BitVec 32) → List (BitVec 32)
/-- What dy becomes where RELU has no derivative, at 0. -/
opaque reluBackAtZero : BitVec 32 → BitVec 32

/-! ### Die-to-die links -/

/-- How many of its 4 possible data slots a stage message occupies (R19 bounds it and gives no size). -/
opaque linkData : Machine.LinkMsg → Nat
/-- How often the link level resent flits while a message crossed, by draw (R33 counts them). -/
opaque flitRetries : Nat → Nat

/-- How much later than its bound a step ends because link retries held it up, by draw (R45). -/
opaque stepLate : Nat → Nat

/-! ### Requests -/

/-- The record a LOOKUP returns for an item, by what it asked for: full vector, attributes, code (R82 names the parts and no layout). -/
opaque lookupRecord : List (BitVec 16) → List Byte → List Byte → List Byte

/-! ### Host windows -/

/-- Whether the host has freed the slot of a window's notice ring for the notice of an index (R376 names no consumer index). -/
opaque noticeFree : Nat → Nat → Bool

/-! ### Flash -/

/-- Byte i of the undefined data that a read of an unmapped unit returns, by draw. -/
opaque freeFlash : Nat → Nat → Byte
/-- Blocks that the NAND's maker marked bad. -/
opaque makerBad : List Nat
/-- How long a recovery took in ms, by draw (R409 bounds it and gives no value). -/
opaque recoverMs : Nat → Nat
/-- The word line of a page of a block: pages of one word line are programmed together. -/
opaque wordLine : Nat → Nat

/-! ### Fabric -/

/-- The DSCP of the packets sent, the flow label of a connection's IPv6 packets and the identification of an IPv4 header (R421 names none). -/
opaque ipDscp : BitVec 6
opaque flowLabel : Nat → BitVec 20
opaque ipIdent : Nat → BitVec 16
/-- The connection number and the class that a keepalive shows in its source port, P_Key and PCP: it belongs to no connection (R426). -/
opaque keepaliveConn : BitVec 18
opaque keepaliveClass : Fin 8

/-- How many 32-byte map entries the body of a PREPARE begins with; the removed shards follow (R445 gives no count). -/
opaque prepareSplit : List Byte → Nat
/-- The body of a REPL_STAGE: record images (id, code, attributes, slots, tombstone bit, full vector) and entry-point lists by
partition (R445 gives no layout). -/
opaque replEncode : List (Nat × List Byte × List Byte × List Nat × Bool × List Byte) → List (Nat × List Nat) → List Byte
/-- What a REPL_STAGE body holds. -/
opaque replDecode : List Byte → List (Nat × List Byte × List Byte × List Nat × Bool × List Byte) × List (Nat × List Nat)

/-! ### Images and identity -/

/-- What the bytes of a COLLECTIONS section hold. -/
opaque imgCollections : List Byte → List Machine.ImgColl
/-- What the bytes of a MODELS section hold. -/
opaque imgModels : List Byte → List Machine.ImgModel
/-- What the bytes of a TABLES section hold. -/
opaque imgTables : List Byte → List Machine.ImgTable
/-- The bounds, in ns, of the steps an image can cause that no formula of the manual gives whole, with the section and the offset of the
stage that causes each (R43). -/
opaque stepBounds : List Byte → List (Nat × Nat × Nat)
/-- The proven bound, in ns, of the apply step of a table of an image: the image and the table's number (R344 gives its timing and no formula). -/
opaque tableBound : List Byte → Nat → Nat
/-- The device secret S that the PUF array holds (R507). -/
opaque deviceSecret : List Byte
/-- The hash of Kiward's key, in on-die ROM (R509). -/
opaque kiwardHash : List Byte
/-- The contents of the boot flash as shipped, and its monotonic counter (R504). -/
opaque bootFlash : Nat → Byte
opaque bootCounter : Nat
/-- The nonce of a signature, by draw (R508). -/
opaque signNonce : Nat → Nat
/-- Length of the device certificate stored in the boot flash, which has 4 KiB for it (R504, R508). -/
opaque certLen : Fin 4097
def certBytes : Nat := certLen.val

end Sys2Proof.Config
end

