-- ==== Sys2Proof/Machine/TypesC.lean ====
section
/-! DEFINITION. The records the state is built of: the fabric (Fabric transport and collectives), the Byldomund Link, images and boot,
power and the package's pins. -/

namespace Sys2Proof.Machine

/-! ### Fabric -/

/-- The states of a connection (R429). -/
inductive ConnState where
  | closed | connecting | established | lost
  deriving DecidableEq, Repr

/-- The SEND opcodes of an AFT packet (R421). -/
inductive PktOp where
  | first | middle | last | lastImm | only | onlyImm
  deriving DecidableEq, Repr

/-- What a message in a connection's send queue is: the entry of a send ring, a completion (R78), a MEMBER, SHARD or POOL message and
the request it serves, or one whose end concerns nobody (a relayed message, or an entry already ended by NAK ACCESS). -/
inductive TxTag where
  | entry
  | completion
  | message (ctx : Option (Nat × Nat))
  | quiet
  deriving DecidableEq, Repr

/-- A message to send: the PSN of its first packet and its packets. -/
structure TxMsg where
  tag   : TxTag
  start : Nat
  pkts  : Nat
  imm   : Option Nat
  bytes : List Byte
  deriving DecidableEq, Repr

/-- A message being received (R434, R438): the PSN of its first packet, its length, bytes so far; `bad` after a landing violation;
`code` a memory error that its landing met; `at_` where a DATA message lands; `buf` for the other kinds. -/
structure RxMsg where
  first : Nat
  len   : Nat
  got   : Nat
  bad   : Bool
  code  : Nat
  at_   : Nat
  buf   : List Byte
  deriving DecidableEq, Repr

/-- The running state of a connection (R429 to R440). `cur` is the next packet to send, below `next` while packets are resent;
`alloc` the PSN after the last queued message; `fell` the next that held when the window last fell; `paid` and `waited` whether the
packet at `cur` has passed its weir and was counted as waiting. Indices of rings run free in 16 bits, counts in 32. -/
structure Conn where
  st       : ConnState
  incarn   : Nat
  reason   : Nat
  reopen   : Bool
  next     : Nat
  una      : Nat
  cur      : Nat
  alloc    : Nat
  w        : Nat
  tally    : Nat
  fell     : Option Nat
  timeouts : Nat
  rnrPsn   : Nat
  rnrCount : Nat
  rnrUntil : Option Stamp
  advAt    : Stamp
  nakAt    : Option (Nat × Stamp)
  paid     : Bool
  waited   : Bool
  tx       : List TxMsg
  sqProd   : Nat
  sqCons   : Nat
  sqCount  : Nat
  rqProd   : Nat
  rqCons   : Nat
  rqCount  : Nat
  cqIx     : Nat
  /-- Completion entries that wait for a host's line. -/
  cqPend   : List (List Word)
  /-- The head entry waits no more (R439), and the head entry's message is on its way. -/
  chained  : Bool
  busy     : Bool
  epsn     : Nat
  rx       : Option RxMsg
  unacked  : Nat
  ackFrom  : Option Stamp
  seqNak   : Option (Nat × Stamp)
  ce       : Bool
  ackTick  : Option Nat
  /-- Messages received whole, which an AETH reports (R424). -/
  msn      : Nat
  deriving DecidableEq, Repr

/-- A peer of a port (R426): 1 DOWN, 2 UP, 3 LOST; tick of its last valid packet; times declared LOST. -/
structure Peer where
  st     : Nat
  last   : Nat
  losses : Nat
  deriving DecidableEq, Repr

/-- A packet that waits in a port: for its context (R430), or for a recall of its landing (R438). -/
inductive Parked where
  | send (op : PktOp) (p : Packet)
  /-- An Acknowledge: syndrome class 0 ACK, 1 RNR NAK with its wait, 2 NAK SEQUENCE, 3 NAK INVALID, 4 NAK ACCESS. -/
  | ack (kind wait : Nat) (p : AckPacket)
  deriving DecidableEq, Repr

/-- An Ethernet port: pauses by half × 8 + class (R419), frames buffered by class and bytes, classes under XOFF, cached contexts, most
recently used first, parked and held packets with their connections, messages delivered to the intake buffer (R428), the last
connection served by each half (R442), fields of AFT_PORT_CFG that wait for the boundary, the tick of the last keepalives, and the
configuration kept while the part is in DEEP (R527). -/
structure AftPort where
  pauses : Map Stamp
  frames : List (Nat × Nat)
  xoff   : List Nat
  cache  : List Nat
  parked : List (Nat × Parked)
  held   : List (Nat × Parked)
  inbox  : List (Nat × List Byte)
  rr     : Map Nat
  defer  : Option Word
  kaTick : Option Nat
  kept   : Word
  deriving DecidableEq, Repr

/-- An entry of the shard map (R450). -/
structure MapEntry where
  shard  : Nat
  group  : Nat
  writer : Nat
  nodes  : List Nat
  deriving DecidableEq, Repr

/-- A published shard map: version, first epoch, entries by ascending shard. -/
structure ShardMap where
  version : Nat
  from_   : Nat
  entries : List MapEntry
  deriving DecidableEq, Repr

/-- A prepared change of the shard map (R451, R452): its boundary, changed entries and removed shards, the connection of its proposer,
the boundary at which it publishes once COMMIT or an OUTCOME came, and whether it is in doubt. -/
structure Prepared where
  old     : Nat
  new_    : Nat
  at_     : Nat
  conn    : Nat
  entries : List MapEntry
  removed : List Nat
  commit  : Option Nat
  doubt   : Bool
  deriving DecidableEq, Repr

/-- A change that this part proposes (R451): its participants' nodes, those that answered PREPARED, whether one refused. -/
structure Proposal where
  old     : Nat
  new_    : Nat
  at_     : Nat
  entries : List MapEntry
  removed : List Nat
  parts   : List Nat
  yes     : List Nat
  refused : Bool
  deriving DecidableEq, Repr

/-- An ABORT that waits for its boundary at a member (R449). -/
structure AbortReq where
  origin  : Nat
  ctx     : Nat
  gen     : Nat
  attempt : Nat
  due     : Nat
  deriving DecidableEq, Repr

/-- A POOL_READ or POOL_WRITE that runs as one flash list entry (R454): units done, data read or to write, the epoch read, the latest
commit boundary of its writes. -/
structure PoolJob where
  id    : Nat
  conn  : Nat
  write : Bool
  first : Nat
  units : Nat
  i     : Nat
  data  : List Byte
  steps : List (Option Nat)
  since : Stamp
  epoch : Nat
  wrote : Option Nat
  deriving DecidableEq, Repr

/-- The fabric: connections with running state, peers by port × 1,024 + index, ports; where the connection array, peer tables and
landing tables lie in the system area (R425, R427, R438); shard maps, newest first; versions this part has aborted. -/
structure Fabric where
  conns   : Map Conn
  peers   : Map Peer
  ports   : List AftPort
  connArr : Nat
  peerArr : Nat
  landing : Map Nat
  maps    : List ShardMap
  prep    : Option Prepared
  prop    : Option Proposal
  aborted : List Nat
  statusAt : Option Nat
  aborts  : List AbortReq
  pool    : List PoolJob
  poolNext : Nat
  deriving DecidableEq, Repr

/-! ### Byldomund Link -/

/-- A host memory request that waits behind an open transaction on its line (R477): the message type, address, tag and data. -/
structure HostReq where
  host : Nat
  type : Nat
  addr : Nat
  tag  : Nat
  data : List Byte
  /-- It waits, or has waited, for the tokens of its host's meter (R380). -/
  metered : Bool
  deriving DecidableEq, Repr

/-- A ring pair (R481 to R484): command producer and completion consumer as the host announced them, entries whose completion slot was
freed because their report was only counted, whether a NOTIFY is owed, and lines still to be cleared before the first doorbell. -/
structure Ring where
  cmdProd : Nat
  cplCons : Nat
  freed   : Nat
  notify  : Bool
  wipe    : List Nat := []
  deriving DecidableEq, Repr

/-- A sent DATA flit that no ack covers yet (R469). -/
structure SentFlit where
  seq    : Nat
  bytes  : List Byte
  sentAt : Stamp
  deriving DecidableEq, Repr

/-- A BML port: when it may train again, whether it ever trained; link-layer sequence state; credits by class to use and to return, with
the two pools; messages that wait for credit or replay space; heartbeats; ring pairs; requests that wait for their line. -/
structure BmlPort where
  trainAt  : Option Stamp
  ever     : Bool
  since    : Stamp
  /-- Equal INIT contents received in a row, and the last content (R463). -/
  inits    : Nat
  initLast : List Byte
  txNext   : Nat
  replay   : List SentFlit
  rxNext   : Nat
  rxAny    : Bool
  missing  : Bool
  nakAt    : Stamp
  nakSame  : Option (Nat × Nat)
  resent   : Option (Nat × Stamp)
  /-- Reserve and pool of the far side that are free, what each class holds of the pool, and slots to return by class. -/
  credit   : Map Nat
  pool     : Nat
  owe      : Map Nat
  crd      : Option Word
  txq      : List (Nat × List Byte)
  slots    : List (List Byte)
  hbSeq    : Nat
  hbNext   : Option Stamp
  unans    : List (Nat × Stamp)
  hbSeen   : Bool
  attachPend : Bool
  /-- The host was declared lost and has not been attached since (R487). -/
  gone     : Bool
  rings    : Map Ring
  waitq    : List HostReq
  deriving DecidableEq, Repr

/-! ### Images and boot -/

/-- A key entry of the running BOOT image (R502). -/
structure KeyEntry where
  slot  : Nat
  first : Nat
  last  : Nat
  svn   : Nat
  hash  : List Byte
  deriving DecidableEq, Repr

/-- What the staging of a polder builds (R512): the polder, the registers its floorplan sets, its collections, tables, models and
connections, its landing table, its ring pairs, and what its seal holds. -/
structure LoadedPolder where
  pol     : Polder
  regs    : List (Nat × Word)
  colls   : Map Coll
  tables  : Map Table
  models  : Map Model
  conns   : List Nat
  landing : Nat
  rings   : List (Nat × Nat)
  svn     : Nat
  hash    : List Byte
  deriving DecidableEq, Repr

/-- A load in progress (R512): the polder, who asked, where the image lies, the bytes read first, and, once staging has ended, the boundary
of its activation and what was staged. -/
structure Loading where
  polder : Nat
  by_    : Nat
  addr   : Nat
  len    : Nat
  image  : List Byte
  due    : Option Nat
  staged : Option LoadedPolder
  deriving DecidableEq, Repr

/-- A PLAN in progress: its collection, the boundary of its acceptance, and the polder, region and offset that name it (R236, R511). -/
structure Planning where
  coll   : Nat
  due    : Nat
  polder : Nat
  region : Nat
  off    : Nat
  deriving DecidableEq, Repr

/-- What an attestation tells of a polder (R508): svn, activation tick, image hash. -/
structure Seal where
  svn  : Nat
  tick : Nat
  hash : List Byte
  deriving DecidableEq, Repr

/-- The loader and the reeve's boot state: boot flash contents and its monotonic counter (R504), the copies that booted, their hashes and
svns, owner hash and floors, host ranges and keys of the running BOOT image, its tick start, the running operation, the seals; the NAND
retry tables by channel × 128 + target × 16 + entry (R388, R499). -/
structure Loader where
  nor      : List Host.Cell
  monoCtr  : Nat
  fwCopy   : Nat
  bootCopy : Nat
  fwHash   : List Byte
  bootHash : List Byte
  fwSvn    : Nat
  owner    : List Byte
  ranges   : List (Nat × Nat × Nat)
  keys     : List KeyEntry
  sched    : Option (Word × Nat)
  format   : Bool
  loading  : Option Loading
  planning : Option Planning
  seals    : Map Seal
  nandRetry : Map Word
  deriving DecidableEq, Repr

/-! ### Power and pins -/

/-- An entry into SLEEP, DEEP or OFF in progress (R523): its target, mode and first boundary, the checks' last refuser
(reason, kind, who). -/
structure Entering where
  target  : Nat
  abort   : Bool
  b       : Nat
  refuser : Option (Nat × Nat × Nat)
  deriving DecidableEq, Repr

/-- Power and the pins: an entry in progress; a wake event acted on (source and stamp); the stamp of the last entry; the operating
point that is sought, the voltage ramp's start and start voltage; throttle and emergency timing; sensor peaks; over-current and voltage
timing; counts by polder; the pins and straps; a wake recorded while it could not act; the tick of the last idle entry. -/
structure Power where
  entry   : Option Entering
  wake    : Option (Nat × Stamp)
  entered : Stamp
  goal    : Nat
  rampAt  : Option (Stamp × Nat)
  stepAt  : Option Stamp
  coolAt  : Option Stamp
  hot     : Bool
  emergAt : Option Stamp
  emergOn : Bool
  temps   : List Int
  peaks   : List Int
  over70  : Option Stamp
  over85  : Option Stamp
  counts  : Map (Nat × Nat)
  railsUp : Bool
  vinOk   : Bool
  vauxOk  : Bool
  resetN  : Bool
  autoon  : Bool
  i3cAddr : Nat
  woken   : Option Nat
  alertN  : Bool
  jtag    : JtagOp
  deriving DecidableEq, Repr

end Sys2Proof.Machine
end

