-- ==== Sys2Proof/Machine/State.lean ====
section
/-! DEFINITION. The state of the block, its faults and refusals, and the state after a part reset (R34). -/

namespace Sys2Proof.Machine

/-- Reasons to stop. No rule of the manual stops the part: a refused access, an error or a loss is an effect on the state. -/
inductive Fault where
  deriving DecidableEq, Repr

/-- Reasons to give a command no meaning. -/
inductive Refusal where
  /-- Raised by an arm of `exec` whose meaning is not written yet. Safe: the machine stops. -/
  | notModelled (mnemonic : String)
  deriving DecidableEq, Repr

/-- What the part sends outside or drives on a pin, oldest first. -/
inductive Out where
  /-- A SEND packet of a connection: opcode, PSN, incarnation, A bit, immediate, payload (R421 to R423), and the bytes of its headers (R8). -/
  | packet (conn : Nat) (op : PktOp) (psn incarn : Nat) (ackReq : Bool) (imm : Option Nat) (payload header : List Byte)
  /-- An Acknowledge: PSN named, syndrome, BECN, incarnation (R424), and its bytes. -/
  | ack (conn psn syndrome : Nat) (becn : Bool) (incarn : Nat) (header : List Byte)
  /-- A keepalive to a peer of a port (R426), and its bytes. -/
  | keepalive (port peer tick : Nat) (header : List Byte)
  /-- PFC for a class of a port (R419). -/
  | pfc (port cls : Nat) (xoff : Bool)
  /-- A flit sent on a BML port (R466). -/
  | flit (port : Nat) (bytes : List Byte)
  /-- An I3C in-band interrupt (R514). -/
  | i3cInterrupt
  /-- A pin or a level (R61, R553). -/
  | pin (name : String) (level : Bool) (at_ : Stamp)
  deriving DecidableEq, Repr

/-- The system area's free space, as the loader and the mutation units take it (R161): next free offset and freed blocks. -/
structure SysMem where
  next : Nat
  free : List (Nat × Nat)
  deriving DecidableEq, Repr

/-- The state. -/
structure State where
  now     : Stamp
  /-- Register values as a read finds them, where they differ from reset; counters as last latched (R46). Keyed by address bits [31:0]. -/
  csr     : Map Word
  /-- Counters as they run, before the next snapshot. -/
  cnt     : Map Word
  mem     : List Host.Cell
  /-- Stored check bytes XOR those computed for the stored data, by line, where they differ (R257, R367). -/
  chk     : Map Word
  /-- Directory entries of window and shared lines (R368), by line. -/
  dir     : Map Nat
  /-- Lines whose mirror bit is 1 (R372), and stacks whose mirror is not readable. -/
  mirror  : List Nat
  noMirror : List Nat
  /-- Where the mirror of a stack was rebuilt (R375): the stack that holds it. -/
  mirrorAt : Map Nat
  tick    : TickUnit
  ctxs    : Map Ctx
  dies    : List DieCtx
  flight  : List Flight
  /-- Flit retries since reset at each end of a link (R33): the end at die `a` of the link to `b` under 8·a + b. -/
  retries : Map Nat
  /-- Steps published and steps not finite of adapter `a` of model `m`, under 16·m + a, and what TEN_ADP_VAL1 shows of them (R308, R310). -/
  adpRun   : Map (Nat × Nat)
  adpShown : Map (Nat × Nat)
  /-- Rows escalated of a scale point on a die, and scale versions published of a model, as they run and as NUM_SCL_CNT shows them (R329):
  keys `sclKey` and `sclVerKey`. -/
  sclRun   : Map Nat
  sclShown : Map Nat
  pend    : List Pending
  /-- Contexts, with generations, whose state a unit reported lost (R534). -/
  orphans : List (Nat × Nat)
  reeve   : List ReeveDue
  polders : Map Polder
  dikes   : Map Dike
  sluice  : Sluice
  weirs   : Map Weir
  walks   : Map Walk
  jobs    : List Job
  colls   : Map Coll
  bsus    : Map Bsu
  /-- Row-map ecc writes that wait for a guard (R263): key stack × 1024 + row. -/
  eccPend : Map Bool
  sys     : SysMem
  movers  : Map (List MovList)
  pool    : List PoolTile
  /-- Pool tiles retired until part reset (R363): die, index. -/
  poolBad : List (Nat × Nat)
  wins    : List Window
  pubs    : List PubPend
  models  : Map Model
  /-- Passes and training steps, by die × 96 + slot. -/
  passes  : Map Pass
  trains  : Map Train
  tables  : Map Table
  /-- Hot-row sets, by die × 64 + tile. -/
  hots    : Map Hot
  hotAsk  : List HotLoad
  ahead   : List Prefetched
  fss     : Fss
  /-- Toe dies declared lost (R97). -/
  toeLost : List Nat
  fab     : Fabric
  bml     : List BmlPort
  img     : Loader
  pwr     : Power
  /-- The model's own counter of free values (never read by a rule of the manual). -/
  fresh   : Nat
  out     : List Out
  pending : List Instr
  deriving DecidableEq, Repr

/-! ### After a part reset (R34)

Registers hold the reset values of their field maps, so none is listed. A field that the manual gives no value starts empty or at 0. -/

/-- The tick unit: stopped; tick and epoch 0. -/
def TickUnit.reset : TickUnit :=
  { running := false, begun := false, tick := 0, epoch := 0, base := 0, nextNum := 0, nextAt := none, bermAt := none, frozen := false,
    late := [], lateTab := [], stopReq := false, align := .free, bad := 0, good := 0, offset := 0, hasRef := false, edge := none,
    ref := none, ptpOff := none, ptpFresh := false, mismatch := false, unjudged := false, stretch := none, added := 0, steps := [], waiting := [] }

/-- A crest die's context tables: all contexts free, no lease running. -/
def DieCtx.reset : DieCtx :=
  { lost := false, lostDue := 0, owns := [], awaits := [], subs := [], last := [], dead := [], handedTo := [], reports := [] }

/-- No host window. -/
def Window.reset : Window :=
  { st := .closed, noticeIx := 0, notices := [], recalls := [], tok := 0, tokLast := 0, bytes := 0, bytesPrev := 0, withheld := none }

/-- Flash: no map loaded, nothing on the NAND. -/
def Fss.reset : Fss :=
  { nss := [], blks := [], pages := [], seq := 0, wrs := [], marks := [], lists := [], cursor := [], ckpt := none, ckptTick := 0, ckptNew := 0,
    log := [], durable := 0, mapBase := 0, mapBytes := 0, retained := [], badLuns := [], gc := [] }

/-- An Ethernet port: no connection context, priority flow control off. -/
def AftPort.reset : AftPort :=
  { pauses := [], frames := [], xoff := [], cache := [], parked := [], held := [], inbox := [], rr := [], defer := none, kaTick := none, kept := 0 }

def Fabric.reset : Fabric :=
  { conns := [], peers := [], ports := List.replicate 4 AftPort.reset, connArr := 0, peerArr := 0, landing := [], maps := [], prep := none,
    prop := none, aborted := [], statusAt := none, aborts := [], pool := [], poolNext := 0 }

/-- A BML port: training begins when part reset ends (R463). -/
def BmlPort.reset : BmlPort :=
  { trainAt := some 0, ever := false, since := 0, inits := 0, initLast := [], txNext := 0, replay := [], rxNext := 0, rxAny := false,
    missing := false, nakAt := 0, nakSame := none, resent := none, credit := [], pool := 0, owe := [], crd := none, txq := [], slots := [],
    hbSeq := 0, hbNext := none, unans := [], hbSeen := false, attachPend := false, gone := false, rings := [], waitq := [] }

/-- No image loaded; the boot flash as shipped (R504). -/
def Loader.reset : Loader :=
  { nor := [], monoCtr := Config.bootCounter, fwCopy := 0, bootCopy := 0, fwHash := [], bootHash := [], fwSvn := 0,
    owner := List.replicate 32 0, ranges := [], keys := [], sched := none, format := false, loading := none, planning := none, seals := [],
    nandRetry := [] }

/-- Lowest crest operating point; supplies in range, RESET_N high. -/
def Power.reset : Power :=
  { entry := none, wake := none, entered := 0, goal := 3, rampAt := none, stepAt := none, coolAt := none, hot := false, emergAt := none,
    emergOn := false, temps := List.replicate 28 0, peaks := List.replicate 28 0, over70 := none, over85 := none, counts := [], railsUp := true,
    vinOk := true, vauxOk := true, resetN := true, autoon := false, i3cAddr := 0, woken := none, alertN := true, jtag := .bypass }

/-- The part right after a part reset: no boot step has run. -/
def State.reset : State :=
  { now := 0, csr := [], cnt := [], mem := [], chk := [], dir := [], mirror := [], noMirror := [], mirrorAt := [], tick := TickUnit.reset, ctxs := [],
    dies := List.replicate 4 DieCtx.reset, flight := [], retries := [], adpRun := [], adpShown := [], sclRun := [], sclShown := [], pend := [], orphans := [], reeve := [], polders := [], dikes := [],
    sluice := { waiting := [], cancels := [], deficit := [], bermLive := [], defer := none, granted := 0, refused := [] }, weirs := [], walks := [], jobs := [],
    colls := [], bsus := [], eccPend := [], sys := { next := 0, free := [] }, movers := [], pool := [], poolBad := [],
    wins := List.replicate 4 Window.reset, pubs := [], models := [], passes := [], trains := [], tables := [], hots := [], hotAsk := [],
    ahead := [], fss := Fss.reset, toeLost := [], fab := Fabric.reset, bml := List.replicate 4 BmlPort.reset, img := Loader.reset,
    pwr := Power.reset, fresh := 0, out := [], pending := [] }

end Sys2Proof.Machine
end

