-- ==== Sys2Proof/Machine/Regs.lean ====
section
/-! DEFINITION. Reading and writing register storage: addresses (R28, R29), reset values, fields, counters and their snapshot
(R46 action 1, R76). -/

namespace Sys2Proof.Machine

/-- Bits [31:16] of a register block address: die, unit code, instance (R28). -/
def unitNo (die unit inst : Nat) : Nat := die * 0x1000 + unit * 0x100 + inst

/-- Bits [31:0] of a register address (R28). -/
def regAt (die unit inst off : Nat) : Nat := unitNo die unit inst * 0x10000 + off

/-- Where an instance of a register class lies (R29, R127, R134, R195, R268, R441, R492). -/
def classAddr (c : RegClass) (off i j : Nat) : Nat :=
  match c with
  | .link => regAt i 5 (8 + j) off
  | .tck => regAt 8 0 0 off
  | .pld => regAt 8 1 (i / 16) (i % 16 * 0x100 + off)
  | .dik => regAt 8 2 (i / 16) (i % 16 * 0x100 + off)
  | .slu => regAt 8 4 (i / 16) (i % 16 * 0x100 + off)
  | .sluG => regAt 8 4 0 off
  | .wei => regAt 8 3 (i / 64) (i % 64 * 0x20 + off)
  | .walker => regAt (i / 128) 1 (i % 128) off
  | .walkSlot => regAt (i / 128) 1 (i % 128) (off + 0x40 * j)
  | .sel => regAt i 2 0 off
  | .ctl => regAt (i / 5) 5 (1 + i % 5) off
  | .ctlRow => regAt (i / 5) 5 (1 + i % 5) (off + 8 * j)
  | .ctlWin => regAt (i / 5) 5 (1 + i % 5) (off + 8 * j)
  | .bsu => regAt (i / 5) (8 + i % 5) j off
  | .tile => regAt i 0 j off
  | .tileDie => regAt i 0 0 off
  | .num => regAt i 3 j off
  | .numDie => regAt i 3 0 off
  | .emb => regAt i 4 0 off
  | .embHot => regAt i 4 0 (off + 8 * j)
  | .crestMem => regAt i 5 0 off
  | .mover => regAt i 5 0 off
  | .hw => regAt (4 + i) 5 0 off
  | .fss => regAt (4 + i) 0 0 off
  | .fssCh => regAt (4 + i / 8) 0 (1 + i % 8) off
  | .aft => regAt (4 + i) 1 0 off
  | .aftGate => regAt (4 + i) 1 0 (off + 0x100 * (j / 32) + 0x80 * (j / 16 % 2) + 8 * (j % 16))
  | .bml => regAt (4 + i) 2 0 off
  | .ring => regAt (4 + i) 2 0 (off + 0x20 * j)
  | .img => regAt 8 5 0 off
  | .rv => regAt 4 6 0 off
  | .rvId => regAt 4 6 0 (off + 8 * j)
  | .rvData => regAt 4 6 0 (off + 8 * j)
  | .pwr => regAt 8 6 0 off

/-- Bits [31:0] of a register's address. -/
def regAddr (r : Reg) : Nat := classAddr r.name.place.1 r.name.place.2 r.i r.j

/-- The value of a register after part reset, from its field map (R34). -/
def regReset (n : RegName) : Word :=
  BitVec.ofNat 64 (n.fields.foldl (fun v f => v + f.reset * 2 ^ f.lo) 0)

/-- The stored value of a register. -/
def getReg (s : State) (r : Reg) : Word := (mapGet s.csr (regAddr r)).getD (regReset r.name)

/-- Store a register's value; a value equal to the reset value is not listed. -/
def setReg (s : State) (r : Reg) (v : Word) : State :=
  { s with csr := mapPut (regReset r.name) s.csr (regAddr r) v }

/-- Bits [hi:lo] of a register. -/
def getF (s : State) (r : Reg) (hi lo : Nat) : Nat := fld (getReg s r) hi lo

/-- Set bits [hi:lo] of a register. -/
def setF (s : State) (r : Reg) (hi lo v : Nat) : State := setReg s r (setFld (getReg s r) hi lo v)

/-- Add to a counter field as it runs, saturating (R76). -/
def bump (s : State) (r : Reg) (hi lo n : Nat) : State :=
  let w := mapGetD s.cnt (regAddr r) 0
  { s with cnt := mapPut 0 s.cnt (regAddr r) (setFld w hi lo (satAdd (hi + 1 - lo) (fld w hi lo) n)) }

/-- Set a field of a counter register as it runs: it is seen from the next boundary on. -/
def setRun (s : State) (r : Reg) (hi lo v : Nat) : State :=
  { s with cnt := mapPut 0 s.cnt (regAddr r) (setFld (mapGetD s.cnt (regAddr r) 0) hi lo v) }

/-- Add to a counter field whose register shows it live (R543, and single fields outside a counter register). -/
def bumpLive (s : State) (r : Reg) (hi lo n : Nat) : State :=
  setF s r hi lo (satAdd (hi + 1 - lo) (getF s r hi lo) n)

/-- What a latched counter register shows: BML_LINK_STS keeps one counter beside fields that are live (R491). -/
def latchWord (a : Nat) (old w : Word) : Word :=
  if a % 0x10000 = 8 ∧ a / 0x10000 % 0x1000 = 0x200 ∧ a / 0x10000000 / 4 = 1 then setFld old 63 32 (fld w 63 32) else w

/-- Action 1 of a boundary: every counter is latched (R46). -/
def latchCounters (s : State) : State :=
  { s with csr := s.cnt.foldl (fun m (a, w) => mapPut 0 m a (latchWord a (mapGetD m a 0) w)) s.csr, adpShown := s.adpRun, sclShown := s.sclRun }

/-- Clear a counter register, running and latched (R127, R195). -/
def clearCnt (s : State) (r : Reg) : State :=
  { s with cnt := mapDel s.cnt (regAddr r), csr := mapDel s.csr (regAddr r) }

/-- Return a register to its reset value (R559). -/
def resetReg (s : State) (r : Reg) : State := setReg s r (regReset r.name)

/-! Registers without an instance. -/
abbrev rTck (n : RegName) : Reg := ⟨n, 0, 0⟩

def tckCfg (s : State) : Word := getReg s (rTck .TCK_CFG)
/-- TCK_CFG.period_us in ns (R37). -/
def periodNs (s : State) : Nat := fld (tckCfg s) 9 0 * us
/-- TCK_CFG.berm_us in ns (R39). -/
def bermNs (s : State) : Nat := fld (tckCfg s) 23 16 * us
/-- TCK_CFG.retain_min_ticks (R58). -/
def retainMin (s : State) : Nat := fld (tckCfg s) 47 40
/-- TCK_CFG.align_tol_ns (R62). -/
def alignTol (s : State) : Nat := fld (tckCfg s) 63 48
/-- TCK_CFG.align_mode (R60). -/
def alignMode (s : State) : Nat := fld (tckCfg s) 33 32

/-- BSU windows per tick (R243). -/
def nWindows (s : State) : Nat := (fld (tckCfg s) 9 0 - fld (tckCfg s) 23 16) / 2

/-- Set a W1C status bit. -/
def setBit (s : State) (r : Reg) (b : Nat) : State := setF s r b b 1

end Sys2Proof.Machine
end

