-- ==== Sys2Proof/Machine/Mem.lean ====
section
/-! DEFINITION. The memory controllers: the address map (R25, R26), layout modes (R159, R264 to R266), the line codes and poison
(R257, R258, R367), reads and writes with their errors (R262, R363, R365), and the system area's allocator (R161). -/

namespace Sys2Proof.Machine

/-- Bytes of a stack (R25). -/
abbrev stackBytes : Nat := 0x1800000000
/-- End of the HBM-class memory (R25). -/
abbrev hbmEnd : Nat := 0x1E000000000
/-- Bytes of a layout row (R158). -/
abbrev rowBytes : Nat := 0x6000000
/-- Bytes of a row's frame in one pseudo-channel (R159). -/
abbrev frameBytes : Nat := 0x180000
/-- Base of the on-die SRAM windows (R26). -/
abbrev sramBase : Nat := 0xE000000000000000
/-- First register address (R28). -/
abbrev csrBase : Nat := 0xF000000000000000

/-- The SRAM address of a tile (R26). -/
def tileAddr (die tile : Nat) : Nat := sramBase + die * 0x40000000 + tile * 0x400000
/-- The SRAM address of a die's crest pool (R26). -/
def poolAddr (die : Nat) : Nat := sramBase + die * 0x40000000 + 0x10000000

/-- What an address names (R25, R26). -/
inductive Place where
  | hbm (stack off : Nat)
  | tile (die tile off : Nat)
  | pool (die off : Nat)
  | csr (low : Nat)
  | unmapped
  deriving DecidableEq, Repr

/-- Decode a device physical address (R25, R26, R28). -/
def place (a : Nat) : Place :=
  if a < hbmEnd then .hbm (a / stackBytes) (a % stackBytes)
  else if sramBase ≤ a ∧ a < sramBase + 0x100000000 then
    let o := a - sramBase
    let d := o / 0x40000000
    let x := o % 0x40000000
    if x < 0x10000000 then .tile d (x / 0x400000) (x % 0x400000)
    else if x < 0x18000000 then .pool d (x - 0x10000000)
    else .unmapped
  else if csrBase ≤ a ∧ a < csrBase + 0x90000000 then .csr (a - csrBase)
  else .unmapped

/-- MEM_ROW of a layout row (R269). -/
def rowReg (stack row : Nat) : Reg := ⟨.MEM_ROW, stack, row⟩
def rowStriped (s : State) (stack row : Nat) : Bool := decide (getF s (rowReg stack row) 0 0 = 1)
def rowRecompute (s : State) (stack row : Nat) : Bool := decide (getF s (rowReg stack row) 1 1 = 1)
def rowHostwin (s : State) (stack row : Nat) : Bool := decide (getF s (rowReg stack row) 2 2 = 1)

/-- The hash of R265. -/
def stripeHash (x : Nat) : Nat :=
  Nat.xor (Nat.xor (bits x 5 0) (bits x 11 6)) (bits x 12 12 * 0x20)

/-- Pseudo-channel and frame offset of row offset `o` in a striped row (R265). -/
def stripeTo (o : Nat) : Nat × Nat :=
  let g := o / 256
  let lo := g % 64
  let hi := g / 64
  (Nat.xor lo (stripeHash hi), hi * 256 + o % 256)

/-- Row offset of frame offset `f` of pseudo-channel `p` in a striped row (R266). -/
def stripeFrom (p f : Nat) : Nat :=
  let hi := f / 256
  (hi * 64 + Nat.xor p (stripeHash hi)) * 256 + f % 256

/-- Stack, row, pseudo-channel and PC address of a device address (R159, R264, R265). -/
def pcOf (s : State) (a : Nat) : Nat × Nat × Nat × Nat :=
  let st := a / stackBytes
  let row := a % stackBytes / rowBytes
  let o := a % rowBytes
  let (p, f) := if rowStriped s st row then stripeTo o else (o / frameBytes, o % frameBytes)
  (st, row, p, row * frameBytes + f)

/-- The device address of a PC address (R264, R266). -/
def ofPc (s : State) (st p a : Nat) : Nat :=
  let row := a / frameBytes
  let f := a % frameBytes
  let o := if rowStriped s st row then stripeFrom p f else p * frameBytes + f
  st * stackBytes + row * rowBytes + o

/-! ### The line codes -/

/-- Multiply by x in GF(2^8) with x^8 + x^4 + x^3 + x^2 + 1 (R257). -/
def gfDouble (a : Nat) : Nat := if a < 128 then 2 * a else Nat.xor (2 * a) 0x11D

/-- The product in GF(2^8), by the bits of the first factor from bit `n` − 1 down. -/
def gfMulGo (a b : Nat) : Nat → Nat
  | 0 => 0
  | n + 1 => Nat.xor (gfDouble (gfMulGo a b n)) (if a >>> (7 - n) % 2 = 1 then b else 0)

def gfMul (a b : Nat) : Nat := gfMulGo a b 8

/-- α^n. -/
def gfPow : Nat → Nat
  | 0 => 1
  | n + 1 => gfDouble (gfPow n)

/-- The generator (x − α^0)…(x − α^(n−1)), highest power first (R257, R367). -/
def rsGen : Nat → List Nat
  | 0 => [1]
  | n + 1 =>
    let g := rsGen n
    let r := gfPow n
    List.zipWith Nat.xor (g ++ [0]) (0 :: g.map (gfMul r))

/-- Divide: the remainder after `msg`, highest power first, is fed through the generator's tail. -/
def rsRem (tail : List Nat) (reg : List Nat) : List Byte → List Nat
  | [] => reg
  | b :: bs =>
    let q := Nat.xor b.toNat (reg.headD 0)
    rsRem tail (List.zipWith Nat.xor (reg.drop 1 ++ [0]) (tail.map (gfMul q))) bs

/-- The check bytes of a message: remainder of m(x) × x^n by the generator, highest power first (R257, R367, R466). -/
def rsCheck (n : Nat) (msg : List Byte) : List Byte :=
  (rsRem ((rsGen n).drop 1) (List.replicate n 0) msg).map (BitVec.ofNat 8)

/-- Syndrome i of an error given by (power of x, value) pairs: Σ v × α^(i × power). -/
def rsSyn (i : Nat) (es : List (Nat × Nat)) : Nat :=
  es.foldl (fun a (p, v) => Nat.xor a (gfMul v (gfPow (i * p)))) 0

/-- How a line decodes (R258). -/
inductive LineState where
  | clean
  | poisoned
  /-- Data byte errors to undo: (byte, value). -/
  | corrected (fix : List (Nat × Nat))
  | uncorrectable
  deriving DecidableEq, Repr

/-- One error symbol at power `p` that gives syndromes `syn`, if its value fits them all. -/
def rsOne (syn : List Nat) (p : Nat) : Option (List (Nat × Nat)) :=
  let v := syn.headD 0
  if v ≠ 0 ∧ (List.range syn.length).map (fun i => rsSyn i [(p, v)]) = syn then some [(p, v)] else none

/-- The inverse in GF(2^8): a^254. -/
def gfInv (a : Nat) : Nat :=
  let a2 := gfMul a a; let a4 := gfMul a2 a2; let a8 := gfMul a4 a4; let a16 := gfMul a8 a8
  let a32 := gfMul a16 a16; let a64 := gfMul a32 a32; let a128 := gfMul a64 a64
  gfMul a128 (gfMul a64 (gfMul a32 (gfMul a16 (gfMul a8 (gfMul a4 a2)))))

/-- Two error symbols at powers `p` and `q`. -/
def rsTwo (syn : List Nat) (p q : Nat) : Option (List (Nat × Nat)) :=
  let s0 := syn.headD 0
  let s1 := (syn.drop 1).headD 0
  let x := gfPow p
  let y := gfPow q
  let w := gfMul (Nat.xor s1 (gfMul x s0)) (gfInv (Nat.xor x y))
  let v := Nat.xor s0 w
  if v ≠ 0 ∧ w ≠ 0 ∧ (List.range syn.length).map (fun i => rsSyn i [(p, v), (q, w)]) = syn then some [(p, v), (q, w)] else none

/-- The errors of 1 or 2 symbols among powers below `n` that explain the syndromes. -/
def rsSolve (n : Nat) (syn : List Nat) : Option (List (Nat × Nat)) :=
  match (List.range n).findSome? (rsOne syn) with
  | some e => some e
  | none => (List.range n).findSome? fun p => (List.range p).findSome? fun q => rsTwo syn p q

/-- The deviation of a line's stored check bytes from those computed for its data. -/
def lineDev (s : State) (line : Nat) : Word := mapGetD s.chk line 0

/-- Check byte i of a deviation: byte i from the lowest address. -/
def devByte (d : Word) (i : Nat) : Nat := fld d (8 * i + 7) (8 * i)

/-- Decode a line of a row with the plain code, or the window code (R258, R367). -/
def lineState (s : State) (hostwin : Bool) (line : Nat) : LineState :=
  let d := lineDev s line
  if d = 0 then .clean else
    let n := if hostwin then 6 else 8
    let ds := (List.range n).map (devByte d)
    if ds = List.replicate n 0xA5 then .poisoned else
      let errs := (List.range n).map fun i => (n - 1 - i, ds.getD i 0)
      let syn := (List.range n).map fun i => rsSyn i errs
      match rsSolve 72 syn with
      | none => .uncorrectable
      | some es => .corrected ((es.filter (fun e => e.1 ≥ 8)).map fun (p, v) => (71 - p, v))

/-- The poison mark of a line (R257, R367). -/
def poisonDev (hostwin : Bool) : Word := if hostwin then 0x0000A5A5A5A5A5A5#64 else 0xA5A5A5A5A5A5A5A5#64

/-- The line number of an address. -/
def lineOf (a : Nat) : Nat := a / 64

/-- Whether a line lies in a HOSTWIN row. -/
def lineHostwin (s : State) (line : Nat) : Bool :=
  let a := line * 64
  decide (a < hbmEnd) && rowHostwin s (a / stackBytes) (a % stackBytes / rowBytes)

/-- How a line of memory decodes; SRAM lines carry no line code. -/
def lineOk (s : State) (line : Nat) : LineState :=
  if line * 64 < hbmEnd then lineState s (lineHostwin s line) line else .clean

/-- Whether memory at an address was declared failed (R365): its pseudo-channel, stack or crest die. -/
def memLost (s : State) (a : Nat) : Bool :=
  if a < hbmEnd then
    let (st, _, p, _) := pcOf s a
    decide (getF s ⟨.MEM_PC_FAIL, st, 0⟩ p p = 1) || decide (getF s ⟨.MEM_CTL_STS, st, 0⟩ 1 0 = 3)
      || ((nth? s.dies (st / 5)).map (·.lost)).getD false
  else false

/-- The code a read of one line ends its request with, or 0 (R363, R365). -/
def lineCode (s : State) (line : Nat) : Nat :=
  if memLost s (line * 64) then Code.MEM_STACK_LOST else
    match lineOk s line with
    | .poisoned => Code.MEM_POISON
    | .uncorrectable => Code.MEM_UNCORRECTABLE
    | _ => 0

/-- The lines of a range. -/
def linesOf (a n : Nat) : List Nat := if n = 0 then [] else (List.range ((a + n - 1) / 64 - a / 64 + 1)).map (a / 64 + ·)

/-- The first code of a list that is not 0. -/
def firstCode (cs : List Nat) : Nat := (cs.find? (· ≠ 0)).getD 0

/-- The first code over the lines of a range, or 0. -/
def rangeCode (s : State) (a n : Nat) : Nat :=
  firstCode ((linesOf a n).map (lineCode s))

/-- One byte as a reader uses it: corrected where the line code corrects it (R363). -/
def rdB (s : State) (a : Nat) : Byte :=
  let b := cellGet s.mem a
  match lineOk s (lineOf a) with
  | .corrected fix => (fix.find? (fun f => f.1 = a % 64)).elim b (fun f => b ^^^ BitVec.ofNat 8 f.2)
  | _ => b

/-- `n` bytes from `a`. -/
def rdBytes (s : State) (a : Nat) : Nat → List Byte
  | 0 => []
  | n + 1 => rdB s a :: rdBytes s (a + 1) n

/-- The little-endian word at `a` (R8). -/
def rdW (s : State) (a : Nat) : Word := BitVec.ofNat 64 (leNat (rdBytes s a 8))

/-- The number at `a`, 8 bytes. -/
def rdN (s : State) (a : Nat) : Nat := leNat (rdBytes s a 8)

/-- Store bytes: lines written whole get a fresh code; part-written lines are read, merged and written (R262, R363).
A part of a poisoned or uncorrectable line is not written. -/
def wrBytes (s : State) (a : Nat) : List Byte → State
  | [] => s
  | bs => wrRun s a bs (linesOf a bs.length)
where
  /-- Line by line. -/
  wrRun (s : State) (a : Nat) (bs : List Byte) : List Nat → State
    | [] => s
    | l :: ls =>
      let lo := max a (l * 64)
      let hi := min (a + bs.length) (l * 64 + 64)
      let part := (bs.drop (lo - a)).take (hi - lo)
      let whole := decide (hi - lo = 64)
      let ok := whole || (match lineOk s l with | .poisoned => false | .uncorrectable => false | _ => true)
      let s' := if memLost s (l * 64) || !ok then s else
        let old := if whole then [] else rdBytes s (l * 64) 64
        let line := if whole then part else old.take (lo - l * 64) ++ part ++ old.drop (hi - l * 64)
        { s with mem := cellPut s.mem (l * 64) line, chk := mapDel s.chk l }
      wrRun s' a bs ls

/-- Store a word. -/
def wrW (s : State) (a : Nat) (v : Word) : State := wrBytes s a (leBytes 8 v.toNat)

/-- Store words in order. -/
def wrWords (s : State) (a : Nat) (ws : List Word) : State := wrBytes s a (wordBytes ws)

/-- Mark a line poisoned, keeping its data (R257, R367). -/
def poisonLine (s : State) (line : Nat) : State :=
  { s with chk := mapSet s.chk line (poisonDev (lineHostwin s line)) }

/-- MEM_ECC_LAST and MEM_ECC_CNT for a line error the controller found: 1 corrected, 2 uncorrectable, 3 poisoned (R363, R384). -/
def noteEcc (s : State) (line kind : Nat) : State :=
  let st := line * 64 / stackBytes
  let s := setReg s ⟨.MEM_ECC_LAST, st, 0⟩ (BitVec.ofNat 64 (kind * 2 ^ 62 + line * 64))
  if kind = 1 then bump s ⟨.MEM_ECC_CNT, st, 0⟩ 63 32 1
  else if kind = 2 then bump s ⟨.MEM_ECC_CNT, st, 0⟩ 31 0 1 else s

/-- The BSU key of a stack and pseudo-channel. -/
def bsuKey (st p : Nat) : Nat := st * 64 + p

/-- A bank-side unit with nothing queued. -/
def Bsu.idle : Bsu := 
  { queue := [], run := none, segEnd := 0, used := none, window := 0, scrub := [], refresh := [], guard := (0, 0), guardN := 0, refEnd := 0,
    results := [] }

def getBsu (s : State) (st p : Nat) : Bsu := mapGetD s.bsus (bsuKey st p) Bsu.idle
def setBsu (s : State) (st p : Nat) (b : Bsu) : State := { s with bsus := mapPut Bsu.idle s.bsus (bsuKey st p) b }

/-- Queue a corrected line for scrub; a full queue counts it (R260). -/
def queueScrub (s : State) (line : Nat) : State :=
  let (st, _, p, _) := pcOf s (line * 64)
  let b := getBsu s st p
  if line ∈ b.scrub then s
  else if b.scrub.length < 16 then setBsu s st p { b with scrub := b.scrub ++ [line] }
  else bump s ⟨.BSU_CNT4, st, p⟩ 31 0 1

/-- What the controller does on reading a line for a unit: count, queue for scrub, or poison (R363). -/
def touchLine (s : State) (line : Nat) : State :=
  if memLost s (line * 64) then s else
    match lineOk s line with
    | .clean => s
    | .poisoned => noteEcc s line 3
    | .corrected _ => queueScrub (noteEcc s line 1) line
    | .uncorrectable =>
      if lineHostwin s line then noteEcc s line 2 else poisonLine (noteEcc s line 2) line

/-- The controller's side of reading a range. -/
def touchRange (s : State) (a n : Nat) : State := (linesOf a n).foldl touchLine s

/-- Fill a range with zeros, with fresh line codes and HOME entries (R35, R366). -/
def zeroFill (s : State) (a n : Nat) : State :=
  { s with mem := s.mem.filter (fun c => c.1 < a ∨ a + n ≤ c.1)
           chk := s.chk.filter (fun c => c.1 * 64 < a ∨ a + n ≤ c.1 * 64)
           dir := s.dir.filter (fun c => c.1 * 64 < a ∨ a + n ≤ c.1 * 64)
           mirror := s.mirror.filter (fun l => l * 64 < a ∨ a + n ≤ l * 64) }

/-! ### The system area -/

/-- Bytes of one stack's share of the system area (R161). -/
abbrev sysShare : Nat := 0x60000000
/-- Bytes of the system area (R161). -/
abbrev sysBytes : Nat := 20 * sysShare

/-- Device address of an offset in the system area, stack after stack (R161). -/
def sysAddr (o : Nat) : Nat := o / sysShare * stackBytes + 0x17A0000000 + o % sysShare

/-- Whether an address lies in the system area. -/
def inSystem (a : Nat) : Bool := decide (a < hbmEnd) && decide (0x17A0000000 ≤ a % stackBytes)

/-- Take `n` bytes of the system area, a multiple of 64, from a freed block of that size or past the last (R161);
a block never crosses from one stack's share to the next. -/
def sysAlloc (s : State) (n : Nat) : State × Nat :=
  let n := cdiv n 64 * 64
  match s.sys.free.find? (fun f => f.2 = n) with
  | some f => ({ s with sys := { s.sys with free := s.sys.free.erase f } }, f.1)
  | none =>
    let o := if s.sys.next % sysShare + n ≤ sysShare then s.sys.next else cdiv s.sys.next sysShare * sysShare
    ({ s with sys := { s.sys with next := o + n } }, sysAddr o)

/-- Return a block of the system area, zero-filled. -/
def sysFree (s : State) (a n : Nat) : State :=
  let n := cdiv n 64 * 64
  let s := zeroFill s a n
  { s with sys := { s.sys with free := s.sys.free ++ [(a, n)] } }

/-- Place words in the system area; answers their address. -/
def sysPut (s : State) (bs : List Byte) : State × Nat :=
  let (s, a) := sysAlloc s bs.length
  (wrBytes s a bs, a)

end Sys2Proof.Machine
end

