-- ==== Sys2Proof/Machine/RegFind.lean ====
section
/-! DEFINITION. The register at an address (R28, R29), the populated blocks, and the ranges of register fields. -/

namespace Sys2Proof.Machine

/-- The instances of a register class that the block of die, unit code and instance can hold at an offset, for a register whose first
lies at `base`. -/
def classInst (c : RegClass) (die inst off base : Nat) : Nat × Nat :=
  let k (stride : Nat) : Nat := (off - base) / stride
  match c with
  | .link => (die, inst - 8)
  | .tck | .img | .rv | .pwr | .sluG => (0, 0)
  | .pld | .dik | .slu => (16 * inst + off / 0x100, 0)
  | .wei => (64 * inst + off / 0x20, 0)
  | .walker => (128 * die + inst, 0)
  | .walkSlot => (128 * die + inst, k 0x40)
  | .sel | .tileDie | .numDie | .emb | .crestMem | .mover => (die, 0)
  | .ctl => (5 * die + inst - 1, 0)
  | .ctlRow | .ctlWin => (5 * die + inst - 1, k 8)
  | .bsu => (5 * die, inst)
  | .tile | .num => (die, inst)
  | .embHot => (die, k 8)
  | .hw | .fss | .aft | .bml => (die - 4, 0)
  | .fssCh => (8 * (die - 4) + inst - 1, 0)
  | .aftGate => (die - 4, (off - base) / 0x100 * 32 + (off - base) / 0x80 % 2 * 16 + (off - base) % 0x80 / 8)
  | .ring => (die - 4, k 0x20)
  | .rvId | .rvData => (0, k 8)

/-- How many instances a class has: primary and second index below these. -/
def classCount : RegClass → Nat × Nat
  | .link => (8, 8)
  | .pld | .dik | .slu => (4096, 1)
  | .wei => (16384, 1)
  | .walker => (512, 1)
  | .walkSlot => (512, 16)
  | .sel | .tileDie | .numDie | .emb | .crestMem => (4, 1)
  | .mover => (8, 1)
  | .ctl => (20, 1)
  | .ctlRow => (20, 1024)
  | .ctlWin => (20, 512)
  | .bsu => (20, 64)
  | .tile | .num => (4, 64)
  | .embHot => (4, 64)
  | .hw | .fss | .aft | .bml => (4, 1)
  | .fssCh => (32, 1)
  | .aftGate => (4, 64)
  | .ring => (4, 64)
  | .rvId => (1, 4)
  | .rvData => (1, 24)
  | .tck | .img | .rv | .pwr | .sluG => (1, 1)

/-- The far ends that a die has links to: every crest die from a toe die, every other die from a crest die (R17, R29). -/
def linkEnds (a b : Nat) : Bool := decide (a < 8) && decide (b < 8) && a ≠ b && (decide (a < 4) || decide (b < 4))

/-- The register of a name at an address, if it lies there. -/
def regNamed (a : Nat) (n : RegName) : Option Reg :=
  let die := a / 0x10000000
  let unit := a / 0x1000000 % 16
  let inst := a / 0x10000 % 256
  let c := n.place.1
  let p := classInst c die inst (a % 0x10000) n.place.2
  let i := if c = .bsu then p.1 + (unit - 8) else p.1
  let r : Reg := ⟨n, i, p.2⟩
  if regAddr r = a ∧ i < (classCount c).1 ∧ p.2 < (classCount c).2 ∧ (c ≠ .link ∨ linkEnds i p.2) then some r else none

/-- The register at bits [31:0] of an address; none at an unpopulated offset (R27). -/
def regFind (a : Nat) : Option Reg := RegName.all.findSome? (regNamed a)

/-- Whether R29 lists a block, by bits [31:16] of its address. The context table's code is listed and holds no registers. -/
def blockPopulated (u : Nat) : Bool :=
  let die := u / 0x1000
  let unit := u / 0x100 % 16
  let inst := u % 256
  if die < 4 then
    if unit = 0 ∨ unit = 3 then decide (inst < 64) else if unit = 1 then decide (inst < 128) else if unit = 2 ∨ unit = 4 then inst = 0
    else if unit = 5 then decide (inst ≤ 5) || (decide (8 ≤ inst) && linkEnds die (inst - 8))
    else if 8 ≤ unit ∧ unit ≤ 12 then decide (inst < 64) else false
  else if die < 8 then
    if unit = 0 then decide (inst ≤ 8) else if unit = 1 ∨ unit = 2 then inst = 0
    else if unit = 5 then inst = 0 || (decide (8 ≤ inst) && decide (inst ≤ 11)) else if unit = 6 then die = 4 && inst = 0 else false
  else if die = 8 then
    if unit = 0 ∨ unit = 5 ∨ unit = 6 then inst = 0 else decide (1 ≤ unit ∧ unit ≤ 4)
  else false

def between (v lo hi : Nat) : Bool := decide (lo ≤ v) && decide (v ≤ hi)

/-- How many bits of a number below 256 are 1. -/
def ones (n : Nat) : Nat := ((List.range 8).filter fun i => bits n i i = 1).length

/-- Whether every field of a register's value lies in the range that its field map gives (R71 to R76, R127 to R134, R195, R268, R269,
R308 to R310, R349, R383 to R385, R415, R416, R458, R459, R491, R519, R543 to R545). -/
def inRanges (n : RegName) (v : Word) : Bool :=
  let f (hi lo : Nat) : Nat := fld v hi lo
  match n with
  | .TCK_CFG => between (f 63 48) 1 65535 && between (f 47 40) 4 64 && f 33 32 ≠ 3 && between (f 23 16) 2 250 && between (f 9 0) 25 1000
      && decide (f 23 16 ≤ f 9 0 / 4)
  | .PLD_CFG => between (f 63 54) 1 1023
  | .PLD_CTX => (List.range 4).all fun d => decide (f (12 * d + 11) (12 * d) ≤ 2048)
  | .DIK_CFG => between (f 31 16) 1 65535
  | .SLU_CFG => between (f 39 26) 1 8192
  | .SLU_GCFG => f 63 48 ≠ 0 && f 47 40 ≠ 0
  | .WEI_CFG => decide (f 51 48 ≤ 5)
  | .WLK_SLOT_CFG => between (f 45 36) 4 512 && between (f 35 31) 1 16 && decide (f 30 26 ≤ 16) && between (f 25 20) 1 63
  | .MEM_BSU_CFG => between (f 15 8) 1 16
  | .TEN_CFG => between (f 37 31) 1 64
  | .TEN_SEQ_SEL => decide (f 6 0 ≤ 95)
  | .NUM_SCL_SEL => decide (f 20 8 ≤ 4095)
  | .EMB_LOAD_SEL => decide (f 4 0 ≤ 19)
  | .EMB_HOT_ADDR => f 47 0 % 64 = 0
  | .MEM_MOV_ADDR => f 39 0 % 64 = 0
  | .FSS_LIST_ADDR => f 39 0 % 64 = 0
  | .MEM_SCRUB_CFG => between (f 15 8) 1 168
  | .MEM_HW_CFG => between (f 63 54) 1 1000
  | .MEM_HW_RATE => f 31 0 = 0 || decide (64 ≤ f 31 0)
  | .FSS_CFG => decide (100 ≤ f 63 48) && decide (100 ≤ f 47 32) && decide (2 ≤ f 31 24) && decide (f 31 24 < f 23 16) && between (f 15 12) 2 15
  | .FSS_CKPT => decide (1 ≤ f 31 16)
  | .FSS_CH_CFG => f 63 62 = 0 || (between (f 61 58) 1 8 && decide (f 57 54 ≤ 8) && f 50 49 ≠ 3 && between (f 48 34) 64 32767
      && between (f 33 22) 63 4095)
  | .AFT_PORT_CFG => between (f 63 52) 1 4094 && between (f 47 40) 1 255 && between (f 35 32) 1 15 && decide (10 ≤ f 31 16)
      && between (f 15 12) 1 15 && between (f 7 0) 1 255
  | .AFT_PFC_CFG => decide (ones (f 63 56) ≤ 3) && decide (f 55 46 ≤ 1000) && between (f 45 34) 1 3072
  | .AFT_GATE_WIN => decide (f 30 21 < f 20 11)
  | .BML_CRD => ((List.range 5).all fun i => decide (8 ≤ f (8 * i + 7) (8 * i)))
      && decide (f 63 52 + (List.range 5).foldl (fun a i => a + f (8 * i + 7) (8 * i)) 0 ≤ 4096)
  | .BML_HB_CFG => between (f 23 20) 2 15 && between (f 16 0) 100 100000 && decide (2000 < f 16 0 * f 23 20)
  | .IMG_SRC => f 63 0 % 64 = 0
  | .PWR_CTL => decide (1 ≤ f 23 16)
  | .PWR_CAP => between (f 63 52) 600 2400 && between (f 51 44) 80 100 && between (f 43 36) 75 92
  | .PWR_TEMP_SEL => decide (f 4 0 ≤ 27)
  | _ => true

/-- The bits of a register whose access code is one of `as`. -/
def maskOf (n : RegName) (as : List Access) : Word :=
  n.fields.foldl (fun m f => if as.contains f.acc then m ||| setFld 0 f.hi f.lo (2 ^ (f.hi + 1 - f.lo) - 1) else m) 0

/-- The value that a write of `v` leaves in a register of value `old`: fields of `as` take it, W1C bits clear (R9). -/
def written (n : RegName) (as : List Access) (old v : Word) : Word :=
  let m := maskOf n as
  ((old &&& ~~~m) ||| (v &&& m)) &&& ~~~(v &&& maskOf n [.W1C])

/-- The polder that owns a register's RWL fields, once one does (R9, R559): a field of 0 names none. -/
def ownerOf (s : State) (g : Reg) : Option Nat :=
  let stored (r : Reg) (p : Nat) : Option Nat := if fld (getReg s r) (p + 11) p = 0 then none else some (fld (getReg s r) (p + 11) p)
  match g.name with
  | .PLD_CFG | .PLD_CTX | .PLD_PRIV | .SLU_CFG => some g.i
  | .WEI_CFG | .WLK_SLOT_CFG | .TEN_CFG | .BML_RING_CFG => stored g 52
  | .BML_RING_CMD | .BML_RING_CPL => stored ⟨.BML_RING_CFG, g.i, g.j⟩ 52
  | _ => none

/-- The registers of a polder that becomes ABSENT return to their reset values, and one that names its owner is unassigned again (R513, R559). -/
def resetOwned (s : State) (p : Nat) : State :=
  let mine := (s.csr.filterMap fun e => regFind e.1).filter fun g => ownerOf s g = some p
  mine.foldl resetReg s

end Sys2Proof.Machine
end

