-- ==== Sys2Proof/Machine/Links.lean ====
section
/-! DEFINITION. Crest dies and the die-to-die links: their states (R33, R34, R36), the credits of each class (R19, R20, R23), opening the
classes (R31), the messages they carry (R21), and the bounds of an access by distance (R24). -/

namespace Sys2Proof.Machine

/-- One free value drawn: the counter moves on. -/
def drawFresh (s : State) : State × Nat := ({ s with fresh := s.fresh + 1 }, s.fresh)

/-! ### Dies -/

def DieCtx.fresh : DieCtx :=
  { lost := false, lostDue := 0, owns := [], awaits := [], subs := [], last := [], dead := [], handedTo := [],
    reports := [] }

def getDie (s : State) (d : Nat) : DieCtx := (nth? s.dies d).getD DieCtx.fresh
def modDie (s : State) (d : Nat) (f : DieCtx → DieCtx) : State := { s with dies := modAt s.dies d f }
def modDies (s : State) (f : DieCtx → DieCtx) : State := { s with dies := s.dies.map f }
def dieLost (s : State) (d : Nat) : Bool := (getDie s d).lost

/-! ### The bounds of an access (R24) -/

/-- An access of 64 bytes, or a stage message with its answer, by where it goes (R24). -/
inductive Reach where
  | tileOwn | poolOwn | sramOther | stackOwn | stackOther | stackFromToe | handAndHak
  deriving DecidableEq, Repr

/-- Its bound in tenths of a ns at a crest clock of `f` tenths of a GHz (R24). -/
def Reach.bound (a : Reach) (f : Nat) : Nat :=
  match a with
  | .tileOwn => cdiv (6 * 100) f
  | .poolOwn => 400
  | .sramOther => 1000
  | .stackOwn => 1600
  | .stackOther => 2200
  | .stackFromToe => 2000
  | .handAndHak => 800

/-- The bound of an access that no clock enters, in ns (R24). -/
def Reach.ns (a : Reach) : Nat := a.bound 8 / 10

/-! ### Link state (R33, R34) -/

/-- The register of the end at die `a` of the link to `b`. -/
def linkReg (n : RegName) (a b : Nat) : Reg := ⟨n, a, b⟩

/-- MEM_LINK_STS.state of the end at `a` of the link to `b` (R33). -/
def linkState (s : State) (a b : Nat) : Nat := getF s (linkReg .MEM_LINK_STS a b) 1 0

/-- Whether a link delivers nothing more (R33). -/
def linkFailed (s : State) (a b : Nat) : Bool := decide (linkState s a b = 3)

/-- Every end of a link. -/
def allEnds : List (Nat × Nat) := (List.range 8).flatMap fun a => ((List.range 8).filter (linkEnds a)).map fun b => (a, b)

/-- Whether the descriptors that toe die Tn reads reach the dike on T0: other toe dies send through crest die Cn (R17, R33). -/
def toePath (s : State) (n : Nat) : Bool := n = 0 || (!linkFailed s (4 + n) n && !linkFailed s n 4 && !dieLost s n)

/-! ### Credits (R18 to R20, R23) -/

/-- Slots of a link's receive buffer (R18). -/
def linkBuffer (a b : Nat) : Nat := if a < 4 ∧ b < 4 then 512 else 192

/-- The reserve of a class in the buffer of end `a`, which the far end `b` fills (R32). -/
def linkReserve (s : State) (a b : Nat) (c : LinkClass) : Nat := getF s (linkReg .MEM_LINK_CRD a b) (8 * c.num + 7) (8 * c.num)

/-- The eight reserves of MEM_LINK_CRD. -/
def linkReserves (s : State) (a b : Nat) : List Nat := (List.range 8).map fun i => getF s (linkReg .MEM_LINK_CRD a b) (8 * i + 7) (8 * i)

/-- Whether a link carries every class: both ends have opened it (R31, R36). -/
def linkOpen (s : State) (a b : Nat) : Bool :=
  getF s (linkReg .MEM_LINK_CFG a b) 16 16 = 1 && getF s (linkReg .MEM_LINK_CFG b a) 16 16 = 1

/-- The shared pool of the buffer of end `a`; the ends exchange it when the classes open (R31). -/
def linkPool (s : State) (a b : Nat) : Nat := if linkOpen s a b then getF s (linkReg .MEM_LINK_CFG a b) 9 0 else 0

/-- The slots of a message: its header and at most 4 of data; only stage messages carry data (R19). -/
def LinkMsg.slots (m : LinkMsg) : Nat := if m.cls = .hnd then 1 + min 4 (Config.linkData m) else 1

/-- The credits of one sort that messages of a link hold. -/
def creditSum (fl : List Flight) (p : Flight → Bool) (f : Nat × Nat → Nat) : Nat :=
  (fl.filter p).foldl (fun n x => n + x.credit.elim 0 f) 0

/-- Pool slots of the buffer of end `a` that the far end `b` holds (R33). -/
def poolInUse (s : State) (a b : Nat) : Nat := creditSum s.flight (fun x => x.src = b && x.dst = a) (·.2)

/-- The credits that a message which waits at its sender can take now (R20, R21, R31): from the class reserve first and then from the pool,
behind every earlier message of its class on its link. `fl` holds the messages of all links. A message larger than its class can hold at
once needs what the class can hold: the receiver frees its first slots while the others follow. -/
def creditFor (s : State) (before fl : List Flight) (f : Flight) : Option (Nat × Nat) :=
  let cls := f.msg.cls
  let mine (x : Flight) : Bool := x.src = f.src && x.dst = f.dst
  let reserve := linkReserve s f.dst f.src cls
  let pool := linkPool s f.dst f.src
  let need := min f.msg.slots (reserve + pool)
  let own := min need (reserve - creditSum fl (fun x => mine x && x.msg.cls = cls) (·.1))
  if linkState s f.src f.dst = 2 && (cls = .ctl || linkOpen s f.src f.dst)
      && !(before.any fun x => mine x && x.msg.cls = cls && x.credit.isNone)
      && decide (need - own ≤ pool - creditSum fl mine (·.2)) then some (own, need - own) else none

/-- Give credits to the messages that wait, in order. -/
def creditAll (s : State) : List Flight → List Flight → List Flight
  | before, [] => before
  | before, f :: rest =>
    let f' := if f.credit.isSome then f else { f with credit := creditFor s before (before ++ rest) f }
    creditAll s (before ++ [f']) rest

/-- Messages that wait at their senders go on as far as the credits allow (R20, R23). -/
def pumpLinks (s : State) : State := { s with flight := creditAll s [] s.flight }

/-! ### Messages (R21, R33) -/

/-- Send a message between crest dies: it waits for credit at its sender, and nothing travels on a FAILED link (R20, R33, R95). -/
def sendMsg (s : State) (a b : Nat) (m : LinkMsg) : State :=
  if linkFailed s a b || dieLost s a || dieLost s b then s else pumpLinks { s with flight := s.flight ++ [{ src := a, dst := b, msg := m }] }

/-- Count the flit retries a message met on its link (R33). -/
def countRetries (s : State) (a b : Nat) : State :=
  let (s, n) := drawFresh s
  { s with retries := mapPut 0 s.retries (8 * b + a) (satAdd 32 (mapGetD s.retries (8 * b + a) 0) (Config.flitRetries n)) }

/-- The next message of a class that the link from `a` to `b` delivers, and the part once its slots are freed (R20, R21). -/
def takeFlight (s : State) (a b : Nat) (c : LinkClass) : Option (LinkMsg × State) :=
  match s.flight.find? fun f => f.src = a && f.dst = b && f.msg.cls = c with
  | none => none
  | some f =>
    if f.credit.isNone ∨ linkState s a b ≠ 2 then none
    else some (f.msg, pumpLinks (countRetries { s with flight := s.flight.erase f } a b))

/-! ### Training, opening, failing (R31, R33, R34, R36) -/

/-- A FAILED link: its state and its sticky bit at both ends, and nothing in flight is delivered (R33). -/
def failLink (s : State) (a b : Nat) : State :=
  let one (s : State) (x y : Nat) : State :=
    let r := linkReg .MEM_LINK_STS x y
    let s := if getF s r 1 0 = 2 then setF s r 2 2 1 else s
    setF s r 1 0 3
  let s := one (one s a b) b a
  { s with flight := s.flight.filter fun f => !((f.src = a && f.dst = b) || (f.src = b && f.dst = a)) }

/-- After a reset every link trains (R34). -/
def trainLinks (s : State) : State :=
  allEnds.foldl (fun s e => if linkState s e.1 e.2 = 0 then setF s (linkReg .MEM_LINK_STS e.1 e.2) 1 0 1 else s) s

/-- The training has ended: a link of `bad` is FAILED, every other one is ACTIVE with classes_open 0 (R34, R36). -/
def linksTrained (s : State) (bad : List (Nat × Nat)) : State :=
  let fails (e : Nat × Nat) : Bool := bad.any fun x => x = e || x = (e.2, e.1)
  pumpLinks (allEnds.foldl (fun s e =>
    if 2 ≤ linkState s e.1 e.2 then s
    else if fails e then failLink s e.1 e.2
    else setF s (linkReg .MEM_LINK_STS e.1 e.2) 1 0 2) s)

/-- A write of MEM_LINK_CFG at end `a` of the link to `b` (R31). -/
def doLinkCfg (s : State) (a b : Nat) (v : Word) : State :=
  let r := linkReg .MEM_LINK_CFG a b
  if !linkEnds a b ∨ getF s r 16 16 = 1 then s
  else
    let s := setF s r 9 0 (fld v 9 0)
    if fld v 16 16 = 0 then s
    else if (linkReserves s a b).all (fun n => decide (4 ≤ n)) && decide ((linkReserves s a b).foldl (· + ·) (fld v 9 0) ≤ linkBuffer a b) then
      pumpLinks (setF s r 16 16 1)
    else setBit s (linkReg .MEM_LINK_STS a b) 3

/-- Step 8 of a boot: the credits of every ACTIVE link are written at both ends and its classes open. Without a record in the image the
reserves keep their reset values and the pool takes the rest of the buffer (DESIGN CHOICE). -/
def openLinks (s : State) (recs : List (Nat × Word)) : State :=
  allEnds.foldl (fun s e =>
    let rec? (n : RegName) : Option Word := (recs.find? (·.1 = regAddr (linkReg n e.1 e.2))).map (·.2)
    let s := (rec? .MEM_LINK_CRD).elim s (setReg s (linkReg .MEM_LINK_CRD e.1 e.2))
    let pool := linkBuffer e.1 e.2 - (linkReserves s e.1 e.2).foldl (· + ·) 0
    doLinkCfg s e.1 e.2 (setFld ((rec? .MEM_LINK_CFG).getD (BitVec.ofNat 64 pool)) 16 16 1)) s

end Sys2Proof.Machine
end

