-- ==== Sys2Proof/Machine/Ops.lean ====
section
/-! DEFINITION. The shared operations: time and boundaries (R37 to R42), descriptors (R81, R82), polders and regions (R352),
contexts and ownership (R83 to R95), completions (R102), and the ends of a request (R95, R100). -/

namespace Sys2Proof.Machine

/-- The outcome of every command. -/
abbrev Ans := Host.Outcome State Fault Refusal

/-- The time moves forward to a command's stamp (R40). -/
def at_ (s : State) (t : Stamp) : State := { s with now := max s.now t }

/-! ### Time -/

/-- Start of the berm before the next boundary (R39). -/
def bermStart (s : State) : Option Stamp := s.tick.nextAt.map (· - bermNs s)

/-- Whether a stamp lies at or after the start of the berm (R40); no berm closes the span before the first boundary (R68). -/
def inBerm (s : State) (t : Stamp) : Bool := s.tick.begun && (bermStart s).elim false (fun b => decide (b ≤ t))

/-- The boundary for an event stamped `t`: the next one from the step window, the one after it from the berm (R41, R50, R109, R110). -/
def boundaryFor (s : State) (t : Stamp) : Nat := if inBerm s t then s.tick.nextNum + 1 else s.tick.nextNum

/-- The tick that holds a stamp (R40). -/
def tickOf (s : State) (t : Stamp) : Nat :=
  match s.tick.nextAt with
  | some n => if s.tick.begun && decide (n ≤ t) then s.tick.nextNum else s.tick.tick
  | none => s.tick.tick

/-- Whether a step of bound `b` that starts at `t` fits before the berm (R42). -/
def fits (s : State) (t : Stamp) (b : Nat) : Bool :=
  s.tick.running && s.tick.begun && (bermStart s).elim false (fun e => decide (t + b ≤ e))

/-- Whether a job's step may end at `t`: in a step window, or in the berm while a step of its unit still runs (R42, R45). -/
def mayRun (s : State) (unit : Nat) (t : Stamp) : Bool :=
  s.tick.running && s.tick.begun && (!inBerm s t || s.tick.steps.any fun x => x.unit.toNat = unit)

/-! ### Connections (R427) -/

/-- A word of a connection's descriptor. -/
def connW (s : State) (c n : Nat) : Word := rdW s (s.fab.connArr + 64 * c + 8 * n)
def connPolder (s : State) (c : Nat) : Nat := fld (connW s c 0) 63 52
/-- Kind of a connection: 0 DATA, 1 REQUEST, 2 MEMBER, 3 SHARD, 4 POOL (R428). -/
def connKind (s : State) (c : Nat) : Nat := fld (connW s c 0) 51 49
/-- FABRIC_TX target, 2n + half. -/
def connTarget (s : State) (c : Nat) : Nat := fld (connW s c 0) 48 46
/-- The port that carries a connection. -/
def connPort (s : State) (c : Nat) : Nat := connTarget s c / 2

/-! ### Descriptors (R81, R82) -/

def dWord (d : List Word) (n : Nat) : Word := (nth? d n).getD 0
def dKind (d : List Word) : Nat := fld (dWord d 0) 63 56
def dClass (d : List Word) : Nat := fld (dWord d 0) 55 54
def dPolder (d : List Word) : Nat := fld (dWord d 0) 51 40
def dColl (d : List Word) : Nat := fld (dWord d 0) 39 32
def dEntry (d : List Word) : Nat := fld (dWord d 0) 31 28
def dBody (d : List Word) : Nat := fld (dWord d 0) 23 16
def dTag (d : List Word) : Word := dWord d 1
def dDeadline (d : List Word) : Nat := fld (dWord d 2) 57 48
def dEpoch (d : List Word) : Nat := fld (dWord d 2) 47 0
def dOpRegion (d : List Word) : Nat := fld (dWord d 3) 59 48
def dOpOffset (d : List Word) : Nat := fld (dWord d 3) 47 0
def dOpBytes (d : List Word) : Nat := fld (dWord d 4) 63 32
def dResRegion (d : List Word) : Nat := fld (dWord d 5) 59 48
def dResOffset (d : List Word) : Nat := fld (dWord d 5) 47 0
def dResBytes (d : List Word) : Nat := fld (dWord d 6) 63 32
/-- Body word n. -/
def dB (d : List Word) (n : Nat) : Word := dWord d (8 + n)

abbrev kSearch : Nat := 0x01
abbrev kScan : Nat := 0x02
abbrev kEncode : Nat := 0x03
abbrev kRerank : Nat := 0x04
abbrev kPipeline : Nat := 0x05
abbrev kInsert : Nat := 0x10
abbrev kDelete : Nat := 0x11
abbrev kUpsert : Nat := 0x12
abbrev kLookup : Nat := 0x20
abbrev kTableUpdate : Nat := 0x21
abbrev kAdapterStep : Nat := 0x30
abbrev kCancel : Nat := 0x7F

/-- Kinds that change a collection (R218). -/
def isMutation (k : Nat) : Bool := k = kInsert || k = kDelete || k = kUpsert

/-- Kinds whose completion carries the commit epoch (R102). -/
def commits (k : Nat) : Bool := isMutation k || k = kTableUpdate

/-- Kinds that name a collection (R82). -/
def namesColl (k : Nat) : Bool := k = kSearch || k = kScan || k = kRerank || k = kPipeline || isMutation k || k = kLookup

/-- k of a request (R82). -/
def dK (d : List Word) : Nat :=
  let w := dB d 0
  if dKind d = kSearch ∨ dKind d = kScan then fld w 63 53
  else if dKind d = kRerank then fld w 44 34
  else if dKind d = kPipeline then fld w 39 29
  else 0

def dBeam (d : List Word) : Nat :=
  if dKind d = kSearch then fld (dB d 0) 52 48 else if dKind d = kPipeline then fld (dB d 0) 28 24 else 0
def dBudget (d : List Word) : Nat :=
  if dKind d = kSearch then fld (dB d 0) 47 32 else if dKind d = kPipeline then fld (dB d 0) 23 8 else 0

/-- Filter words of a request (R82, R178). -/
def dFilter (d : List Word) : List Word :=
  if dKind d = kSearch then (d.drop 9).take (fld (dB d 0) 31 27)
  else if dKind d = kScan then (d.drop 9).take (fld (dB d 0) 42 38)
  else if dKind d = kPipeline then (d.drop 10).take (fld (dB d 1) 44 40)
  else []

/-- Partition numbers of a partition SCAN (R82). -/
def dParts (d : List Word) : List Nat :=
  let n := fld (dB d 0) 50 43
  let f := fld (dB d 0) 42 38
  (List.range n).map fun i => fld (dB d (1 + f + i / 4)) (16 * (i % 4) + 15) (16 * (i % 4))

/-- Items, rows or examples that the kind counts (R82). -/
def dItems (d : List Word) : Nat :=
  let w := dB d 0
  if isMutation (dKind d) ∨ dKind d = kLookup then fld w 63 48
  else if dKind d = kTableUpdate then fld w 55 40
  else if dKind d = kAdapterStep then fld w 47 32
  else 0

/-! ### Polders and regions -/

def Polder.none : Polder :=
  { st := .absent, since := 0, stages := [], entries := [], regTab := 0, quotas := [], seqSlots := [], grants := [],
    consol := [], unload := Option.none, sysMem := [], rows := [] }

def getPolder (s : State) (p : Nat) : Polder := mapGetD s.polders p Polder.none
def setPolder (s : State) (p : Nat) (v : Polder) : State := { s with polders := mapSet s.polders p v }

/-- A polder's stage by number. -/
def stageOf (pol : Polder) (n : Nat) : Option Stage := pol.stages.find? (·.num = n)
def entryOf (pol : Polder) (n : Nat) : Option EntryPt := pol.entries.find? (·.num = n)

/-- A region descriptor (R352). -/
structure Region where
  tier    : Nat
  pinned  : Bool
  die     : Nat
  host    : Nat
  readers : Nat
  writers : Nat
  base    : Nat
  bytes   : Nat
  backing : Nat
  deriving DecidableEq, Repr

/-- Read region `r` of polder `p`; a descriptor of 0 bytes grants nothing (R352). -/
def regionOf (s : State) (p r : Nat) : Option Region :=
  let pol := getPolder s p
  if pol.st = .absent then Option.none else
    let a := pol.regTab + 32 * r
    let w := rdW s a
    let n := rdN s (a + 16)
    if n = 0 then Option.none
    else some { tier := fld w 63 61, pinned := fld w 60 60 = 1, die := fld w 59 58, host := fld w 57 56,
                readers := fld w 55 52, writers := fld w 51 48, base := rdN s (a + 8), bytes := n, backing := rdN s (a + 24) }

/-- Device address of an offset of a region; the data of an unpinned POOL region is kept at its backing pages (R361, R362). -/
def Region.addr (g : Region) (off : Nat) : Nat :=
  if g.tier = 1 then (if g.pinned then poolAddr g.die + g.base + off else g.backing + off) else g.base + off

/-- Address of a range of a region, when the range lies inside it. -/
def regionAddr (s : State) (p r off n : Nat) : Option Nat :=
  match regionOf s p r with
  | some g => if off + n ≤ g.bytes then some (g.addr off) else Option.none
  | Option.none => Option.none

/-- Address of a request's operand. -/
def operandAddr (s : State) (d : List Word) : Nat :=
  (regionAddr s (dPolder d) (dOpRegion d) (dOpOffset d) (dOpBytes d)).getD 0

/-- Whether a request is a member's sub-request: its result goes back in a LIST (R446). -/
def Src.isMember : Src → Bool
  | .member _ => true
  | _ => false

/-- Address of the operand that a context reads: a member's lies where its SUB message was placed (R446). -/
def operandOf (s : State) (k : Ctx) : Nat :=
  match k.src with
  | .member m => m.operand
  | _ => operandAddr s k.desc

/-- Address of a request's result, when its region is granted. -/
def resultAddr (s : State) (d : List Word) : Option Nat :=
  regionAddr s (dPolder d) (dResRegion d) (dResOffset d) (dResBytes d)

/-! ### Contexts -/

def Work.empty : Work :=
  { query := [], lists := [], shadows := [], ranked := Option.none, shadowed := Option.none, cands := [], vectors := [],
    output := [], grain := 1, since := 0, wroteFl := Option.none, written := 0, items := 0, escal := false, applied := false, status := [], searches := [], adj := [],
    vecDone := [], seq := Option.none, commit := Option.none, weir := 0, batched := 0, done := false, flash := [], refuse := Option.none, gather := Option.none, resSent := 0 }

def Ctx.empty : Ctx :=
  { st := .free, gen := 0, hseq := 0, desc := [], src := .none, polder := 0, pin := 0, admitted := 0, firstElig := 0,
    deadline := Option.none, stage := 0, work := Work.empty, path := [] }

def getCtx (s : State) (c : Nat) : Ctx := mapGetD s.ctxs c Ctx.empty
def setCtx (s : State) (c : Nat) (k : Ctx) : State := { s with ctxs := mapSet s.ctxs c k }
def modCtx (s : State) (c : Nat) (f : Ctx → Ctx) : State := setCtx s c (f (getCtx s c))
def modWork (s : State) (c : Nat) (f : Work → Work) : State := modCtx s c fun k => { k with work := f k.work }
def isLive (s : State) (c : Nat) : Bool := decide ((getCtx s c).st = .live)

/-- Home die of a context (R83). -/
def homeDie (c : Nat) : Nat := c / 2048

/-- The unit field that names a die's context table (R29). -/
def ctxUnit (d : Nat) : Nat := unitNo d 0xF 0

/-- Living dies that own a context of a generation (R90). -/
def ownersOf (s : State) (c g : Nat) : List Nat :=
  (List.range 4).filter fun d =>
    !dieLost s d && (getDie s d).owns.any (fun o => o.ctx = c && o.gen = g)

/-- The owner that may advance the request: the first living owner that is not HANDING (R90). -/
def activeOwner (s : State) (c : Nat) : Option Nat :=
  (List.range 4).find? fun d =>
    !dieLost s d && (getDie s d).owns.any (fun o => o.ctx = c && o.gen = (getCtx s c).gen && o.handing.isNone)

/-- The die on which a context's work is done. -/
def ownerDie (s : State) (c : Nat) : Nat := (activeOwner s c).getD (homeDie c)

def getStage (s : State) (c : Nat) : Option Stage :=
  stageOf (getPolder s (getCtx s c).polder) (getCtx s c).stage

/-- The stage kind a LIVE context stands in. -/
def stageKindOf (s : State) (c : Nat) : Option StageKind :=
  if isLive s c then (getStage s c).map (·.kind) else Option.none

/-- LIVE contexts of a polder. -/
def liveOf (s : State) (p : Nat) : List Nat :=
  (s.ctxs.filter fun e => e.2.st = .live && e.2.polder = p).map (·.1)

/-- Contexts of a polder that stand in a stage's queue on a die: owned there, or handed there and not yet accepted (R88, R90). -/
def queueUse (s : State) (p n d : Nat) : Nat :=
  (s.ctxs.filter fun e => e.2.st = .live && e.2.polder = p && e.2.stage = n
      && (getDie s d).owns.any (fun o => o.ctx = e.1 && o.gen = e.2.gen)).length
    + (s.flight.filter fun f => f.dst = d && (match f.msg with
        | .hnd c _ _ st => st = n && (getCtx s c).polder = p
        | _ => false)).length

/-- Whether a polder's share of a stage queue on a die has a free entry (R88). -/
def hasCredit (s : State) (p : Nat) (st : Stage) (d : Nat) : Bool :=
  decide (d ∈ st.dies) && !dieLost s d && decide (queueUse s p st.num d < st.entries)

/-! ### Completions -/

/-- The words of a completion record, phase 0 (R102). -/
structure Rec where
  tag     : Word
  code    : Nat
  delay   : Nat := 0
  kind    : Nat
  unit    : Nat := 0
  stage   : Nat := 0xFF
  applied : Bool := false
  escal   : Bool := false
  reason  : EndReason := .none
  short   : Bool := false
  polder  : Nat
  epoch   : Nat := 0
  coll    : Nat
  tick    : Nat
  valid   : Nat := 0
  tie     : Nat := 0
  bytes   : Nat := 0
  items   : Nat := 0
  ctx     : Nat := 0
  gen     : Nat := 0
  hseq    : Nat := 0

def EndReason.num : EndReason → Nat
  | .none => 0
  | .budget => 1
  | .exhausted => 2

def b2n (b : Bool) : Nat := if b then 1 else 0

/-- Lay out a completion record (R102). -/
def Rec.words (r : Rec) : List Word :=
  [ r.tag,
    BitVec.ofNat 64 (r.code * 2 ^ 48 + min r.delay 255 * 2 ^ 40 + r.kind * 2 ^ 32 + r.unit * 2 ^ 16 + r.stage * 2 ^ 8
      + b2n r.applied * 16 + b2n r.escal * 8 + r.reason.num * 2 + b2n r.short),
    BitVec.ofNat 64 (r.polder * 2 ^ 48 + r.epoch),
    BitVec.ofNat 64 (r.coll * 2 ^ 56 + r.tick),
    BitVec.ofNat 64 (r.valid * 2 ^ 53 + r.tie % 2 ^ 32),
    BitVec.ofNat 64 (r.bytes * 2 ^ 32 + r.items),
    BitVec.ofNat 64 (r.ctx * 2 ^ 51 + r.gen * 2 ^ 43 + r.hseq % 2 ^ 16),
    0 ]

/-- Hand a completion record to the toe die of its ring or connection. -/
def pushPend (s : State) (src : Src) (ws : List Word) (hold : Option Nat := Option.none) (report : Bool := false)
    (ranked : Option Ranked := Option.none) : State :=
  if src = .none then s else { s with pend := s.pend ++ [⟨src, ws, hold, report, ranked⟩] }

/-- The ring or connection of a request: its port, whether it is a connection, and its number (R115). -/
def Src.line : Src → Nat × Bool × Nat
  | .ring p r => (p, false, r)
  | .gone p r => (p, false, r)
  | .conn n => (0, true, n)
  | .member m => (0, true, m.conn)
  | .none => (0, false, 64)

/-- The number of refusal and drop reports queued for a ring or connection, the LISTs of a MEMBER connection's refusals included (R115). -/
def reportsQueued (s : State) (src : Src) : Nat := (s.pend.filter fun p => p.src.line = src.line && p.report).length

/-- Whether a disposition is that of a served request (R103). -/
def served (code : Nat) : Bool := code = Code.OK || code = Code.DELAYED

/-- The completion of a context that ends with a code (R102, R103). -/
def ctxRecord (s : State) (c code unit : Nat) : Rec :=
  let k := getCtx s c
  let w := k.work
  let delay := k.admitted - k.firstElig
  let ok := served code
  let code := if code = 0 ∧ 0 < delay then Code.DELAYED else code
  let lost := code = Code.DIE_LOST
  let short := ok && w.ranked.elim false (fun r => decide (r.entries.length < r.k))
  { tag := dTag k.desc, code := code, delay := delay, kind := dKind k.desc, unit := if ok then 0 else unit,
    stage := k.stage, applied := !ok && w.applied, escal := w.escal,
    reason := if short then w.ranked.elim .none (·.reason) else .none, short := short, polder := k.polder,
    epoch := if commits (dKind k.desc) then w.commit.getD k.pin else k.pin,
    coll := dColl k.desc, tick := tickOf s s.now,
    valid := if ok then w.ranked.elim 0 (·.entries.length) else 0,
    tie := if ok then w.ranked.elim 0 (·.tie) else 0,
    bytes := if lost then 0 else w.written, items := w.items, ctx := c, gen := k.gen, hseq := k.hseq }

/-- Count a walk a slot discards at an ABORT (R191). -/
def bumpAborted (s : State) (key : Nat) : State := bump s ⟨.WLK_SLOT_ERR1, key / 16, key % 16⟩ 31 0 1

/-- Discard what units hold for a context on the dies that meet `on`: walks, merge jobs, passes with their KV pages, and a training
step whose OPTIM jobs have not begun (R191, R200, R218, R297). -/
def dropUnits (s : State) (c g : Nat) (on : Nat → Bool) : State :=
  let dead (e : Nat × Walk) : Bool := e.2.ctx = c && e.2.gen = g && on (e.1 / 2048)
  let gone := s.walks.filter dead
  let s := gone.foldl (fun s e => bumpAborted s e.1) { s with walks := s.walks.filter (fun e => !dead e) }
  let jd (j : Job) : Bool := j.ctx = c && j.gen = g && on j.die
  let jobs := s.jobs.filter jd
  let s := jobs.foldl (fun s j => bump s ⟨.SEL_CNT3, j.die, 0⟩ 31 0 1) { s with jobs := s.jobs.filter (fun j => !jd j) }
  let pd (e : Nat × Pass) : Bool := e.2.ctx = c && e.2.gen = g && on e.2.die
  let s := (s.passes.filter pd).foldl (fun s e => bump s ⟨.TEN_SEQ_CNT, e.2.die, 0⟩ 63 32 1) { s with passes := s.passes.filter (fun e => !pd e) }
  { s with trains := s.trains.filter fun e => !(e.2.ctx = c && e.2.gen = g && on (e.1 / 96) && e.2.optim.isEmpty) }

/-- The number of a unit of flow: kinds 1, 2 and 6 are the flash reads, flash writes and result bytes of context `c`. -/
def flowTag (kind c u : Nat) : Nat := (kind * 16384 + c) * 2 ^ 40 + u

/-- Whether a unit of flow belongs to a context. -/
def flowOf (c g : Nat) : WeirTag → Bool
  | .mutate c' g' => c' = c && g' = g
  | .flow n => let k := n / 2 ^ 40; k % 16384 = c && (k / 16384 = 1 || k / 16384 = 2 || k / 16384 = 6)

/-- Discard a context's units of flow that wait at weirs. -/
def dropWeirs (s : State) (c g : Nat) : State :=
  { s with weirs := s.weirs.map fun e =>
      (e.1, { e.2 with queue := e.2.queue.filter (fun u => !flowOf c g u.tag), passed := e.2.passed.filter (fun u => !flowOf c g u) }) }

/-- Stop owning, awaiting and serving a context on one die (R92). -/
def dropDie (c g : Nat) (d : DieCtx) : DieCtx :=
  { d with owns := d.owns.filter (fun o => !(o.ctx = c && o.gen = g))
           awaits := d.awaits.filter (fun a => !(a.ctx = c && a.gen = g))
           subs := d.subs.filter (fun x => !(x.ctx = c && x.gen = g)) }

/-- Mark a context dead for every handoff of a generation (R92). -/
def markDead (c g : Nat) (h : Option Nat) (d : DieCtx) : DieCtx :=
  { d with dead := ⟨c, g, h⟩ :: d.dead.filter (fun x => !(x.ctx = c && x.gen = g && x.upTo = h)) }

/-- The outcome of a request of a polder is counted (R125). -/
def countEnd (s : State) (p code : Nat) : State :=
  if served code then (if code = Code.DELAYED then bump s ⟨.PLD_CNT0, p, 0⟩ 31 0 1 else s)
  else
    let s := bump s ⟨.PLD_CNT1, p, 0⟩ 31 0 1
    if code = Code.POLDER_UNLOADED then bump s ⟨.SLU_CNT2, p, 0⟩ 63 32 1 else s

/-- Retire a LIVE context with a code: its record goes to the toe die, its slot is RETIRED, its outcome is
counted, and the reeve owes no completion for it (R86, R100, R125). -/
def retire (s : State) (c code unit : Nat) : State :=
  let k := getCtx s c
  if k.st ≠ .live then s else
    let r := ctxRecord s c code unit
    let s := pushPend s k.src r.words k.work.wroteFl false (if served r.code then k.work.ranked else Option.none)
    let s := { s with reeve := s.reeve.filter fun x => !(x.ctx = c && x.gen = k.gen) }
    countEnd (setCtx s c { k with st := .retired }) k.polder r.code

/-- End a request by a cause that a unit met: its completion is written once, and every die discards what it holds for it and marks it
dead (R92, R95, R101). The manual names no message for these causes; the model lets every die learn of them at once (DESIGN CHOICE). -/
def endCtx (s : State) (c code unit : Nat) : State :=
  let k := getCtx s c
  if k.st ≠ .live then s else
    let s := retire s c code unit
    let s := modDies s fun d => markDead c k.gen Option.none (dropDie c k.gen d)
    dropWeirs (dropUnits s c k.gen (fun _ => true)) c k.gen

/-- End a request whose own die found the condition. -/
def failCtx (s : State) (c code : Nat) : State := endCtx s c code (ctxUnit (homeDie c))

/-- A die ends a request with a code and drops what it holds itself; other dies learn by messages (R90, R95). -/
def endOnDie (s : State) (d c code : Nat) : State :=
  let g := (getCtx s c).gen
  let s := retire s c code (ctxUnit d)
  let s := modDie s d (dropDie c g)
  dropWeirs (dropUnits s c g (fun x => x = d)) c g

/-- The home die tells every other living crest die to drop a context, by ABORT for the whole generation (R92). `code` is the cause that
its owner reports (R100). -/
def sendAborts (s : State) (home c g : Nat) (code : Option Nat) : State :=
  (List.range 4).foldl (fun s d => if d = home ∨ dieLost s d then s else sendMsg s home d (.abort c g Option.none code)) s

/-- The home die ends a context itself and tells every other die by ABORT (R92, R94, R95). -/
def endFromHome (s : State) (home c code : Nat) : State :=
  let k := getCtx s c
  if k.st ≠ .live then s else
    let s := modDie (endOnDie s home c code) home (markDead c k.gen Option.none)
    sendAborts s home c k.gen Option.none

/-- Whether the home die has already ended a generation of a context: it answers every handoff of it as dead (R92, R100). -/
def homeEnded (s : State) (c g : Nat) : Bool := (getDie s (homeDie c)).dead.any fun x => x.ctx = c && x.gen = g && x.upTo.isNone

/-- A cause decided at the home die (R98 to R100). The home die sends ABORT to every crest die. It writes the completion itself when it owns
the context; otherwise the owner does at the ABORT, and the reeve at the next boundary what nobody has written by then. Where no living
die owns the context the request ends now. -/
def abortHome (s : State) (c code : Nat) : State :=
  let k := getCtx s c
  let home := homeDie c
  if k.st ≠ .live ∨ dieLost s home ∨ homeEnded s c k.gen then s
  else if (getDie s home).owns.any fun o => o.ctx = c && o.gen = k.gen then endFromHome s home c code
  else
    let r := (ctxRecord s c code (ctxUnit home)).words
    let s := { s with reeve := s.reeve ++ [⟨c, k.gen, k.src, code, r, s.tick.nextNum⟩] }
    let s := if (ownersOf s c k.gen).isEmpty then countEnd (setCtx s c { k with st := .retired }) k.polder code else s
    let s := modDie s home fun d => markDead c k.gen Option.none (dropDie c k.gen d)
    sendAborts (dropWeirs (dropUnits s c k.gen (fun x => x = home)) c k.gen) home c k.gen (some code)

/-- A refusal before admission: its completion carries epoch 0 and stage 0xFF (R80, R125). -/
def refuseDesc (s : State) (src : Src) (d : List Word) (polder code unit delay : Nat) (report : Bool := false) : State :=
  pushPend s src ({ tag := dTag d, code := code, delay := delay, kind := dKind d, unit := unit, polder := polder,
                    coll := dColl d, tick := tickOf s s.now : Rec }.words) Option.none report

/-- The current stage's work is done. -/
def stageDone (s : State) (c : Nat) : State := modWork s c fun w => { w with done := true }

/-- The context is LIVE, stands in a stage of a kind, and a living die that is not HANDING owns it (R90). -/
def standsIn (s : State) (c : Nat) (k : StageKind) : Bool :=
  decide (stageKindOf s c = some k) && (activeOwner s c).isSome

/-! ### Weirs (R121 to R123) -/

def Weir.empty : Weir := { tok := 0, last := 0, queue := [], passed := [], defer := Option.none }
def getWeir (s : State) (w : Nat) : Weir := mapGetD s.weirs w Weir.empty
def setWeir (s : State) (w : Nat) (v : Weir) : State := { s with weirs := mapSet s.weirs w v }
def weiCfg (s : State) (w : Nat) : Word := getReg s ⟨.WEI_CFG, w, 0⟩
def weiRate (s : State) (w : Nat) : Word := getReg s ⟨.WEI_RATE, w, 0⟩

abbrev wFabricTx : Nat := 0
abbrev wFlashRd : Nat := 1
abbrev wFlashWr : Nat := 2
abbrev wBmlWr : Nat := 3
abbrev wMutate : Nat := 4
abbrev wMover : Nat := 5

/-- The enabled weir of a polder for a flow kind and target. -/
def weirFor (s : State) (p kind target : Nat) : Option Nat :=
  (s.weirs.find? fun e =>
    let c := weiCfg s e.1
    fld c 63 52 = p && fld c 51 48 = kind && (kind = wMutate || fld c 47 40 = target) && fld c 0 0 = 1).map (·.1)

/-- Tokens added each microsecond, in units of 2^-20 (R122). -/
def weirInc (s : State) (w : Nat) : Nat :=
  let rate := fld (weiRate s w) 63 32
  if fld (weiCfg s w) 51 48 = wMutate then rate * 2 ^ 20 / 1000000 else rate * 2 ^ 20

/-- Burst in units of 2^-20. -/
def weirCap (s : State) (w : Nat) : Nat := fld (weiRate s w) 31 0 * 2 ^ 20

/-- Add the tokens of every whole microsecond up to `t` (R122). The microseconds at which the head of the queue waits for tokens are counted
(R134). -/
def weirFill (s : State) (w : Nat) (t : Stamp) : State :=
  let v := getWeir s w
  let n := t / us - v.last / us
  let inc := weirInc s w
  let short := v.queue.head?.elim 0 fun u => u.cost * 2 ^ 20 - v.tok
  let held := if inc = 0 then (if short = 0 then 0 else n) else min n (cdiv short inc)
  let s := bump s ⟨.WEI_CNT, w, 0⟩ 63 32 held
  setWeir s w { v with tok := min (weirCap s w) (v.tok + n * weirInc s w), last := max v.last (t / us * us) }

/-- The timing-wheel time of a unit: the first whole microsecond at which the tokens reach its cost, at most 1,023 µs ahead (R122). -/
def wheelTime (s : State) (w : Nat) (t : Stamp) (cost : Nat) : Stamp :=
  let v := getWeir s w
  let inc := weirInc s w
  let need := cost * 2 ^ 20 - v.tok
  let n := if inc = 0 then 1023 else min 1023 (max 1 (cdiv need inc))
  (t / us + n) * us

/-- Ask a flow's weir for a unit: true when it passes now. A unit that cannot pass waits in the weir's queue, and asks again
once WEIR_PASS has let it through. Polder 0's flows bind no weir (R106); another polder's flow without an enabled weir passes nothing. -/
def weirAsk (s : State) (p kind target cost dur : Nat) (tag : WeirTag) : Bool × State :=
  if p = 0 then (true, s) else
    match weirFor s p kind target with
    | Option.none => (false, s)
    | some w =>
      let s := weirFill s w s.now
      let v := getWeir s w
      if tag ∈ v.passed then (true, setWeir s w { v with passed := v.passed.erase tag })
      else if v.queue.any (·.tag = tag) then (false, s)
      else if v.queue.isEmpty && decide (cost * 2 ^ 20 ≤ v.tok) && fits s s.now dur then
        (true, setWeir s w { v with tok := v.tok - cost * 2 ^ 20 })
      else (false, setWeir s w { v with queue := v.queue ++ [⟨tag, cost, dur, wheelTime s w s.now cost⟩] })

end Sys2Proof.Machine
end

