-- ==== Sys2Proof/Machine/PowerBase.lean ====
section
/-! DEFINITION. The parts of the power controller that other units call: refused and aborted entries (R523, R525), wake events (R529), the
operating point (R530 to R532). -/

namespace Sys2Proof.Machine

abbrev pwrUnit : Nat := 0x8600
abbrev rPwrState : Reg := ⟨.PWR_STATE, 0, 0⟩
abbrev rPwrOp : Reg := ⟨.PWR_OP, 0, 0⟩
abbrev rPwrWake : Reg := ⟨.PWR_WAKE, 0, 0⟩

def modPwr (s : State) (f : Power → Power) : State := { s with pwr := f s.pwr }

/-- PWR_STATE.state (R521): 0 RUN, 1 IDLE, 2 SLEEP, 3 DEEP, 4 OFF. -/
def pwrState (s : State) : Nat := getF s rPwrState 2 0

/-- A power state begins at the current tick; no entry is in progress any more (R544). -/
def setPower (s : State) (v : Nat) : State :=
  modPwr (setReg s rPwrState (BitVec.ofNat 64 (s.tick.tick % 2 ^ 48 * 2 ^ 16 + v))) fun p => { p with entry := none }

/-- Whether the rails are up and reset is released: the part can act (R34, R553). -/
def alive (s : State) : Bool := s.pwr.railsUp && s.pwr.resetN

/-! ### Refusals (R525) -/

/-- Add to the counts that PWR_PLD_VAL reports for a polder. -/
def countPolder (s : State) (p entries floors : Nat) : State :=
  modPwr s fun x =>
    let c := mapGetD x.counts p (0, 0)
    { x with counts := mapSet x.counts p (satAdd 32 c.1 entries, satAdd 32 c.2 floors) }

/-- The counter field of a refuser's kind: register and upper half. -/
def kindCounter (kind : Nat) : RegName × Nat × Nat :=
  match kind with
  | 1 => (.PWR_CNT0, 63, 32)
  | 2 => (.PWR_CNT0, 31, 0)
  | 3 => (.PWR_CNT1, 63, 32)
  | 4 => (.PWR_CNT1, 31, 0)
  | _ => (.PWR_CNT2, 63, 32)

/-- An entry is refused or aborted: its refuser is counted and reported, and the sluice admits again (R523, R525). -/
def refuseEntry (s : State) (tick reason kind who : Nat) (aborted : Bool) : State :=
  match s.pwr.entry with
  | none => s
  | some e =>
    let r := kindCounter kind
    let s := bumpLive s ⟨r.1, 0, 0⟩ r.2.1 r.2.2 1
    let s := if aborted then bumpLive s ⟨.PWR_CNT2, 0, 0⟩ 31 0 1 else s
    let s := if kind = 1 then countPolder s who 1 0 else s
    let s := setReg s ⟨.PWR_REFUSE0, 0, 0⟩
      (BitVec.ofNat 64 (tick % 2 ^ 48 * 2 ^ 16 + kind * 2 ^ 13 + e.target * 2 ^ 10 + b2n aborted * 2 ^ 9 + reason * 2 ^ 4))
    let s := setReg s ⟨.PWR_REFUSE1, 0, 0⟩ (BitVec.ofNat 64 who)
    let s := setF (setF s rPwrState 6 4 0) rPwrState 3 3 0
    modPwr s fun p => { p with entry := none }

/-- An entry in progress is aborted (R525): by BML port `by_` below 4, and by the reeve otherwise. -/
def stopEntry (s : State) (by_ : Nat) : State :=
  refuseEntry s s.tick.nextNum 12 (if by_ < 4 then 2 else 5) (if by_ < 4 then by_ else 0) true

/-! ### The operating point (R530 to R532) -/

/-- Core voltage of an operating point in mV (R530). -/
def opMv (n : Nat) : Nat := (nth? [820, 740, 680, 620] n).getD 620

/-- PWR_OP.current and PWR_OP.target. -/
def opNow (s : State) : Nat := getF s rPwrOp 9 8
def opTarget (s : State) : Nat := getF s rPwrOp 1 0
def opFloor (s : State) : Nat := getF s rPwrOp 5 4

/-- Clock of an operating point in MHz (R530). -/
def opMhz (n : Nat) : Nat := (nth? [2100, 1600, 1200, 800] n).getD 800

/-- The voltage that the ramp leads to: the sought point's while rising, the current point's while falling (R531). -/
def rampGoal (s : State) : Nat := if s.pwr.goal < opNow s then opMv s.pwr.goal else opMv (opNow s)

/-- Core voltage at a stamp, in mV: a ramp of 25 mV/µs (R531). -/
def vcore (s : State) (t : Stamp) : Nat :=
  match s.pwr.rampAt with
  | none => getF s rPwrOp 63 48
  | some (t0, v0) =>
    let d := 25 * (t - t0) / us
    let g := rampGoal s
    if v0 ≤ g then min g (v0 + d) else max g (v0 - d)

/-- Seek an operating point from stamp `t`: to raise, the voltage rises first; to lower, the frequency waits for a berm (R531). -/
def seekOp (s : State) (goal : Nat) (t : Stamp) : State :=
  if goal = s.pwr.goal then s
  else
    let v := vcore s t
    let s := setF s rPwrOp 63 48 v
    modPwr s fun p => { p with goal := goal, rampAt := some (t, v) }

/-- The frequency switches where no step starts (R531): a lower one at once, a higher one once its voltage is reached. -/
def switchOp (s : State) (t : Stamp) : State :=
  let v := vcore s t
  if s.pwr.emergAt.isSome ∨ s.pwr.goal = opNow s then s
  else if s.pwr.goal < opNow s then
    if opMv s.pwr.goal ≤ v then
      modPwr (setF (setF s rPwrOp 63 48 v) rPwrOp 9 8 s.pwr.goal) fun p => { p with rampAt := some (t, v) }
    else s
  else modPwr (setF (setF s rPwrOp 63 48 v) rPwrOp 9 8 s.pwr.goal) fun p => { p with rampAt := some (t, v) }

/-- The point that the registers ask for: the target, or the floor if that is faster. -/
def opWanted (s : State) : Nat := min (opTarget s) (opFloor s)

/-- The highest proof point among loaded polders, or 3 (R44, R532). -/
def proofFloor (s : State) : Nat :=
  ((s.polders.filter (fun e => e.2.st ≠ .absent)).map fun e => getF s ⟨.PLD_CFG, e.1, 0⟩ 40 39).foldl min 3

/-- Count a refusal under R532: in all, and against the lowest-numbered loaded polder of the floor's proof point. -/
def floorRefusal (s : State) : State :=
  let s := bumpLive s ⟨.PWR_CNT4, 0, 0⟩ 31 0 1
  match s.polders.find? fun e => e.2.st ≠ .absent && getF s ⟨.PLD_CFG, e.1, 0⟩ 40 39 = opFloor s with
  | some e => countPolder s e.1 0 1
  | none => s

/-- PWR_OP.floor follows the loaded polders, and the sought point follows it while nothing throttles. A throttled point never lies below
the floor. -/
def setFloor (s : State) : State :=
  let old := opWanted s
  let s := setF s rPwrOp 5 4 (proofFloor s)
  if pwrState s ≠ 0 ∧ pwrState s ≠ 1 then s
  else seekOp s (if s.pwr.goal = old then opWanted s else min s.pwr.goal (opFloor s)) s.now

/-- The operating point is raised to a proof point before the boundary at which its polder activates (R532). -/
def raiseTo (s : State) (proof : Nat) : State :=
  let s := seekOp s (min s.pwr.goal proof) s.now
  if s.pwr.emergAt.isSome ∨ opNow s ≤ proof then s
  else modPwr (setF (setF s rPwrOp 9 8 s.pwr.goal) rPwrOp 63 48 (opMv s.pwr.goal)) fun p => { p with rampAt := none }

/-! ### Wake events and IDLE (R522, R526, R529) -/

/-- Whether a wake source is there in a power state (R529). -/
def sourceIn (src st : Nat) : Bool :=
  if st = 2 then decide (src < 7)
  else if st = 3 then src = 0 || src = 1 || src = 2 || src = 5 || src = 6
  else if st = 4 then src = 0 || src = 1
  else false

/-- A wake event of a source at `t` (R526, R529, R550): a first one is kept until the part leaves its state. -/
def wakeAt (s : State) (src : Nat) (t : Stamp) : State :=
  let st := pwrState s
  if !sourceIn src st || getF s rPwrWake src src = 0 || !s.pwr.vauxOk then s
  else if st = 4 ∧ !s.pwr.vinOk then modPwr (setF s rPwrWake 14 8 (2 ^ src)) fun p => { p with woken := some src }
  else if s.pwr.wake.isSome then s
  else
    let s := modPwr s fun p => { p with wake := some (src, t) }
    if st = 2 then seekOp s (opWanted s) t else s

/-- The part leaves IDLE (R522). -/
def unIdle (s : State) : State := if pwrState s = 1 then setPower s 0 else s

end Sys2Proof.Machine
end

