-- ==== Sys2Proof/Machine/CollData.lean ====
section
/-! DEFINITION. What every unit reads of a collection in memory (R136 to R157, R162, R167, R220), the score of an item
(R170 to R177, R224) and the filter predicates (R178 to R180). -/

namespace Sys2Proof.Machine

def Coll.none : Coll :=
  { polder := 0, desc := 0, bases := [], groups := [], retained := [], consol := [], plan := Option.none, stepTick := Option.none,
    images := [], inDoubt := false, writer := true }

def getColl (s : State) (c : Nat) : Coll := mapGetD s.colls c Coll.none
def setColl (s : State) (c : Nat) (v : Coll) : State := { s with colls := mapSet s.colls c v }

/-! ### The descriptor (R162) and the mutation record (R220) -/

def cdW (s : State) (co : Coll) (n : Nat) : Word := rdW s (co.desc + 8 * n)
def cMetric (s : State) (co : Coll) : Nat := fld (cdW s co 0) 43 42
def cFormat (s : State) (co : Coll) : Nat := fld (cdW s co 0) 41 38
def cDim (s : State) (co : Coll) : Nat := fld (cdW s co 0) 37 24
def cPqM (s : State) (co : Coll) : Nat := fld (cdW s co 0) 23 16
def cDegree (s : State) (co : Coll) : Nat := fld (cdW s co 0) 15 8
/-- Width of the attribute record in bytes (R145). -/
def cAttrBytes (s : State) (co : Coll) : Nat :=
  match fld (cdW s co 0) 7 5 with
  | 1 => 8
  | 2 => 16
  | 3 => 32
  | 4 => 64
  | _ => 0
def cAttrFields (s : State) (co : Coll) : Nat := fld (cdW s co 0) 4 0
def cShard (s : State) (co : Coll) : Nat := fld (cdW s co 1) 63 40
def cSegLog (s : State) (co : Coll) : Nat := fld (cdW s co 1) 39 35
def cIdBase (s : State) (co : Coll) : Nat := fld (cdW s co 1) 33 0
def cParts (s : State) (co : Coll) : Nat := fld (cdW s co 2) 63 48
def cIdCount (s : State) (co : Coll) : Nat := fld (cdW s co 2) 34 0
def cFull (s : State) (co : Coll) : Bool := fld (cdW s co 3) 63 60 = 1
def cFullNs (s : State) (co : Coll) : Nat := fld (cdW s co 3) 59 48
def cDefBudget (s : State) (co : Coll) : Nat := fld (cdW s co 3) 47 32
def cDefBeam (s : State) (co : Coll) : Nat := fld (cdW s co 3) 31 27
def cTables (s : State) (co : Coll) : Nat := (cdW s co 4).toNat
def cSchema (s : State) (co : Coll) : Nat := (cdW s co 5).toNat
def cSegTab (s : State) (co : Coll) : Nat := (cdW s co 6).toNat
def cPartTab (s : State) (co : Coll) : Nat := (cdW s co 7).toNat

def mutW (s : State) (co : Coll) (n : Nat) : Word := rdW s (co.desc + 64 + 8 * n)
def mInsCand (s : State) (co : Coll) : Nat := fld (mutW s co 0) 63 53
def mInsBeam (s : State) (co : Coll) : Nat := fld (mutW s co 0) 52 48
def mInsBudget (s : State) (co : Coll) : Nat := fld (mutW s co 0) 47 32
def mFill (s : State) (co : Coll) : Bool := fld (mutW s co 0) 31 31 = 1
def mReplicated (s : State) (co : Coll) : Bool := fld (mutW s co 0) 30 30 = 1
def mSlack (s : State) (co : Coll) : F32 := BitVec.ofNat 32 (fld (mutW s co 1) 63 32)
def mApplyMax (s : State) (co : Coll) : Nat := fld (mutW s co 1) 31 16
def mFoldPages (s : State) (co : Coll) : Nat := fld (mutW s co 2) 63 32
def mFoldPerTick (s : State) (co : Coll) : Nat := fld (mutW s co 2) 31 16
def mConsolRatio (s : State) (co : Coll) : Nat := fld (mutW s co 2) 15 0
def mDeltaRegion (s : State) (co : Coll) : Nat := fld (mutW s co 4) 59 48

/-- Take the collection's next mutation sequence number (R221). -/
def takeMseq (s : State) (co : Coll) : State × Nat :=
  let n := rdN s (co.desc + 88)
  (wrW s (co.desc + 88) (BitVec.ofNat 64 (n + 1)), n)

/-- Bytes of a code of a format (R138). -/
def codeBytes (format dim m : Nat) : Nat :=
  match format with
  | 0 => 2 * dim
  | 1 => dim
  | 2 => dim
  | 3 => dim / 2
  | 4 => dim / 8
  | _ => m
def cCodeBytes (s : State) (co : Coll) : Nat := codeBytes (cFormat s co) (cDim s co) (cPqM s co)

/-- What a geometry table entry holds of a collection (R242). -/
def geomOf (s : State) (co : Coll) : Geom :=
  { metric := cMetric s co, format := cFormat s co, dim := cDim s co, pqM := cPqM s co, degree := cDegree s co, attrBytes := cAttrBytes s co,
    attrFields := cAttrFields s co, slack := mSlack s co, fill := mFill s co }

/-- A collection's geometry table entry (R242). -/
def bsuGeom (s : State) (co : Coll) : Geom := co.geom.getD (geomOf s co)

/-- The smallest power of two that is at least `n` and at least `p`. -/
def powUp (n : Nat) : Nat → Nat → Nat
  | 0, p => p
  | fuel + 1, p => if n ≤ p then p else powUp n fuel (2 * p)

/-- The code stride (R140). -/
def strideOf (n : Nat) : Nat := if n ≤ 64 then powUp n 4 8 else cdiv n 64 * 64
def cStride (s : State) (co : Coll) : Nat := strideOf (cCodeBytes s co)

/-- The stride of a full vector and the records of a 16 KiB unit (R147). -/
def cFullStride (s : State) (co : Coll) : Nat := cdiv (2 * cDim s co) 512 * 512
def cFullPer (s : State) (co : Coll) : Nat := 16384 / cFullStride s co

def cSegments (s : State) (co : Coll) : Nat := cdiv (cIdCount s co) (2 ^ cSegLog s co)

/-- Whether an id lies in the collection's range (R136). -/
def cHas (s : State) (co : Coll) (id : Nat) : Bool :=
  decide (cIdBase s co ≤ id) && decide (id < cIdBase s co + cIdCount s co)

/-- Segment and index of an id (R148). -/
def cSegOf (s : State) (co : Coll) (id : Nat) : Nat := (id - cIdBase s co) / 2 ^ cSegLog s co
def cIxOf (s : State) (co : Coll) (id : Nat) : Nat := (id - cIdBase s co) % 2 ^ cSegLog s co
def cIdAt (s : State) (co : Coll) (seg ix : Nat) : Nat := cIdBase s co + seg * 2 ^ cSegLog s co + ix

/-- Ids of a segment: the last one covers only ids below id_base + id_count (R148). -/
def cSegSize (s : State) (co : Coll) (seg : Nat) : Nat := min (2 ^ cSegLog s co) (cIdCount s co - seg * 2 ^ cSegLog s co)

/-- Global id (R137). -/
def cGlobal (s : State) (co : Coll) (id : Nat) : Nat := cShard s co * 2 ^ 40 + id

def cNewest (s : State) (co : Coll) (seg : Nat) : Nat := rdN s (cSegTab s co + 16 * seg)
def cSegPart (s : State) (co : Coll) (seg : Nat) : Nat := fld (rdW s (cSegTab s co + 16 * seg + 8)) 63 48
def cWalkDie (s : State) (co : Coll) (part : Nat) : Nat := fld (rdW s (cPartTab s co + 16 * part)) 1 0
def cEntryList (s : State) (co : Coll) (part : Nat) : Nat := rdN s (cPartTab s co + 16 * part + 8)

/-- Segments of a partition. -/
def cPartSegs (s : State) (co : Coll) (part : Nat) : List Nat :=
  (List.range (cSegments s co)).filter fun g => cSegPart s co g = part

/-- Partition of an id. -/
def cPartOf (s : State) (co : Coll) (id : Nat) : Nat := cSegPart s co (cSegOf s co id)

/-! ### Versions (R153, R154, R167) -/

/-- Follow prev from a record to the first whose valid_from is at most `e`; 0 when none (R154). -/
def resolveFrom (s : State) (e : Nat) : Nat → Nat → Nat
  | 0, _ => 0
  | fuel + 1, a => if a = 0 then 0 else if fld (rdW s a) 47 0 ≤ e then a else resolveFrom s e fuel (rdN s (a + 8))

/-- A chain holds at most the versions of the 1,023 ticks a pin may last and those retained beside them (R56, R58). -/
abbrev chainFuel : Nat := 4096

/-- The version record of a segment at epoch `e` (R154). -/
def cResolve (s : State) (co : Coll) (seg e : Nat) : Nat := resolveFrom s e chainFuel (cNewest s co seg)

/-- The entry-point record of a partition at epoch `e` (R167). -/
def cResolveEp (s : State) (co : Coll) (part e : Nat) : Nat := resolveFrom s e chainFuel (cEntryList s co part)

/-- The entry points of a record, in list order (R167). -/
def epIds (s : State) (a : Nat) : List Nat :=
  if a = 0 then [] else (List.range (fld (rdW s (a + 16)) 6 0)).map fun i => fld (rdW s (a + 64 + 8 * i)) 33 0

/-- The components of a segment version. -/
inductive Comp where
  | codes | adj | attr | tomb
  deriving DecidableEq, Repr

/-- Word of a version record that holds a component's page table (R153). -/
def Comp.word : Comp → Nat
  | .codes => 2
  | .adj => 3
  | .attr => 4
  | .tomb => 5

/-- Bytes of a component's record (R149). -/
def recBytes (s : State) (co : Coll) : Comp → Nat
  | .codes => cStride s co
  | .adj => 5 * cDegree s co
  | .attr => cAttrBytes s co
  | .tomb => 0

/-- Records of a page (R149, R150). -/
def perPage (s : State) (co : Coll) (c : Comp) : Nat :=
  if c = .tomb then 524288 else let n := recBytes s co c; if n = 0 then 0 else 65536 / n

/-- Pages of a component of a segment. -/
def compPages (s : State) (co : Coll) (seg : Nat) (c : Comp) : Nat :=
  let n := perPage s co c
  if n = 0 then 0 else cdiv (cSegSize s co seg) n

def ptOf (s : State) (ver : Nat) (c : Comp) : Nat := if ver = 0 then 0 else rdN s (ver + 8 * c.word)

/-- A page table entry (R151); an absent table reads as not valid. -/
def ptEntry (s : State) (ver : Nat) (c : Comp) (page : Nat) : Word :=
  let pt := ptOf s ver c
  if pt = 0 then 0 else rdW s (pt + 8 * page)
def pteValid (w : Word) : Bool := fld w 63 63 = 1
def pteDelta (w : Word) : Bool := fld w 62 62 = 1
def ptePage (w : Word) : Nat := fld w 40 16 * 65536
def mkPte (delta : Bool) (page : Nat) : Word := BitVec.ofNat 64 (2 ^ 63 + b2n delta * 2 ^ 62 + page)

/-- Device address of a record, when its page exists (R149, R151). -/
def recAddr (s : State) (co : Coll) (ver : Nat) (c : Comp) (ix : Nat) : Option Nat :=
  let per := perPage s co c
  if ver = 0 ∨ per = 0 then Option.none else
    let w := ptEntry s ver c (ix / per)
    if pteValid w then
      some (ptePage w + (if c = .tomb then ix % per / 8 else ix % per * recBytes s co c))
    else Option.none

/-- The code bytes of an item: zeros where the page is absent (R152). -/
def readCode (s : State) (co : Coll) (ver ix : Nat) : List Byte :=
  match recAddr s co ver .codes ix with
  | some a => rdBytes s a (cCodeBytes s co)
  | Option.none => List.replicate (cCodeBytes s co) 0

/-- A slot of an adjacency record (R142). -/
abbrev emptySlot : Nat := 0xFFFFFFFFFF

/-- The slots of an adjacency record: all empty where the page is absent (R152). -/
def readAdj (s : State) (co : Coll) (ver ix : Nat) : List Nat :=
  match recAddr s co ver .adj ix with
  | some a => (List.range (cDegree s co)).map fun i => leNat (rdBytes s (a + 5 * i) 5)
  | Option.none => List.replicate (cDegree s co) emptySlot

/-- The filled slots of a record, up to its first empty slot (R143). -/
def filled (slots : List Nat) : List Nat := slots.takeWhile (· ≠ emptySlot)

/-- An attribute record: zeros where the page is absent (R152). -/
def readAttr (s : State) (co : Coll) (ver ix : Nat) : List Byte :=
  match recAddr s co ver .attr ix with
  | some a => rdBytes s a (cAttrBytes s co)
  | Option.none => List.replicate (cAttrBytes s co) 0

/-- Whether an id is live in a version: tombstone bit 0 (R150, R152, R184). -/
def liveIn (s : State) (co : Coll) (ver ix : Nat) : Bool :=
  match recAddr s co ver .tomb ix with
  | some a => decide (bits (rdB s a).toNat (ix % 8) (ix % 8) = 0)
  | Option.none => false

/-- The code a read of an item's record ends its request with, or 0 (R363). -/
def recCode (s : State) (co : Coll) (ver : Nat) (c : Comp) (ix : Nat) : Nat :=
  match recAddr s co ver c ix with
  | some a => rangeCode s a (if c = .tomb then 1 else recBytes s co c)
  | Option.none => 0

/-! ### Scores -/

/-- A BF16 value in memory. -/
def rdBf16 (s : State) (a : Nat) : F32 := bf16Widen (BitVec.ofNat 16 (leNat (rdBytes s a 2)))

/-- scale[c] of a collection (R139). -/
def cScale (s : State) (co : Coll) (c : Nat) : F32 := rdBf16 s (cTables s co + 2 * c)

/-- Codebook entry of subspace `j`, index `v`, sub-component `t` (R139). -/
def cBook (s : State) (co : Coll) (j v t : Nat) : F32 :=
  rdBf16 s (cTables s co + ((j * 256 + v) * (cDim s co / cPqM s co) + t) * 2)

def codeByte (code : List Byte) (i : Nat) : Byte := (nth? code i).getD 0

/-- The stored integer of component c of an INT8 or INT4 code (R138). -/
def codeInt (fmt : Nat) (code : List Byte) (c : Nat) : Int :=
  if fmt = 2 then toSigned 8 (codeByte code c).toNat
  else
    let b := (codeByte code (c / 2)).toNat
    toSigned 4 (if c % 2 = 0 then b % 16 else b / 16)

/-- Component c of a code decoded to binary32 (R138, R171, R224). -/
def decodeComp (s : State) (co : Coll) (code : List Byte) (c : Nat) : F32 :=
  match cFormat s co with
  | 0 => bf16Widen (BitVec.ofNat 16 ((codeByte code (2 * c)).toNat + 256 * (codeByte code (2 * c + 1)).toNat))
  | 1 => f32Mul (e4m3Dec (codeByte code c)) (cScale s co c)
  | 2 => f32Mul (f32OfNatInt (codeInt 2 code c)) (cScale s co c)
  | 3 => f32Mul (f32OfNatInt (codeInt 3 code c)) (cScale s co c)
  | 4 => if bits (codeByte code (c / 8)).toNat (c % 8) (c % 8) = 1 then f32One else 0xBF800000#32
  | _ =>
    let u := cDim s co / cPqM s co
    cBook s co (c / u) (codeByte code (c / u)).toNat (c % u)

def decodeCode (s : State) (co : Coll) (code : List Byte) : List F32 :=
  (List.range (cDim s co)).map (decodeComp s co code)

/-- One term of the floating-point path (R171). -/
def fpTerm (l2 : Bool) (q x : F32) : F32 :=
  if l2 then let d := f32Sub q x; f32Mul d d else f32Mul q x

/-- The sum of the floating-point path (R171). -/
def fpSum (l2 : Bool) (q x : List F32) : F32 := laneSum (List.zipWith (fpTerm l2) q x)

/-- r of a COSINE query (R172). -/
def cosNorm (q : List F32) : F32 :=
  let n2 := fpSum false q q
  if f32Eq n2 0 then 0 else f32Div f32One (f32Sqrt n2)

/-- The score from a sum S: −S, −fl(S × r) or S (R175). -/
def scoreOf (metric : Nat) (r S : F32) : F32 :=
  match metric with
  | 0 => f32Neg S
  | 1 => f32Neg (f32Mul S r)
  | _ => S

/-- The integer path: quantised query and its scale, or none when the query is not finite (R173). -/
def intQuery (q' : List F32) : Option (F32 × List Int) :=
  let a := q'.foldl f32MaxAbs 0
  if !f32Finite a then Option.none
  else if f32Eq a 0 then some (0, q'.map fun _ => 0)
  else
    let sc := f32Div a 0x42FE0000#32
    some (sc, q'.map fun x => f32ToIntClip 127 (f32Div x sc))

/-- The sum of the integer path (R173). -/
def intSum (s : State) (co : Coll) (q : List F32) (code : List Byte) : F32 :=
  let q' := (List.range (cDim s co)).zipWith (fun c x => f32Mul x (cScale s co c)) q
  match intQuery q' with
  | Option.none => f32NaN
  | some (sc, qi) =>
    let dot := ((List.range (cDim s co)).zipWith (fun c x => x * codeInt (cFormat s co) code c) qi).foldl (· + ·) 0
    f32Mul sc (f32OfNatInt dot)

/-- T[j][v] of the table path (R174). -/
def tableEntry (s : State) (co : Coll) (l2 : Bool) (q : List F32) (j v : Nat) : F32 :=
  let u := cDim s co / cPqM s co
  seqSum 0 ((List.range u).map fun t => fpTerm l2 ((nth? q (j * u + t)).getD 0) (cBook s co j v t))

/-- G_g of eight entries (R174). -/
def groupOf8 (t : List F32) : F32 :=
  let g (i : Nat) : F32 := (nth? t i).getD 0
  f32Add (f32Add (f32Add (g 0) (g 1)) (f32Add (g 2) (g 3))) (f32Add (f32Add (g 4) (g 5)) (f32Add (g 6) (g 7)))

/-- The sum of the table path (R174). -/
def tableSum (s : State) (co : Coll) (l2 : Bool) (q : List F32) (code : List Byte) : F32 :=
  let m := cPqM s co
  let ts := (List.range m).map fun j => tableEntry s co l2 q j (codeByte code j).toNat
  let gs := (List.range (m / 8)).map fun g => groupOf8 (ts.drop (8 * g))
  seqSum (gs.headD 0) (gs.drop 1)

/-- The score of an item's code for a query (R170 to R176). -/
def scoreCode (s : State) (co : Coll) (query : List (BitVec 16)) (code : List Byte) : F32 :=
  let q := query.map bf16Widen
  let metric := cMetric s co
  let l2 := decide (metric = 2)
  let fmt := cFormat s co
  let S := if fmt = 5 then tableSum s co l2 q code
    else if (fmt = 2 ∨ fmt = 3) ∧ !l2 then intSum s co q code
    else fpSum l2 q (decodeCode s co code)
  scoreOf metric (if metric = 1 then cosNorm q else f32One) S

/-- pair(a, b) by decoded components (R224). -/
def pairScore (s : State) (co : Coll) (a b : List Byte) : F32 :=
  let metric := cMetric s co
  scoreOf metric f32One (fpSum (decide (metric = 2)) (decodeCode s co a) (decodeCode s co b))

/-! ### The order of scores (R203) -/

/-- Entry a ranks before entry b: lower score, then lower position (R182, R203). -/
def ranksBefore (a b : Entry) : Bool := f32Lt a.score b.score || (f32Eq a.score b.score && decide (a.pos < b.pos))

/-! ### Filters (R178 to R180) -/

/-- A schema field descriptor (R145). -/
def schemaField (s : State) (co : Coll) (f : Nat) : Nat := leNat (rdBytes s (cSchema s co + 4 * f) 4)

/-- The value of a field of an attribute record, as 64 bits (R146): type, value. -/
def attrValue (desc : Nat) (rec : List Byte) : Nat × Word :=
  let ty := bits desc 31 30
  let width := bits desc 29 24 + 1
  let off := bits desc 23 15
  let w := leNat ((rec.drop (off / 64 * 8)).take 8)
  let v := bits w (off % 64 + width - 1) (off % 64)
  (ty, if ty = 1 then BitVec.ofInt 64 (toSigned width v) else BitVec.ofNat 64 v)

/-- One operation of R179. -/
def filterOp (op ty : Nat) (v k : Word) : Bool :=
  match op with
  | 0 => true
  | 1 => v = k
  | 2 => if ty = 1 then v.slt k else v.ult k
  | 3 => if ty = 1 then v.sle k else v.ule k
  | 4 => (v &&& k) ≠ 0
  | _ => (v &&& k) = k

/-- Evaluate a filter: AND of clauses, each the OR of its terms (R178, R180). `clause` is the truth of the open clause so far. -/
def filterGo (s : State) (co : Coll) (rec : List Byte) : List Word → Bool → Bool
  | [], _ => true
  | w :: ws, clause =>
    let desc := schemaField s co (fld w 59 56)
    let (ty, v) := attrValue desc rec
    let ext := decide (fld w 53 53 = 1)
    let k : Word := if ext then ws.headD 0
      else if ty = 1 then BitVec.ofInt 64 (toSigned 48 (fld w 47 0)) else BitVec.ofNat 64 (fld w 47 0)
    let t := (filterOp (fld w 63 60) ty v k) != (decide (fld w 55 55 = 1))
    let c := clause || t
    let more := decide (fld w 54 54 = 1)
    match ws with
    | [] => c
    | x :: rest =>
      if ext then (if more then filterGo s co rec rest c else c && filterGo s co rec rest false)
      else if more then filterGo s co rec (x :: rest) c else c && filterGo s co rec (x :: rest) false

/-- Whether an item's attribute record passes a filter. -/
def passes (s : State) (co : Coll) (filter : List Word) (rec : List Byte) : Bool := filterGo s co rec filter false

/-- Whether a filter is well formed (R178 to R180). -/
def filterOk (s : State) (co : Coll) : List Word → Bool
  | [] => true
  | w :: ws =>
    let ty := bits (schemaField s co (fld w 59 56)) 31 30
    let op := fld w 63 60
    let base := decide (op ≤ 5) && decide (fld w 59 56 < cAttrFields s co) && decide (fld w 52 48 = 0)
      && !((op = 2 || op = 3) && ty = 2)
    if fld w 53 53 = 1 then
      match ws with
      | [] => false
      | _ :: rest => base && (rest ≠ [] || fld w 54 54 = 0) && filterOk s co rest
    else base && (ws ≠ [] || fld w 54 54 = 0) && filterOk s co ws

end Sys2Proof.Machine
end

