-- ==== Sys2Proof/Machine/Pool.lean ====
section
/-! DEFINITION. The crest pool: residency of the tiles of unpinned POOL regions, eviction by quota and age (R360, R361). -/

namespace Sys2Proof.Machine

/-- A polder's quota and limit on a die (R360). -/
def poolQuota (s : State) (p die : Nat) : Nat × Nat := (nth? (getPolder s p).quotas die).getD (0, 0)

/-- Regions of a polder's table that are granted. -/
def regionsOf (s : State) (p : Nat) : List (Nat × Region) := (List.range 4096).filterMap fun r => (regionOf s p r).map fun g => (r, g)

/-- Pool tile indices of a polder's pinned POOL regions on a die. -/
def pinnedTiles (s : State) (p die : Nat) : List Nat :=
  (regionsOf s p).flatMap fun e => if e.2.tier = 1 ∧ e.2.pinned ∧ e.2.die = die then (List.range (e.2.bytes / 65536)).map (e.2.base / 65536 + ·) else []

/-- Pool tiles of a die that the embedding prefetch buffer takes (R360). -/
def prefetchTiles (s : State) (die : Nat) : Nat := cdiv (getF s ⟨.EMB_CFG, die, 0⟩ 63 48 * 1024) 65536

/-- A polder's held count on a die (R360). -/
def poolHeld (s : State) (p die : Nat) : Nat :=
  (pinnedTiles s p die).length + (s.pool.filter fun x => x.die = die && x.polder = p).length + (if p = 0 then prefetchTiles s die else 0)

/-- Pool tiles of a die that are taken: pinned, resident or retired. -/
def takenTiles (s : State) (die : Nat) : List Nat :=
  s.polders.flatMap (fun e => pinnedTiles s e.1 die) ++ (s.pool.filter (·.die = die)).map (·.index) ++ (s.poolBad.filter (·.1 = die)).map (·.2)

/-- Free pool tiles of a die. -/
def poolFree (s : State) (die : Nat) : Nat := 2048 - (takenTiles s die).length - prefetchTiles s die

/-- The lowest free pool tile. -/
def freeTile (s : State) (die : Nat) : Option Nat :=
  if poolFree s die = 0 then none else let t := takenTiles s die; findFrom (fun i => !t.contains i) 2048 0

/-- Evict a resident tile, writing it back when it was written (R361). -/
def evict (s : State) (x : PoolTile) : State :=
  let s := { s with pool := s.pool.erase x }
  let s := bump s ⟨.MEM_POOL_CNT, x.die, 0⟩ 63 32 1
  if x.dirty then bump s ⟨.MEM_POOL_CNT, x.die, 0⟩ 31 0 1 else s

/-- The resident tile with the oldest last_use; ties go to the higher polder, then to the higher pool tile index. -/
def oldest (xs : List PoolTile) : Option PoolTile :=
  (sortBy (fun a b => decide (a.lastUse < b.lastUse) || (decide (a.lastUse = b.lastUse) &&
    (decide (b.polder < a.polder) || (decide (a.polder = b.polder) && decide (b.index < a.index))))) xs).head?

/-- The tile to evict for a polder that needs one (R361). -/
def victim (s : State) (p die : Nat) : Option PoolTile :=
  let here := s.pool.filter (·.die = die)
  if poolHeld s p die < (poolQuota s p die).1 then
    oldest (here.filter fun x => decide ((poolQuota s x.polder die).1 < poolHeld s x.polder die))
  else oldest (here.filter fun x => x.polder = p)

/-- Make a tile resident when a pool tile can be had (R361); a polder at its limit has none free (DEDUCED). -/
def makeResident (s : State) (p r die tile : Nat) (write : Bool) : State :=
  let put (s : State) : State :=
    match freeTile s die with
    | some i => { s with pool := s.pool ++ [⟨die, p, r, tile, i, s.tick.tick, write⟩] }
    | none => s
  if poolHeld s p die < (poolQuota s p die).2 ∧ (freeTile s die).isSome then put s
  else match victim s p die with
    | some x => put (evict s x)
    | none => s

/-- One access to a tile of an unpinned POOL region. A write to a tile that is not resident goes to the backing page, so the tile
becomes resident unwritten (R361). -/
def useTile (s : State) (p r die tile : Nat) (write : Bool) : State :=
  match s.pool.find? fun x => x.polder = p && x.region = r && x.tile = tile with
  | some x => { s with pool := s.pool.map fun y => if y = x then { x with lastUse := s.tick.tick, dirty := x.dirty || write } else y }
  | none => makeResident s p r die tile false

/-- An access to `n` bytes at an offset of a region (R361). -/
def poolUse (s : State) (p r off n : Nat) (write : Bool) : State :=
  match regionOf s p r with
  | some g => if g.tier = 1 ∧ !g.pinned ∧ n ≠ 0 then
      (List.range ((off + n - 1) / 65536 - off / 65536 + 1)).foldl (fun s i => useTile s p r g.die (off / 65536 + i) write) s
    else s
  | none => s

/-- AGE_EVICTION (R361): every resident tile whose last use is more than age_ticks old. -/
def ageEvict (s : State) : State :=
  (s.pool.filter fun x => let a := getF s ⟨.MEM_POOL_CFG, x.die, 0⟩ 15 0; a ≠ 0 && decide (x.lastUse + a < s.tick.tick)).foldl evict s

end Sys2Proof.Machine
end

