-- ==== Sys2Proof/Machine/HostWin.lean ====
section
/-! DEFINITION. Lines that hosts may hold: directory entries and the mirror (R368, R369, R372), accesses of the part's units
to them with recalls (R371, R374), and the notice ring (R376). -/

namespace Sys2Proof.Machine

/-- A directory entry (R368): 0 HOME, 1 SHARED, 2 OWNED. -/
def dirGet (s : State) (line : Nat) : Nat := mapGetD s.dir line 0
def dirState (e : Nat) : Nat := bits e 7 6
def dirOwner (e : Nat) : Nat := bits e 5 4
def dirSharers (e : Nat) : Nat := bits e 3 0
def mkOwned (h : Nat) : Nat := 2 * 64 + h * 16
def mkShared (mask : Nat) : Nat := if mask = 0 then 0 else 64 + mask

/-- Set a line's entry; the mirror bit is 1 exactly while it is OWNED (R369, R372). -/
def dirSet (s : State) (line e : Nat) : State :=
  { s with dir := mapPut 0 s.dir line e
           mirror := if dirState e = 2 then (if line ∈ s.mirror then s.mirror else line :: s.mirror) else s.mirror.filter (· ≠ line) }

def hwBase (s : State) (h : Nat) : Nat := (getReg s ⟨.MEM_HW_BASE, h, 0⟩).toNat
def hwSize (s : State) (h : Nat) : Nat := (getReg s ⟨.MEM_HW_SIZE, h, 0⟩).toNat

/-- The host whose window holds an address (R366). -/
def windowOf (s : State) (a : Nat) : Option Nat :=
  (List.range 4).find? fun h => decide (hwBase s h ≤ a) && decide (a < hwBase s h + hwSize s h)

def Window.fresh : Window :=
  { st := .closed, noticeIx := 0, notices := [], recalls := [], tok := 0, tokLast := 0, bytes := 0, bytesPrev := 0,
    withheld := none }
def getWin (s : State) (h : Nat) : Window := (nth? s.wins h).getD Window.fresh
def modWin (s : State) (h : Nat) (f : Window → Window) : State := { s with wins := modAt s.wins h f }
def winNum : WinState → Nat
  | .closed => 0
  | .open_ => 1
  | .recovering => 2
  | .lost => 3

/-! ### Messages to a host (R474, R475) -/

def BmlPort.fresh : BmlPort :=
  { trainAt := some 0, ever := false, since := 0, inits := 0, initLast := [], txNext := 0, replay := [], rxNext := 0, rxAny := false,
    missing := false, nakAt := 0, nakSame := none, resent := none, credit := [], pool := 0, owe := [], crd := none, txq := [], slots := [],
    hbSeq := 0, hbNext := none, unans := [], hbSeen := false, attachPend := false, gone := false, rings := [], waitq := [] }
def getBml (s : State) (n : Nat) : BmlPort := (nth? s.bml n).getD BmlPort.fresh
def modBml (s : State) (n : Nat) (f : BmlPort → BmlPort) : State := { s with bml := modAt s.bml n f }
def Ring.fresh : Ring := { cmdProd := 0, cplCons := 0, freed := 0, notify := true }
def getRing (s : State) (n r : Nat) : Ring := mapGetD (getBml s n).rings r Ring.fresh
def modRing (s : State) (n r : Nat) (f : Ring → Ring) : State :=
  modBml s n fun x => { x with rings := mapSet x.rings r (f (mapGetD x.rings r Ring.fresh)) }

/-- BML_LINK_STS.state of a port: 0 DOWN, 1 TRAINING, 2 ACTIVE, 3 RETRAIN. -/
def bmlState (s : State) (n : Nat) : Nat := getF s ⟨.BML_LINK_STS, n, 0⟩ 5 4

/-- The class of a message type and the data slots it has (R475); none for a reserved type. -/
def bmlType (t : Nat) : Option (Nat × Nat) :=
  if t = 0x01 ∨ t = 0x02 ∨ t = 0x04 then some (0, 0)
  else if t = 0x03 then some (0, 4)
  else if t = 0x08 ∨ t = 0x09 then some (1, 4)
  else if t = 0x10 then some (2, 0)
  else if t = 0x11 then some (2, 4)
  else if t = 0x18 then some (3, 0)
  else if t = 0x19 then some (3, 1)
  else if t = 0x20 ∨ t = 0x21 then some (4, 4)
  else if 0x22 ≤ t ∧ t ≤ 0x25 then some (4, 0)
  else if 0x28 ≤ t ∧ t ≤ 0x2A then some (5, 0)
  else if t = 0x30 then some (6, 1)
  else if 0x38 ≤ t ∧ t ≤ 0x3B then some (7, 0)
  else none

/-- A message's header slot (R474). -/
def bmlHeader (type load addr tag reason arg slots : Nat) : List Byte :=
  leBytes 8 (type * 2 ^ 58 + slots * 2 ^ 55 + load * 2 ^ 51 + addr % 2 ^ 48) ++ leBytes 8 (tag % 2 ^ 16 * 2 ^ 48 + reason * 2 ^ 40 + arg % 2 ^ 32)

/-- Queue a message to the host of a port: its class's credit lets it go (R471). A port that is not ACTIVE or RETRAIN has nobody to send
to, and before BML_CFG.open is 1 only EVT messages go (R489). -/
def bmlSend (s : State) (n type load addr tag reason arg : Nat) (data : List Byte) : State :=
  match bmlType type with
  | none => s
  | some (cls, _) =>
    if bmlState s n < 2 ∨ (cls ≠ 7 ∧ getF s ⟨.BML_CFG, n, 0⟩ 0 0 = 0) then s
    else modBml s n fun x => { x with txq := x.txq ++ [(cls, bmlHeader type load addr tag reason arg (data.length / 16) ++ data)] }

/-- A message without load and reason. -/
def bmlPush (s : State) (n type load addr tag arg : Nat) (data : List Byte) : State := bmlSend s n type load addr tag 0 arg data

/-- What a unit's access to a range meets. -/
inductive Access2 where
  | ok
  /-- It waits for a host's answer. -/
  | wait
  | code (n : Nat)
  deriving DecidableEq, Repr

/-- The host copies in the way of an access to a line: a read conflicts with OWNED, a write with any copy (R369). -/
def conflict (s : State) (write : Bool) (line : Nat) : Bool :=
  let e := dirGet s line
  dirState e = 2 || (write && dirState e = 1)

/-- Send the recall or invalidation of R369 for a line, once; a later waiter joins it (R371). -/
def recallLine (s : State) (ctx : Option Nat) (write : Bool) (line : Nat) : State :=
  let e := dirGet s line
  let hosts := if dirState e = 2 then [dirOwner e] else (List.range 4).filter fun h => bits (dirSharers e) h h = 1
  hosts.foldl (fun s h =>
    let w := getWin s h
    match w.recalls.find? (·.line = line) with
    | some _ => modWin s h fun w => { w with recalls := w.recalls.map fun r =>
        if r.line = line then { r with waits := r.waits ++ (ctx.toList.filter (fun c => !(r.waits.contains c))) } else r }
    | none =>
      let kind := if dirState e = 1 then 0x2A else if write then 0x29 else 0x28
      let s := modWin s h fun w => { w with recalls := w.recalls ++ [⟨line, h, kind, s.now, false, ctx.toList⟩] }
      bmlPush (bump s ⟨.MEM_HW_CNT0, h, 0⟩ 63 32 1) h kind 0 (line * 64) 0 0 []) s

/-- Write the notices of a window that wait, in ring order: a copy of the slot's line that the host holds is called in first (R369, R376).
A notice whose ring lies in failed memory is dropped. -/
def flushNotices (s : State) (h : Nat) : Nat → State
  | 0 => s
  | fuel + 1 =>
    let w := getWin s h
    match w.notices with
    | [] => s
    | (ix, ws) :: rest =>
      let log := getF s ⟨.MEM_HW_CFG, h, 0⟩ 53 50
      let a := hwBase s h + 64 * (ix % 2 ^ log)
      let next := modWin s h fun w => { w with notices := rest }
      if memLost s a then flushNotices (bump next ⟨.MEM_HW_CNT1, h, 0⟩ 31 0 1) h fuel
      else if w.st = .recovering ∧ s.mirror.contains (lineOf a) then s
      else if conflict s true (lineOf a) then recallLine s none true (lineOf a)
      else flushNotices (bmlPush (wrWords next a ws) h 0x3B 0 0 0 (ix % 2 ^ log) []) h fuel

/-- Write a notice into a window's ring, or count it when the ring is full or there is no window (R376). -/
def notice (s : State) (h kind : Nat) (w1 w2 w3 w4 : Word) : State :=
  let log := getF s ⟨.MEM_HW_CFG, h, 0⟩ 53 50
  let ix := (getWin s h).noticeIx
  if log = 0 then s
  else if 2 ^ log ≤ ix ∧ !Config.noticeFree h ix then bump s ⟨.MEM_HW_CNT1, h, 0⟩ 31 0 1
  else
    let phase := if ix / 2 ^ log % 2 = 0 then 1 else 0
    let ws : List Word := [BitVec.ofNat 64 (kind * 2 ^ 56 + h * 2 ^ 48 + tickOf s s.now), w1, w2, w3, w4, 0, 0, BitVec.ofNat 64 phase]
    flushNotices (modWin s h fun w => { w with noticeIx := ix + 1, notices := w.notices ++ [(ix, ws)] }) h (2 ^ log)

/-- A POISON notice for a run of lines. -/
def poisonNotice (s : State) (h line n : Nat) : State :=
  notice s h 1 (BitVec.ofNat 64 (line * 64)) (BitVec.ofNat 64 (n * 2 ^ 32)) 0 0

/-- A PUBLISH notice with a code. -/
def publishNotice (s : State) (h code version polder region : Nat) : State :=
  notice s h 2 0 (BitVec.ofNat 64 (code * 2 ^ 16)) (BitVec.ofNat 64 version) (BitVec.ofNat 64 (polder * 2 ^ 52 + region * 2 ^ 40))

/-- A WINDOW_STATE notice. -/
def windowNotice (s : State) (h : Nat) (st : WinState) : State :=
  notice s h 3 0 (BitVec.ofNat 64 (winNum st * 2 ^ 16)) 0 0

/-- The stack that holds the mirror of a stack's window rows (R372): where the loader placed it, or where it was rebuilt (R375). -/
def mirrorStack (s : State) (st : Nat) : Nat := mapGetD s.mirrorAt st (5 * ((st / 5 + 1) % 4) + st % 5)

/-- Whether the mirror of a stack can be read (R375). -/
def mirrorOk (s : State) (st : Nat) : Bool :=
  let m := mirrorStack s st
  !s.noMirror.contains st && getF s ⟨.MEM_CTL_STS, m, 0⟩ 1 0 ≠ 3 && !dieLost s (m / 5)

/-- A HOSTWIN line found uncorrectable twice, by the state of its mirror (R375). -/
def hostwinFail (s : State) (line : Nat) : State :=
  match windowOf s (line * 64) with
  | none => s
  | some h =>
    if !mirrorOk s (line * 64 / stackBytes) then windowNotice (modWin s h fun w => { w with st := .lost }) h .lost
    else if s.mirror.contains line then s
    else
      let s := dirSet (poisonLine s line) line 0
      poisonNotice (bump s ⟨.MEM_HW_CNT1, h, 0⟩ 63 32 1) h line 1

/-- What the controller does on reading a line, HOSTWIN lines included (R363, R375). -/
def touchWindow (s : State) (line : Nat) : State :=
  let bad := match lineOk s line with
    | .uncorrectable => lineHostwin s line && !memLost s (line * 64)
    | _ => false
  let s := touchLine s line
  if bad then hostwinFail s line else s

/-- A unit's access to a range: window states first (R373, R374), then host copies (R371), then the lines' own states (R363): of a write,
those of the lines that it writes in part.
`ctx` is the request that waits. -/
def hostAccess (s : State) (ctx : Option Nat) (a n : Nat) (write : Bool) : Access2 × State :=
  let lines := linesOf a n
  match windowOf s a with
  | some h =>
    let w := getWin s h
    if w.st = .lost then (.code Code.HOSTWIN_LOST, s)
    else if w.st = .recovering ∧ lines.any (fun l => s.mirror.contains l) then (.code Code.MEM_POISON, s)
    else go lines
  | none => go lines
where
  /-- Recalls, then errors. -/
  go (lines : List Nat) : Access2 × State :=
    let held := lines.filter (conflict s write)
    if !held.isEmpty then (.wait, held.foldl (fun s l => recallLine s ctx write l) s)
    else
      let cut (l : Nat) : Bool := decide (l * 64 < a) || decide (a + n < l * 64 + 64)
      let c := firstCode (lines.map fun l => if !write || cut l then lineCode s l
        else if memLost s (l * 64) then Code.MEM_STACK_LOST else 0)
      let s := (lines.filter fun l => !write || cut l).foldl touchWindow s
      if c = 0 then (.ok, s) else (.code c, s)

/-- Read a request's bytes: run `k` on them, wait, or end the request (R363, R371). -/
def withBytes (s : State) (c a n : Nat) (k : State → List Byte → State) : State :=
  let d := (getCtx s c).desc
  let o := operandAddr s d
  match hostAccess s (some c) a n false with
  | (.ok, s') =>
    let s' := if o ≤ a ∧ a < o + dOpBytes d then poolUse s' (dPolder d) (dOpRegion d) (dOpOffset d + (a - o)) n false else s'
    k s' (rdBytes s a n)
  | (.wait, s') => s'
  | (.code e, s') => failCtx s' c e

/-- Write a request's bytes: run `k` after the write, wait, or end the request. -/
def withWrite (s : State) (c a : Nat) (bs : List Byte) (k : State → State) : State :=
  match hostAccess s (some c) a bs.length true with
  | (.ok, s') => k (wrBytes s' a bs)
  | (.wait, s') => s'
  | (.code e, s') => failCtx s' c e

/-- Pass a result's bytes for a host window through the weir of the window's port, 256 bytes a unit (R121, R124); true once all have passed. -/
def resultFlow (s : State) (c p h n : Nat) : Nat → Bool × State
  | 0 => (true, s)
  | fuel + 1 =>
    let done := (getCtx s c).work.resSent
    if n ≤ done then (true, s)
    else
      let (ok, s) := weirAsk s p wBmlWr h (min 256 (n - done)) 0 (.flow (flowTag 6 c done))
      if ok then resultFlow (modWork s c fun w => { w with resSent := done + 256 }) c p h n fuel else (false, s)

/-- Write a request's result, cut at `grain` (R82), then run `k` with the bytes written. -/
def withResult (s : State) (c off grain : Nat) (bs : List Byte) (k : State → Nat → State) : State :=
  let d := (getCtx s c).desc
  let room := dResBytes d - off
  let n := if bs.length ≤ room then bs.length else room / grain * grain
  match (if (getCtx s c).src.isMember then none else resultAddr s d) with
  | some a =>
    let (ok, s) := match windowOf s a with
      | some h => resultFlow s c (dPolder d) h (off + n) (cdiv (off + n) 256 + 1)
      | none => (true, s)
    if !ok then s else withWrite s c (a + off) (bs.take n) fun s => k (poolUse s (dPolder d) (dResRegion d) (dResOffset d + off) n true) n
  | none => k s 0

end Sys2Proof.Machine
end

