-- ==== Sys2Proof/Machine/Walk.lean ====
section
/-! DEFINITION. The graph walk: slots (R164, R165), the walk procedure (R181 to R186), its batches (R188, R190) and its
partial list (R187). -/

namespace Sys2Proof.Machine

/-- The key of a query slot. -/
def slotKey (walker slot : Nat) : Nat := walker * 16 + slot
def slotReg (n : RegName) (key : Nat) : Reg := ⟨n, key / 16, key % 16⟩
/-- WLK_SLOT_CFG of a slot (R197). -/
def slotCfg (s : State) (key : Nat) : Word := getReg s (slotReg .WLK_SLOT_CFG key)
def slotPolder (w : Word) : Nat := fld w 63 52
def slotStage (w : Word) : Nat := fld w 51 46
def slotQueueLen (w : Word) : Nat := fld w 45 36
def slotMaxBeam (w : Word) : Nat := fld w 35 31
def slotMaxFilter (w : Word) : Nat := fld w 30 26
def slotRounds (w : Word) : Nat := fld w 25 20
def slotEnable (w : Word) : Bool := fld w 0 0 = 1

def getWalk (s : State) (key : Nat) : Option Walk := mapGet s.walks key
def setWalk (s : State) (key : Nat) (w : Walk) : State := { s with walks := mapSet s.walks key w }
def freeSlot (s : State) (key : Nat) : State := { s with walks := mapDel s.walks key }

/-- A walk with its counts of this batch: scores, NaN scores, bad edges, lost queue entries, a full visited set. -/
structure WalkAcc where
  w      : Walk
  scores : Nat := 0
  nans   : Nat := 0
  bad    : Nat := 0
  lost   : Nat := 0
  full   : Bool := false

/-- The version of an id's segment in the walk's version map (R190). -/
def walkVer (s : State) (co : Coll) (w : Walk) (id : Nat) : Nat :=
  (w.vers.find? (·.1 = cSegOf s co id)).elim 0 (·.2)

/-- Insert into the candidate queue (R182): the queue, and whether an unexpanded entry was lost. -/
def queueInsert (cap : Nat) (q : List QEntry) (e : QEntry) : List QEntry × Bool :=
  let q' := insertBy (fun a b => f32Lt a.score b.score || (f32Eq a.score b.score && decide (a.pos < b.pos))) e q
  if q'.length ≤ cap then (q', false)
  else (q'.dropLast, (q'.getLast?).elim false (fun x => !x.exp))

/-- Offer a valid item to the result list with its left-out tallies (R185). -/
def offer (w : Walk) (e : Entry) : Walk :=
  let r := insertBy ranksBefore e w.results
  if r.length ≤ w.k then { w with results := r } else
    match r.getLast? with
    | none => w
    | some x =>
      let r' := r.dropLast
      let kth := (r'.getLast?).elim f32NaN (·.score)
      let w := { w with results := r', leftN := w.leftN + 1, leftSum := f32Add w.leftSum x.score }
      if f32Eq x.score kth then
        if f32Eq w.tieS kth then { w with tieN := w.tieN + 1 } else { w with tieS := kth, tieN := 1 }
      else w

/-- score_and_offer of R181. -/
def scoreAndOffer (s : State) (co : Coll) (cap : Nat) (a : WalkAcc) (x : Nat) : WalkAcc :=
  let w := a.w
  let ver := walkVer s co w x
  let ix := cIxOf s co x
  let code := readCode s co ver ix
  let sc := scoreCode s co w.query code
  let pos := w.next
  let err := if w.err ≠ 0 then w.err else
    let c := recCode s co ver .codes ix
    if c ≠ 0 then c else
      let t := recCode s co ver .tomb ix
      if t ≠ 0 then t else if w.filter.isEmpty then 0 else recCode s co ver .attr ix
  let w := { w with next := pos + 1, err := err }
  if f32IsNaN sc then { a with w := w, scores := a.scores + 1, nans := a.nans + 1 } else
    let (q, lost) := queueInsert cap w.queue ⟨sc, pos, x, false⟩
    let w := { w with queue := q }
    let w := if liveIn s co ver ix && passes s co w.filter (readAttr s co ver ix) then offer w ⟨sc, pos, x⟩ else w
    { a with w := w, scores := a.scores + 1, lost := a.lost + b2n lost }

/-- Visit ids in order, scoring each that is not in the visited set. -/
def seedAll (s : State) (co : Coll) (cap : Nat) : WalkAcc → List Nat → WalkAcc
  | a, [] => a
  | a, x :: xs =>
    if x ∈ a.w.visited then seedAll s co cap a xs
    else seedAll s co cap (scoreAndOffer s co cap { a with w := { a.w with visited := x :: a.w.visited } } x) xs

/-- Gather from one adjacency record (R181): what was found so far, newest first. -/
def gatherRec (s : State) (co : Coll) (part : Nat) : WalkAcc → List Nat → List Nat → WalkAcc × List Nat
  | a, found, [] => (a, found)
  | a, found, x :: xs =>
    if x = emptySlot then (a, found)
    else if !(decide (x < 2 ^ 34) && cHas s co x && decide (cPartOf s co x = part)) then ({ a with bad := a.bad + 1 }, found)
    else if x ∈ a.w.visited then gatherRec s co part a found xs
    else if a.w.visited.length ≥ 16384 then ({ a with full := true }, found)
    else gatherRec s co part { a with w := { a.w with visited := x :: a.w.visited } } (x :: found) xs

/-- Gather from the front, until the visited set is full. -/
def gatherAll (s : State) (co : Coll) (part : Nat) : WalkAcc → List Nat → List Nat → WalkAcc × List Nat
  | a, found, [] => (a, found)
  | a, found, f :: fs =>
    if a.full then (a, found) else
      let ver := walkVer s co a.w f
      let c := recCode s co ver .adj (cIxOf s co f)
      let a := if a.w.err = 0 ∧ c ≠ 0 then { a with w := { a.w with err := c } } else a
      let (a, found) := gatherRec s co part a found (readAdj s co ver (cIxOf s co f))
      gatherAll s co part a found fs

/-- The first unexpanded entries of the queue, in queue order. -/
def frontOf (w : Walk) : List QEntry := (w.queue.filter (fun e => !e.exp)).take (min w.beam (w.budget - w.expand))

/-- One round of R181. -/
def walkRound (s : State) (co : Coll) (cap : Nat) (a : WalkAcc) : WalkAcc :=
  let front := frontOf a.w
  let w := { a.w with queue := a.w.queue.map fun e => if front.contains e then { e with exp := true } else e
                      expand := a.w.expand + front.length }
  let (a, found) := gatherAll s co w.part { a with w := w } [] (front.map (·.id))
  found.reverse.foldl (scoreAndOffer s co cap) a

/-- The end tests of R181, in their order; a full visited set ends with BUDGET. -/
def endTest (a : WalkAcc) : WalkAcc :=
  if a.full then { a with w := { a.w with reason := .budget } }
  else if a.w.queue.all (·.exp) then { a with w := { a.w with reason := .exhausted } }
  else if a.w.expand = a.w.budget then { a with w := { a.w with reason := .budget } }
  else a

/-- Up to `n` rounds, fewer when the walk ends (R188). -/
def walkRounds (s : State) (co : Coll) (cap : Nat) : Nat → WalkAcc → WalkAcc
  | 0, a => a
  | n + 1, a => if a.w.reason ≠ .none then a else walkRounds s co cap n (endTest (walkRound s co cap a))

/-- Store a walk after a batch and count what it did (R199); a memory error ends the request (R363). -/
def endBatch (s : State) (key : Nat) (before : Walk) (a : WalkAcc) : State :=
  let s := bump s (slotReg .WLK_SLOT_EXP key) 63 0 (a.w.expand - before.expand)
  let s := bump s (slotReg .WLK_SLOT_SCORE key) 63 0 a.scores
  let s := bump s (slotReg .WLK_SLOT_CNT key) 31 0 a.lost
  let s := bump s (slotReg .WLK_SLOT_ERR0 key) 63 32 a.bad
  let s := bump s (slotReg .WLK_SLOT_ERR0 key) 31 0 a.nans
  let s := bump s (slotReg .WLK_SLOT_ERR1 key) 63 32 (b2n a.full)
  if a.w.err ≠ 0 then failCtx s a.w.ctx a.w.err
  else setWalk s key { a.w with st := if a.w.reason = .none then .ready else .offering }

/-- The partial list of a walk (R187). -/
def walkList (s : State) (w : Walk) : PList :=
  let co := getColl s w.coll
  let full := decide (w.results.length = w.k)
  let kth := (w.results.getLast?).elim f32NaN (·.score)
  { src := w.item.getD w.part, entries := w.results.map fun e => { e with id := cGlobal s co e.id }, full := full,
    leftCount := w.leftN, leftSum := w.leftSum, tie := if full && f32Eq w.tieS kth then w.tieN else 0, kth := kth,
    reason := w.reason, expanded := w.expand, poison := false, covers := [w.item.getD w.part] }

/-- A partial list was accepted: the slot counts it and becomes free (R187, R199). -/
def acceptWalk (s : State) (key : Nat) (w : Walk) : State :=
  let s := bump s (slotReg .WLK_SLOT_CNT key) 63 32 1
  let short := decide (w.results.length < w.k)
  let s := if short && w.reason = .budget then bump s (slotReg .WLK_SLOT_SHORT key) 63 32 1
    else if short then bump s (slotReg .WLK_SLOT_SHORT key) 31 0 1 else s
  freeSlot s key

/-- Address and size of an item record of a mutation's operand (R216). -/
def itemBytes (s : State) (co : Coll) : Nat :=
  64 + cdiv (2 * cDim s co) 64 * 64 + cdiv (cStride s co) 64 * 64 + cdiv (cAttrBytes s co) 64 * 64

/-- Bytes from one record of a mutation's operand to the next (R216). -/
def mutRecBytes (s : State) (co : Coll) (d : List Word) : Nat := if dKind d = kDelete then 8 else itemBytes s co

def itemAddr (s : State) (co : Coll) (d : List Word) (i : Nat) : Nat := operandAddr s d + i * mutRecBytes s co d
/-- Local id of record i. -/
def itemId (s : State) (co : Coll) (d : List Word) (i : Nat) : Nat := rdN s (itemAddr s co d i)
def itemVec (s : State) (co : Coll) (d : List Word) (i : Nat) : List Byte := rdBytes s (itemAddr s co d i + 64) (2 * cDim s co)
def itemCode (s : State) (co : Coll) (d : List Word) (i : Nat) : List Byte :=
  rdBytes s (itemAddr s co d i + 64 + cdiv (2 * cDim s co) 64 * 64) (cCodeBytes s co)
def itemAttr (s : State) (co : Coll) (d : List Word) (i : Nat) : List Byte :=
  rdBytes s (itemAddr s co d i + 64 + cdiv (2 * cDim s co) 64 * 64 + cdiv (cStride s co) 64 * 64) (cAttrBytes s co)

/-- Whether record i is well formed: an id of the collection and reserved bits zero (R216, R217). -/
def itemOk (s : State) (co : Coll) (d : List Word) (i : Nat) : Bool :=
  cHas s co (itemId s co d i) &&
    (dKind d = kDelete || (rdBytes s (itemAddr s co d i + 8) 56).all (· = 0))

/-- BF16 components of bytes. -/
def bf16s : List Byte → List (BitVec 16)
  | lo :: hi :: bs => (hi ++ lo) :: bf16s bs
  | _ => []

/-- Refuse a mutation by a code that every record carries, or that one record caused (R219). -/
def mutStatus (n : Nat) (code : Nat) (at_ : Option Nat) : List Nat :=
  (List.range n).map fun i => if at_.elim true (· = i) then code else 0

/-- Write the per-record statuses where there is room for them all (R219). -/
def writeStatus (s : State) (c : Nat) (sts : List Nat) (k : State → State) : State :=
  let d := (getCtx s c).desc
  if 8 * sts.length ≤ dResBytes d then
    withResult s c 0 8 (sts.flatMap (leBytes 8)) fun s n => k (modWork s c fun w => { w with written := n })
  else k s

/-- End a refused mutation once its statuses are written (R219). -/
def finishRefuse (s : State) (c : Nat) : State :=
  match (getCtx s c).work.refuse with
  | some code => writeStatus s c (getCtx s c).work.status fun s => failCtx s c code
  | Option.none => s

/-- End a mutation by a refusal with its statuses (R219, R241). A host copy of a result line is recalled first; RETIREMENT then
ends the request. -/
def refuseMut (s : State) (c code : Nat) (rec : Option Nat) : State :=
  if isLive s c then
    finishRefuse (modWork s c fun w => { w with status := mutStatus (dItems (getCtx s c).desc) code rec, refuse := some code, applied := false }) c
  else s

/-- The checks when a mutation's first stage begins: BAD_ITEM and NOT_WRITER (R217, R232). -/
def mutBegin (s : State) (c : Nat) : Option (Nat × Option Nat) :=
  let d := (getCtx s c).desc
  let co := getColl s (dColl d)
  if !co.writer then some (Code.NOT_WRITER, Option.none)
  else match (List.range (dItems d)).find? (fun i => !itemOk s co d i) with
    | some i => some (Code.BAD_ITEM, some i)
    | Option.none => Option.none

/-- The first INSERT or UPSERT record of a partition without a search (R222). -/
def nextItem (s : State) (c part : Nat) : Option Nat :=
  let k := getCtx s c
  let co := getColl s (dColl k.desc)
  (List.range (dItems k.desc)).find? fun i =>
    cPartOf s co (itemId s co k.desc i) = part && (mapGet k.work.searches i).isNone
      && !(s.walks.any fun e => e.2.ctx = c && e.2.gen = k.gen && e.2.item = some i)

/-- The stages of a path through a queue graph, from a stage on (R87). -/
def stagesFrom (pol : Polder) : Nat → Nat → List Stage
  | 0, _ => []
  | fuel + 1, n => match stageOf pol n with
    | Option.none => []
    | some st => st :: st.succ.elim [] (stagesFrom pol fuel)

/-- The path of a request through its polder's queue graph. -/
def pathOf (s : State) (k : Ctx) : List Stage :=
  let pol := getPolder s k.polder
  (entryOf pol (dEntry k.desc)).elim [] fun e => stagesFrom pol 64 e.first

/-- The one k of a request's walks, scans and package-level merge (R206, R208): a PIPELINE that reranks keeps its rerank candidates, which are
the package-level result of its walks. -/
def walkK (s : State) (k : Ctx) : Nat :=
  let d := k.desc
  if dKind d = kPipeline ∧ fld (dB d 1) 63 56 ≠ 0xFF ∧ (pathOf s k).any (·.kind = .rerank) then fld (dB d 1) 55 45 else dK d

/-- A walk before batch 0, with the request's parameters (R168). -/
def newWalk (s : State) (c part : Nat) (item sub : Option Nat) (query : List (BitVec 16)) : Walk :=
  let k := getCtx s c
  let co := getColl s (dColl k.desc)
  let m := item.isSome
  { ctx := c, gen := k.gen, coll := dColl k.desc, part := part, item := item, sub := sub, st := .setup,
    k := if m then mInsCand s co else walkK s k,
    beam := if m then mInsBeam s co else if dBeam k.desc = 0 then cDefBeam s co else dBeam k.desc,
    budget := if m then mInsBudget s co else if dBudget k.desc = 0 then cDefBudget s co else dBudget k.desc,
    filter := if m then [] else dFilter k.desc, query := query, pin := k.pin, queue := [], visited := [], results := [],
    vers := [], next := 0, expand := 0, leftN := 0, leftSum := 0, tieS := f32NaN, tieN := 0, reason := .none, err := 0 }

/-- Whether a slot may take a walk of a stage on a die (R165). -/
def slotTakes (s : State) (key p n d : Nat) : Bool :=
  let cfg := slotCfg s key
  slotEnable cfg && slotPolder cfg = p && slotStage cfg = n && key / 2048 = d && (getWalk s key).isNone

/-- WALK_START (R165): the slot takes the walk of a partition for the owner, or for the sub-request its die holds; for a
mutation, the search of the partition's next record (R222). -/
def doWalkStart (s : State) (c part walker slot : Nat) : State :=
  let k := getCtx s c
  let key := slotKey walker slot
  let co := getColl s (dColl k.desc)
  let die := cWalkDie s co part
  match getStage s c with
  | Option.none => s
  | some st =>
    let here := activeOwner s c = some die
    let sub := ((getDie s die).subs.find? fun x => x.ctx = c && x.gen = k.gen && x.part = part).map (·.h)
    let busy := s.walks.any fun e => e.2.ctx = c && e.2.gen = k.gen && e.2.part = part && e.2.item.isNone
    let have_ := k.work.lists.any (·.src = part)
    if !(isLive s c && st.kind = .walk && st.firstPart ≤ part && part < st.firstPart + st.parts
          && slotTakes s key k.polder k.stage die && (here || sub.isSome)) then s
    else if isMutation (dKind k.desc) then
      if k.work.weir ≠ 2 then s
      else match mutBegin s c with
        | some (code, rec) => refuseMut s c code rec
        | Option.none =>
          if dKind k.desc = kDelete then s else
          match nextItem s c part with
          | Option.none => s
          | some i => withBytes s c (itemAddr s co k.desc i + 64) (2 * cDim s co) fun s bs =>
              setWalk s key (newWalk s c part (some i) (if here then Option.none else sub) (bf16s bs))
    else if busy || have_ then s
    else if dKind k.desc = kSearch ∨ dKind k.desc = kScan then
      withBytes s c (operandOf s k) (2 * cDim s co) fun s bs =>
        setWalk s key (newWalk s c part Option.none (if here then Option.none else sub) (bf16s bs))
    else setWalk s key (newWalk s c part Option.none (if here then Option.none else sub) k.work.query)

/-- BATCH_0 (R188): resolve, seed, test. -/
def doBatch0 (s : State) (key : Nat) : State :=
  match getWalk s key with
  | Option.none => s
  | some w =>
    if w.st ≠ .setup then s else
      let co := getColl s w.coll
      let segs := cPartSegs s co w.part
      let vers := segs.map fun g => (g, cResolve s co g w.pin)
      let w' := { w with vers := vers }
      let a := seedAll s co (slotQueueLen (slotCfg s key)) { w := w' } (epIds s (cResolveEp s co w.part w.pin))
      endBatch s key w (endTest a)

/-- EXPANSION_BATCH (R188): batch_rounds rounds, or fewer when the walk ends. -/
def doExpand (s : State) (key : Nat) : State :=
  match getWalk s key with
  | Option.none => s
  | some w =>
    if w.st ≠ .ready then s else
      let cfg := slotCfg s key
      endBatch s key w (walkRounds s (getColl s w.coll) (slotQueueLen cfg) (slotRounds cfg) { w := w })

/-- A mutation's finished searches on a die hand their lists over and free their slots (R187, R222). -/
def takeSearches (s : State) (c die : Nat) : State :=
  let g := (getCtx s c).gen
  (s.walks.filter fun e => e.2.ctx = c && e.2.gen = g && e.2.item.isSome && e.2.sub.isNone && e.2.st = .offering && e.1 / 2048 = die).foldl
    (fun s e =>
      let s := modWork s c fun w => { w with searches := mapSet w.searches (e.2.item.getD 0) (walkList s e.2) }
      acceptWalk s e.1 e.2) s

/-- The walks of a request whose partial lists wait for a merge job to store them (R187); those of sub-requests return to the owner. -/
def offering (s : State) (c : Nat) : List (Nat × Walk) :=
  let g := (getCtx s c).gen
  s.walks.filter fun e => e.2.ctx = c && e.2.gen = g && e.2.item.isNone && e.2.sub.isNone && e.2.st = .offering

/-- Their partial lists. -/
def offered (s : State) (c : Nat) : List PList := (offering s c).map fun e => walkList s e.2

/-- The lists that a handed context carries along; the slots stay OFFERING until a merge job stores them (R90, R187). -/
def carryLists (s : State) (c : Nat) : State :=
  let ls := offered s c
  modWork s c fun w => { w with lists := w.lists ++ ls.filter fun l => !(w.lists.any (·.src = l.src)) }

/-- A merge job stores the lists that wait: their slots become free (R187). -/
def takeLists (s : State) (c : Nat) : State :=
  (offering s c).foldl (fun s e => acceptWalk s e.1 e.2) (carryLists s c)

end Sys2Proof.Machine
end

