-- ==== Sys2Proof/Machine/Select.lean ====
section
/-! DEFINITION. Selection, ordering and merging (R200 to R213). -/

namespace Sys2Proof.Machine

/-- An entry of the merge input sequence with its source number (R205). -/
structure SrcEntry where
  score : F32
  src   : Nat
  pos   : Nat
  id    : Nat

/-- The order of a merge: score, then source number, then position (R203, R205, R206). -/
def mergeBefore (a b : SrcEntry) : Bool :=
  f32Lt a.score b.score ||
    (f32Eq a.score b.score && (decide (a.src < b.src) || (decide (a.src = b.src) && decide (a.pos < b.pos))))

/-- Remove later copies of an id (R207): what stays and how many went. -/
def dedup (seen : List Nat) : List SrcEntry → List SrcEntry × Nat
  | [] => ([], 0)
  | e :: es =>
    if e.id ∈ seen then let r := dedup seen es; (r.1, r.2 + 1)
    else let r := dedup (e.id :: seen) es; (e :: r.1, r.2)

/-- What a merge gives: the merged list and the NaN entries removed (R204 to R210). -/
structure Merged where
  out  : Ranked
  nans : Nat
  dups : Nat

/-- Merge source lists (R204 to R210). `srcOf` gives an entry's source number. -/
def mergeLists (k : Nat) (srcOf : PList → Entry → Nat) (lists : List PList) : Merged :=
  let lists := sortBy (fun a b => decide (a.src < b.src)) lists
  let all := lists.flatMap fun l => l.entries.map fun e => (⟨e.score, srcOf l e, e.pos, e.id⟩ : SrcEntry)
  let good := all.filter fun e => !f32IsNaN e.score
  let (uniq, dups) := dedup [] (sortBy mergeBefore good)
  let sel := uniq.take k
  let rest := uniq.drop k
  let kth := (sel.getLast?).elim f32NaN (·.score)
  let full := decide (sel.length = k)
  let tieHere := (rest.filter fun e => f32Eq e.score kth).length
  let tieSrc := (lists.filter fun l => l.full && f32Eq l.kth kth).foldl (fun n l => n + l.tie) 0
  { out :=
      { k := k, entries := sel.map fun e => ⟨e.score, e.id, e.src⟩,
        reason := if lists.any (·.reason = .budget) then .budget else .exhausted,
        tie := if full then tieHere + tieSrc else 0,
        selSum := seqSum 0 (sel.map (·.score)),
        leftSum := seqSum (seqSum 0 (lists.map (·.leftSum))) (rest.map (·.score)),
        leftCount := lists.foldl (fun n l => n + l.leftCount) 0 + rest.length,
        dups := lists.foldl (fun n l => n + l.dups) dups },
    nans := all.length - good.length, dups := dups }

/-- Whether a merged list is short (R210). -/
def Ranked.short (r : Ranked) : Bool := decide (r.entries.length < r.k)
/-- The k-th score, or the sentinel when short (R211). -/
def Ranked.kth (r : Ranked) : F32 := if r.short then 0x7FFFFFFF#32 else (r.entries.getLast?).elim 0x7FFFFFFF#32 (·.score)

/-- The bytes of a result list: header and k entries (R211, R212). -/
def rankedBytes (kind epoch : Nat) (r : Ranked) : List Byte :=
  let head : List Word :=
    [ BitVec.ofNat 64 (kind * 2 ^ 56 + r.k * 2 ^ 45 + r.entries.length * 2 ^ 34 + b2n r.short * 2 ^ 33
        + (if r.short then r.reason.num else 0) * 2 ^ 31),
      BitVec.ofNat 64 (r.tie % 2 ^ 32 * 2 ^ 32 + r.kth.toNat),
      BitVec.ofNat 64 (r.selSum.toNat * 2 ^ 32 + r.leftSum.toNat),
      BitVec.ofNat 64 (r.leftCount % 2 ^ 32 * 2 ^ 32 + r.dups % 2 ^ 32),
      BitVec.ofNat 64 epoch, 0, 0, 0 ]
  let ents := r.entries.flatMap fun e => ([BitVec.ofNat 64 e.id, BitVec.ofNat 64 (e.score.toNat * 2 ^ 32 + e.src % 2 ^ 16 * 2 ^ 16)] : List Word)
  let pad := (List.replicate (r.k - r.entries.length) ([BitVec.allOnes 64, 0x7FFFFFFFFFFF0000#64] : List Word)).flatten
  wordBytes (head ++ ents ++ pad)

/-- How many bytes of a result list fit: nothing below the header, then whole entries (R213). -/
def resultCut (room len : Nat) : Nat := if room < 64 then 0 else if len ≤ room then len else 64 + (room - 64) / 16 * 16

/-- Write the merged lists of a request at its result offset (R211, R213), then run `k`. -/
def writeRanked (s : State) (c : Nat) (r : Ranked) (shadow : Option Ranked) (k : State → State) : State :=
  let q := getCtx s c
  let room := dResBytes q.desc
  let main := rankedBytes 1 q.pin r
  let n := resultCut room main.length
  let tail := if n = main.length then (shadow.elim [] (rankedBytes 2 q.pin)) else []
  let m := resultCut (room - n) tail.length
  let bs := main.take n ++ tail.take m
  match (if q.src.isMember then none else resultAddr s q.desc) with
  | some a => withWrite s c a bs fun s => k (modWork s c fun w => { w with written := bs.length })
  | none => k s

/-- The source numbers a request's walks or scans must deliver: partitions for walks, segments for scans (R200, R206). -/
def wantParts (s : State) (c : Nat) (st : Stage) : List Nat :=
  let d := (getCtx s c).desc
  let all := (List.range st.parts).map (st.firstPart + ·)
  if dKind d = kScan ∧ fld (dB d 0) 52 51 = 1 then all.filter (fun p => (dParts d).contains p) else all

def wantSegs (s : State) (c : Nat) (st : Stage) : List Nat :=
  let co := getColl s st.object
  (wantParts s c st).flatMap (cPartSegs s co)

/-- Whether lists cover every source number wanted. -/
def covered (lists : List PList) (want : List Nat) : Bool := want.all fun x => lists.any fun l => l.covers.contains x

/-- The stages that the request itself left on its way to its current selection stage, from the selection before it on: its walk or scan
stage, or else the stage just left, and a shadow stage (R194, R200). -/
def feeders (s : State) (c : Nat) : Option Stage × Option Stage :=
  let k := getCtx s c
  let left := (k.path.filterMap (stageOf (getPolder s k.polder))).takeWhile (·.kind ≠ .select)
  ((left.find? fun st => st.kind = .walk || st.kind = .scan) <|> left.head?, left.find? (·.kind = .shadow))

/-- The source number of an entry: a segment for scans, the list's own otherwise (R206). -/
def srcFor (s : State) (coll : Nat) (scan : Bool) (l : PList) (e : Entry) : Nat :=
  let co := getColl s coll
  if scan then cSegOf s co (e.id % 2 ^ 34) else l.src

/-- Count a completed merge (R215). -/
def countMerge (s : State) (die : Nat) (ins : Nat) (m : Merged) : State :=
  let s := bump s ⟨.SEL_CNT0, die, 0⟩ 63 32 1
  let s := bump s ⟨.SEL_CNT0, die, 0⟩ 31 0 (b2n m.out.short)
  let s := bump s ⟨.SEL_CNT1, die, 0⟩ 63 0 ins
  let s := bump s ⟨.SEL_CNT2, die, 0⟩ 63 32 m.dups
  let s := bump s ⟨.SEL_CNT2, die, 0⟩ 31 0 m.nans
  bump s ⟨.SEL_CNT3, die, 0⟩ 63 32 (b2n (decide (0 < m.out.tie)))

def countIn (ls : List PList) : Nat := ls.foldl (fun n l => n + l.entries.length) 0

/-- Candidates of a merged list that a later stage reranks (R206). -/
def toCands (r : Ranked) (n : Nat) : List Nat := (r.entries.take n).map (·.id)

/-- The k of a request's selection here (R206, R208): that of its walks at the package level, and the request's own where a rerank feeds it. -/
def selK (s : State) (c : Nat) : Nat :=
  let k := getCtx s c
  if (feeders s c).1.elim false (·.kind = .rerank) then dK k.desc else walkK s k

/-- The package-level result as one source of a collective, numbered by its shard's index in the fan-out (R206). -/
def rankedList (src : Nat) (r : Ranked) : PList :=
  { src := src, entries := r.entries.zipIdx.map fun e => ⟨e.1.score, e.2, e.1.id⟩, full := !r.short, leftCount := r.leftCount,
    leftSum := r.leftSum, tie := r.tie, kth := if r.short then f32NaN else r.kth, reason := r.reason, expanded := 0, poison := false,
    covers := [src], dups := r.dups }

/-- Every remote shard's list has arrived (R448). -/
def gatherReady (g : Gather) : Bool := g.shards.all fun x => x.node.isNone || x.list.isSome

/-- The collective merge: the own shard's result and the members' lists, by shard index (R206, R208, R447). -/
def gatherMerge (k : Nat) (own : Merged) (g : Gather) : Merged :=
  let ls := g.shards.zipIdx.filterMap fun e => match e.1.node with
    | none => some (rankedList e.2 own.out)
    | some _ => e.1.list.map fun l => { l with src := e.2 }
  mergeLists k (fun l _ => l.src) ls

/-- Entries that the collective merge takes in. -/
def gatherCount (own : Merged) (g : Gather) : Nat :=
  g.shards.foldl (fun n x => n + if x.node.isNone then own.out.entries.length else x.list.elim 0 (·.entries.length)) 0

/-- MERGE for the owner's job (R200, R205): once every expected list has arrived. The collective level is the last one (R206). -/
def mergeJob (s : State) (c die : Nat) (j : Job) : State :=
  let q := getCtx s c
  match getStage s c with
  | none => s
  | some st =>
    let last := st.succ.isNone
    let lists := j.lists ++ q.work.lists
    let shadows := j.shadows ++ q.work.shadows
    let (pre, sh) := feeders s c
    let scan := pre.elim false (fun p => p.kind = .scan)
    let ready := match pre with
      | some p =>
        if p.kind = .walk then covered lists (wantParts s c p)
        else if p.kind = .scan then covered lists (wantSegs s c p)
        else !lists.isEmpty
      | none => !lists.isEmpty
    let readySh := sh.elim true fun p => covered shadows (wantSegs s c p)
    let gather := if last then q.work.gather else none
    if !(ready && readySh && gather.elim true gatherReady) then s
    else if (lists ++ shadows).any (·.poison) then failCtx s c Code.MEM_POISON
    else
      let k := selK s c
      let m0 := mergeLists k (srcFor s (dColl q.desc) scan) lists
      let m := gather.elim m0 (gatherMerge k m0)
      let ms := sh.map fun _ => mergeLists k (srcFor s (dColl q.desc) true) shadows
      let fin (s : State) : State :=
        let s := countMerge s die (countIn lists) m0
        let s := gather.elim s fun g => countMerge s die (gatherCount m0 g) m
        let s := ms.elim s (countMerge s die (countIn shadows))
        let s := { s with jobs := s.jobs.filter fun x => !(x.ctx = j.ctx && x.gen = j.gen && x.die = j.die) }
        modWork s c fun w => { w with lists := [], shadows := [], ranked := some m.out, shadowed := ms.map (·.out),
                                      cands := toCands m.out k, done := true }
      if last then writeRanked s c m.out (ms.map (·.out)) fin else fin s

/-- The die-level merge of a sub-request's scan segments into one list (R206). -/
def mergeSub (s : State) (die : Nat) (x : Sub) : State :=
  let q := getCtx s x.ctx
  match getStage s x.ctx with
  | none => s
  | some st =>
    let co := getColl s st.object
    let segs := cPartSegs s co x.part
    let merged (ls : List PList) : Merged := mergeLists (dK q.desc) (srcFor s (dColl q.desc) true) ls
    let one (ls : List PList) (m : Merged) : PList :=
      { src := segs.headD 0, entries := m.out.entries.map fun e => ⟨e.score, e.id % 2 ^ 34 - cIdBase s co, e.id⟩,
        full := !m.out.short, leftCount := m.out.leftCount, leftSum := m.out.leftSum, tie := m.out.tie,
        kth := if m.out.short then f32NaN else m.out.kth, reason := .exhausted, expanded := 0,
        poison := ls.any (·.poison), covers := segs, dups := m.out.dups }
    let needList := st.kind = .scan
    let needShadow := st.kind = .shadow
    if x.ready || (needList && !covered x.list segs) || (needShadow && !covered x.shadow segs) || !(needList || needShadow) then s
    else
      let m := merged (if needList then x.list else x.shadow)
      let s := countMerge s die (countIn (if needList then x.list else x.shadow)) m
      modDie s die fun d => { d with subs := d.subs.map fun y =>
        if y.ctx = x.ctx ∧ y.gen = x.gen ∧ y.h = x.h then
          { y with list := if needList then [one x.list m] else [], shadow := if needShadow then [one x.shadow m] else [], ready := true }
        else y }

/-- MERGE (R205). -/
def doMerge (s : State) (die c : Nat) : State :=
  let g := (getCtx s c).gen
  match s.jobs.find? fun j => j.ctx = c && j.gen = g && j.die = die with
  | some j => if activeOwner s c = some die then mergeJob s c die j else s
  | none =>
    match (getDie s die).subs.find? fun x => x.ctx = c && x.gen = g && !x.ready with
    | some x => mergeSub s die x
    | none => s

end Sys2Proof.Machine
end

