-- ==== Sys2Proof/Machine/Admission.lean ====
section
/-! DEFINITION. Intake (R80), the dike (R112 to R115), the sluice (R116 to R120), cancels (R99) and the weirs' own commands
(R114, R122 to R124, R133). -/

namespace Sys2Proof.Machine

/-! ### Intake (R80) -/

/-- Whether `lo ≤ n ≤ hi`. -/
def inRange (n lo hi : Nat) : Bool := decide (lo ≤ n) && decide (n ≤ hi)

/-- The words that a kind's body must have and whether its fields are in range; none for an unlisted kind (R82). A LOOKUP of 0 items is out of
range, as for every kind whose row gives the range of its count (DESIGN CHOICE: LOOKUP's row gives none). -/
def bodyRule (d : List Word) : Option (Nat × Bool) :=
  let w := dB d 0
  let w1 := dB d 1
  let k := dKind d
  if k = kSearch then
    some (1 + fld w 31 27, inRange (fld w 63 53) 1 1024 && inRange (fld w 52 48) 0 16 && inRange (fld w 31 27) 0 16 && fld w 26 0 = 0)
  else if k = kScan then
    let p := fld w 50 43
    let f := fld w 42 38
    some (1 + f + cdiv p 4, inRange (fld w 63 53) 1 1024 && fld w 52 51 ≠ 3 && inRange p 0 64 && (p = 0 || fld w 52 51 = 1)
      && inRange f 0 16 && inRange (f + cdiv p 4) 0 23 && fld w 37 0 = 0
      && (p % 4 = 0 || fld (dB d (f + cdiv p 4)) 63 (16 * (p % 4)) = 0))
  else if k = kEncode then some (1, inRange (fld w 55 40) 1 32768 && fld w 39 0 = 0)
  else if k = kRerank then
    some (1, inRange (fld w 55 45) 1 1024 && inRange (fld w 44 34) 1 (fld w 55 45) && fld w 33 32 ≠ 3
      && inRange (fld w 31 16) 1 32768 && fld w 15 0 = 0)
  else if k = kPipeline then
    some (2 + fld w1 44 40, inRange (fld w 55 40) 1 32768 && inRange (fld w 39 29) 1 1024 && inRange (fld w 28 24) 0 16
      && fld w 7 0 = 0 && inRange (fld w1 55 45) (fld w 39 29) 1024 && inRange (fld w1 44 40) 0 16 && fld w1 39 0 = 0)
  else if isMutation k then some (1, inRange (fld w 63 48) 1 4096 && fld w 47 0 = 0)
  else if k = kLookup then some (1, inRange (fld w 63 48) 1 65535 && fld w 47 45 ≠ 0 && fld w 44 0 = 0)
  else if k = kTableUpdate then some (1, inRange (fld w 55 40) 1 65535 && fld w 39 0 = 0)
  else if k = kAdapterStep then some (1, inRange (fld w 47 32) 1 4096 && fld w 31 0 = 0)
  else if k = kCancel then some (1, true)
  else none

/-- The conditions of order 1 of R80 hold of no field. -/
def headOk (d : List Word) (ring : Bool) : Bool :=
  let k := dKind d
  match bodyRule d with
  | none => false
  | some (n, ok) =>
    ok && dBody d = n && n ≤ 24 && dClass d ≠ 3
      && fld (dWord d 0) 53 52 = 0 && fld (dWord d 0) 27 24 = 0 && fld (dWord d 0) 15 0 = 0 && dPolder d ≠ 0
      && fld (dWord d 2) 63 58 = 0 && fld (dWord d 3) 63 60 = 0 && fld (dWord d 4) 31 0 = 0
      && fld (dWord d 5) 63 60 = 0 && fld (dWord d 6) 31 0 = 0 && dWord d 7 = 0
      && dOpOffset d % 64 = 0 && dResOffset d % 64 = 0
      && (namesColl k || dColl d = 0)
      && (k ≠ kCancel || (dEntry d = 0 && dClass d = 0 && dOpBytes d = 0))
      && !(ring && dEpoch d ≠ 0)

/-- The bit of an entry record that stands for a kind (R501). -/
def kindBit (k : Nat) : Nat :=
  if k = kSearch then 0 else if k = kScan then 1 else if k = kEncode then 2 else if k = kRerank then 3
  else if k = kPipeline then 4 else if k = kInsert then 5 else if k = kDelete then 6 else if k = kUpsert then 7
  else if k = kLookup then 8 else if k = kTableUpdate then 9 else 10

/-- The first WALK stage on an entry's path. -/
def walkStageFrom (pol : Polder) : Nat → Nat → Option Stage
  | 0, _ => none
  | fuel + 1, n => match stageOf pol n with
    | none => none
    | some st => if st.kind = .walk then some st else st.succ.elim none (walkStageFrom pol fuel)

/-- The slot limits of a walk stage: every slot of a stage holds the same (R193). -/
def stageSlotCfg (s : State) (p n : Nat) : Word :=
  ((List.range 8192).find? fun key => let c := slotCfg s key; slotEnable c && slotPolder c = p && slotStage c = n).elim 0 (slotCfg s)

/-- R169: a SEARCH or PIPELINE that its walk stage cannot run. -/
def walkIntakeOk (s : State) (d : List Word) : Bool :=
  let pol := getPolder s (dPolder d)
  let co := getColl s (dColl d)
  match (entryOf pol (dEntry d)).bind fun e => walkStageFrom pol 64 e.first with
  | none => true
  | some st =>
    let cfg := stageSlotCfg s (dPolder d) st.num
    let f := dFilter d
    decide (dBeam d ≤ slotMaxBeam cfg) && decide (f.length ≤ slotMaxFilter cfg)
      && (f.isEmpty || cAttrBytes s co ≠ 0) && filterOk s co f
      && (dKind d ≠ kSearch || dOpBytes d = 2 * cDim s co)

/-- A region range of a descriptor that leaves its region, names one not granted, or names a SHARED region (R80, R353). -/
def badRange (s : State) (p r off n : Nat) : Bool :=
  n ≠ 0 && match regionOf s p r with
    | none => true
    | some g => g.tier = 3 || decide (g.bytes < off + n)

/-- Refuse at intake: no dike token is taken, and the refusal is counted against the polder of the ring or connection (R80). -/
def refuseIntake (s : State) (src : Src) (d : List Word) (p code : Nat) : State :=
  let s := { s with sluice := { s.sluice with refused := mapPut 0 s.sluice.refused p (mapGetD s.sluice.refused p 0 + 1) } }
  let unit := match src with
    | .ring port _ => unitNo (4 + port) 2 0
    | .conn n => unitNo (4 + connPort s n) 1 0
    | .member m => unitNo (4 + connPort s m.conn) 1 0
    | .gone port _ => unitNo (4 + port) 2 0
    | .none => 0
  refuseDesc s src d p code unit 0

/-! ### The dike (R112 to R115) -/

def getDike (s : State) (p : Nat) : Dike := mapGetD s.dikes p { tok := 0, last := 0, defer := none }
def setDike (s : State) (p : Nat) (v : Dike) : State := { s with dikes := mapSet s.dikes p v }
def dikUnit (p : Nat) : Nat := unitNo 8 2 (p / 16)
def sluUnit (p : Nat) : Nat := unitNo 8 4 (p / 16)

/-- Refill to a stamp: ⌊rate × (t − t_last) × 2^32 / 10^9⌋ / 2^32 tokens, clipped to burst (R113). -/
def dikeFill (s : State) (p : Nat) (t : Stamp) : State :=
  let v := getDike s p
  let cfg := getReg s ⟨.DIK_CFG, p, 0⟩
  let add := fld cfg 63 32 * (t - v.last) * 2 ^ 32 / 1000000000
  setDike s p { v with tok := min (v.tok + add) (fld cfg 31 16 * 2 ^ 32), last := max v.last t }

/-- Report a refusal or drop of the dike, unless 256 reports of its ring or connection wait (R115). -/
def dikeReport (s : State) (src : Src) (d : List Word) (p code : Nat) : State :=
  if reportsQueued s src < 256 then refuseDesc s src d p code (dikUnit p) 0 true
  else
    let s := bump s ⟨.DIK_CNT1, p, 0⟩ 63 32 1
    match src with
    | .ring n r => modRing s n r fun x => { x with freed := x.freed + 1 }
    | _ => s

/-! ### The sluice (R116) -/

def sluCfg (s : State) (p : Nat) : Word := getReg s ⟨.SLU_CFG, p, 0⟩
def sluDepth (s : State) (p : Nat) : Nat := fld (sluCfg s p) 39 26
/-- The wait limit of a class (R120). -/
def waitLimit (s : State) (p cls : Nat) : Nat :=
  if cls = 0 then fld (sluCfg s p) 23 16 else if cls = 1 then fld (sluCfg s p) 15 8 else fld (sluCfg s p) 7 0

def waitingOf (s : State) (p cls : Nat) : List Waiting := s.sluice.waiting.filter fun w => w.polder = p && w.cls = cls

/-- Lexicographic order of lists of numbers. -/
def lexLt : List Nat → List Nat → Bool
  | a :: as, b :: bs => decide (a < b) || (decide (a = b) && lexLt as bs)
  | _, _ => false

/-- Order of arrival: stamp, toe die, number of the ring or connection, position in the ring (R116). A ring goes before a connection of its
own number (DESIGN CHOICE). -/
def arrivesBefore (a b : Waiting) : Bool :=
  let key (w : Waiting) : List Nat := [w.arrive, w.toe, w.line, b2n w.src.line.2.1, w.ix]
  lexLt (key a) (key b)

/-- A descriptor reaches the sluice at `t` (R112, R116): a CANCEL does not wait in its queues. -/
def sluiceArrive (s : State) (src : Src) (d : List Word) (p : Nat) (t : Stamp) (toe line ix : Nat) : State :=
  if dKind d = kCancel then
    { s with sluice := { s.sluice with cancels := s.sluice.cancels ++ [⟨p, dB d 0, d, src, t, s.tick.nextNum, false⟩] } }
  else if (s.sluice.waiting.filter (·.polder = p)).length ≥ sluDepth s p then
    bump (refuseDesc s src d p Code.SLUICE_FULL (sluUnit p) 0) ⟨.SLU_CNT1, p, 0⟩ 63 32 1
  else
    let w : Waiting := ⟨p, dClass d, d, src, t, boundaryFor s t, toe, line, ix⟩
    { s with sluice := { s.sluice with waiting := insertBy arrivesBefore w s.sluice.waiting } }

/-- The dike's table (R112) for a descriptor that passed intake, at its arrival stamp. The arrival ends IDLE (R522); one that passes is a
wake source (R529). -/
def dikeArrive (s : State) (src : Src) (d : List Word) (p : Nat) (t : Stamp) (toe line ix : Nat) : State :=
  let s := dikeFill (unIdle s) p t
  let cls := getReg s ⟨.PLD_CFG, p, 0⟩
  let permitted := if dClass d = 0 then fld cls 41 41 = 1 else if dClass d = 1 then fld cls 42 42 = 1 else fld cls 43 43 = 1
  if (getPolder s p).st = .draining then
    dikeReport (bump s ⟨.SLU_CNT2, p, 0⟩ 63 32 1) src d p Code.POLDER_UNLOADED
  else if dKind d ≠ kCancel ∧ !permitted then
    dikeReport (bump s ⟨.DIK_CNT1, p, 0⟩ 31 0 1) src d p Code.CLASS_DENIED
  else if getF s ⟨.DIK_CFG, p, 0⟩ 63 32 = 0 ∨ (getDike s p).tok < 2 ^ 32 then
    dikeReport (bump s ⟨.DIK_CNT0, p, 0⟩ 31 0 1) src d p Code.DIKE_DROP
  else
    let v := getDike s p
    let s := setDike s p { v with tok := v.tok - 2 ^ 32 }
    sluiceArrive (wakeAt (bump s ⟨.DIK_CNT0, p, 0⟩ 63 32 1) 3 t) src d p t toe line ix

/-! ### The procedure of R118 -/

/-- What the passes carry along. -/
structure Grant where
  st     : State
  cap    : Nat
  usedG  : Nat := 0
  usedE  : Nat := 0
  usedS  : Nat := 0
  /-- Contexts granted at this boundary. -/
  given  : List Nat := []

def entryCost (s : State) (w : Waiting) : Nat := ((entryOf (getPolder s w.polder) (dEntry w.desc)).map (·.cost)).getD 1

/-- The dies of a request's first stage, ascending (R84). -/
def firstDies (s : State) (w : Waiting) : List Nat :=
  let pol := getPolder s w.polder
  (((entryOf pol (dEntry w.desc)).bind fun e => stageOf pol e.first).map (·.dies)).getD []

/-- A polder's context share on a die (R129). -/
def ctxShare (s : State) (p d : Nat) : Nat := getF s ⟨.PLD_CTX, p, 0⟩ (12 * d + 11) (12 * d)

/-- The slot a request takes: on the lowest-numbered die of its first stage with a free slot in the polder's share (R84, R118);
among the die's slots, the lowest-numbered that is free (DESIGN CHOICE). -/
def freeCtx (g : Grant) (w : Waiting) : Option Nat :=
  (firstDies g.st w).findSome? fun d =>
    let mine (c : Nat) : Bool := homeDie c = d && (getCtx g.st c).polder = w.polder
    let used := (g.st.sluice.bermLive.filter fun c => mine c && !(g.given.contains c)).length + (g.given.filter mine).length
    if dieLost g.st d || ctxShare g.st w.polder d ≤ used then none
    else findFrom (fun c => (getCtx g.st c).st = .free && !(g.st.sluice.bermLive.contains c)) 2048 (d * 2048)

/-- Ask the MUTATE weir for a mutation, or for the next staging batches of a TABLE_UPDATE, each of at most 4,096 rows (R222, R344). -/
def askMutate (s : State) (c : Nat) : Nat → State
  | 0 => s
  | fuel + 1 =>
    let k := getCtx s c
    let n := dItems k.desc
    let batch := min 4096 (n - k.work.batched)
    let (ok, s) := weirAsk s k.polder wMutate 0 batch 0 (.mutate c k.gen)
    if !ok then modWork s c fun x => { x with weir := 1 }
    else
      let s := modWork s c fun x => { x with batched := x.batched + batch, weir := if n ≤ x.batched + batch then 2 else 1 }
      if n ≤ k.work.batched + batch then s else askMutate s c fuel

/-- A unit of a mutation has passed its weir. -/
def mutatePassed (s : State) (c : Nat) : State :=
  let k := getCtx s c
  let n := dItems k.desc
  let done := min n (k.work.batched + 4096)
  let s := modWork s c fun x => { x with batched := done, weir := if n ≤ done then 2 else 1 }
  if n ≤ done then s else askMutate s c 20

/-- The next sequence number a request takes at admission: mseq of its collection, or tseq of its table (R221, R344). -/
def takeSeq (s : State) (d : List Word) : State × Option Nat :=
  if isMutation (dKind d) then let r := takeMseq s (getColl s (dColl d)); (r.1, some r.2)
  else if dKind d = kTableUpdate then
    match mapGet s.tables (fld (dB d 0) 63 56) with
    | some t => let n := rdN s (t.desc + 48); (wrW s (t.desc + 48) (BitVec.ofNat 64 (n + 1)), some n)
    | none => (s, none)
  else if dKind d = kAdapterStep then
    let m := fld (dB d 0) 63 56
    let a := fld (dB d 0) 55 48
    match mapGet s.models m with
    | some md =>
      let ad := (mapGet md.adapters a).getD { seqNext := 0, staged := none, by_ := none }
      ({ s with models := mapSet s.models m { md with adapters := mapSet md.adapters a { ad with seqNext := ad.seqNext + 1 } } }, some ad.seqNext)
    | none => (s, none)
  else (s, none)

/-- Code of the structures that a request reads as it enters its stage, or 0 (R365, R538): the descriptors of its operand and result regions,
then those of the collection, with its segment table and the version records of its pin, of the model or of the table. -/
def sysCode (s : State) (c : Nat) : Nat :=
  let k := getCtx s c
  let d := k.desc
  let region (r n : Nat) : Nat := if n = 0 then 0 else rangeCode s ((getPolder s k.polder).regTab + 32 * r) 32
  let coll (co : Coll) : List Nat :=
    let n := cSegments s co
    rangeCode s co.desc 128 :: rangeCode s (cSegTab s co) (16 * n) :: rangeCode s (cPartTab s co) (16 * cParts s co)
      :: (List.range n).map fun i => let v := cResolve s co i k.pin; if v = 0 then 0 else rangeCode s v 64
  let own : List Nat := match stageKindOf s c with
    | none => []
    | some x =>
      if x = .encode ∨ x = .rerank ∨ x = .train ∨ x = .bag then
        (mapGet s.models (fld (dB d (if dKind d = kPipeline ∧ x = .rerank then 1 else 0)) 63 56)).elim [] fun m => [rangeCode s m.desc 64]
      else if x = .tableApply then (mapGet s.tables (fld (dB d 0) 63 56)).elim [] fun t => [rangeCode s t.desc 64]
      else if namesColl (dKind d) then (mapGet s.colls (dColl d)).elim [] coll
      else []
  firstCode (region (dOpRegion d) (dOpBytes d) :: region (dResRegion d) (dResBytes d) :: own)

/-- A request that meets a lost or poisoned structure ends (R538). -/
def readStructures (s : State) (c : Nat) : State :=
  let e := sysCode s c
  if e = 0 then s else failCtx s c e

/-- Admit a request into a context; a mutation that reaches a part which is not its collection's writer ends there (R232). It pins the
epoch, or the one its collective carries, with the deadline boundary carried there (R51, R67, R84, R86, R98, R446). -/
def admitOne (s : State) (w : Waiting) (c : Nat) : State :=
  let e := s.tick.epoch
  let k := getCtx s c
  let pol := getPolder s w.polder
  let dl := if dDeadline w.desc ≠ 0 then dDeadline w.desc else getF s ⟨.PLD_CFG, w.polder, 0⟩ 53 44
  let due := match w.src with
    | .member m => if m.deadline = 0 then none else some m.deadline
    | _ => if dl = 0 then none else some (e + dl)
  let first := ((entryOf pol (dEntry w.desc)).map (·.first)).getD 0
  let mayWrite := !isMutation (dKind w.desc) || (getColl s (dColl w.desc)).writer
  let (s, seq) := if mayWrite then takeSeq s w.desc else (s, none)
  let s := setCtx s c
    { st := .live, gen := (k.gen + 1) % 256, hseq := k.hseq, desc := w.desc, src := w.src, polder := w.polder,
      pin := if dEpoch w.desc ≠ 0 then dEpoch w.desc else e, admitted := e, firstElig := w.elig,
      deadline := due, stage := first, work := { Work.empty with seq := seq, since := s.now } }
  let s := modDie s (homeDie c) fun d => { d with owns := d.owns ++ [⟨c, (k.gen + 1) % 256, none⟩] }
  let s := bump s ⟨.PLD_CNT0, w.polder, 0⟩ 63 32 1
  let s := bump s ⟨.PLD_CNT1, w.polder, 0⟩ 63 32 (min (e - w.elig) 255)
  let s := { s with sluice := { s.sluice with waiting := s.sluice.waiting.erase w } }
  if !mayWrite then refuseMut s c Code.NOT_WRITER none
  else readStructures (if isMutation (dKind w.desc) ∨ dKind w.desc = kTableUpdate then askMutate s c 20 else s) c

/-- Admit within the passes. -/
def give (g : Grant) (w : Waiting) (c : Nat) : Grant :=
  { g with st := admitOne g.st w c, cap := g.cap - entryCost g.st w, given := c :: g.given }

/-- Requests of a polder and class eligible at the boundary, in order (R41, R116). -/
def eligible (s : State) (p cls : Nat) : List Waiting := (waitingOf s p cls).filter fun w => w.elig ≤ s.tick.epoch

/-- The polders with waiting requests of the classes, ascending. -/
def waitingPolders (s : State) (cls : List Nat) : List Nat :=
  (ascending (s.sluice.waiting.map (·.polder))).filter fun p => cls.any fun c => !(eligible s p c).isEmpty

/-- Rotation order from x (R118). -/
def rotFrom (x : Nat) (ps : List Nat) : List Nat := ps.filter (fun p => x ≤ p) ++ ps.filter (fun p => p < x)

/-- One polder's guaranteed pass. -/
def passG (p : Nat) : Nat → Nat → Grant → Grant
  | 0, _, g => g
  | fuel + 1, r, g =>
    match eligible g.st p 0 with
    | [] => g
    | q :: _ =>
      let cost := entryCost g.st q
      match freeCtx g q with
      | some c =>
        if cost ≤ r then
          let g := give g q c
          passG p fuel (r - cost) { g with usedG := g.usedG + cost, st := bump g.st ⟨.SLU_CNT0, p, 0⟩ 63 32 cost }
        else g
      | none => g

/-- The head of a polder in the elastic pass: guaranteed requests first (R118). -/
def headE (s : State) (p : Nat) : Option Waiting := (eligible s p 0 ++ eligible s p 1).head?

def getDeficit (s : State) (p : Nat) : Nat := mapGetD s.sluice.deficit p 0
/-- A deficit grows without bound, and SLU_STS shows at most what its field holds (DESIGN CHOICE: R132 gives the field 22 bits and no rule for a
larger deficit). -/
def setDeficit (s : State) (p v : Nat) : State := { s with sluice := { s.sluice with deficit := mapPut 0 s.sluice.deficit p v } }
def rSluRot : Reg := ⟨.SLU_ROT, 0, 0⟩

/-- Serve a polder in one elastic round. -/
def serveE (p : Nat) : Nat → Grant → Grant
  | 0, g => g
  | fuel + 1, g =>
    match headE g.st p with
    | none => g
    | some q =>
      let cost := entryCost g.st q
      match freeCtx g q with
      | some c =>
        if cost ≤ getDeficit g.st p ∧ cost ≤ g.cap then
          let g := give g q c
          let s := setDeficit g.st p (getDeficit g.st p - cost)
          let s := setF s rSluRot 27 16 ((p + 1) % 4096)
          serveE p fuel { g with usedE := g.usedE + cost, st := bump s ⟨.SLU_CNT0, p, 0⟩ 31 0 cost }
        else g
      | none => g

/-- One elastic round over the active polders: what stays active (R118). -/
def roundE (quantum : Nat) : List Nat → Grant → Grant × List Nat
  | [], g => (g, [])
  | p :: ps, g =>
    let weight := fld (sluCfg g.st p) 47 40
    let g := { g with st := setDeficit g.st p (getDeficit g.st p + max weight 1 * quantum) }
    let g := serveE p (g.st.sluice.waiting.length + 1) g
    match headE g.st p with
    | none =>
      roundE quantum ps { g with st := setDeficit g.st p 0 }
    | some q =>
      let keep := decide (entryCost g.st q ≤ g.cap) && (freeCtx g q).isSome
      let r := roundE quantum ps g
      if keep then (r.1, p :: r.2) else r

/-- Elastic rounds until no polder is active. -/
def passE (quantum : Nat) : Nat → List Nat → Grant → Grant
  | 0, _, g => g
  | fuel + 1, act, g => if act.isEmpty then g else let r := roundE quantum act g; passE quantum fuel r.2 r.1

/-- One scavenger round. -/
def roundS : List Nat → Grant → Grant × List Nat
  | [], g => (g, [])
  | p :: ps, g =>
    match eligible g.st p 2 with
    | [] => roundS ps g
    | q :: _ =>
      let cost := entryCost g.st q
      match freeCtx g q with
      | some c =>
        if cost ≤ g.cap then
          let g := give g q c
          let s := setF g.st rSluRot 11 0 ((p + 1) % 4096)
          let r := roundS ps { g with usedS := g.usedS + cost, st := bump s ⟨.SLU_CNT0, p, 0⟩ 31 0 cost }
          (r.1, p :: r.2)
        else roundS ps g
      | none => roundS ps g

def passS : Nat → List Nat → Grant → Grant
  | 0, _, g => g
  | fuel + 1, act, g => if act.isEmpty then g else let r := roundS act g; passS fuel r.2 r.1

/-- Heads that still wait for lack of a context are counted (R132, ctx_waits). -/
def countCtxWaits (g : Grant) : State :=
  (waitingPolders g.st [0, 1, 2]).foldl (fun s p =>
    [0, 1, 2].foldl (fun s c =>
      match (eligible g.st p c).head? with
      | some q => if (freeCtx g q).isNone then bump s ⟨.SLU_CNT2, p, 0⟩ 31 0 1 else s
      | none => s) s) g.st

/-- The slots granted at the last boundary, by pass (R133). -/
def setUsed (s : State) (g e sc : Nat) : State :=
  setF (setF (setF s ⟨.SLU_GSTS, 0, 0⟩ 63 48 g) ⟨.SLU_GSTS, 0, 0⟩ 47 32 e) ⟨.SLU_GSTS, 0, 0⟩ 31 16 sc

/-- SLUICE_GRANT: the grants of a boundary (R118). -/
def sluiceGrant (s : State) : State :=
  let gcfg := getReg s ⟨.SLU_GCFG, 0, 0⟩
  let fuel := 256 * (s.sluice.waiting.length + 1)
  let g : Grant := { st := s, cap := fld gcfg 63 48 }
  let g := (waitingPolders s [0]).foldl (fun g p => passG p (s.sluice.waiting.length + 1) (fld (sluCfg g.st p) 63 48) g) g
  let g := passE (fld gcfg 47 40) fuel (rotFrom (getF g.st rSluRot 27 16) (waitingPolders g.st [0, 1])) g
  let g := passS fuel (rotFrom (getF g.st rSluRot 11 0) (waitingPolders g.st [2])) g
  setUsed (countCtxWaits g) g.usedG g.usedE g.usedS

/-- Refuse a waiting request. -/
def refuseWaiting (s : State) (w : Waiting) (code delay : Nat) : State :=
  let s := refuseDesc s w.src w.desc w.polder code (sluUnit w.polder) delay
  { s with sluice := { s.sluice with waiting := s.sluice.waiting.erase w } }

/-- WAIT_LIMIT for one polder: requests not admitted at boundaries f to f + m (R120). -/
def waitLimits (s : State) (p : Nat) : State :=
  (s.sluice.waiting.filter fun w => w.polder = p && decide (w.elig + waitLimit s p w.cls ≤ s.tick.epoch)).foldl
    (fun s w => bump (refuseWaiting s w Code.WAIT_LIMIT (waitLimit s p w.cls)) ⟨.SLU_CNT1, p, 0⟩ 31 0 1) s

/-- Every waiting request of a DRAINING polder is refused (R110). -/
def refuseDraining (s : State) (p : Nat) : State :=
  (s.sluice.waiting.filter fun w => w.polder = p).foldl
    (fun s w => bump (refuseWaiting s w Code.POLDER_UNLOADED (s.tick.epoch - w.elig)) ⟨.SLU_CNT2, p, 0⟩ 63 32 1) s

/-- Action 3 for cancels: LIVE requests of the polder with the target tag (R99). -/
def liveMatches (s : State) (x : CancelReq) : List Nat :=
  (s.ctxs.filter fun e => e.2.st = .live && e.2.polder = x.polder && dTag e.2.desc = x.target).map (·.1)

/-- Note which cancels found a LIVE request (R99). -/
def noteCancels (s : State) : State :=
  { s with sluice := { s.sluice with cancels := s.sluice.cancels.map fun x => { x with hits := x.hits || !(liveMatches s x).isEmpty } } }

/-- Action 5 for one cancel: waiting requests end with CANCELLED, and the CANCEL completes (R99, R125). -/
def finishCancel (s : State) (x : CancelReq) : State :=
  let ws := s.sluice.waiting.filter fun w => w.polder = x.polder && dTag w.desc = x.target
  let s := ws.foldl (fun s w => refuseWaiting s w Code.CANCELLED (s.tick.epoch - w.elig)) s
  let code := if x.hits || !ws.isEmpty then Code.OK else Code.CANCEL_MISS
  let s := refuseDesc s x.src x.desc x.polder code (sluUnit x.polder) 0
  { s with sluice := { s.sluice with cancels := s.sluice.cancels.erase x } }

/-- CANCEL: a waiting cancel of the polder and target acts now (R99). -/
def doCancel (s : State) (p : Nat) (target : Word) : State :=
  match s.sluice.cancels.find? fun x => x.polder = p && x.target = target && decide (x.elig ≤ s.tick.epoch) with
  | none => s
  | some x =>
    let hits := liveMatches s x
    let s := hits.foldl (fun s c => abortHome s c Code.CANCELLED) s
    finishCancel { s with sluice := { s.sluice with cancels := s.sluice.cancels.map fun y => if y = x then { x with hits := x.hits || !hits.isEmpty } else y } }
      { x with hits := x.hits || !hits.isEmpty }

/-! ### Deferred rates and the weirs -/

/-- Writes to DIK_CFG, WEI_RATE and SLU_GCFG take effect; tokens held are clipped to the new burst (R114). -/
def applyRates (s : State) : State :=
  let s := s.dikes.foldl (fun s e => match e.2.defer with
    | none => s
    | some v =>
      let s := setReg s ⟨.DIK_CFG, e.1, 0⟩ v
      setDike s e.1 { e.2 with tok := min e.2.tok (fld v 31 16 * 2 ^ 32), defer := none }) s
  let s := s.weirs.foldl (fun s e => match e.2.defer with
    | none => s
    | some v =>
      let s := weirFill s e.1 s.now
      let w := getWeir s e.1
      let s := setReg s ⟨.WEI_RATE, e.1, 0⟩ v
      setWeir s e.1 { w with tok := min w.tok (fld v 31 0 * 2 ^ 20), defer := none }) s
  match s.sluice.defer with
  | none => s
  | some v => { setReg s ⟨.SLU_GCFG, 0, 0⟩ v with sluice := { s.sluice with defer := none } }

/-- The reservations of the loaded polders (R106). -/
def reservations (s : State) : Nat :=
  (s.polders.filter (fun e => e.2.st ≠ .absent)).foldl (fun n e => n + fld (sluCfg s e.1) 63 48) 0

/-- SLU_GCFG_WRITE (R133): held for the next boundary, or discarded with cfg_error. -/
def doGcfgWrite (s : State) (v : Word) : State :=
  if fld v 63 48 = 0 ∨ fld v 63 48 < reservations s ∨ fld v 47 40 = 0 then setBit s ⟨.SLU_GSTS, 0, 0⟩ 0
  else
    let v := setFld v 39 0 0
    { s with sluice := { s.sluice with defer := some v } }

/-- The least burst of a weir's kind (R124); a FABRIC_TX weir carries frames of up to `mtu` bytes. -/
def weirMin (kind mtu : Nat) : Nat :=
  if kind = wFabricTx then mtu else if kind = wFlashRd ∨ kind = wFlashWr then 16384
  else if kind = wBmlWr then 256 else if kind = wMutate then 4096 else 65536

/-- WEI_RATE_WRITE (R124). -/
def doWeiRateWrite (s : State) (w mtu : Nat) (v : Word) : State :=
  let cfg := weiCfg s w
  if (fld v 63 32 = 0 ∧ fld cfg 0 0 = 1) ∨ fld v 31 0 < weirMin (fld cfg 51 48) mtu then setBit s ⟨.WEI_CFG, w, 0⟩ 1
  else setWeir s w { getWeir s w with defer := some v }

/-- WEIR_TOKEN_ADD (R122): every weir's tokens at each whole microsecond up to `t`. -/
def addTokens (s : State) (t : Stamp) : State := s.weirs.foldl (fun s e => weirFill s e.1 t) s

/-- WEIR_PASS (R122, R123): the head of a weir's queue passes at its wheel time, waits again, or moves to the next step window. -/
def doWeirPass (s : State) (w : Nat) (t : Stamp) : State :=
  let s := weirFill s w t
  let v := getWeir s w
  match v.queue with
  | [] => s
  | u :: us_ =>
    if t < u.wheel then s
    else if v.tok < u.cost * 2 ^ 20 then setWeir s w { v with queue := { u with wheel := wheelTime s w t u.cost } :: us_ }
    else if !fits s t u.dur then
      let nb := s.tick.nextAt.getD (t + us)
      bump (setWeir s w { v with queue := { u with wheel := nb } :: us_ }) ⟨.WEI_CNT, w, 0⟩ 31 0 1
    else
      let v := { v with tok := v.tok - u.cost * 2 ^ 20, queue := us_ }
      match u.tag with
      | .mutate c g =>
        let s := setWeir s w v
        if isLive s c && (getCtx s c).gen = g then mutatePassed s c else s
      | .flow id => setWeir s w { v with passed := v.passed ++ [.flow id] }

end Sys2Proof.Machine
end

