-- ==== Sys2Proof/Machine/TableData.lean ====
section
/-! DEFINITION. An embedding table's descriptor, directory and versions (R330, R332), the pages its versions reference, and
the keys and bags that name its rows (R333, R334, R336). -/

namespace Sys2Proof.Machine

/-- A chain of records by prev, newest first. -/
def chainOf (s : State) : Nat → Nat → List Nat
  | 0, _ => []
  | fuel + 1, a => if a = 0 then [] else a :: chainOf s fuel (rdN s (a + 8))

/-! ### Descriptor and rows -/

def getTable (s : State) (n : Nat) : Option Table := mapGet s.tables n
def setTable (s : State) (n : Nat) (t : Table) : State := { s with tables := mapSet s.tables n t }
def modTable (s : State) (n : Nat) (f : Table → Table) : State := { s with tables := mapMod s.tables n f }
def tdW (s : State) (t : Table) (n : Nat) : Word := rdW s (t.desc + 8 * n)
def tE4m3 (s : State) (t : Table) : Bool := fld (tdW s t 0) 43 43 = 1
def tHashed (s : State) (t : Table) : Bool := fld (tdW s t 0) 42 42 = 1
def tBsu (s : State) (t : Table) : Bool := fld (tdW s t 0) 41 41 = 1
def tReplicated (s : State) (t : Table) : Bool := fld (tdW s t 0) 40 40 = 1
def tOptim (s : State) (t : Table) : Nat := fld (tdW s t 0) 39 38
def tWidth (s : State) (t : Table) : Nat := fld (tdW s t 0) 37 24
def tShards (s : State) (t : Table) : Nat := fld (tdW s t 0) 23 14 + 1
def tRows (s : State) (t : Table) : Nat := fld (tdW s t 1) 63 32 + 1
def tApplyMax (s : State) (t : Table) : Nat := fld (tdW s t 1) 31 16
def tLr (s : State) (t : Table) : F32 := BitVec.ofNat 32 (fld (tdW s t 3) 63 32)
def tEps (s : State) (t : Table) : F32 := BitVec.ofNat 32 (fld (tdW s t 3) 31 0)
def tDelta (s : State) (t : Table) : Nat := fld (tdW s t 4) 59 48
def tStateRegion (s : State) (t : Table) : Nat := fld (tdW s t 4) 47 36
def tNewest (s : State) (t : Table) : Nat := (tdW s t 5).toNat

def tRowBytes (s : State) (t : Table) : Nat := if tE4m3 s t then tWidth s t + 8 else 2 * tWidth s t
def tStride (s : State) (t : Table) : Nat := strideOf (tRowBytes s t)
def tPerPage (s : State) (t : Table) : Nat := 65536 / tStride s t

/-- Copies or shards that a directory lists (R332). -/
def tParts (s : State) (t : Table) : Nat := if tReplicated s t then 4 else tShards s t

/-- Shard and index of a row; a REPLICATED table's copy is chosen by the die (R332). -/
def tPlace (s : State) (t : Table) (die x : Nat) : Nat × Nat :=
  if tReplicated s t then (die, x) else (x % tShards s t, x / tShards s t)

/-- Pages of a shard. -/
def tPages (s : State) (t : Table) (sh : Nat) : Nat :=
  let n := if tReplicated s t then tRows s t else cdiv (tRows s t - sh) (tShards s t)
  cdiv n (tPerPage s t)

def tPt (s : State) (ver sh : Nat) : Nat := if ver = 0 then 0 else rdN s (rdN s (ver + 16) + 8 * sh)
def tEntry (s : State) (ver sh page : Nat) : Word := let pt := tPt s ver sh; if pt = 0 then 0 else rdW s (pt + 8 * page)

/-- A table version that staging begins on: the newest staged one or the newest published one. -/
def tBase (s : State) (t : Table) : Nat := (t.groups.getLast?).elim (tNewest s t) (·.newVer)

/-- Pages that any version of a table references, and reserved targets. -/
def tabPages (s : State) (t : Table) : List Nat :=
  (chainOf s chainFuel (tBase s t)).flatMap (fun v => (List.range (tParts s t)).flatMap fun sh =>
    ((List.range (tPages s t sh)).filter fun i => pteValid (tEntry s v sh i)).map fun i => ptePage (tEntry s v sh i))
  ++ t.moves.map (·.target)

/-! ### Rows, keys and bags -/

/-- Device address of a row in a version. -/
def rowAddr (s : State) (t : Table) (ver die x : Nat) : Option Nat :=
  let (sh, i) := tPlace s t die x
  let w := tEntry s ver sh (i / tPerPage s t)
  if pteValid w then some (ptePage w + i % tPerPage s t * tStride s t) else none

def tResolve (s : State) (t : Table) (e : Nat) : Nat := resolveFrom s e chainFuel (tNewest s t)

/-- The row a key maps to under key_mode; none when out of range (R333). -/
def mapKey (s : State) (t : Table) (k : Nat) : Option Nat :=
  if tHashed s t then
    let h := ((BitVec.ofNat 64 k ^^^ tdW s t 2) * 0x9E3779B97F4A7C15#64).toNat / 2 ^ 32
    some (h * tRows s t / 2 ^ 32)
  else if k < tRows s t then some k else none

/-- The rows of tables a and b that a key names under a feature (R334). -/
def keyRows (s : State) (f : Word) (k : Nat) : Option (Nat × Nat) :=
  match getTable s (fld f 63 56), getTable s (fld f 55 48) with
  | some a, b? =>
    if fld f 45 45 = 1 then
      some (k % tRows s a, b?.elim 0 fun b => k / tRows s a % tRows s b)
    else match mapKey s a k with
      | none => none
      | some x => if fld f 47 46 = 0 then some (x, 0) else b?.elim none fun b => (mapKey s b k).map fun y => (x, y)
  | none, _ => none

/-- Token ids, or words of a stream, of 4 bytes each. -/
def tokenIds (bs : List Byte) (n : Nat) : List Nat := (List.range n).map fun i => leNat ((bs.drop (4 * i)).take 4)

/-- Read a stream of bag records (R336): features with their keys, or none when it is malformed. -/
def parseBags (features : Nat) : Nat → List Nat → Option (List (Nat × List Nat))
  | 0, _ => none
  | _ + 1, [] => some []
  | fuel + 1, h :: ws =>
    let n := h % 65536
    let f := bits h 31 27
    if bits h 26 16 ≠ 0 ∨ features ≤ f ∨ ws.length < 2 * n then none
    else
      let keys := (List.range n).map fun i => ((nth? ws (2 * i)).getD 0) + 2 ^ 32 * ((nth? ws (2 * i + 1)).getD 0)
      (parseBags features fuel (ws.drop (2 * n))).map fun r => (f, keys) :: r

/-- Rows of a table that a bag reads, with the table. -/
def bagRows (s : State) (f : Word) (keys : List Nat) : List (Nat × Nat) :=
  keys.flatMap fun k => match keyRows s f k with
    | some (x, y) => (fld f 63 56, x) :: (if fld f 47 46 = 0 then [] else [(fld f 55 48, y)])
    | none => []

/-- The shard in which a key's row of a feature's first table lies; such a table is not REPLICATED (R332, R338). -/
def keyShard (s : State) (a : Table) (f : Word) (k : Nat) : Nat := ((keyRows s f k).map fun r => (tPlace s a 0 r.1).1).getD 0

end Sys2Proof.Machine
end

