-- ==== Sys2Proof/Machine/Requests.lean ====
section
/-! DEFINITION. Stages and ownership: passing a stage (R84, R88), handoffs (R90 to R92), sub-requests (R560, R561), leases (R93, R94),
the loss of a crest die (R95), deadlines and pins (R56, R98, R100), and retirement (R86). -/

namespace Sys2Proof.Machine

/-- Value a is later than b when (a − b) mod 65,536 lies in 1 to 32,767 (R91). -/
def later (a b : Nat) : Bool := let d := (a + 65536 - b % 65536) % 65536; decide (1 ≤ d) && decide (d ≤ 32767)

/-- Whether a die treats HND(c, g, h) as a duplicate (R90, R92). -/
def isDup (d : DieCtx) (c g h : Nat) : Bool :=
  d.dead.any (fun x => x.ctx = c && x.gen = g && x.upTo.elim true (fun m => h = m || later m h))
    || !later h (mapGetD d.last c 0)

/-- The stage a request passes to (R87). -/
def succStage (s : State) (c : Nat) : Option Stage :=
  match getStage s c with
  | some st => st.succ.bind (stageOf (getPolder s (getCtx s c).polder))
  | none => none

/-- Awaited sub-requests of a context on its owner (R560). -/
def awaitsOf (s : State) (c : Nat) : List Await :=
  (List.range 4).flatMap fun d => (getDie s d).awaits.filter fun a => a.ctx = c && a.gen = (getCtx s c).gen

/-- Whether every record of a mutation has been searched, DELETE records needing no work (R222). -/
def searched (s : State) (c : Nat) : Bool :=
  let k := getCtx s c
  dKind k.desc = kDelete || (List.range (dItems k.desc)).all fun i => (mapGet k.work.searches i).isSome

/-- Global ids of the candidates of a rerank: those of the operand, or of the walk's result (R281). -/
def candIds (s : State) (c : Nat) : List Nat :=
  let k := getCtx s c
  let w := dB k.desc 0
  if dKind k.desc = kRerank then
    (List.range (fld w 55 45)).map fun i => rdN s (operandOf s k + 8 * cdiv (fld w 31 16) 2 + 8 * i)
  else k.work.cands

/-- Whether every candidate that lies in the collection has its full vector (R147, R283). -/
def fetchReady (s : State) (c : Nat) : Bool :=
  let k := getCtx s c
  let co := getColl s (dColl k.desc)
  !cFull s co || (candIds s c).zipIdx.all fun e =>
    (mapGet k.work.vectors e.2).isSome || cShard s co ≠ e.1 / 2 ^ 40 || !cHas s co (e.1 % 2 ^ 40)

/-- Local id of item `i` of a LOOKUP (R82). -/
def lookupId (s : State) (c i : Nat) : Nat := rdN s (operandOf s (getCtx s c) + 8 * i)

/-- Whether a LOOKUP waits for no full vector (R82). -/
def lookupReady (s : State) (c : Nat) : Bool :=
  let k := getCtx s c
  fld (dB k.desc 0) 47 47 = 0 || (List.range (dItems k.desc)).all fun i =>
    (mapGet k.work.vectors i).isSome || !cHas s (getColl s (dColl k.desc)) (lookupId s c i)

/-- What a LOOKUP returns: for each item its parts at the pinned epoch (R82), in a layout the manual does not give. -/
def doLookup (s : State) (c : Nat) : State :=
  let k := getCtx s c
  let co := getColl s (dColl k.desc)
  let w := dB k.desc 0
  withBytes s c (operandOf s k) (dOpBytes k.desc) fun s _ =>
    let one (i : Nat) : Nat × List Byte :=
      let id := lookupId s c i
      let ver := cResolve s co (cSegOf s co id) k.pin
      let ix := cIxOf s co id
      let at_ := if fld w 46 46 = 1 then recCode s co ver .attr ix else 0
      let cd := if fld w 45 45 = 1 then recCode s co ver .codes ix else 0
      (if at_ ≠ 0 then at_ else cd,
       Config.lookupRecord (if fld w 47 47 = 1 then mapGetD k.work.vectors i [] else []) (if fld w 46 46 = 1 then readAttr s co ver ix else [])
         (if fld w 45 45 = 1 then readCode s co ver ix else []))
    let all := (List.range (dItems k.desc)).map one
    match all.find? fun e => e.1 ≠ 0 with
    | some e => failCtx s c e.1
    | none => modWork s c fun x => { x with output := all.flatMap (·.2), grain := max 1 ((all.head?).elim 1 fun e => e.2.length),
                                             items := all.length, done := true }

/-- The pairs of bag and shard that an ENCODE request's operand names in BSU tables, each with the BSU that holds the shard and the PC addresses
of its rows, in list order (R336, R338). Rows whose page does not exist read as zeros and have no entry; a stream that is malformed, or a
key out of range, names none here and ends the pass. -/
def bagPairs (s : State) (c : Nat) (bs : List Byte) : List (Nat × PoolBag) :=
  let k := getCtx s c
  let n := fld (dB k.desc 0) 55 40
  let fs := match (mapGet s.models (fld (dB k.desc 0) 63 56)).bind (·.ops.head?) with
    | some (.bag fs) => fs
    | _ => []
  ((parseBags fs.length (n + 1) (tokenIds bs n)).getD []).zipIdx.flatMap fun b =>
    let f := (nth? fs b.1.1).getD 0
    match getTable s (fld f 63 56) with
    | none => []
    | some a => if !tBsu s a then [] else
      (ascending (b.1.2.map (keyShard s a f))).filterMap fun sh =>
        let rows := (b.1.2.filter fun x => keyShard s a f x = sh).filterMap fun x =>
          (keyRows s f x).bind fun r => (rowAddr s a (tResolve s a k.pin) 0 r.1).map (pcOf s)
        (rows.head?).map fun h => (bsuKey h.1 h.2.2.1, ⟨b.2, sh, tE4m3 s a, tWidth s a, rows.map (·.2.2.2)⟩)

/-- A BAG stage is complete once every pair's partial sum has returned (R338). -/
def bagReady (s : State) (c : Nat) : Bool :=
  let k := getCtx s c
  (bagPairs s c (rdBytes s (operandOf s k) (dOpBytes k.desc))).all fun x =>
    k.work.partials.any fun y => y.1 = x.2.bag && y.2.1 = x.2.shard

/-- Whether the work of a request's current stage is done: a walk stage when every list has ended, a shadow stage when every
scan-segment list is there, another stage when its unit says so (R88, R186, R200, R222). -/
def stageReady (s : State) (c : Nat) : Bool :=
  let k := getCtx s c
  match getStage s c, activeOwner s c with
  | some st, some die =>
    let isMut := isMutation (dKind k.desc)
    if isMut && k.work.weir ≠ 2 then false
    else if isMut && dKind k.desc = kDelete && (st.kind = .walk || st.kind = .prune || st.kind = .flashWr) then true
    else match st.kind with
      | .walk =>
        if isMut then
          (List.range (dItems k.desc)).all fun i => (mapGet k.work.searches i).isSome
            || s.walks.any fun e => e.2.ctx = c && e.2.gen = k.gen && e.2.item = some i && e.2.sub.isNone && e.2.st = .offering
        else
          covered (k.work.lists ++ offered s c) (wantParts s c st)
      | .scan => covered k.work.lists (wantSegs s c st)
      | .shadow => covered k.work.shadows (wantSegs s c st)
      | .lookup => k.work.done || lookupReady s c
      | .fetch => fetchReady s c
      | .flashWr => k.work.done || !cFull s (getColl s (dColl k.desc))
      | .bag => bagReady s c
      | _ => k.work.done
  | _, _ => false

/-- Merge jobs open on a die (R200). -/
def jobsOn (s : State) (d : Nat) : Nat := (s.jobs.filter (·.die = d)).length

/-- Whether a die's selection unit can open one more merge job, those of the handoffs on their way included (R200). -/
def jobRoom (s : State) (d : Nat) : Bool :=
  let coming := s.flight.filter fun f => f.dst = d && (match f.msg with
    | .hnd c _ _ n => (stageOf (getPolder s (getCtx s c).polder) n).elim false (·.kind = .select)
    | _ => false)
  decide (jobsOn s d + coming.length < 64)

/-- The request enters a stage on a die. A selection stage opens a merge job, which stores the lists that slots still offer (R88, R187,
R200). -/
def enterStage (s : State) (c d : Nat) (st : Stage) : State :=
  let s := if st.kind = .select then takeLists s c else s
  let s := modCtx s c fun k => { k with stage := st.num, path := k.stage :: k.path, work := { k.work with done := false, since := s.now } }
  readStructures (if st.kind = .select then { s with jobs := s.jobs ++ [⟨c, (getCtx s c).gen, d, st.num, [], []⟩] } else s) c

/-- The refusal of a mutation as its first stage begins, which also holds for one whose records need no search (R217, R222). -/
def firstRefusal (s : State) (c : Nat) : Option (Nat × Option Nat) :=
  let k := getCtx s c
  if isMutation (dKind k.desc) && k.path.isEmpty then mutBegin s c else none

/-- STAGE_PASS (R84, R88). -/
def doStagePass (s : State) (c : Nat) : State :=
  match activeOwner s c, succStage s c with
  | some d, some nx =>
    let p := (getCtx s c).polder
    if isLive s c && stageReady s c && (awaitsOf s c).isEmpty then
      match firstRefusal s c with
      | some (code, rec) => refuseMut s c code rec
      | none =>
        if hasCredit s p nx d && (nx.kind ≠ .select || jobRoom s d) then enterStage (takeSearches s c d) c d nx else s
    else s
  | _, _ => s

/-- The die a request is handed to: none when its successor lies on the owner's die; otherwise the lowest-numbered die of the
successor that holds a credit (R84). -/
def handTarget (s : State) (c d : Nat) (nx : Stage) : Option Nat :=
  if d ∈ nx.dies then none
  else (List.range 4).find? fun x => hasCredit s (getCtx s c).polder nx x && (nx.kind ≠ .select || jobRoom s x)

/-- The next handoff sequence number of a context (R91). -/
def nextH (k : Ctx) : Nat := (k.hseq + 1) % 65536

/-- HANDOFF (R90). -/
def doHandoff (s : State) (c dst : Nat) (t : Stamp) : State :=
  match activeOwner s c, succStage s c with
  | some d, some nx =>
    let k := getCtx s c
    if !(isLive s c && stageReady s c && (awaitsOf s c).isEmpty) then s
    else match firstRefusal s c with
    | some (code, rec) => refuseMut s c code rec
    | none => if handTarget s c d nx ≠ some dst then s else
      let h := nextH k
      let s := carryLists (takeSearches s c d) c
      let s := modCtx s c fun k => { k with hseq := h }
      let s := modDie s d fun x => { x with owns := x.owns.map fun o =>
        if o.ctx = c ∧ o.gen = k.gen then { o with handing := some ⟨dst, h, 1, t, false⟩ } else o }
      sendMsg s d dst (.hnd c k.gen h nx.num)
  | _, _ => s

/-- HND (R90, R560, R561): the receiver takes a context, a sub-request or a partial result, or answers a duplicate; a message whose
generation differs from the slot's is discarded (R83). -/
def doHnd (s : State) (src dst : Nat) (t : Stamp) : State :=
  match takeFlight s src dst .hnd with
  | none => s
  | some (m, s) =>
    if linkFailed s dst src then s else
    let ack (s : State) (c g h : Nat) : State := sendMsg s dst src (.hak c g h)
    match m with
    | .hnd c g h stage =>
      if (getCtx s c).gen ≠ g then s
      else if isDup (getDie s dst) c g h then ack s c g h
      else
        let s := modDie s dst fun d => { d with last := mapSet d.last c h, owns := d.owns ++ [⟨c, g, none⟩] }
        let s := match stageOf (getPolder s (getCtx s c).polder) stage with
          | some st => if isLive s c then enterStage s c dst st else s
          | none => s
        ack s c g h
    | .sub c g h part owner =>
      if (getCtx s c).gen ≠ g then s
      else if isDup (getDie s dst) c g h then ack s c g h
      else
        let s := modDie s dst fun d => { d with last := mapSet d.last c h,
                                                subs := d.subs ++ [⟨c, g, h, owner, part, [], [], false, 0, t⟩] }
        ack s c g h
    | .result c g h lists shadows =>
      if (getCtx s c).gen ≠ g then s
      else
        let awaited := (getDie s dst).awaits.find? fun a => a.ctx = c && a.gen = g && a.die = src && a.h = h
        match awaited with
        | none => ack s c g h
        | some a =>
          let s := modDie s dst fun d => { d with awaits := d.awaits.erase a }
          let s := modWork s c fun w =>
            if isMutation (dKind (getCtx s c).desc) then
              { w with searches := lists.foldl (fun m l => mapSet m l.src l) w.searches }
            else { w with lists := w.lists ++ lists, shadows := w.shadows ++ shadows }
          ack s c g h
    | _ => s

/-- Slots that hold the walks of a sub-request on a die. -/
def subSlots (s : State) (die c g h : Nat) : List (Nat × Walk) :=
  s.walks.filter fun e => e.2.ctx = c && e.2.gen = g && e.2.sub = some h && e.1 / 2048 = die

/-- A die drops a sub-request. With `accepted` its walks count as delivered lists: the owner took the result, or R561 has the die discard it
(R187). Otherwise they count as discarded (R191), and so does every walk that has not ended. -/
def dropSub (s : State) (die c g h : Nat) (accepted : Bool) : State :=
  let s := (subSlots s die c g h).foldl (fun s e =>
    if accepted && e.2.st = .offering then acceptWalk s e.1 e.2 else bumpAborted (freeSlot s e.1) e.1) s
  modDie s die fun d => { d with subs := d.subs.filter fun x => !(x.ctx = c && x.gen = g && x.h = h) }

/-- HAK (R90, R91, R560, R561). -/
def doHak (s : State) (src dst : Nat) (t : Stamp) : State :=
  match takeFlight s src dst .hak with
  | some (.hak c g h, s) =>
    let d := getDie s dst
    if (getCtx s c).gen ≠ g then s
    else if d.owns.any fun o => o.ctx = c && o.gen = g && o.handing.elim false (fun x => x.dst = src && x.h = h) then
      modDie s dst fun d => { d with owns := d.owns.filter (fun o => !(o.ctx = c && o.gen = g)), handedTo := d.handedTo ++ [(c, g, src)] }
    else if d.awaits.any fun a => a.ctx = c && a.gen = g && a.die = src && a.h = h && a.ackTick.isNone then
      modDie s dst fun d => { d with awaits := d.awaits.map fun a =>
        if a.ctx = c ∧ a.gen = g ∧ a.die = src ∧ a.h = h then { a with ackTick := some (tickOf s t) } else a }
    else if d.subs.any fun x => x.ctx = c && x.gen = g && x.h = h && decide (0 < x.sends) then dropSub s dst c g h true
    else s
  | _ => s

/-- 4 µs, the wait for a HAK (R90). -/
abbrev hakWait : Nat := 4 * us

/-- HAK_TIMEOUT (R90, R560): resend up to three times, then ABORT and HANDOFF_TIMEOUT; over a FAILED link the request ends with DIE_LOST. -/
def doHakTimeout (s : State) (die c : Nat) (t : Stamp) : State :=
  let k := getCtx s c
  let d := getDie s die
  match d.owns.find? fun o => o.ctx = c && o.gen = k.gen && o.handing.isSome with
  | some o =>
    match o.handing with
    | none => s
    | some x =>
      if t < x.sentAt + hakWait then s
      else if linkFailed s die x.dst then endOnDie s die c Code.DIE_LOST
      else if x.sends < 4 then
        let s := modDie s die fun d => { d with owns := d.owns.map fun y =>
          if y = o then { o with handing := some { x with sends := x.sends + 1, sentAt := t } } else y }
        sendMsg s die x.dst (.hnd c k.gen x.h (((succStage s c).map (·.num)).getD 0))
      else endOnDie (sendMsg s die x.dst (.abort c k.gen (some x.h) none)) die c Code.HANDOFF_TIMEOUT
  | none =>
    match d.awaits.find? fun a => a.ctx = c && a.gen = k.gen && a.ackTick.isNone && decide (a.sentAt + hakWait ≤ t) with
    | none => s
    | some a =>
      if linkFailed s die a.die then endOnDie s die c Code.DIE_LOST
      else if a.sends < 4 then
        let s := modDie s die fun d => { d with awaits := d.awaits.map fun y =>
          if y = a then { a with sends := a.sends + 1, sentAt := t } else y }
        sendMsg s die a.die (.sub c k.gen a.h a.part die)
      else endOnDie (sendMsg s die a.die (.abort c k.gen (some a.h) none)) die c Code.HANDOFF_TIMEOUT

/-- ABORT (R92): a die marks the context dead, discards what it holds and stops owning it; an ABORT of another generation than the slot's
is discarded (R83). The owner that learns of a cause decided at home ends the request and writes its completion (R100). -/
def doAbort (s : State) (src dst : Nat) : State :=
  match takeFlight s src dst .ctl with
  | some (.abort c g h code, s) =>
    if (getCtx s c).gen ≠ g then s else
    let within (x : Nat) : Bool := h.elim true fun m => x = m || later m x
    let d := getDie s dst
    let owned := d.owns.any fun o => o.ctx = c && o.gen = g
    let mineH := mapGetD d.last c 0
    let s := match code with
      | some n => if owned then endOnDie s dst c n else s
      | none => s
    let s := modDie s dst (markDead c g h)
    let s := (d.subs.filter fun x => x.ctx = c && x.gen = g && within x.h).foldl (fun s x => dropSub s dst c g x.h false) s
    if h.isNone || (owned && within mineH) then
      let s := modDie s dst fun x => { dropDie c g x with subs := if h.isNone then (dropDie c g x).subs else x.subs }
      dropUnits s c g (fun x => x = dst)
    else s
  | _ => s

/-- SUB_REQUEST (R560): the owner sends a partition's walk or scan to the die that holds it. -/
def doSubRequest (s : State) (c dst part : Nat) (t : Stamp) : State :=
  match activeOwner s c, getStage s c with
  | some d, some st =>
    let k := getCtx s c
    let co := getColl s st.object
    let split := st.kind = .walk || st.kind = .scan || st.kind = .shadow
    let awaited := (getDie s d).awaits.any fun a => a.ctx = c && a.gen = k.gen && a.part = part
    let srcOf := if st.kind = .walk then [part] else cPartSegs s co part
    let have_ := covered (if st.kind = .shadow then k.work.shadows else k.work.lists) srcOf
    if isLive s c && split && dst ≠ d && !dieLost s dst && cWalkDie s co part = dst && (wantParts s c st).contains part
        && !awaited && !(have_ && !isMutation (dKind k.desc)) then
      let h := nextH k
      let s := modCtx s c fun k => { k with hseq := h }
      let s := modDie s d fun x => { x with awaits := x.awaits ++ [⟨c, k.gen, dst, h, part, 1, t, none⟩] }
      sendMsg s d dst (.sub c k.gen h part d)
    else s
  | _, _ => s

/-- What a sub-request returns, once its work has ended: its walks' lists, or its scans' merged list (R187, R206). -/
def subResult (s : State) (die : Nat) (x : Sub) : Option (List PList × List PList) :=
  let ws := subSlots s die x.ctx x.gen x.h
  if x.ready then some (x.list, x.shadow)
  else if isMutation (dKind (getCtx s x.ctx).desc) then
    let co := getColl s (dColl (getCtx s x.ctx).desc)
    let want := (List.range (dItems (getCtx s x.ctx).desc)).filter fun i => cPartOf s co (itemId s co (getCtx s x.ctx).desc i) = x.part
    if want.all fun i => ws.any fun e => e.2.item = some i && e.2.st = .offering then some (ws.map fun e => walkList s e.2, []) else none
  else match ws with
    | [e] => if e.2.st = .offering then some ([walkList s e.2], []) else none
    | _ => none

/-- PARTIAL_RESULT_RETURN (R561): over a FAILED link the die discards the sub-request at once. -/
def doReturn (s : State) (die c h : Nat) (t : Stamp) : State :=
  match (getDie s die).subs.find? fun x => x.ctx = c && x.h = h && x.sends = 0 with
  | none => s
  | some x =>
    match subResult s die x with
    | none => s
    | some (ls, sh) =>
      if linkFailed s die x.owner then dropSub s die c x.gen h true
      else
        let s := modDie s die fun d => { d with subs := d.subs.map fun y =>
          if y = x then { x with list := ls, shadow := sh, ready := true, sends := 1, sentAt := t } else y }
        sendMsg s die x.owner (.result c x.gen h ls sh)

/-- PARTIAL_RESULT_RESEND (R561). -/
def doResend (s : State) (die c h : Nat) (t : Stamp) : State :=
  match (getDie s die).subs.find? fun x => x.ctx = c && x.h = h && decide (0 < x.sends) with
  | none => s
  | some x =>
    if t < x.sentAt + hakWait then s
    else if linkFailed s die x.owner || decide (4 ≤ x.sends) then dropSub s die c x.gen h true
    else
      let s := modDie s die fun d => { d with subs := d.subs.map fun y => if y = x then { x with sends := x.sends + 1, sentAt := t } else y }
      sendMsg s die x.owner (.result c x.gen h x.list x.shadow)

/-! ### Leases (R93, R94) -/

/-- The crest dies that a message of die `d` reaches (R93): itself, and those over a link that is not FAILED. -/
def reaches (s : State) (d : Nat) : List Nat := (List.range 4).filter fun x => x = d || (!dieLost s x && !linkFailed s d x)

/-- A living die's claim report (R93): what it owns, and the sub-requests whose result it has not yet sent. -/
def claimOf (s : State) (n : Nat) (d : DieCtx) : Claim :=
  ⟨s.tick.tick, d.owns.map (fun o => (o.ctx, o.gen)), (d.subs.filter (·.sends = 0)).map (fun x => (x.ctx, x.gen)), reaches s n⟩

/-- Action 1: each die takes its claim report, which reaches every crest die within 1 µs; its handed-to record is cleared (R93, R95). -/
def takeReports (s : State) : State :=
  { s with dies := s.dies.zipIdx.map fun e =>
      if e.1.lost then e.1 else { e.1 with reports := (claimOf s e.2 e.1 :: e.1.reports).take 3, handedTo := [] } }

/-- How many living dies claim a context as owned in report `i` (0 the newest), as far as its home die heard. -/
def claimers (s : State) (i c g : Nat) : Nat :=
  (s.dies.filter fun d => !d.lost && (nth? d.reports i).elim false (fun r => r.owns.contains (c, g) && r.heard.contains (homeDie c))).length

/-- The boundary of report `i`, as any living die took it. -/
def reportAt (s : State) (i : Nat) : Option Nat := s.dies.findSome? fun d => if d.lost then none else (nth? d.reports i).map (·.at_)

/-- What a home die finds in the reports of the two boundaries before this one (R94): a LIVE context, admitted before both, that no die
claims as owned, or that two or more do. -/
def leaseCode (s : State) (c : Nat) : Option Nat :=
  let k := getCtx s c
  match reportAt s 2 with
  | none => none
  | some old =>
    if k.st ≠ .live ∨ old ≤ k.admitted then none
    else if claimers s 1 c k.gen ≥ 2 ∧ claimers s 2 c k.gen ≥ 2 then some Code.OWNER_CONFLICT
    else if claimers s 1 c k.gen = 0 ∧ claimers s 2 c k.gen = 0 then some Code.ORPHANED
    else none

/-- An awaited sub-request that its die claims in neither report, both taken after the HAK arrived, as its owner heard (R94). -/
def strayAwait (s : State) (owner c : Nat) : Option Await :=
  let g := (getCtx s c).gen
  match reportAt s 2 with
  | none => none
  | some old => (getDie s owner).awaits.find? fun a =>
      a.ctx = c && a.gen = g && a.ackTick.elim false (fun n => decide (n < old)) &&
        [1, 2].all fun i => !((nth? (getDie s a.die).reports i).elim false fun q => q.heard.contains owner && q.subs.contains (c, g))

/-- The causes that R98 to R100 and R110 have the home die decide for a LIVE context, the first of R100's order, or none (R56, R98, R99, R110). -/
def boundaryCause (s : State) (c : Nat) : Option Nat :=
  let k := getCtx s c
  let e := s.tick.epoch
  let m := getF s ⟨.PLD_CFG, k.polder, 0⟩ 63 54
  let pol := getPolder s k.polder
  if k.st ≠ .live ∨ dieLost s (homeDie c) ∨ homeEnded s c k.gen then none
  else if k.pin + m ≤ e ∧ k.admitted < e then some Code.STALE_PIN
  else if k.deadline.elim false (fun b => decide (b ≤ e)) then some Code.DEADLINE
  else if s.sluice.cancels.any fun x => x.polder = k.polder && x.target = dTag k.desc && decide (x.elig ≤ e) then some Code.CANCELLED
  else match leaseCode s c with
    | some code => some code
    | none =>
      if s.orphans.contains (c, k.gen) then some Code.ORPHANED
      else if pol.st = .draining ∧ pol.unload.elim false (fun u => u.2 && u.1 = e) then some Code.POLDER_UNLOADED
      else none

/-- End a context with the cause of this boundary (R94, R100). What no die owns, or two or more own, its home die ends itself: with ABORT to
every crest die for OWNER_CONFLICT, and without for ORPHANED. What a unit reported lost is ended as the other causes are (R534). -/
def endByCause (s : State) (c : Nat) : State :=
  match boundaryCause s c with
  | none => s
  | some code =>
    if code = Code.OWNER_CONFLICT then endFromHome s (homeDie c) c code
    else if code = Code.ORPHANED ∧ leaseCode s c = some code then
      modDie (endOnDie s (homeDie c) c code) (homeDie c) (markDead c (getCtx s c).gen none)
    else abortHome s c code

/-- The owner's part of R94: it ends a context that awaits a stray sub-request, and sends ABORT for it to the die that should hold it. -/
def endStray (s : State) (c : Nat) : State :=
  match activeOwner s c with
  | some d =>
    if homeEnded s c (getCtx s c).gen then s
    else match strayAwait s d c with
    | some a => endOnDie (sendMsg s d a.die (.abort c a.gen (some a.h) none)) d c Code.ORPHANED
    | none => s
  | none => s

/-- Action 3 over every LIVE context. -/
def endByCauses (s : State) : State :=
  let live := (s.ctxs.filter fun e => e.2.st = .live).map (·.1)
  let s := live.foldl (fun s c => endStray (endByCause s c) c) s
  { s with orphans := [] }

/-- What the unit that loses a request's state discards (R534): the walk of one slot, the job of one die, or the die's context slot. No
other slot discards anything before the ABORT (R191). -/
def loseUnit (s : State) (u : ErrUnit) (c g : Nat) : State :=
  match u with
  | .walkerSlot w sl => { s with walks := s.walks.filter fun e => !(e.1 = slotKey w.val sl.val && e.2.ctx = c && e.2.gen = g) }
  | .selectionJob d => { s with jobs := s.jobs.filter fun j => !(j.ctx = c && j.gen = g && j.die = d.val) }
  | .contextSlot d => modDie s d.val fun x => { x with owns := x.owns.filter fun o => !(o.ctx = c && o.gen = g) }

/-- The die of a unit. -/
def errDie : ErrUnit → Nat
  | .walkerSlot w _ => w.val / 128
  | .selectionJob d => d.val
  | .contextSlot d => d.val

/-- CONTAINED_ERROR (R534): the unit discards a request's state and reports it to the home die, which ends the request in the next
action 3. Where the id cannot be read its die claims the request, or the sub-request, no longer, and R94 ends it. -/
def doContained (s : State) (u : ErrUnit) (c : Nat) (readable : Bool) : State :=
  let k := getCtx s c
  if k.st ≠ .live then s else
    let d := errDie u
    let sub := match u with
      | .walkerSlot w sl => (getWalk s (slotKey w.val sl.val)).bind fun x => if x.ctx = c ∧ x.gen = k.gen then x.sub else none
      | _ => none
    let s := loseUnit s u c k.gen
    if readable then { s with orphans := s.orphans ++ [(c, k.gen)] }
    else match sub with
      | some h => modDie s d fun x => { x with subs := x.subs.filter fun y => !(y.ctx = c && y.gen = k.gen && y.h = h) }
      | none => modDie s d fun x => { x with owns := x.owns.filter fun o => !(o.ctx = c && o.gen = k.gen) }

/-- Action 3 frees the RETIRED slots (R86). -/
def freeRetired (s : State) : State :=
  { s with ctxs := s.ctxs.map fun e => if e.2.st = .retired then (e.1, { Ctx.empty with gen := e.2.gen, hseq := e.2.hseq, polder := e.2.polder }) else e }

/-- STALE_PIN for one context (R56). -/
def doStalePin (s : State) (c : Nat) : State := if boundaryCause s c = some Code.STALE_PIN then abortHome s c Code.STALE_PIN else s
/-- DEADLINE for one context (R98). -/
def doDeadline (s : State) (c : Nat) : State := if boundaryCause s c = some Code.DEADLINE then abortHome s c Code.DEADLINE else s

/-! ### Loss of a crest die (R95) -/

/-- The owner of a context in the last report before the loss. -/
def lastOwner (s : State) (d c g : Nat) : Bool := ((getDie s d).reports.head?).elim false fun r => r.owns.contains (c, g)

/-- What one surviving die does at the loss notice for `d` (R95). -/
def surviveLoss (s : State) (d x : Nat) : State :=
  let me := getDie s x
  let s := me.owns.foldl (fun s o =>
    if homeDie o.ctx = d ∧ !(o.handing.elim false fun h => h.dst ≠ d) then endOnDie s x o.ctx Code.DIE_LOST else s) s
  let drop := me.subs.filter fun y => y.owner = d || homeDie y.ctx = d
  let s := drop.foldl (fun s y => dropSub s x y.ctx y.gen y.h false) s
  let find1 := (me.owns.filter fun o => homeDie o.ctx ≠ d &&
      (o.handing.elim false (fun h => h.dst = d) || me.awaits.any fun a => a.ctx = o.ctx && a.gen = o.gen && a.die = d)).map fun o => (o.ctx, o.gen)
  let find2 := (me.handedTo.filter fun h => h.2.2 = d && homeDie h.1 ≠ d).map fun h => (h.1, h.2.1)
  (find1 ++ find2).foldl (fun s f =>
    if (getCtx s f.1).gen ≠ f.2 then s
    else if homeDie f.1 = x then endFromHome s x f.1 Code.DIE_LOST
    else sendMsg s x (homeDie f.1) (.finding f.1 f.2)) s

/-- LOSS_NOTICE (R95). -/
def doLossNotice (s : State) (d : Nat) : State :=
  if dieLost s d then s else
    let owned := (s.ctxs.filter fun e => e.2.st = .live && homeDie e.1 ≠ d && lastOwner s d e.1 e.2.gen).map (·.1)
    let s := modDie s d fun x => { x with lost := true, lostDue := s.tick.nextNum + 1 }
    let s := (List.range 8).foldl (fun s x => if x = d then s else failLink s x d) s
    let s := { s with walks := s.walks.filter (fun e => e.1 / 2048 ≠ d), jobs := s.jobs.filter (·.die ≠ d) }
    let s := (List.range 4).foldl (fun s x => if dieLost s x then s else surviveLoss s d x) s
    owned.foldl (fun s c => if dieLost s (homeDie c) then s else endFromHome s (homeDie c) c Code.DIE_LOST) s

/-- DIE_LOST_FINDING (R95). -/
def doFinding (s : State) (src home : Nat) : State :=
  match takeFlight s src home .ctl with
  | some (.finding c g, s) => if (getCtx s c).gen = g ∧ homeDie c = home then endFromHome s home c Code.DIE_LOST else s
  | _ => s

/-- REEVE_DIE_LOST_COMPLETION (R95): at the second boundary after the notice, for every context homed on the lost die not retired. -/
def doReeveLost (s : State) (d : Nat) : State :=
  let x := getDie s d
  if !x.lost || s.tick.tick < x.lostDue then s else
    ((s.ctxs.filter fun e => e.2.st = .live && homeDie e.1 = d).map (·.1)).foldl (fun s c => endCtx s c Code.DIE_LOST (ctxUnit d)) s

/-- The reeve writes one completion from the copy on T0, unless one was written (R95, R100): where an owner has written none it ends the
request. -/
def reeveWrite (s : State) (r : ReeveDue) : State :=
  let s := { s with reeve := s.reeve.erase r }
  let k := getCtx s r.ctx
  if k.gen = r.gen ∧ k.st = .live then pushPend (countEnd (setCtx s r.ctx { k with st := .retired }) k.polder r.code) r.src r.words
  else pushPend s r.src r.words

/-- REEVE_COMPLETION (R100): the reeve writes what no owner has written by the boundary after the abort. -/
def doReeveCompletion (s : State) (c : Nat) : State :=
  (s.reeve.filter fun r => r.ctx = c && decide (r.due ≤ s.tick.tick)).foldl reeveWrite s

/-- Every completion the reeve owes at this boundary (R95, R100). -/
def reeveAll (s : State) : State :=
  (List.range 4).foldl doReeveLost ((s.reeve.filter fun r => decide (r.due ≤ s.tick.tick)).foldl reeveWrite s)

/-- RETIREMENT (R86): the owner of a request that has passed its last stage hands its completion over. What waits to be written at
its result offset is written first (R82, R219), and a refused mutation whose statuses waited for a host ends. -/
def doRetire (s : State) (c : Nat) : State :=
  let g := (getCtx s c).gen
  let k := getCtx s c
  match activeOwner s c, getStage s c with
  | some d, some st =>
    let fin (s : State) : State := dropWeirs (modDie (retire (takeSearches (takeLists s c) c d) c Code.OK 0) d (dropDie c g)) c g
    if !isLive s c then s
    else if k.work.refuse.isSome then finishRefuse s c
    else if st.kind = .lookup && !k.work.done && stageReady s c then doLookup s c
    else if st.succ.isNone && stageReady s c && (awaitsOf s c).isEmpty then
      if k.work.output.isEmpty then fin s
      else withResult s c 0 k.work.grain k.work.output fun s n => fin (modWork s c fun w => { w with written := n })
    else s
  | _, _ => s

/-! ### Pins (R55, R57) -/

/-- The collections in which a request pins its epoch (R55): the one its descriptor names, and those that the walks and scans of its path
work on. An ADAPTER_STEP pins its polder's collections, in which the candidates of its examples can lie (DESIGN CHOICE). -/
def pinnedColls (s : State) (k : Ctx) : List Nat :=
  if dKind k.desc = kAdapterStep then (s.colls.filter (·.2.polder = k.polder)).map (·.1)
  else if namesColl (dKind k.desc) then
    dColl k.desc :: ((pathOf s k).filter fun st => st.kind = .walk || st.kind = .scan || st.kind = .shadow).map (·.object)
  else []

/-- Whether a LIVE context pins a collection. -/
def pinsColl (s : State) (k : Ctx) (coll : Nat) : Bool := k.st = .live && (pinnedColls s k).contains coll

/-- Epochs pinned for a collection: requests, and sub-requests that dies hold (R55). -/
def pinsOf (s : State) (coll : Nat) : List Nat :=
  let own := (s.ctxs.filter fun e => pinsColl s e.2 coll).map fun e => e.2.pin
  let subs := s.dies.flatMap fun d => if d.lost then [] else
    (d.subs.filter fun x => let k := getCtx s x.ctx; k.gen = x.gen && pinsColl s k coll).map fun x => (getCtx s x.ctx).pin
  own ++ subs

/-- Pins a consolidation holds (R229). -/
def consolPins (s : State) (coll : Nat) : List Nat := (getColl s coll).consol.map (·.pin)

end Sys2Proof.Machine
end

