-- ==== Sys2Proof/Machine/Bsu.lean ====
section
/-! DEFINITION. Bank-side units: windows and segments (R243 to R247), commands (R248 to R252), lists (R253, R254), pruning (R223),
line errors, scrub and refresh (R245, R260 to R263, R364), and failures of window memory (R375). -/

namespace Sys2Proof.Machine

/-- The BSU's register block as a unit field (R29). -/
def bsuUnit (st p : Nat) : Nat := unitNo (st / 5) (8 + st % 5) p

/-- BSU_ERR: kind and PC address (R270). -/
def bsuErr (s : State) (st p kind pcAddr : Nat) : State :=
  setReg s ⟨.BSU_ERR, st, p⟩ (BitVec.ofNat 64 (kind * 2 ^ 62 + pcAddr / 64 * 64))

/-- A BSU reads one line: its counts, its scrub entry, its poison mark, and the code the command ends with or 0 (R260, R261). A line that is
uncorrectable is read a second time before it is marked (R247). -/
def bsuLine (st p : Nat) (acc : State × Nat) (line : Nat) : State × Nat :=
  let (s, code) := acc
  if memLost s (line * 64) then (s, if code = 0 then Code.MEM_STACK_LOST else code) else
    let pc := (pcOf s (line * 64)).2.2.2
    match lineOk s line with
    | .clean => (s, code)
    | .corrected _ => (bsuErr (bump (queueScrub s line) ⟨.BSU_CNT2, st, p⟩ 63 32 1) st p 1 pc, code)
    | .poisoned => (bsuErr (bump s ⟨.BSU_CNT3, st, p⟩ 63 32 1) st p 3 pc, if code = 0 then Code.BSU_POISON else code)
    | .uncorrectable =>
      let s := bump (bump (poisonLine s line) ⟨.BSU_CNT2, st, p⟩ 31 0 1) ⟨.BSU_CNT1, st, p⟩ 63 0 64
      (bsuErr s st p 2 pc, if code = 0 then Code.BSU_UNCORRECTABLE else code)

/-- A BSU reads lines in order. -/
def bsuRead (s : State) (st p : Nat) (lines : List Nat) : State × Nat := lines.foldl (bsuLine st p) (s, 0)

/-- The layout row of a PC address. -/
def pcRow (a : Nat) : Nat := a / frameBytes

/-- The refusal of a command by the pages it names, or 0: an OPAQUE row, or a striped page for any opcode but FILL (R251, R263). -/
def pagesCode (s : State) (st : Nat) (op : BsuOp) (pcs : List Nat) : Nat :=
  if op ≠ .fill ∧ pcs.any (fun a => rowStriped s st (pcRow a)) then Code.BSU_LAYOUT
  else if pcs.any (fun a => !rowRecompute s st (pcRow a)) then Code.BSU_OPAQUE
  else 0

/-- Whether the controller issues commands to the stack's BSUs (R269). -/
def bsuOn (s : State) (st : Nat) : Bool := getF s ⟨.MEM_BSU_CFG, st, 0⟩ 0 0 = 1

/-! ### Command records and page lists (R248, R249) -/

/-- The values of the opcode field (R250). -/
def bsuOpNum : BsuOp → Nat
  | .scan => 1
  | .shadow => 2
  | .filter => 3
  | .pool => 4
  | .prune => 5
  | .edgescan => 6
  | .copy => 7
  | .fill => 8

/-- The fields of a command record (R248). -/
def recOpcode (r : List Word) : Nat := fld (dWord r 0) 63 56
def recPolder (r : List Word) : Nat := fld (dWord r 0) 55 44
def recColl (r : List Word) : Nat := fld (dWord r 0) 43 36
def recQueries (r : List Word) : Nat := fld (dWord r 0) 35 31
def recJob (r : List Word) : Nat := fld (dWord r 0) 15 0
def recK (r : List Word) : Nat := fld (dWord r 1) 63 53
def recCount (r : List Word) : Nat := fld (dWord r 1) 31 0
def recTarget (r : List Word) : Nat := fld (dWord r 3) 30 0
def recPattern (r : List Word) : Word := dWord r 4

/-- What a row's record holds beside its opcode, polder and job: the ranges and the zeros of R248. -/
structure RecForm where
  coll    : Nat := 0
  queries : Nat := 0
  k       : Nat := 0
  pages   : Nat := 0
  count   : Nat := 0
  setup   : Nat := 0
  operand : Nat := 0
  target  : Nat := 0
  pattern : Word := 0

/-- A record of that form. -/
def recOf (opcode polder job : Nat) (f : RecForm) : List Word :=
  [BitVec.ofNat 64 (opcode * 2 ^ 56 + polder * 2 ^ 44 + f.coll * 2 ^ 36 + f.queries * 2 ^ 31 + job),
   BitVec.ofNat 64 (f.k * 2 ^ 53 + f.pages * 2 ^ 38 + f.count), BitVec.ofNat 64 (f.setup * 2 ^ 32 + f.operand), BitVec.ofNat 64 f.target,
   f.pattern, 0, 0, 0]

/-- Whether an opcode is reserved (R250). -/
def reservedOp (n : Nat) : Bool := n = 0 || decide (8 < n)

/-- Whether a record is one that the controller forms for a row: the row's opcode or a reserved one, the fields that the command's page list,
set-up and operand give it, and buffers that hold them (R242, R248). -/
def recFits (op : BsuOp) (r : List Word) (f : RecForm) : Bool :=
  let n := recOpcode r
  (n = bsuOpNum op || reservedOp n) && r = recOf n (recPolder r) (recJob r) f && decide (f.queries ≤ 16) && decide (f.k ≤ 1024)
    && decide (f.pages ≤ 24576) && decide (f.setup ≤ 524288) && decide (f.operand + 8 * f.pages ≤ 262144)

/-- The fields of a page-list entry (R249). -/
def pagePc (e : Word) : Nat := fld e 63 49 * 65536
def pageRecs (e : Word) : Nat := fld e 48 36
def pageFirst (e : Word) : Nat := fld e 33 0

/-- Records of a page list. -/
def recordsOf (pages : List Word) : Nat := pages.foldl (fun n e => n + pageRecs e) 0

/-- The page list of a component of a segment version for one BSU: its pages in that pseudo-channel, those with valid 0 left out (R249). -/
def pageList (s : State) (co : Coll) (seg ver : Nat) (c : Comp) (st p : Nat) : List Word :=
  let per := perPage s co c
  (List.range (compPages s co seg c)).filterMap fun i =>
    let e := ptEntry s ver c i
    let (st', _, p', a) := pcOf s (ptePage e)
    if pteValid e && st' = st && p' = p then
      some (BitVec.ofNat 64 (a / 65536 * 2 ^ 49 + min per (cSegSize s co seg - i * per) * 2 ^ 36 + cIdAt s co seg (i * per)))
    else none

/-- Record `j` of a page list, with `n` bytes a record: PC address and local id. -/
def recordAt (n : Nat) : List Word → Nat → Option (Nat × Nat)
  | [], _ => none
  | e :: es, j => if j < pageRecs e then some (pagePc e + j * n, pageFirst e + j) else recordAt n es (j - pageRecs e)

/-- Records `from` to `from + n − 1` of a page list. -/
def recordsFrom (bytes : Nat) (pages : List Word) (start n : Nat) : List (Nat × Nat) :=
  (List.range n).filterMap fun i => recordAt bytes pages (start + i)

/-! ### The requests of a command -/

/-- Those of a command's requests that are still live. -/
def liveReqs (s : State) (reqs : List (Nat × Nat)) : List Nat := (reqs.filter fun r => isLive s r.1 && (getCtx s r.1).gen = r.2).map (·.1)

/-- End every request of a command with a code; each request ends alone (R101, R261). -/
def endReqs (s : State) (st p : Nat) (reqs : List (Nat × Nat)) (code : Nat) : State :=
  (liveReqs s reqs).foldl (fun s c => endCtx s c code (bsuUnit st p)) s

/-- A command ends refused (R263). -/
def refuseCmd (s : State) (st p : Nat) (reqs : List (Nat × Nat)) (code : Nat) : State :=
  endReqs (bump (bump s ⟨.BSU_CNT3, st, p⟩ 31 0 1) ⟨.BSU_CNT0, st, p⟩ 31 0 1) st p reqs code

/-! ### Lists (R253) -/

/-- Offer a score to a BSU list (R185, R253). -/
def bsuOffer (k : Nat) (l : BsuList) (e : Entry) : BsuList :=
  let l := { l with valid := l.valid + 1, acc := l.acc + f32Exact e.score,
                    posInf := l.posInf + b2n (decide (e.score = 0x7F800000#32)), negInf := l.negInf + b2n (decide (e.score = 0xFF800000#32)) }
  let r := insertBy ranksBefore e l.entries
  if r.length ≤ k then { l with entries := r } else
    match r.getLast? with
    | none => l
    | some x =>
      let r' := r.dropLast
      let kth := (r'.getLast?).elim f32NaN (·.score)
      let l := { l with entries := r' }
      if f32Eq x.score kth then
        if f32Eq l.tieS kth then { l with tieN := l.tieN + 1 } else { l with tieS := kth, tieN := 1 }
      else l

def BsuList.start (c : Nat) : BsuList :=
  { ctx := c, entries := [], valid := 0, acc := 0, posInf := 0, negInf := 0, tieS := f32NaN, tieN := 0 }

/-- Whether commands that ended have evaluated a request's filter on a record, and its pass bit (R250, R252). -/
def filterKnown (s : State) (co : Coll) (q : BsuQuery) (seg id : Nat) : Bool :=
  let absent := (recAddr s co (cResolve s co seg q.pin) .attr (cIxOf s co id)).isNone
  absent || s.bsus.any fun e => e.2.results.any fun r => r.op = .filter && r.seg = seg && r.reqs.contains (q.ctx, q.gen)
    && r.pages.any fun g => decide (pageFirst g ≤ id) && decide (id < pageFirst g + pageRecs g)

def filterPass (s : State) (q : BsuQuery) (seg id : Nat) : Bool :=
  s.bsus.any fun e => e.2.results.any fun r => r.op = .filter && r.seg = seg && r.reqs.contains (q.ctx, q.gen)
    && match r.out with
       | .pass xs => xs.any fun x => x.1 = q.ctx && x.2.contains id
       | _ => false

/-- A record's eligibility bit for a query: live at its pinned epoch, and its FILTER pass bit is 1 (R252). -/
def eligBit (s : State) (co : Coll) (q : BsuQuery) (seg id : Nat) : Bool :=
  cHas s co id && liveIn s co (cResolve s co seg q.pin) (cIxOf s co id) && (q.filter.isEmpty || filterPass s q seg id)

/-! ### Pruning (R223, R224) -/

/-- A candidate with what pruning reads of it. -/
abbrev Cand := PruneCand

/-- Candidates in rank order: by score, NaN after every number, then by position (R223). -/
def rankCands (cs : List Cand) : List Cand :=
  sortBy (fun a b => f32Lt a.score b.score || (!f32IsNaN a.score && f32IsNaN b.score)) cs

/-- The procedure of R223 over ranked candidates: kept and passed, in order, and how many pair scores it took. -/
def pruneGo (s : State) (co : Coll) (degree anchor : Nat) (slack : F32) : List Cand → List Cand → List Cand → Nat → List Cand × List Cand × Nat
  | [], kept, passed, n => (kept, passed, n)
  | c :: cs, kept, passed, n =>
    if c.id = anchor ∨ kept.any (·.id = c.id) then pruneGo s co degree anchor slack cs kept passed n
    else if kept.length = degree then (kept, passed, n)
    else if kept.all (fun a => f32Lt c.score (f32Add (pairScore s co a.code c.code) slack)) then
      pruneGo s co degree anchor slack cs (kept ++ [c]) passed (n + kept.length)
    else pruneGo s co degree anchor slack cs kept (passed ++ [c]) (n + kept.length)

/-- Fill the record from the passed candidates up to the degree (R223), repeats included as the procedure has it. -/
def pruneFill (degree : Nat) (kept passed : List Nat) : List Nat := kept ++ passed.take (degree - kept.length)

/-- The adjacency record pruning chooses for an anchor (R223), by the collection's geometry. -/
def prune (s : State) (co : Coll) (anchor : Nat) (cands : List Cand) : List Nat :=
  let g := bsuGeom s co
  let (kept, passed, _) := pruneGo s co g.degree anchor g.slack (rankCands cands) [] [] 0
  let ids := kept.map (·.id)
  if g.fill then pruneFill g.degree ids (passed.map (·.id)) else ids

/-- Pair scores that a prune takes: each candidate tested is scored against every one kept. -/
def pruneScores (s : State) (co : Coll) (anchor : Nat) (cands : List Cand) : Nat :=
  (pruneGo s co (bsuGeom s co).degree anchor (bsuGeom s co).slack (rankCands cands) [] [] 0).2.2

/-- The bytes of an adjacency record: ids in slot order, then empty slots (R142, R143). -/
def adjBytes (degree : Nat) (ids : List Nat) : List Byte :=
  (ids ++ List.replicate (degree - ids.length) emptySlot).flatMap (leBytes 5)

/-! ### Copies (R262) -/

/-- Copy one line's data; a poisoned or uncorrectable source leaves the destination poisoned. -/
def moveLine (s : State) (src dst : Nat) : State :=
  let data := rdBytes s (src * 64) 64
  match lineOk s src with
  | .poisoned => poisonLine (wrBytes s (dst * 64) data) dst
  | .uncorrectable => poisonLine (wrBytes s (dst * 64) data) dst
  | _ => wrBytes s (dst * 64) data

/-- A BSU copies one line, carrying poison with the source data (R262): the read counts as R260 and R261 say, and poison_reads counts a source
found uncorrectable too. -/
def copyLine (st p : Nat) (s : State) (src dst : Nat) : State :=
  let (s', code) := bsuLine st p (s, 0) src
  if code = Code.MEM_STACK_LOST then s
  else moveLine (if code = Code.BSU_UNCORRECTABLE then bump s' ⟨.BSU_CNT3, st, p⟩ 63 32 1 else s') src dst

/-- Copy a 64 KiB page between device addresses: by the BSU of a bank-local page, and otherwise by the controllers. -/
def copyPage (s : State) (src dst : Nat) : State :=
  let (st, row, p, _) := pcOf s src
  if rowStriped s st row then (List.range 1024).foldl (fun s i => moveLine s (src / 64 + i) (dst / 64 + i)) s
  else (List.range 1024).foldl (fun s i => copyLine st p s (src / 64 + i) (dst / 64 + i)) (bump s ⟨.BSU_CNT1, st, p⟩ 63 0 65536)

/-! ### What a command costs and names (R246, R251) -/

/-- Bytes of a bag's row (R331). -/
def PoolBag.rowBytes (b : PoolBag) : Nat := if b.e4m3 then b.width + 8 else 2 * b.width

def bagsOf : BsuArg → List PoolBag
  | .bags bs => bs
  | _ => []
def queriesOf : BsuArg → List BsuQuery
  | .queries qs => qs
  | _ => []

/-- The rows of a POOL operand: bag and PC address. -/
def poolRows (c : BsuCmd) : List (PoolBag × Nat) := (bagsOf c.arg).flatMap fun b => b.rows.map fun a => (b, a)

/-- Bytes a record reads: a code, an attribute record, a row, an adjacency record, a page. -/
def recReads (s : State) (c : BsuCmd) : Nat :=
  let g := bsuGeom s (getColl s (recColl c.head))
  match c.op with
  | .scan | .shadow => strideOf (codeBytes g.format g.dim g.pqM)
  | .filter => g.attrBytes
  | .pool => (bagsOf c.arg).foldl (fun n b => max n b.rowBytes) 0
  | .edgescan => 5 * g.degree
  | .copy => 65536
  | .prune | .fill => 0

/-- c_rec in BSU clocks, as a fraction (R251). -/
def recCost (s : State) (c : BsuCmd) : Nat × Nat :=
  let g := bsuGeom s (getColl s (recColl c.head))
  let q := recQueries c.head
  match c.op with
  | .scan | .shadow =>
    (1 + (if g.format = 5 then cdiv (q * g.pqM) 256 else if (g.format = 2 ∨ g.format = 3) ∧ g.metric ≠ 2 then cdiv (q * g.dim) 1024
          else cdiv (q * g.dim) 128), 1)
  | .filter => (1 + q * cdiv ((queriesOf c.arg).foldl (fun n x => max n x.filter.length) 0) 4, 1)
  | .pool => (max 1 (recReads s c), 128)
  | .prune => (max 1 g.dim, 128)
  | .edgescan => (8 + g.degree, 8)
  | .copy | .fill => (64, 1)

/-- The records of a command's work: page-list records, rows, pair scores, pages, 64 KiB of the fill. -/
def workOf (s : State) (c : BsuCmd) : Nat :=
  match c.op, c.arg with
  | .pool, _ => (poolRows c).length
  | .prune, .anchor _ id _ cands => pruneScores s (getColl s (recColl c.head)) id cands
  | .copy, _ => c.pages.length
  | .fill, _ => 24 * recCount c.head
  | _, _ => recordsOf c.pages

/-- Records of the next segment (R246). -/
def segmentLen (s : State) (c : BsuCmd) : Nat :=
  let left := workOf s c - c.done
  let (num, den) := recCost s c
  let reads := recReads s c
  min left (min (if reads = 0 then left else max 1 (131072 / reads)) (max 1 (1400 * den / num)))

/-- PC addresses of the pages and rows that `n` records from record `start` on read or write (R263). -/
def namedFrom (s : State) (c : BsuCmd) (start n : Nat) : List Nat :=
  match c.op with
  | .pool => (((poolRows c).drop start).take n).map (·.2)
  | .prune => [recTarget c.head]
  | .copy => (List.range n).flatMap fun i => [pagePc (dWord c.pages (start + i)), recTarget c.head + 65536 * (start + i)]
  | .fill => (List.range n).map fun i => recTarget c.head + 65536 * (start + i)
  | _ => (recordsFrom (recReads s c) c.pages start n).map (·.1)

/-- PC addresses of every page that a command names. -/
def namedPages (s : State) (c : BsuCmd) : List Nat :=
  match c.op with
  | .pool | .prune | .copy | .fill => namedFrom s c 0 (workOf s c)
  | _ => c.pages.map pagePc

/-- The controller places a command in the BSU's queue for its polder, or the BSU ends it at once: a reserved opcode, or a page in a row that
it refuses (R250, R259, R263). `none`: a record that the controller does not form, which reaches no queue (DESIGN CHOICE). -/
def submit (s : State) (st p : Nat) (cmd : Option BsuCmd) : State :=
  match cmd with
  | none => s
  | some c =>
    if !bsuOn s st then s
    else if reservedOp (recOpcode c.head) then refuseCmd s st p c.reqs Code.BSU_LAYOUT
    else
      let bad := pagesCode s st c.op (namedPages s c)
      if bad ≠ 0 then refuseCmd s st p c.reqs bad
      else setBsu s st p { getBsu s st p with queue := (getBsu s st p).queue ++ [c] }

/-! ### SCAN, SHADOW and FILTER (R250 to R252, R256) -/

/-- Whether a request scans by exact scan or shadow in its current stage. -/
def scansIn (s : State) (c : Nat) (shadow : Bool) : Bool :=
  stageKindOf s c = some .scan && !shadow || stageKindOf s c = some .shadow && shadow

/-- Set-up bytes of one query: the distance table, or the query with its scale, norm factor and integer query; 4 bytes a binary32 and 1 an
integer component (DESIGN CHOICE: R251 gives the contents and not their widths). A FILTER query's set-up is its filter words. -/
def setupBytes (g : Geom) (op : BsuOp) (filter : List Word) : Nat :=
  if op = .filter then 8 * filter.length
  else if g.format = 5 then 1024 * g.pqM
  else if (g.format = 2 ∨ g.format = 3) ∧ g.metric ≠ 2 then 8 + g.dim
  else 4 + 4 * g.dim

/-- Whether a BSU, or the owner of the request, has a request's scan of a segment already. -/
def scanTaken (s : State) (st p c : Nat) (op : BsuOp) (seg : Nat) : Bool :=
  let k := getCtx s c
  let b := getBsu s st p
  let lists := if op = .shadow then k.work.shadows else k.work.lists
  (b.queue ++ b.results).any (fun r => r.op = op && r.seg = seg && r.reqs.contains (c, k.gen)) || lists.any (fun l => l.covers.contains seg)

/-- The jobs of a segment for a BSU, in the order in which they reached the stage queue (R256). A FILTER job is one of a request with a filter. -/
def scanJobs (s : State) (st p polder coll seg : Nat) (op : BsuOp) : List Nat :=
  let fit (e : Nat × Ctx) : Bool :=
    e.2.st = .live && e.2.polder = polder && dColl e.2.desc = coll
      && (if op = .filter then (scansIn s e.1 false || scansIn s e.1 true) && !(dFilter e.2.desc).isEmpty else scansIn s e.1 (op = .shadow))
      && (getStage s e.1).elim false (fun g => (wantSegs s e.1 g).contains seg) && !scanTaken s st p e.1 op seg
  (sortBy (fun a b => decide (a.2.work.since < b.2.work.since)) (s.ctxs.filter fit)).map (·.1)

/-- A batch: jobs in order, each that reads the segment version of the first, has its k, and fits the set-up buffer with those before it; the
others wait for a later command (R256). -/
def batchOf (s : State) (co : Coll) (seg n : Nat) (op : BsuOp) (jobs : List Nat) : List Nat :=
  let ver (c : Nat) : Nat := cResolve s co seg (getCtx s c).pin
  let size (c : Nat) : Nat := setupBytes (bsuGeom s co) op (dFilter (getCtx s c).desc)
  jobs.foldl (fun acc c =>
    let same := (acc.head?).elim true fun h => ver h = ver c && (op = .filter || walkK s (getCtx s h) = walkK s (getCtx s c))
    if acc.length < n && same && decide ((acc ++ [c]).foldl (fun m x => m + size x) 0 ≤ 524288) then acc ++ [c] else acc) []

/-- The crest die has a scan's query: read from the operand of a SEARCH or SCAN (R170). -/
def loadQuery (s : State) (c : Nat) : State :=
  let k := getCtx s c
  if !isLive s c || !k.work.query.isEmpty || !(dKind k.desc = kSearch || dKind k.desc = kScan) then s
  else withBytes s c (operandOf s k) (2 * cDim s (getColl s (dColl k.desc))) fun s bs => modWork s c fun w => { w with query := bf16s bs }

/-- The command for a batch (R248 to R252, R256), from its record; none when the controller forms no such command. -/
def scanCmd (s : State) (op : BsuOp) (st p seg : Nat) (r : List Word) (batch : List Nat) : Option BsuCmd :=
  let co := getColl s (recColl r)
  let g := bsuGeom s co
  let pin := (batch.head?).elim 0 fun c => (getCtx s c).pin
  let pages := pageList s co seg (cResolve s co seg pin) (if op = .filter then .attr else .codes) st p
  let qs : List BsuQuery := batch.map fun c =>
    ⟨c, (getCtx s c).gen, (getCtx s c).pin, if op = .filter then [] else (getCtx s c).work.query, dFilter (getCtx s c).desc⟩
  let f : RecForm :=
    { coll := recColl r, queries := batch.length, k := if op = .filter then 0 else (batch.head?).elim 0 fun c => walkK s (getCtx s c)
      pages := pages.length, setup := qs.foldl (fun n q => n + setupBytes g op q.filter) 0 }
  let ready := qs.all fun q => op = .filter || !q.vec.isEmpty
  let out : BsuOut := if op = .filter then .pass (qs.map fun q => (q.ctx, [])) else .lists (qs.map fun q => BsuList.start q.ctx)
  if recFits op r f && decide (1 ≤ batch.length) && batch.length = recQueries r && ready then
    some { op := op, head := r, reqs := qs.map fun q => (q.ctx, q.gen), seg := seg, pages := pages, arg := .queries qs, done := 0, out := out }
  else none

/-- SCAN, SHADOW and FILTER (R250): the batch is the first jobs of the stage queue, as many as the record's queries. -/
def doScan (s : State) (op : BsuOp) (st p seg : Nat) (r : List Word) : State :=
  let co := getColl s (recColl r)
  let n := min (recQueries r) (getF s ⟨.MEM_BSU_CFG, st, 0⟩ 15 8)
  let batch := batchOf s co seg n op (scanJobs s st p (recPolder r) (recColl r) seg op)
  let s := if op = .filter then s else batch.foldl loadQuery s
  submit s st p (scanCmd s op st p seg r batch)

/-! ### POOL (R338) -/

/-- Bytes of a bag record: its header and an entry per row. -/
def PoolBag.bytes (b : PoolBag) : Nat := 8 + 8 * b.rows.length

/-- The bag records that the operand buffer holds with those before them. A pair whose record alone passes the buffer goes alone, and its record
names a full buffer (DESIGN CHOICE: R242 bounds the buffer, and R338 gives a pair one record of up to 65,535 rows). -/
def fitBags : List PoolBag → Nat → List PoolBag
  | [], _ => []
  | b :: bs, room => if b.bytes ≤ room then b :: fitBags bs (room - b.bytes) else []

/-- The pairs of a request for a BSU that no command carries and no partial answers, as many as a command takes. -/
def poolBatch (s : State) (st p c n : Nat) (bs : List Byte) : List PoolBag :=
  let k := getCtx s c
  let queued (b : PoolBag) : Bool := (getBsu s st p).queue.any fun x => x.reqs.contains (c, k.gen) && (bagsOf x.arg).any fun y => y.bag = b.bag && y.shard = b.shard
  let open_ := ((bagPairs s c bs).filter fun x => x.1 = bsuKey st p && !queued x.2
    && !(k.work.partials.any fun y => y.1 = x.2.bag && y.2.1 = x.2.shard)).map (·.2)
  match fitBags open_ 262144 with
  | [] => (open_.take 1).take n
  | bs => bs.take n

/-- The POOL of a request in its BAG stage (R250, R338). -/
def poolCmd (s : State) (st p : Nat) (r : List Word) (c : Nat) (bs : List Byte) : Option BsuCmd :=
  let k := getCtx s c
  let bags := poolBatch s st p c (recCount r) bs
  let f : RecForm := { count := bags.length, operand := min 262144 (bags.foldl (fun n b => n + b.bytes) 0) }
  if recFits .pool r f && isLive s c && stageKindOf s c = some .bag && recPolder r = k.polder && !bags.isEmpty then
    some { op := .pool, head := r, reqs := [(c, k.gen)], seg := 0, pages := [], arg := .bags bags, done := 0, out := .nothing }
  else none

/-- POOL (R338): the controller reads the request's bags and issues the next pairs of this pseudo-channel. -/
def doPool (s : State) (st p : Nat) (r : List Word) (c : Nat) : State :=
  if !isLive s c || stageKindOf s c ≠ some .bag then s
  else withBytes s c (operandOf s (getCtx s c)) (dOpBytes (getCtx s c).desc) fun s bs => submit s st p (poolCmd s st p r c bs)

/-! ### PRUNE, EDGESCAN, COPY and FILL (R250, R251) -/

/-- The candidates of a new item: the valid entries of its search result, with the walk's scores and the codes at the pinned epoch, which the
controller gathers (R223, R251). -/
def newCands (s : State) (co : Coll) (pin : Nat) (l : PList) : List Cand :=
  l.entries.map fun e =>
    let id := e.id % 2 ^ 40
    ⟨id, readCode s co (cResolve s co (cSegOf s co id) pin) (cIxOf s co id), e.score⟩

/-- The PRUNE of record `item` of a request in its prune stage (R222, R251). -/
def pruneCmd (s : State) (r : List Word) (c item : Nat) : Option BsuCmd :=
  let k := getCtx s c
  let coll := dColl k.desc
  let co := getColl s coll
  let g := bsuGeom s co
  match mapGet k.work.searches item with
  | none => none
  | some l =>
    let cands := newCands s co k.pin l
    let stride := strideOf (codeBytes g.format g.dim g.pqM)
    let f : RecForm :=
      { coll := coll, count := cands.length, target := recTarget r, operand := cands.length * (12 + stride) + stride + 8
        setup := if g.format = 5 then 512 * g.dim else if g.format = 1 ∨ g.format = 2 ∨ g.format = 3 then 2 * g.dim else 0 }
    let busy := s.bsus.any fun e => e.2.queue.any fun x => x.reqs.contains (c, k.gen) && match x.arg with
      | .anchor i _ _ _ => i = item
      | _ => false
    if recFits .prune r f && isLive s c && stageKindOf s c = some .prune && recPolder r = k.polder && (mapGet k.work.adj item).isNone && !busy then
      some { op := .prune, head := r, reqs := [(c, k.gen)], seg := 0, pages := [], arg := .anchor item (itemId s co k.desc item) (itemCode s co k.desc item) cands,
             done := 0, out := .nothing }
    else none

/-- Ids of a dead-set window (R251). -/
def deadWindow (x : Consol) (base : Nat) : List Nat := x.dead.filter fun d => decide (base ≤ d) && decide (d < base + 524288)

/-- The EDGESCAN of a segment for one window of a consolidation's dead set (R229, R251): windows begin at multiples of 524,288 (DESIGN CHOICE). -/
def edgeCmd (s : State) (st p : Nat) (r : List Word) (cons seg base : Nat) : Option BsuCmd :=
  let co := getColl s (recColl r)
  match co.consol.find? (·.seg = cons) with
  | none => none
  | some x =>
    let pages := pageList s co seg (cResolve s co seg x.pin) .adj st p
    let f : RecForm := { coll := recColl r, pages := pages.length, setup := 8 + 65536 }
    if recFits .edgescan r f && recPolder r = co.polder && base % 524288 = 0 && !(deadWindow x base).isEmpty
        && decide (seg < cSegments s co) && cSegPart s co seg = cSegPart s co cons then
      some { op := .edgescan, head := r, reqs := [], seg := seg, pages := pages, arg := .dead cons base (deadWindow x base), done := 0, out := .ids [] }
    else none

/-- COPY: the pages of the page list, one entry each, to the pages from target on. -/
def copyCmd (r pages : List Word) : Option BsuCmd :=
  let f : RecForm := { pages := pages.length, count := pages.length, target := recTarget r }
  if recFits .copy r f && recTarget r % 65536 = 0 then
    some { op := .copy, head := r, reqs := [], seg := 0, pages := pages, arg := .none, done := 0, out := .nothing }
  else none

/-- FILL: whole row frames from target on. -/
def fillCmd (r : List Word) : Option BsuCmd :=
  let f : RecForm := { count := recCount r, target := recTarget r, pattern := recPattern r }
  if recFits .fill r f && recTarget r % frameBytes = 0 && decide (recTarget r / frameBytes + recCount r ≤ 1024) then
    some { op := .fill, head := r, reqs := [], seg := 0, pages := [], arg := .none, done := 0, out := .nothing }
  else none

/-! ### Segments (R243 to R247) -/

/-- The owner of a window of a stack (R244). -/
def winOwner (s : State) (st win : Nat) : Nat := getF s ⟨.MEM_BSU_WIN, st, win⟩ 11 0

/-- Whether a stamp lies in a guard of the stack's windows, in a berm, or outside any step window (R243, R245). -/
def inGuard (s : State) (t : Stamp) : Bool :=
  if !(s.tick.running && s.tick.begun) || inBerm s t then true
  else
    let o := t - s.tick.base
    decide (nWindows s ≤ o / (2 * us)) || decide (o % (2 * us) < 500)

/-- Refreshes that a guard has room for: two, and in a berm or outside every window as many as fall due (R245). -/
def guardRoom (s : State) (b : Bsu) (tick win : Nat) : Nat :=
  if nWindows s ≤ win then 2 ^ 16 else 2 - (if b.guard = (tick, win) then b.guardN else 0)

/-- Refreshes that waited are taken in the guard of a window (R245). -/
def takeRefresh (s : State) (b : Bsu) (tick win : Nat) (t : Stamp) : Bsu :=
  let n := min b.refresh.length (guardRoom s b tick win)
  if n = 0 then b else
    { b with refresh := b.refresh.drop n, guard := (tick, win), guardN := (if b.guard = (tick, win) then b.guardN else 0) + n, refEnd := t + 200 * n }

/-- One query's list over records (R252, R253), and its NaN count. -/
def scanRecs (s : State) (st p : Nat) (co : Coll) (c : BsuCmd) (recs : List (Nat × Nat)) (q : BsuQuery) (l : BsuList) : BsuList × Nat :=
  recs.foldl (fun (acc : BsuList × Nat) x =>
    if !eligBit s co q c.seg x.2 then acc else
      let sc := scoreCode s co q.vec (rdBytes s (ofPc s st p x.1) (cCodeBytes s co))
      if f32IsNaN sc then (acc.1, acc.2 + 1) else (bsuOffer (recK c.head) acc.1 ⟨sc, x.2 - cIdBase s co, x.2⟩, acc.2)) (l, 0)

/-- The rows of a bag added to a sum in order (R331, R338). -/
def poolAdd (s : State) (st p : Nat) (b : PoolBag) (acc : List F32) (a : Nat) : List F32 :=
  let o := ofPc s st p a
  let vals := if b.e4m3 then
      let bs := rdBytes s o (b.width + 8)
      let sc : F32 := BitVec.ofNat 32 (leNat ((bs.drop b.width).take 4))
      (bs.take b.width).map fun q => f32Mul (e4m3Dec q) sc
    else (bf16s (rdBytes s o (2 * b.width))).map bf16Widen
  List.zipWith f32Add acc vals

/-- What records `c.done` to `c.done + n − 1` form beside the reads (R250, R252). -/
def formOut (s : State) (st p : Nat) (c : BsuCmd) (n : Nat) : State × BsuOut :=
  let co := getColl s (recColl c.head)
  let recs := recordsFrom (recReads s c) c.pages c.done n
  match c.op, c.out with
  | .filter, .pass xs =>
    (s, .pass (xs.zip (queriesOf c.arg) |>.map fun x =>
      (x.1.1, x.1.2 ++ (recs.filter fun r => passes s co x.2.filter (rdBytes s (ofPc s st p r.1) (cAttrBytes s co))).map (·.2))))
  | .edgescan, .ids ids =>
    let dead := match c.arg with
      | .dead _ _ ds => ds
      | _ => []
    let hits := recs.filter fun r =>
      (filled ((List.range (bsuGeom s co).degree).map fun i => leNat (rdBytes s (ofPc s st p r.1 + 5 * i) 5))).any fun y => dead.contains y
    (s, .ids (ids ++ hits.map (·.2)))
  | .copy, o =>
    ((List.range n).foldl (fun s i => copyPage s (ofPc s st p (pagePc (dWord c.pages (c.done + i)))) (ofPc s st p (recTarget c.head + 65536 * (c.done + i)))) s, o)
  | .fill, o =>
    let granule := (List.replicate 32 (leBytes 8 (recPattern c.head).toNat)).flatten
    ((List.range (256 * n)).foldl (fun s i => wrBytes s (ofPc s st p (recTarget c.head + 65536 * c.done + 256 * i)) granule) s, o)
  | _, .lists ls =>
    let rs := (queriesOf c.arg).zip ls |>.map fun x => scanRecs s st p co c recs x.1 x.2
    (bump s ⟨.BSU_CNT4, st, p⟩ 63 32 (rs.foldl (fun n r => n + r.2) 0), .lists (rs.map (·.1)))
  | _, o => (s, o)

/-- The lines that records `c.done` to `c.done + n − 1` read, each once; COPY reads its own as it copies. -/
def segmentLines (s : State) (st p : Nat) (c : BsuCmd) (n : Nat) : List Nat :=
  match c.op with
  | .copy | .fill | .prune => []
  | .pool => ascending (((poolRows c).drop c.done).take n |>.flatMap fun x => linesOf (ofPc s st p x.2) x.1.rowBytes)
  | _ => ascending ((namedFrom s c c.done n).flatMap fun a => linesOf (ofPc s st p a) (recReads s c))

/-- PRUNE writes the record it chose (R251, R262): the target's lines are read, merged and written with a fresh code, and a poisoned or
uncorrectable one ends the request with BSU_POISON and stays poisoned. -/
def pruneWrite (s : State) (st p : Nat) (c : BsuCmd) : State × Nat × List Nat :=
  match c.arg with
  | .anchor _ id _ cands =>
    let co := getColl s (recColl c.head)
    let ids := prune s co id cands
    let a := ofPc s st p (recTarget c.head)
    let bs := adjBytes (bsuGeom s co).degree ids
    let lines := linesOf a bs.length
    let (s, code) := bsuRead (bump s ⟨.BSU_CNT1, st, p⟩ 63 0 (64 * lines.length)) st p lines
    if code = 0 then (wrBytes s a bs, 0, ids) else (s, if code = Code.BSU_UNCORRECTABLE then Code.BSU_POISON else code, ids)
  | _ => (s, 0, [])

/-- Keep a result for the stage that takes it, for the requests that are still live. -/
def keepResult (s : State) (st p : Nat) (c : BsuCmd) : State :=
  if (liveReqs s c.reqs).isEmpty then s else setBsu s st p { getBsu s st p with results := (getBsu s st p).results ++ [c] }

/-- What a finished command hands on: a pruned record and partial sums to the request that asked for them, ids to their consolidation, lists
and pass bits to their stage. -/
def deliver (s : State) (st p : Nat) (c : BsuCmd) : State :=
  match c.op, c.arg, c.out with
  | .pool, .bags bs, _ => (liveReqs s c.reqs).foldl (fun s x => modWork s x fun w =>
      { w with partials := w.partials ++ bs.map fun b => (b.bag, b.shard, b.rows.foldl (poolAdd s st p b) (List.replicate b.width 0)) }) s
  | .prune, .anchor i _ _ _, .ids ids => (liveReqs s c.reqs).foldl (fun s x =>
      if stageKindOf s x ≠ some .prune then s else
        let s := modWork s x fun w => { w with adj := mapSet w.adj i ids }
        let k := getCtx s x
        if (List.range (dItems k.desc)).all fun i => (mapGet k.work.adj i).isSome then stageDone s x else s) s
  | .edgescan, .dead cons base _, .ids ids =>
    let co := getColl s (recColl c.head)
    setColl s (recColl c.head) { co with consol := co.consol.map fun x =>
      if x.seg = cons then { x with found := ascending (x.found ++ ids), scans := x.scans ++ [(bsuKey st p, c.seg, base)] } else x }
  | .copy, _, _ => s
  | .fill, _, _ => s
  | _, _, _ => keepResult s st p c

/-- The first queued command of a polder, changed or dropped. -/
def modFirst (polder : Nat) (f : BsuCmd → Option BsuCmd) : List BsuCmd → List BsuCmd
  | [] => []
  | c :: cs => if recPolder c.head = polder then (f c).toList ++ cs else c :: modFirst polder f cs

/-- Whether the controller has the eligibility bits of a segment's records: every filter is evaluated on them (R252). -/
def segmentReady (s : State) (c : BsuCmd) (n : Nat) : Bool :=
  !(c.op = .scan || c.op = .shadow) || (queriesOf c.arg).all fun q => q.filter.isEmpty ||
    (recordsFrom (recReads s c) c.pages c.done n).all fun x => filterKnown s (getColl s (recColl c.head)) q c.seg x.2

/-- Run one segment of a command: its `n` records are read, and the command ends with a line's code, with its last record, or goes on. -/
def runSegment (s : State) (st p : Nat) (c : BsuCmd) (n : Nat) : State :=
  let owner := recPolder c.head
  let cut (s : State) (f : BsuCmd → Option BsuCmd) : State := setBsu s st p { getBsu s st p with queue := modFirst owner f (getBsu s st p).queue }
  let ended (s : State) : State := bump (cut s fun _ => none) ⟨.BSU_CNT0, st, p⟩ 31 0 1
  let lines := segmentLines s st p c n
  let s := bump (bump s ⟨.BSU_CNT0, st, p⟩ 63 32 1) ⟨.BSU_CNT1, st, p⟩ 63 0 (64 * lines.length)
  let (s, code) := bsuRead s st p lines
  if code ≠ 0 then endReqs (ended s) st p c.reqs code
  else
    let (s, out) := formOut s st p c n
    let c' := { c with done := c.done + n, out := out }
    if c'.done < workOf s c then cut s fun _ => some c'
    else if c.op = .prune then
      let (s, code, ids) := pruneWrite s st p c
      if code ≠ 0 then endReqs (ended s) st p c.reqs code else deliver (ended s) st p { c' with out := .ids ids }
    else deliver (ended s) st p c'

/-- BSU_SEGMENT (R243 to R247): one segment of the current command of the window's owner, in its slot; a slot holds one segment. A command whose
segment names a row that has become OPAQUE ends there (R263). -/
def doSegment (s : State) (st p win : Nat) (t : Stamp) : State :=
  let o := t - s.tick.base
  let slot := decide (win < nWindows s) && decide (2 * us * win + 500 ≤ o) && decide (o < 2 * us * (win + 1)) && decide (s.tick.base ≤ t)
  let b := takeRefresh s (getBsu s st p) s.tick.tick win (s.tick.base + 2 * us * win)
  if !(s.tick.running && s.tick.begun && slot && bsuOn s st && fits s (s.tick.base + 2 * us * win + 500) 1500) || b.used = some (s.tick.tick, win) then s else
    match b.queue.find? fun c => recPolder c.head = winOwner s st win with
    | none => s
    | some c =>
      let n := segmentLen s c
      if !segmentReady s c n then s else
        let s := setBsu s st p { b with run := some c, segEnd := s.tick.base + 2 * us * (win + 1), used := some (s.tick.tick, win), window := win }
        let bad := pagesCode s st c.op (namedFrom s c c.done n)
        if bad ≠ 0 then
          refuseCmd (setBsu s st p { getBsu s st p with queue := modFirst (recPolder c.head) (fun _ => none) (getBsu s st p).queue }) st p c.reqs bad
        else runSegment s st p c n

/-! ### Scan-segment lists (R254) -/

/-- The BSU lists of a request over a segment, from finished commands, with the pages they scanned. -/
def segResults (s : State) (c seg : Nat) (op : BsuOp) : List (Nat × BsuCmd × BsuList) :=
  s.bsus.flatMap fun e => e.2.results.flatMap fun r =>
    if r.op = op ∧ r.seg = seg then
      match r.out with
      | .lists ls => if r.reqs.contains (c, (getCtx s c).gen) then (ls.filter (·.ctx = c)).map fun l => (e.1, r, l) else []
      | _ => []
    else []

/-- The code pages of a segment at a request's epoch: BSU key and PC address of each page that exists (R249). -/
def codePages (s : State) (co : Coll) (seg pin : Nat) : List (Nat × Nat) :=
  let ver := cResolve s co seg pin
  ((List.range (compPages s co seg .codes)).filter fun i => pteValid (ptEntry s ver .codes i)).map fun i =>
    let (st, _, p, a) := pcOf s (ptePage (ptEntry s ver .codes i))
    (bsuKey st p, a)

/-- The list of R254 from the BSU lists of a segment. -/
def segmentList (s : State) (co : Coll) (seg k : Nat) (ls : List BsuList) : PList :=
  let union := ls.foldl (fun acc l => l.entries.foldl (fun acc e => insertBy ranksBefore e acc) acc) []
  let sel := union.take k
  let rest := union.drop k
  let v := ls.foldl (fun n l => n + l.valid) 0
  let kth := (sel.getLast?).elim f32NaN (·.score)
  let full := decide (sel.length = k)
  let selN (x : F32) : Nat := (sel.filter fun e => e.score = x).length
  let pos := ls.foldl (fun n l => n + l.posInf) 0 - selN 0x7F800000#32
  let neg := ls.foldl (fun n l => n + l.negInf) 0 - selN 0xFF800000#32
  let acc := ls.foldl (fun n l => n + l.acc) 0 - (sel.foldl (fun n e => n + f32Exact e.score) 0)
  let leftSum := if 0 < pos ∧ 0 < neg then f32NaN else if 0 < pos then 0x7F800000#32 else if 0 < neg then 0xFF800000#32 else f32OfExact acc
  let tie := if full then (rest.filter fun e => f32Eq e.score kth).length
      + (ls.filter fun l => l.entries.length = k && (l.entries.getLast?).elim false (fun e => f32Eq e.score kth) && f32Eq l.tieS kth).foldl (fun n l => n + l.tieN) 0
    else 0
  { src := seg, entries := sel.map fun e => { e with id := cGlobal s co e.id }, full := full, leftCount := v - min k v, leftSum := leftSum,
    tie := tie, kth := kth, reason := .exhausted, expanded := 0, poison := false, covers := [seg] }

/-- A finished command without a request; none when it serves no other. -/
def BsuCmd.dropCtx (r : BsuCmd) (c : Nat) : Option BsuCmd :=
  let reqs := r.reqs.filter (·.1 ≠ c)
  if reqs.isEmpty then none else some { r with reqs := reqs }

/-- Drop a request's lists and pass bits over a segment from the finished commands. -/
def takeSegResults (s : State) (c seg : Nat) (op : BsuOp) : State :=
  let keep (r : BsuCmd) : Option BsuCmd := if (r.op = op ∨ r.op = .filter) ∧ r.seg = seg then r.dropCtx c else some r
  { s with bsus := s.bsus.map fun e => (e.1, { e.2 with results := e.2.results.filterMap keep }) }

/-- SCAN_SEGMENT_LIST (R254): once every code page of the segment was scanned, the list goes to the owner or to the sub-request
that its die holds (R206). -/
def doSegmentList (s : State) (c seg : Nat) (isShadow : Bool) : State :=
  let k := getCtx s c
  let co := getColl s (dColl k.desc)
  let op := if isShadow then BsuOp.shadow else .scan
  let rs := segResults s c seg op
  let pages := codePages s co seg k.pin
  let all := pages.all fun g => rs.any fun r => r.1 = g.1 && r.2.1.pages.any fun e => pagePc e = g.2
  let part := cSegPart s co seg
  let die := (pages.head?).elim (cWalkDie s co part) fun g => g.1 / 64 / 5
  if !(isLive s c && scansIn s c isShadow && all && decide (seg < cSegments s co)) then s else
    let l := segmentList s co seg (walkK s k) (rs.map (·.2.2))
    let add (ls : List PList) : List PList := if ls.any (fun x => x.covers.contains seg) then ls else ls ++ [l]
    let s := takeSegResults s c seg op
    if activeOwner s c = some die then
      modWork s c fun w => if isShadow then { w with shadows := add w.shadows } else { w with lists := add w.lists }
    else
      modDie s die fun d => { d with subs := d.subs.map fun x =>
        if x.ctx = c ∧ x.gen = k.gen ∧ x.part = part ∧ !x.ready then
          (if isShadow then { x with shadow := add x.shadow } else { x with list := add x.list }) else x }

/-! ### Scrub, refresh, ECC mode (R245, R260, R263, R364, R375) -/

/-- Rewrite a line with its corrected data and a fresh code. -/
def rewriteLine (s : State) (line : Nat) : State :=
  match lineOk s line with
  | .corrected _ => wrBytes s (line * 64) (rdBytes s (line * 64) 64)
  | _ => s

/-- SCRUB (R260): one queued line, in a guard or a berm, as one bank operation. -/
def doScrub (s : State) (st p : Nat) (t : Stamp) : State :=
  let b := getBsu s st p
  if !inGuard s t then s else
    match b.scrub with
    | [] => s
    | l :: ls => rewriteLine (setBsu s st p { b with scrub := ls }) l

/-- PATROL_SCRUB (R364): one line of the stack, in a guard or a berm. -/
def doPatrol (s : State) (st line : Nat) (t : Stamp) : State :=
  let cfg := getReg s ⟨.MEM_SCRUB_CFG, st, 0⟩
  let l := st * (stackBytes / 64) + line
  if fld cfg 0 0 = 0 || !inGuard s t || decide (stackBytes / 64 ≤ line) || memLost s (l * 64) then s else
    let s := match lineOk s l with
      | .corrected _ => rewriteLine (noteEcc s l 1) l
      | .uncorrectable =>
        if lineHostwin s l then hostwinFail (noteEcc s l 2) l
        else bump (poisonLine (noteEcc s l 2) l) ⟨.MEM_SCRUB_STS, st, 0⟩ 31 0 1
      | _ => s
    if line + 1 = stackBytes / 64 then bump s ⟨.MEM_SCRUB_STS, st, 0⟩ 63 32 1 else s

/-- REFRESH (R245): one falls due at `t`. While the BSU runs a segment it waits for the next guard or the berm; a guard takes two, those that
waited first; otherwise it is issued at once. -/
def doRefresh (s : State) (st p : Nat) (t : Stamp) : State :=
  let b := getBsu s st p
  let win := if s.tick.running && s.tick.begun && !inBerm s t then (t - s.tick.base) / (2 * us) else nWindows s
  let run := decide (t < b.segEnd) && b.used = some (s.tick.tick, win) && !inGuard s t
  if run then setBsu s st p { b with refresh := b.refresh ++ [t] }
  else if inGuard s t then setBsu s st p (takeRefresh s { b with refresh := b.refresh ++ [t] } s.tick.tick win t)
  else setBsu s st p { b with refEnd := t + 200 }

/-- ECC_MODE_CHANGE (R263): a written ecc field takes effect, in a guard or a berm. -/
def doEccChange (s : State) (st row : Nat) : State :=
  match mapGet s.eccPend (st * 1024 + row) with
  | none => s
  | some v => if !inGuard s s.now then s
    else { setF s (rowReg st row) 1 1 (b2n v) with eccPend := mapDel s.eccPend (st * 1024 + row) }

/-- The command that BSU_STS shows: the one whose segment runs, or the one of the last segment or of the first polder that is held between
segments (R270). -/
def bsuShown (s : State) (b : Bsu) : Option BsuCmd :=
  if s.now < b.segEnd then b.run
  else
    let held := b.queue.filter fun c => decide (0 < c.done)
    (b.run.bind fun r => held.find? fun c => recPolder c.head = recPolder r.head) <|> held.head?

/-- BSU_STS (R270). -/
def bsuSts (s : State) (st p : Nat) : Word :=
  let b := getBsu s st p
  let shown := bsuShown s b
  let state := if s.now < b.segEnd then 2 else if s.now < b.refEnd then 3 else b2n shown.isSome
  BitVec.ofNat 64 (shown.elim 0 (fun c => recPolder c.head * 2 ^ 52 + recOpcode c.head * 2 ^ 44 + recJob c.head * 2 ^ 28) + b.window * 2 ^ 12 + state)

end Sys2Proof.Machine
end

