-- ==== Sys2Proof/Machine/Mutate.lean ====
section
/-! DEFINITION. Mutation: the apply step's work on pages and versions (R218, R225, R226), consolidation (R229, R230), folding
(R231), and the groups it stages. -/

namespace Sys2Proof.Machine

/-! ### Pages that versions reference -/

/-- The page entries of one component's page table. -/
def ptPages (s : State) (co : Coll) (seg ver : Nat) (c : Comp) : List Nat :=
  ((List.range (compPages s co seg c)).filter fun i => pteValid (ptEntry s ver c i)).map fun i => ptePage (ptEntry s ver c i)

def allComps : List Comp := [.codes, .adj, .attr, .tomb]

/-- The pages of a version. -/
def verPages (s : State) (co : Coll) (seg ver : Nat) : List Nat := allComps.flatMap (ptPages s co seg ver)

/-- The version an apply step begins on: the newest staged one of a segment, or its newest published one (R225). -/
def baseVer (s : State) (co : Coll) (seg : Nat) : Nat :=
  ((co.groups.flatMap (·.segs)).reverse.find? (·.seg = seg)).elim (cNewest s co seg) (·.newVer)

/-- The entry-point record an apply step begins on. -/
def baseEp (s : State) (co : Coll) (part : Nat) : Nat :=
  ((co.groups.flatMap (·.eps)).reverse.find? (·.1 = part)).elim (cEntryList s co part) (·.2)

/-- Pages that any version of a collection references, staged versions included. -/
def collPages (s : State) (co : Coll) : List Nat :=
  (List.range (cSegments s co)).flatMap fun g => (chainOf s chainFuel (baseVer s co g)).flatMap (verPages s co g)

/-- Pages that any version of any collection of a polder references. -/
def polderPages (s : State) (p : Nat) : List Nat := (s.colls.filter (·.2.polder = p)).flatMap fun e => collPages s e.2

/-- Base pages kept for folding (R231). -/
def basePages (s : State) (p : Nat) : List Nat := (s.colls.filter (·.2.polder = p)).flatMap fun e => e.2.bases.map (·.2.2.2)

/-- Pages that any version of any collection or table of a polder references, and reserved targets (R240). -/
def versionPages (s : State) (p : Nat) : List Nat :=
  polderPages s p ++ (s.tables.filter (·.2.polder = p)).flatMap fun e => tabPages s e.2

/-- Pages that a version of any collection or table of a polder references, base pages and reserved targets. -/
def pagesInUse (s : State) (p : Nat) : List Nat := versionPages s p ++ basePages s p

/-! ### Building a group -/

/-- What an apply step has built so far: new versions, pages taken, copies and reverse-edge prunes by pseudo-channel, new
entry-point lists, inserted items by partition, ids written, and whether every page needed was had (R225, R226). -/
structure Build where
  segs   : List SegChange := []
  own    : List Nat := []
  used   : List Nat := []
  copies : Map Nat := []
  prunes : Map Nat := []
  eps    : List (Nat × List Nat) := []
  ins    : List (Nat × Nat) := []
  wrote  : List Nat := []
  bases  : List (Nat × Nat × Nat × Nat) := []
  ok     : Bool := true
  /-- The BSU whose PRUNE met a poisoned or uncorrectable target line (R262). -/
  hurt   : Option Nat := none

/-- The version of a segment that the step works on. -/
def workVer (s : State) (co : Coll) (b : Build) (seg : Nat) : Nat :=
  (b.segs.find? (·.seg = seg)).elim (baseVer s co seg) (·.newVer)

def workCode (s : State) (co : Coll) (b : Build) (id : Nat) : List Byte := readCode s co (workVer s co b (cSegOf s co id)) (cIxOf s co id)
def workAdj (s : State) (co : Coll) (b : Build) (id : Nat) : List Nat := readAdj s co (workVer s co b (cSegOf s co id)) (cIxOf s co id)
def workLive (s : State) (co : Coll) (b : Build) (id : Nat) : Bool :=
  cHas s co id && liveIn s co (workVer s co b (cSegOf s co id)) (cIxOf s co id)

/-- Copy a page table into the system area, or an empty one (R151, R226). -/
def copyTable (s : State) (old n : Nat) : State × Nat :=
  if n = 0 then (s, 0) else
    let (s, a) := sysAlloc s (8 * n)
    (wrBytes s a (if old = 0 then List.replicate (8 * n) 0 else rdBytes s old (8 * n)), a)

/-- A new version record over a former one: prev names it, and its page tables copy the former entries (R153, R226). -/
def newVersion (s : State) (co : Coll) (seg old : Nat) : State × Nat :=
  let (s, rec) := sysAlloc s 64
  let (s, c) := copyTable s (ptOf s old .codes) (compPages s co seg .codes)
  let (s, a) := copyTable s (ptOf s old .adj) (compPages s co seg .adj)
  let (s, t) := copyTable s (ptOf s old .attr) (compPages s co seg .attr)
  let (s, m) := copyTable s (ptOf s old .tomb) (compPages s co seg .tomb)
  let live := if old = 0 then 0 else fld (rdW s (old + 48)) 63 32
  (wrWords s rec [0, BitVec.ofNat 64 old, BitVec.ofNat 64 c, BitVec.ofNat 64 a, BitVec.ofNat 64 t, BitVec.ofNat 64 m,
    BitVec.ofNat 64 (live * 2 ^ 32), 0], rec)

/-- The step's own version of a segment, made when the segment first changes. -/
def openSeg (s : State) (co : Coll) (b : Build) (seg : Nat) : State × Build :=
  if b.segs.any (·.seg = seg) then (s, b) else
    let (s, rec) := newVersion s co seg (baseVer s co seg)
    (s, { b with segs := b.segs ++ [⟨seg, rec⟩] })

/-- Whether a free page may take the place of a page (R155, R226): same layout mode, and for a bank-local row the same stack and
pseudo-channel. A page that replaces none may come from anywhere in the pool (DEDUCED). -/
def pageFits (s : State) (old : Option Nat) (a : Nat) : Bool :=
  match old with
  | none => true
  | some o =>
    let st := o / stackBytes
    let row := o % stackBytes / rowBytes
    let st' := a / stackBytes
    let row' := a % stackBytes / rowBytes
    if rowStriped s st row then rowStriped s st' row'
    else !rowStriped s st' row' && st = st' && (pcOf s o).2.2.1 = (pcOf s a).2.2.1

/-- The lowest free page of the delta pool that fits (R155, R226). -/
def freePage (s : State) (co : Coll) (b : Build) (old : Option Nat) : Option Nat :=
  match regionOf s co.polder (mDeltaRegion s co) with
  | none => none
  | some g =>
    (findFrom (fun i => let a := g.addr 0 + 65536 * i
        pageFits s old a && !(b.used.contains a) && !(b.own.contains a)) (g.bytes / 65536) 0).map fun i => g.addr 0 + 65536 * i

/-- The empty content of a page (R152). -/
def emptyPage (s : State) (c : Comp) (a : Nat) : State :=
  let v : Byte := if c = .adj ∨ c = .tomb then 0xFF else 0
  wrBytes s a (List.replicate 65536 v)

/-- Make a page of a segment's component writable by the group: the group's own copy, taken from the pool when the page first
changes (R226). Answers its address. -/
def ownPage (s : State) (co : Coll) (b : Build) (seg : Nat) (c : Comp) (page : Nat) : State × Build × Nat :=
  let (s, b) := openSeg s co b seg
  let ver := workVer s co b seg
  let w := ptEntry s ver c page
  if pteValid w && b.own.contains (ptePage w) then (s, b, ptePage w) else
    let old := if pteValid w then some (ptePage w) else none
    match freePage s co b old with
    | none => (s, { b with ok := false }, 0)
    | some a =>
      let s := match old with
        | some o => copyPage s o a
        | none => emptyPage s c a
      let s := wrW s (ptOf s ver c + 8 * page) (mkPte true a)
      let lane := old.elim none fun o =>
        if rowStriped s (o / stackBytes) (o % stackBytes / rowBytes) then none else some (bsuKey (pcOf s o).1 (pcOf s o).2.2.1)
      let base := if pteValid w && !pteDelta w then [(seg, c.word, page, ptePage w)] else []
      (s, { b with own := a :: b.own, bases := b.bases ++ base,
                   copies := lane.elim b.copies fun k => mapSet b.copies k (mapGetD b.copies k 0 + 1) }, a)

/-- Bytes of an item's record in a component, as they stand. -/
def compBytes (s : State) (co : Coll) (ver : Nat) (c : Comp) (ix : Nat) : List Byte :=
  match c with
  | .codes => readCode s co ver ix
  | .adj => adjBytes (cDegree s co) (filled (readAdj s co ver ix))
  | .attr => readAttr s co ver ix
  | .tomb => []

/-- Write an item's record in a component; a write that changes nothing takes no page (R226, DEDUCED). -/
def putRec (s : State) (co : Coll) (b : Build) (c : Comp) (id : Nat) (bs : List Byte) : State × Build :=
  let seg := cSegOf s co id
  let ix := cIxOf s co id
  let per := perPage s co c
  if per = 0 ∨ compBytes s co (workVer s co b seg) c ix = bs then (s, b) else
    let (s, b, a) := ownPage s co b seg c (ix / per)
    if !b.ok then (s, b) else (wrBytes s (a + ix % per * recBytes s co c) bs, b)

/-- Set or clear an id's tombstone bit and keep the version's live count (R150, R153). -/
def putTomb (s : State) (co : Coll) (b : Build) (id : Nat) (dead : Bool) : State × Build :=
  let seg := cSegOf s co id
  let ix := cIxOf s co id
  if workLive s co b id != dead then (s, b) else
    let (s, b, a) := ownPage s co b seg .tomb (ix / 524288)
    if !b.ok then (s, b) else
      let at_ := a + ix % 524288 / 8
      let old := (rdB s at_).toNat
      let m := 2 ^ (ix % 8)
      let s := wrBytes s at_ [BitVec.ofNat 8 (if dead then old + m else old - m)]
      let ver := workVer s co b seg
      let live := fld (rdW s (ver + 48)) 63 32
      (wrW s (ver + 48) (BitVec.ofNat 64 ((if dead then live - 1 else live + 1) * 2 ^ 32)), b)

/-- A reverse edge to y in the record of its neighbour n (R225 step 3). -/
def reverseEdge (y : Nat) (s : State) (co : Coll) (b : Build) (n : Nat) : State × Build :=
  if !workLive s co b n then (s, b) else
    let slots := filled (workAdj s co b n)
    if slots.contains y then (s, b)
    else if slots.length < cDegree s co then putRec s co b .adj n (adjBytes (cDegree s co) (slots ++ [y]))
    else
      let code := workCode s co b n
      let cands := (slots ++ [y]).map fun c => let cc := workCode s co b c; (⟨c, cc, pairScore s co code cc⟩ : Cand)
      match recAddr s co (workVer s co b (cSegOf s co n)) .adj (cIxOf s co n) with
      | none => (s, b)
      | some a =>
        let lane := bsuKey (pcOf s a).1 (pcOf s a).2.2.1
        let b := { b with prunes := mapSet b.prunes lane (mapGetD b.prunes lane 0 + 1) }
        let (s, code) := bsuRead s (lane / 64) (lane % 64) (linesOf a (5 * cDegree s co))
        if code ≠ 0 then (s, { b with hurt := some lane }) else putRec s co b .adj n (adjBytes (cDegree s co) (prune s co n cands))

/-- What one request did: statuses, records that changed the collection, and the record and code that refused it. -/
structure Applied where
  st      : State
  b       : Build
  status  : List Nat := []
  changed : Nat := 0
  added   : List (Nat × Nat) := []
  bad     : Option (Nat × Nat) := none

/-- One record of a request (R218, R225 steps 1 and 2). -/
def applyRec (co : Coll) (d : List Word) (adj : Map (List Nat)) (r : Applied) (i : Nat) : Applied :=
  if r.bad.isSome then r else
    let s := r.st
    let id := itemId s co d i
    let live := workLive s co r.b id
    if dKind d = kDelete then
      if live then
        let (s, b) := putTomb s co r.b id true
        { r with st := s, b := { b with wrote := b.wrote ++ [id] }, status := r.status ++ [0], changed := r.changed + 1,
                 bad := if b.ok then none else some (i, Code.DELTA_FULL) }
      else { r with status := r.status ++ [Code.ITEM_ABSENT] }
    else if dKind d = kInsert && live then { r with bad := some (i, Code.ITEM_EXISTS) }
    else
      let code := itemCode s co d i
      let attr := itemAttr s co d i
      let rec_ := (mapGet adj i).getD []
      let (s, b) := putRec s co r.b .codes id code
      let (s, b) := if b.ok then putRec s co b .attr id attr else (s, b)
      let (s, b) := if b.ok then putRec s co b .adj id (adjBytes (cDegree s co) rec_) else (s, b)
      let (s, b) := if b.ok then putTomb s co b id false else (s, b)
      { r with st := s, b := { b with wrote := b.wrote ++ [id], ins := if live then b.ins else b.ins ++ [(cPartOf s co id, id)] },
               status := r.status ++ [0], changed := r.changed + 1, added := r.added ++ [(i, id)],
               bad := if b.ok then none else some (i, Code.DELTA_FULL) }

/-- The reverse edges of one record's new adjacency (R225 step 3). -/
def applyEdges (co : Coll) (adj : Map (List Nat)) (r : Applied) (x : Nat × Nat) : Applied :=
  ((mapGet adj x.1).getD []).foldl (fun r n =>
    if r.bad.isSome then r else
      let (s, b) := reverseEdge x.2 r.st co r.b n
      { r with st := s, b := { b with wrote := b.wrote ++ [n] }
               bad := if b.hurt.isSome then some (x.1, Code.BSU_POISON) else if b.ok then none else some (x.1, Code.DELTA_FULL) }) r

/-- A whole request on the work of the step (R218, R225). -/
def applyReq (s : State) (co : Coll) (b : Build) (c : Nat) : Applied :=
  let k := getCtx s c
  let r := (List.range (dItems k.desc)).foldl (applyRec co k.desc k.work.adj) { st := s, b := b }
  r.added.foldl (applyEdges co k.work.adj) r

/-- No pseudo-channel holds more than 4 page copies and 4 reverse-edge prunes (R225). -/
def Build.crowded (b : Build) : Bool := b.copies.any (fun e => decide (4 < e.2)) || b.prunes.any (fun e => decide (4 < e.2))

/-! ### Consolidation (R229, R230) -/

/-- Ids of a segment whose tombstone bit is 1 and whose record is not empty, in a version (R229). -/
def deadSet (s : State) (co : Coll) (seg ver : Nat) : List Nat :=
  ((List.range (cSegSize s co seg)).filter fun ix => !liveIn s co ver ix && !(filled (readAdj s co ver ix)).isEmpty).map (cIdAt s co seg)

/-- Live ids of a partition at an epoch. -/
def liveIds (s : State) (co : Coll) (part e : Nat) : List Nat :=
  (cPartSegs s co part).flatMap fun g =>
    ((List.range (cSegSize s co g)).filter fun ix => liveIn s co (cResolve s co g e) ix).map (cIdAt s co g)

/-- Slots of an id's record at an epoch. -/
def adjAt (s : State) (co : Coll) (e id : Nat) : List Nat := filled (readAdj s co (cResolve s co (cSegOf s co id) e) (cIxOf s co id))
def codeAt (s : State) (co : Coll) (e id : Nat) : List Byte := readCode s co (cResolve s co (cSegOf s co id) e) (cIxOf s co id)

/-- Candidates of step 2 of R229 for y with the slots `slots`: those not in D, then the slots of each d in D it names; D, y and
repeats are skipped. -/
def consolCands (s : State) (co : Coll) (e y : Nat) (dead slots : List Nat) : List Nat :=
  let more := (slots.filter dead.contains).flatMap (adjAt s co e)
  (slots.filter (fun x => !dead.contains x) ++ more).foldl
    (fun acc x => if dead.contains x || x = y || acc.contains x then acc else acc ++ [x]) []

/-- Adjacency pages of a segment at an epoch: page index and address. -/
def adjPages (s : State) (co : Coll) (seg pin : Nat) : List (Nat × Nat) :=
  let ver := cResolve s co seg pin
  ((List.range (compPages s co seg .adj)).filter fun i => pteValid (ptEntry s ver .adj i)).map fun i => (i, ptePage (ptEntry s ver .adj i))

/-- Whether a BSU accepts a command that names the page at an address: it lies bank-local in an ECC_RECOMPUTE row (R251). -/
def bsuPage (s : State) (a : Nat) : Bool :=
  let (st, row, _, _) := pcOf s a
  !rowStriped s st row && rowRecompute s st row

/-- Bases of the windows of the dead set that hold a member (R251). -/
def deadBases (x : Consol) : List Nat := ascending (x.dead.map fun d => d / 524288 * 524288)

/-- Whether the scans of step 1 of R229 are done: every BSU that holds adjacency pages of the partition has scanned them for each window of the
dead set. -/
def scansDone (s : State) (co : Coll) (x : Consol) : Bool :=
  (cPartSegs s co (cSegPart s co x.seg)).all fun g => (adjPages s co g x.pin).all fun e =>
    !bsuPage s e.2 || (deadBases x).all fun base => x.scans.contains (bsuKey (pcOf s e.2).1 (pcOf s e.2).2.2.1, g, base)

/-- The items that step 1 names: the ids that the scans returned, and the records of pages that no BSU reads, which the controllers read
(DESIGN CHOICE: R229 speaks of the BSUs alone); live ones at the pin, in ascending local id (R229, R251). -/
def consolItems (s : State) (co : Coll) (x : Consol) : List Nat :=
  let per := perPage s co .adj
  let byHand := (cPartSegs s co (cSegPart s co x.seg)).flatMap fun g => (adjPages s co g x.pin).flatMap fun e =>
    if bsuPage s e.2 then [] else
      (((List.range (min per (cSegSize s co g - e.1 * per))).map fun i => cIdAt s co g (e.1 * per + i)).filter fun y => (adjAt s co x.pin y).any x.dead.contains)
  (ascending (x.found ++ byHand)).filter fun y => liveIn s co (cResolve s co (cSegOf s co y) x.pin) (cIxOf s co y)

/-- A consolidation at apply: live ids of D are left out, edited records are pruned again, dead records emptied (R229, R230). The codes of y
and of its candidates are read at the pin, and an item that names an id of D only since the pin keeps the slot (DESIGN CHOICE: R230 says that
step 2 is repeated with the newer record and does not say from which epoch the codes come). -/
def applyConsol (s : State) (co : Coll) (b : Build) (x : Consol) : State × Build :=
  let dead := x.dead.filter fun d => !workLive s co b d
  let part := cSegPart s co x.seg
  let ys := (consolItems s co x).filter fun y => (adjAt s co x.pin y).any dead.contains
  let edit (acc : State × Build) (y : Nat) : State × Build :=
    let (s, b) := acc
    let slots := filled (workAdj s co b y)
    if !b.ok || !(slots.any dead.contains) then (s, b) else
      let code := codeAt s co x.pin y
      let cands := (consolCands s co x.pin y dead slots).map fun c =>
        let cc := codeAt s co x.pin c; (⟨c, cc, pairScore s co code cc⟩ : Cand)
      let (s, b) := putRec s co b .adj y (adjBytes (cDegree s co) (prune s co y cands))
      (s, { b with wrote := b.wrote ++ [y] })
  let (s1, b1) := ys.foldl edit (s, b)
  let (s1, b1) := dead.foldl (fun acc d => if !acc.2.ok then acc else
    let r := putRec acc.1 co acc.2 .adj d (adjBytes (cDegree s co) []); (r.1, { r.2 with wrote := r.2.wrote ++ [d] })) (s1, b1)
  let old := (b.eps.find? (·.1 = part)).elim (epIds s (baseEp s co part)) (·.2)
  let new_ := old.map fun p => if dead.contains p then
      ((adjAt s co x.pin p).find? fun n => workLive s co b n && !dead.contains n).getD p else p
  (s1, if new_ = old then b1 else { b1 with eps := b1.eps.filter (·.1 ≠ part) ++ [(part, new_)] })

/-- CONSOLIDATION (R229): begins when the segment's unconsolidated deletions reach consol_ratio, or when the schedule names it. A schedule with a
period names its segment at the epochs that are multiples of the period (DESIGN CHOICE: its phase is not given). -/
def doConsolidation (s : State) (coll seg : Nat) : State :=
  let co := getColl s coll
  let e := s.tick.epoch
  let dead := deadSet s co seg (cResolve s co seg e)
  let ratio := mConsolRatio s co
  let due := decide (0 < ratio) && decide (ratio * cSegSize s co seg ≤ dead.length * 65536)
  let sched := (getPolder s co.polder).consol.any fun r => r.coll = coll && r.seg = seg && decide (0 < r.period) && e % r.period = 0
  if (mapGet s.colls coll).isNone || !decide (seg < cSegments s co) || !co.writer || co.consol.any (·.seg = seg) || !(due || sched) then s
  else
    let (s, m) := takeMseq s co
    setColl s coll { getColl s coll with consol := (getColl s coll).consol ++ [{ seg := seg, mseq := m, pin := e, dead := dead }] }

/-! ### Folding (R231) -/

/-- Delta pages of a segment's version with a known base page that no version of the collection references: component, page, base. -/
def foldable (s : State) (co : Coll) (ver seg : Nat) (live : List Nat) : List (Comp × Nat × Nat) :=
  allComps.flatMap fun c => ((List.range (compPages s co seg c)).filterMap fun i =>
    let w := ptEntry s ver c i
    if pteValid w && pteDelta w then
      match co.bases.find? fun x => x.1 = seg && x.2.1 = c.word && x.2.2.1 = i with
      | some x => if live.contains x.2.2.2 then none else some (c, i, x.2.2.2)
      | none => none
    else none)

/-- Fold one delta page into its base page (R231). -/
def foldOne (co : Coll) (seg : Nat) (acc : State × Build) (x : Comp × Nat × Nat) : State × Build :=
  let (s, b) := openSeg acc.1 co acc.2 seg
  let ver := workVer s co b seg
  let from_ := ptePage (ptEntry s ver x.1 x.2.1)
  let s := copyPage s from_ x.2.2
  (wrW s (ptOf s ver x.1 + 8 * x.2.1) (mkPte false x.2.2), b)

/-- Fold up to `n` pages, over the segments in order (R231); a page that this group copied is not folded by it. -/
def foldGo (co : Coll) : List Nat → Nat → State × Build → State × Build
  | [], _, acc => acc
  | g :: gs, n, acc =>
    let live := versionPages acc.1 co.polder
    let ver := workVer acc.1 co acc.2 g
    let xs := (foldable acc.1 co ver g live).filter fun x => !(acc.2.own.contains (ptePage (ptEntry acc.1 ver x.1 x.2.1)))
    if n = 0 ∨ xs.length < max 1 (mFoldPages acc.1 co) then foldGo co gs n acc
    else foldGo co gs (n - min n xs.length) ((xs.take n).foldl (foldOne co g) acc)

/-! ### The apply step (R225) -/

/-- A request or a consolidation in mseq order. -/
inductive ApplyJob where
  | req (c mseq : Nat)
  | consol (x : Consol)

def ApplyJob.mseq : ApplyJob → Nat
  | .req _ m => m
  | .consol x => x.mseq

/-- Requests that stand in the apply stage of a collection and were not taken yet, and its consolidations whose scans are done, by mseq. -/
def applyJobs (s : State) (coll : Nat) : List ApplyJob :=
  let reqs := (s.ctxs.filter fun e => isMutation (dKind e.2.desc) && dColl e.2.desc = coll && standsIn s e.1 .apply
      && !e.2.work.applied && !e.2.work.done && e.2.work.refuse.isNone && e.2.work.weir = 2).map fun e => ApplyJob.req e.1 (e.2.work.seq.getD 0)
  sortBy (fun a b => decide (a.mseq < b.mseq)) (reqs ++ ((getColl s coll).consol.filter (scansDone s (getColl s coll))).map .consol)

/-- Whether a commit at boundary `e` is refused by the collection's replacement (R236, R238, R240). -/
def planBlocks (co : Coll) (e : Nat) : Bool :=
  match co.plan with
  | none => false
  | some p => (p.st = .waiting || p.st = .running) && decide (p.r0 < e) && !(p.atomic && decide (p.swapAt < e))

/-- What the step carries over its requests. -/
structure StepAcc where
  st    : State
  b     : Build := {}
  taken : List Taken := []
  cons  : List Nat := []
  items : Nat := 0
  lo    : Option Nat := none
  hi    : Nat := 0
  /-- A request waits, and holds back every later one. -/
  stop  : Bool := false

def StepAcc.note (a : StepAcc) (m : Nat) : StepAcc := { a with lo := some (a.lo.getD m), hi := m }

/-- Take one request or consolidation into the group, refuse it, or stop the taking (R218, R225, R226). The first is taken even
when it alone passes apply_max or the limits of a pseudo-channel (DEDUCED). A request whose prune or flash stage has not completed is not
among those that the step takes in order, so it holds back no later one (DESIGN CHOICE: R225 says that a request that waits does, and speaks
there of those beyond the step's limits). -/
def takeJob (co : Coll) (commit : Nat) (a : StepAcc) (j : ApplyJob) : StepAcc :=
  if a.stop then a else
    let first := a.taken.isEmpty && a.cons.isEmpty
    match j with
    | .req c m =>
      let n := dItems (getCtx a.st c).desc
      if !first && decide (mApplyMax a.st co < a.items + n) then { a with stop := true }
      else if planBlocks co commit then { a with st := refuseMut a.st c Code.COLL_REPLACING none }
      else
        let r := applyReq a.st co a.b c
        match r.bad with
        | some (i, code) => { a with st := r.b.hurt.elim (refuseMut a.st c code (some i)) fun k => endCtx a.st c code (bsuUnit (k / 64) (k % 64)) }
        | none =>
          if r.b.crowded && !first then { a with stop := true }
          else
            let st := modWork r.st c fun w => { w with applied := true, status := r.status, items := r.changed }
            { a with st := st, b := r.b, taken := a.taken ++ [(⟨c, (getCtx a.st c).gen, r.changed, r.status⟩ : Taken)], items := a.items + n,
                     stop := r.b.crowded || decide (mApplyMax a.st co ≤ a.items + n) : StepAcc }.note m
    | .consol x =>
      if planBlocks co commit then { a with cons := a.cons ++ [x.mseq] } else
      let (st, b) := applyConsol a.st co a.b x
      if !b.ok then { a with cons := a.cons ++ [x.mseq] }
      else if b.crowded && !first then { a with stop := true }
      else { a with st := st, b := b, cons := a.cons ++ [x.mseq] : StepAcc }.note x.mseq

/-- Entry points after the group's last request: the first id of the list that is not live gives way to the partition's first
inserted item that is live (R225). -/
def fixEps (s : State) (co : Coll) (b : Build) : Build :=
  (ascending (b.ins.map (·.1))).foldl (fun b part =>
    match b.ins.find? (fun x => x.1 = part && workLive s co b x.2) with
    | none => b
    | some x =>
      let old := (b.eps.find? (·.1 = part)).elim (epIds s (baseEp s co part)) (·.2)
      match old.find? fun p => !workLive s co b p with
      | none => b
      | some p =>
        let i := (old.takeWhile (· ≠ p)).length
        { b with eps := b.eps.filter (·.1 ≠ part) ++ [(part, modAt old i fun _ => x.2)] }) b

/-- Place an entry-point record (R167); its prev names the one it supersedes. -/
def putEp (s : State) (prev : Nat) (ids : List Nat) : State × Nat :=
  sysPut s (wordBytes ([0, BitVec.ofNat 64 prev, BitVec.ofNat 64 ids.length, 0, 0, 0, 0, 0] ++ ids.map (BitVec.ofNat 64)))

/-- The epoch at which staging that ends at `t` commits, before any late report (R50). -/
def commitFor (s : State) (t : Stamp) : Nat := boundaryFor s t

/-- When the apply step of the current tick starts, for a proven bound: B(t+1) − berm − b − 1 µs (R225). -/
def applyStart (s : State) (bound : Nat) : Option Stamp := s.tick.nextAt.map (· - bermNs s - bound - us)

/-- The mseq range of a group. On a replicated collection a group without a request or a consolidation takes a number of its own, by which
its images and reports name it (DESIGN CHOICE: R221 numbers requests and consolidations, R445 names a group by its numbers). -/
def groupRange (s : State) (coll : Nat) (lo : Option Nat) (hi : Nat) : State × Nat × Nat :=
  match lo with
  | some l => (s, l, hi)
  | none => if !mReplicated s (getColl s coll) then (s, 0, 0) else let (s, m) := takeMseq s (getColl s coll); (s, m, m)

/-- Stage a build as the collection's next group. -/
def stageGroup (s : State) (coll : Nat) (b : Build) (lo hi : Nat) (t : Stamp) (commit : Nat) (taken : List Taken) : State :=
  let co := getColl s coll
  let (s, eps) := b.eps.foldl (fun acc x =>
    let (s, a) := putEp acc.1 (baseEp s co x.1) x.2; (s, acc.2 ++ [(x.1, a)])) (s, [])
  let g : Group := { mseqLo := lo, mseqHi := hi, stamp := t, commit := commit, segs := b.segs, eps := eps, taken := taken,
                     wrote := ascending b.wrote, staged := [], named := none }
  let co := getColl s coll
  let fresh := b.bases.filter fun x => !(co.bases.any fun y => y.1 = x.1 && y.2.1 = x.2.1 && y.2.2.1 = x.2.2.1)
  setColl s coll { co with groups := co.groups ++ [g], bases := co.bases ++ fresh }

/-- The step's BSU work (R225): per pseudo-channel one COPY of its pages, two to a segment, and one PRUNE per reverse edge, of n_prune segments.
It runs inside the step, in the windows that its bound counts (DESIGN CHOICE: the model forms what these commands write at the step's end). -/
def stepWork (s : State) (co : Coll) (b : Build) : State :=
  let n := cdiv ((cDegree s co + 1) * cDegree s co * cDim s co) (128 * 1400)
  let count (s : State) (k commands segments : Nat) : State :=
    bump (bump s ⟨.BSU_CNT0, k / 64, k % 64⟩ 31 0 commands) ⟨.BSU_CNT0, k / 64, k % 64⟩ 63 32 segments
  b.prunes.foldl (fun s e => count s e.1 e.2 (n * e.2)) (b.copies.foldl (fun s e => count s e.1 1 (cdiv e.2 2)) s)

/-- The work of an apply step: requests and consolidations in mseq order, entry points, then folding (R225, R231). -/
def applyWork (s : State) (coll commit : Nat) : StepAcc :=
  let co := getColl s coll
  let used := pagesInUse s co.polder
  let a := (applyJobs s coll).foldl (takeJob co commit) { st := s, b := { used := used } }
  let b := fixEps a.st co a.b
  let n := if planBlocks co commit then 0 else mFoldPerTick a.st co
  let (st, b) := foldGo co (List.range (cSegments a.st co)) n (a.st, b)
  { a with st := stepWork st co b, b := b }

/-- APPLY_STEP (R225): once per tick for each collection that this part writes, at its timed start; a command that comes after the start
finds it passed. The step ends by its bound, which is the staging stamp (DESIGN CHOICE: it may end earlier in the same step window, with the
same commit), and the group commits at the boundary of that stamp, or one later on a replicated collection (R50, R233). Consolidations it
reached are over. -/
def doApplyStep (s : State) (coll : Nat) : State :=
  let co := getColl s coll
  match applyStart s co.stepB with
  | none => s
  | some start =>
    if (mapGet s.colls coll).isNone || !co.writer || !s.tick.running || !s.tick.begun || co.stepTick = some s.tick.tick || decide (start < s.now) then s
    else
      let s := at_ s start
      let t := start + co.stepB
      let commit := commitFor s t + (if mReplicated s co then 1 else 0)
      let a := applyWork s coll commit
      let s := setColl a.st coll { getColl a.st coll with stepTick := some s.tick.tick,
                                                          consol := (getColl a.st coll).consol.filter fun x => !(a.cons.contains x.mseq) }
      if a.b.segs.isEmpty && a.b.eps.isEmpty && a.taken.isEmpty then s
      else
        let (s, lo, hi) := groupRange s coll a.lo a.hi
        stageGroup s coll a.b lo hi t commit a.taken

end Sys2Proof.Machine
end

