-- ==== Sys2Proof/Machine/Numerics.lean ====
section
/-! DEFINITION. What models compute with: weights (R316), quantised rows and their chunks (R317, R318), calibration failures (R322,
R323), adapters (R298), row functions (R315) and scale versions (R319). -/

namespace Sys2Proof.Machine

def fmtNum : WFmt → Nat
  | .e4m3 => 0
  | .e2m1 => 1
  | .int4 => 2
  | .bf16 => 3

/-- fmax of R317. -/
def fmax : WFmt → F32
  | .e4m3 => 0x43E00000#32
  | .e2m1 => 0x40C00000#32
  | _ => 0x40E00000#32

/-- 2^x in binary32, x from −63 to 63 (R316). -/
def pow2 (x : Int) : F32 := BitVec.ofNat 32 ((x + 127).toNat * 2 ^ 23)

/-- A value rounded to BF16 and widened (R313). -/
def asBf16 (x : F32) : F32 := bf16Widen (toBf16 x)

/-! ### Model descriptors (R277, R299) -/

def getModel (s : State) (n : Nat) : Option Model := mapGet s.models n
def mdW (s : State) (m : Model) (n : Nat) : Word := rdW s (m.desc + 8 * n)
def mEncoder (s : State) (m : Model) : Bool := fld (mdW s m 0) 43 42 = 0
def mCausal (s : State) (m : Model) : Bool := fld (mdW s m 0) 41 41 = 1
def mHeadDim (s : State) (m : Model) : Nat := if fld (mdW s m 0) 40 40 = 1 then 128 else 64
def mHeads (s : State) (m : Model) : Nat := fld (mdW s m 0) 32 26
def mKvHeads (s : State) (m : Model) : Nat := fld (mdW s m 0) 25 19
def mPool (s : State) (m : Model) : Nat := fld (mdW s m 0) 18 17
def mRotary (s : State) (m : Model) : Bool := fld (mdW s m 0) 16 16 = 1
def mAdapters (s : State) (m : Model) : Nat := fld (mdW s m 0) 15 11
def mItemTokens (s : State) (m : Model) : Nat := fld (mdW s m 0) 10 4
def mHidden (s : State) (m : Model) : Nat := fld (mdW s m 1) 63 50
def mMaxTokens (s : State) (m : Model) : Nat := fld (mdW s m 1) 49 34
def mVecDim (s : State) (m : Model) : Nat := fld (mdW s m 1) 33 20
def mVocab (s : State) (m : Model) : Nat := fld (mdW s m 1) 19 0
def mPrefix (s : State) (m : Model) : Nat := fld (mdW s m 2) 63 48
def mKvRegion (s : State) (m : Model) : Nat := fld (mdW s m 2) 43 32
def mWeightRegion (s : State) (m : Model) : Nat := fld (mdW s m 2) 31 20
/-- First address of the weight region. -/
def mWeights (s : State) (m : Model) : Nat := ((regionOf s m.polder (mWeightRegion s m)).map (·.addr 0)).getD 0
/-- Address of an adapter's record (R299). -/
def adpRec (s : State) (m : Model) (a : Nat) : Nat := (mdW s m 4).toNat + 64 * a
def adpW (s : State) (m : Model) (a n : Nat) : Word := rdW s (adpRec s m a + 8 * n)
def adpRank (s : State) (m : Model) (a : Nat) : Nat := fld (adpW s m a 0) 59 53
def adpF (s : State) (m : Model) (a n : Nat) (hi : Bool) : F32 :=
  BitVec.ofNat 32 (if hi then fld (adpW s m a n) 63 32 else fld (adpW s m a n) 31 0)
def adpAlpha (s : State) (m : Model) (a : Nat) : F32 := adpF s m a 1 true

/-! ### Scale versions (R319) -/

/-- The numerics record. -/
def numW (s : State) (m : Model) (n : Nat) : Word := rdW s (mWeights s m + 8 * n)
def numDelayed (s : State) (m : Model) : Bool := fld (numW s m 0) 63 62 = 1
def numWindow (s : State) (m : Model) : Nat := fld (numW s m 0) 61 56 + 1
def numMargin (s : State) (m : Model) : Nat := fld (numW s m 0) 55 53
def numPoints (s : State) (m : Model) : Nat := fld (numW s m 0) 52 40

/-- Keys of the counters of NUM_SCL_CNT (R329): rows escalated of a model's scale point on a die, and a model's published versions. -/
def sclKey (mn die point : Nat) : Nat := mn * 2 ^ 15 + die * 4096 + point
def sclVerKey (mn : Nat) : Nat := mn * 2 ^ 15 + 2 ^ 14

/-- Add to a counter of NUM_SCL_CNT, 32 bits. -/
def bumpScl (s : State) (k n : Nat) : State :=
  { s with sclRun := mapPut 0 s.sclRun k (satAdd 32 (mapGetD s.sclRun k 0) n) }

/-- The exponent of a scale point in the version resolved at epoch `e`. -/
def scaleExp (s : State) (m : Model) (e point : Nat) : Int :=
  let r := resolveFrom s e chainFuel (numW s m 1).toNat
  if r = 0 then 0 else toSigned 8 (rdB s (rdN s (r + 16) + point)).toNat

/-! ### Weights -/

/-- Stored element `i` of a format at an address: its bits. -/
def rawElem (s : State) (f : WFmt) (a i : Nat) : Nat :=
  match f with
  | .bf16 => leNat (rdBytes s (a + 2 * i) 2)
  | .e4m3 => (rdB s (a + i)).toNat
  | _ => bits (rdB s (a + i / 2)).toNat (4 * (i % 2) + 3) (4 * (i % 2))

/-- The q value of an element's bits (R316). -/
def elemVal (f : WFmt) (x : Nat) : F32 :=
  match f with
  | .bf16 => bf16Widen (BitVec.ofNat 16 x)
  | .e4m3 => e4m3Dec (BitVec.ofNat 8 x)
  | .e2m1 => e2m1Dec (BitVec.ofNat 4 x)
  | .int4 => f32OfNatInt (toSigned 4 x)

/-- Bytes of `n` elements of a format. -/
def elemBytes (f : WFmt) (n : Nat) : Nat :=
  match f with
  | .bf16 => 2 * n
  | .e4m3 => n
  | _ => cdiv n 2

/-- A slice of a weight that a tile keeps resident: its address in the tile's SRAM, its columns `lo` to `hi` − 1 (R285). It holds the elements
column by column, the block scales column by column, then the bias (DESIGN CHOICE: no rule lays out tile SRAM). -/
structure WSlice where
  base : Nat
  lo   : Nat
  hi   : Nat
  deriving DecidableEq, Repr

def WSlice.scales (x : WSlice) (w : Weights) : Nat := x.base + elemBytes w.fmt (w.k * (x.hi - x.lo))
def WSlice.biases (x : WSlice) (w : Weights) : Nat := x.scales w + (if w.fmt = .bf16 then 0 else cdiv w.k 64 * (x.hi - x.lo))
/-- Bytes of the slice, to the next multiple of 64. -/
def WSlice.bytes (x : WSlice) (w : Weights) : Nat := cdiv (x.biases w + 2 * (x.hi - x.lo) - x.base) 64 * 64

/-- Address of the block scale of chunk c of column n in the weight region. -/
def scaleAddr (s : State) (m : Model) (w : Weights) (c n : Nat) : Nat := mWeights s m + w.off + Config.blockScalePlace (fmtNum w.fmt) w.k w.n c n

/-- Stored element (k, n) as its q value (R316), from the weight region or a resident slice. -/
def wQ (s : State) (m : Model) (w : Weights) (k n : Nat) (sl : Option WSlice := none) : F32 :=
  elemVal w.fmt (match sl with
    | none => rawElem s w.fmt (mWeights s m + w.off) (Config.weightPlace (fmtNum w.fmt) w.k w.n k n)
    | some x => rawElem s w.fmt x.base ((n - x.lo) * w.k + k))

/-- Block scale of chunk c of column n. -/
def wB (s : State) (m : Model) (w : Weights) (c n : Nat) (sl : Option WSlice := none) : F32 :=
  if w.fmt = .bf16 then f32One
  else e4m3Dec (rdB s (sl.elim (scaleAddr s m w c n) fun x => x.scales w + (n - x.lo) * cdiv w.k 64 + c))

/-- The tile scale of a weight. -/
def wS (w : Weights) : F32 := if w.fmt = .bf16 then f32One else pow2 w.sExp

/-- The weight decoded in binary32: q × b × s. -/
def wVal (s : State) (m : Model) (w : Weights) (k n : Nat) (sl : Option WSlice := none) : F32 :=
  f32Mul (f32Mul (wQ s m w k n sl) (wB s m w (k / 64) n sl)) (wS w)

/-- The code of a memory error in the bytes of a weight, its block scales and its bias, or 0 (R306). -/
def weightCode (s : State) (m : Model) (w : Weights) : Nat :=
  firstCode (rangeCode s (mWeights s m + w.off) (elemBytes w.fmt (w.k * w.n))
    :: (w.bias.toList.map fun o => rangeCode s (mWeights s m + o) (2 * w.n))
    ++ (if w.fmt = .bf16 then [] else (List.range (cdiv w.k 64)).flatMap fun c => (List.range w.n).map fun n => rangeCode s (scaleAddr s m w c n) 1))

/-- Bytes of elements packed as their format stores them. -/
def packElems (f : WFmt) (xs : List Nat) : List Byte :=
  match f with
  | .bf16 => xs.flatMap (leBytes 2)
  | .e4m3 => xs.map (BitVec.ofNat 8)
  | _ => (List.range (cdiv xs.length 2)).map fun i => BitVec.ofNat 8 ((nth? xs (2 * i)).getD 0 + 16 * (nth? xs (2 * i + 1)).getD 0)

/-- Copy a slice from the weight region into tile SRAM (R285, R306). -/
def loadSlice (s : State) (m : Model) (w : Weights) (x : WSlice) : State :=
  let cols := (List.range (x.hi - x.lo)).map (x.lo + ·)
  let elems := cols.flatMap fun n => (List.range w.k).map fun k => rawElem s w.fmt (mWeights s m + w.off) (Config.weightPlace (fmtNum w.fmt) w.k w.n k n)
  let scales := if w.fmt = .bf16 then [] else cols.flatMap fun n => (List.range (cdiv w.k 64)).map fun c => rdB s (scaleAddr s m w c n)
  let biases := w.bias.elim [] fun o => cols.flatMap fun n => rdBytes s (mWeights s m + o + 2 * n) 2
  wrBytes s x.base (packElems w.fmt elems ++ scales ++ biases)

/-! ### Rows in chunks -/

/-- A block of a row as quantised by R317: its scale, its q values, overflow and underflow (R322). -/
structure QBlock where
  b     : F32
  q     : List F32
  tooBig  : Bool
  tooSmall : Bool

/-- The smallest positive E4M3 value at or above r; 448 when none is (R317). -/
def e4m3Ceil (r : F32) : F32 :=
  match findFrom (fun i => f32Le r (e4m3Dec (BitVec.ofNat 8 i))) 126 1 with
  | some i => e4m3Dec (BitVec.ofNat 8 i)
  | none => 0x43E00000#32

/-- Convert to the stored format, as its value (R313). -/
def convertTo (f : WFmt) (x : F32) : F32 :=
  match f with
  | .e4m3 => e4m3Dec (toE4m3 x)
  | .e2m1 => e2m1Dec (toE2m1 x)
  | .int4 => f32OfNatInt (f32ToIntClip 7 x)
  | .bf16 => asBf16 x

/-- Quantise one block of 64 (R317). -/
def quantBlock (f : WFmt) (sc : F32) (xs : List F32) : QBlock :=
  let a := (xs.filter fun x => !f32IsNaN x).foldl (fun a x => if f32Lt a (f32Abs x) then f32Abs x else a) 0
  let bad := xs.any fun x => !f32Finite x
  let r := f32Div a (f32Mul sc (fmax f))
  let b := e4m3Ceil r
  { b := b, q := xs.map fun x => convertTo f (f32Div x (f32Mul sc b)),
    tooBig := bad || f32Lt 0x43E00000#32 r, tooSmall := f32Lt 0 a && f32Lt r 0x3B000000#32 }

/-- A row cut into chunks of 64. -/
def chunksOf (xs : List F32) : List (List F32) := (List.range (cdiv xs.length 64)).map fun c => (xs.drop (64 * c)).take 64

/-- The accumulation of R318 over chunks, each with the product of its block scales. -/
def accChunks (cs : List (List F32 × List F32 × F32)) : F32 :=
  cs.foldl (fun acc c => f32Add acc (f32Mul (laneSum (List.zipWith f32Mul c.1 c.2.1)) c.2.2)) 0

/-- A dot product of two vectors in chunks of 64 with unit scales (R274, R318). -/
def chunkDot (x y : List F32) : F32 := accChunks ((chunksOf x).zip (chunksOf y) |>.map fun c => (c.1, c.2, f32One))

/-- A row quantised for an operator: none when it runs in BF16. -/
def quantRow (f : WFmt) (sc : F32) (row : List F32) : List QBlock := (chunksOf row).map (quantBlock f sc)

def rowOver (bs : List QBlock) : Bool := bs.any (·.tooBig)
def rowUnder (bs : List QBlock) : Bool := bs.any (·.tooSmall)
/-- Whether a row fails calibration (R322). -/
def rowFails (bs : List QBlock) : Bool := rowOver bs || rowUnder bs

/-- One output element of a LINEAR before adapters and bias: in the operator's format, or in BF16 for a failing row (R318, R323). -/
def linElem (s : State) (m : Model) (w : Weights) (sx : F32) (bs : List QBlock) (row : List F32) (n : Nat) (sl : Option WSlice := none) : F32 :=
  let ks (c : Nat) : List Nat := (List.range (min 64 (w.k - 64 * c))).map (64 * c + ·)
  if w.fmt = .bf16 then
    accChunks ((chunksOf row).zipIdx.map fun e => (e.1, (ks e.2).map fun k => wQ s m w k n sl, f32One))
  else if rowFails bs then
    accChunks ((chunksOf row).zipIdx.map fun e => (e.1, (ks e.2).map fun k => asBf16 (wVal s m w k n sl), f32One))
  else
    f32Mul (accChunks (bs.zipIdx.map fun e => (e.1.q, (ks e.2).map fun k => wQ s m w k n sl, f32Mul e.1.b (wB s m w e.2 n sl)))) (f32Mul sx (wS w))

/-! ### Adapters (R298, R300, R303) -/

/-- The LINEAR operators that carry an adapter: operator number, K, N. -/
def adpLinears (m : Model) (a : Nat) : List (Nat × Nat × Nat) :=
  (m.ops.zipIdx).filterMap fun e => match e.1 with
    | .linear _ w ads => if ads.contains a then some (e.2, w.k, w.n) else none
    | _ => none

/-- Parameters of an adapter. -/
def adpSize (s : State) (m : Model) (a : Nat) : Nat := (adpLinears m a).foldl (fun n l => n + adpRank s m a * (l.2.1 + l.2.2)) 0

/-- Parameter index of A[0][0] of a LINEAR (R303). -/
def adpBase (s : State) (m : Model) (a op : Nat) : Nat :=
  ((adpLinears m a).takeWhile (·.1 ≠ op)).foldl (fun n l => n + adpRank s m a * (l.2.1 + l.2.2)) 0
def adpA (s : State) (m : Model) (a op k r : Nat) : Nat := adpBase s m a op + k * adpRank s m a + r
def adpB (s : State) (m : Model) (a op kk n r j : Nat) : Nat := adpBase s m a op + kk * adpRank s m a + r * n + j

/-- The newest version record of an adapter (R299). -/
def adpNewest (s : State) (m : Model) (a : Nat) : Nat := (adpW s m a 4).toNat
/-- The version that epoch `e` resolves (R300). -/
def adpVer (s : State) (m : Model) (a e : Nat) : Nat := resolveFrom s e chainFuel (adpNewest s m a)
/-- A parameter of a version; +0 where there is no version. -/
def adpParam (s : State) (ver i : Nat) : F32 := if ver = 0 then 0 else rdBf16 s (rdN s (ver + 16) + 2 * i)

/-- u = x A, rounded to BF16 (R298). -/
def adpU (s : State) (m : Model) (a op e : Nat) (x : List F32) : List F32 :=
  let v := adpVer s m a e
  (List.range (adpRank s m a)).map fun r => asBf16 (chunkDot x ((List.range x.length).map fun k => adpParam s v (adpA s m a op k r)))

/-- Add the adapters of a LINEAR to an output element, in ascending adapter number (R298). -/
def addAdapters (s : State) (m : Model) (op kk nn e : Nat) (us : List (Nat × List F32)) (j : Nat) (y : F32) : F32 :=
  us.foldl (fun y u =>
    let v := adpVer s m u.1 e
    let b := (List.range u.2.length).map fun r => adpParam s v (adpB s m u.1 op kk nn r j)
    f32Add y (f32Mul (adpAlpha s m u.1) (chunkDot u.2 b))) y

/-- A bias element: BF16 in the weight region (DEDUCED), or in the resident slice. -/
def biasAt (s : State) (m : Model) (w : Weights) (n : Nat) (y : F32) (sl : Option WSlice := none) : F32 :=
  match w.bias with
  | some o => f32Add y (rdBf16 s (sl.elim (mWeights s m + o + 2 * n) fun x => x.biases w + 2 * (n - x.lo)))
  | none => y

/-- The code of a memory error in the A and B arrays that an adapter's pass reads, or 0 (R306). -/
def adapterCode (s : State) (m : Model) (e a : Nat) : Nat :=
  let v := adpVer s m a e
  if v = 0 then 0 else rangeCode s (rdN s (v + 16)) (2 * adpSize s m a)

/-! ### Row functions (R315) -/

/-- fl(n) of a count. -/
def f32OfCount (n : Nat) : F32 := f32OfNatInt n

/-- NORM over a row (R315). -/
def normRow (rms : Bool) (g b : List F32) (eps : F32) (x : List F32) : List F32 :=
  let n := f32OfCount x.length
  let d := if rms then x else let mu := f32Div (laneSum x) n; x.map fun v => f32Sub v mu
  let v := f32Div (laneSum (d.map fun e => f32Mul e e)) n
  let rho := f32Div f32One (f32Sqrt (f32Add v eps))
  if rms then List.zipWith (fun e c => f32Mul (f32Mul e rho) c) d g
  else List.zipWith (fun e c => f32Add e c) (List.zipWith (fun e c => f32Mul (f32Mul e rho) c) d g) b

/-- ACT: 0 GELU, 1 SILU, 2 RELU (R273). -/
def actOf (kind : Nat) (x : F32) : F32 := if kind = 0 then f32Gelu x else if kind = 1 then f32Silu x else f32Relu x

/-- L2NORM over a row (R273): a zero vector stays zero. -/
def l2Row (x : List F32) : List F32 :=
  let n2 := laneSum (x.map fun e => f32Mul e e)
  if x.all fun e => f32Eq e 0 then x else x.map fun e => f32Div e (f32Sqrt n2)

/-! ### Derivatives of row functions (R302), each by the chain rule over the steps of R315, every step rounded to binary32 (DESIGN CHOICE: R302
asks for the derivative evaluated in binary32 and gives no order of its steps) -/

/-- dx of NORM over a row, from dy. -/
def normBack (rms : Bool) (g : List F32) (eps : F32) (x dy : List F32) : List F32 :=
  let n := f32OfCount x.length
  let d := if rms then x else let mu := f32Div (laneSum x) n; x.map fun v => f32Sub v mu
  let v := f32Div (laneSum (d.map fun e => f32Mul e e)) n
  let rho := f32Div f32One (f32Sqrt (f32Add v eps))
  let dn := List.zipWith f32Mul dy g
  let drho := laneSum (List.zipWith f32Mul dn d)
  let dv := f32Neg (f32Mul (f32Mul drho (f32Mul rho rho)) (f32Mul 0x3F000000#32 rho))
  let dd := List.zipWith (fun e h => f32Add (f32Mul h rho) (f32Mul (f32Div dv n) (f32Add e e))) d dn
  if rms then dd else let dmu := f32Div (laneSum dd) n; dd.map fun e => f32Sub e dmu

/-- dx of ACT of a kind at x, from dy. RELU has no derivative at 0; what dy becomes there is a free value. -/
def actBack (kind : Nat) (x dy : F32) : F32 :=
  if kind = 0 then
    let u := f32Mul x 0x3F3504F3#32
    let dw := f32Mul dy (f32Mul 0x3F000000#32 x)
    let du := f32Mul dw (f32Mul 0x3F906EBB#32 (f32Exp (f32Neg (f32Mul u u))))
    f32Add (f32Mul 0x3F000000#32 (f32Mul dy (f32Add f32One (f32Erf u)))) (f32Mul du 0x3F3504F3#32)
  else if kind = 1 then
    let sg := f32Sigma x
    f32Add (f32Mul dy sg) (f32Mul (f32Mul (f32Mul dy x) (f32Mul sg sg)) (f32Exp (f32Neg x)))
  else if f32IsNaN x then f32NaN
  else if f32Eq x 0 then Config.reluBackAtZero dy
  else if f32Lt 0 x then dy else 0

/-- Elementwise maximum with NaN (R313). -/
def f32Max (a b : F32) : F32 := if f32IsNaN a || f32IsNaN b then f32NaN else if f32Lt a b then b else a

end Sys2Proof.Machine
end

