-- ==== Sys2Proof/Machine/Tables.lean ====
section
/-! DEFINITION. Embedding tables: rows (R331), values and pooled bags (R335, R337), hot rows and prefetch
(R340 to R342), the table apply step (R344 to R347) and MOVE (R348). -/

namespace Sys2Proof.Machine

/-! ### Rows -/

/-- The components of stored row bytes (R331). -/
def rowVals (s : State) (t : Table) (bs : List Byte) : List F32 :=
  if tE4m3 s t then
    let sc : F32 := BitVec.ofNat 32 (leNat ((bs.drop (tWidth s t)).take 4))
    (bs.take (tWidth s t)).map fun b => f32Mul (e4m3Dec b) sc
  else (bf16s (bs.take (2 * tWidth s t))).map bf16Widen

/-- A row decoded at a version; zeros where its page does not exist. -/
def rowAt (s : State) (t : Table) (ver die x : Nat) : List F32 :=
  match rowAddr s t ver die x with
  | some a => rowVals s t (rdBytes s a (tRowBytes s t))
  | none => List.replicate (tWidth s t) 0

/-! ### Keys, features and bags -/

/-- The value of a key under a feature (R335). -/
def keyValue (s : State) (e die : Nat) (f : Word) (k : Nat) : List F32 :=
  match getTable s (fld f 63 56), keyRows s f k with
  | some a, some (x, y) =>
    let va := rowAt s a (tResolve s a e) die x
    if fld f 47 46 = 0 then va else
      match getTable s (fld f 55 48) with
      | some b => List.zipWith (if fld f 47 46 = 1 then f32Add else f32Mul) va (rowAt s b (tResolve s b e) die y)
      | none => va
  | _, _ => []

/-- The pooled value of a bag, rounded to BF16 (R337). `parts` are the partial sums that the BSUs returned for it: shard and sum; a shard whose
rows' pages do not exist has none, and its partial is +0. -/
def poolBag (s : State) (e die : Nat) (f : Word) (parts : List (Nat × List F32)) (keys : List Nat) : List F32 :=
  match getTable s (fld f 63 56) with
  | none => []
  | some a =>
    let zero := List.replicate (tWidth s a) (0 : F32)
    let sum := if tBsu s a then
        (ascending (keys.map (keyShard s a f))).foldl (fun acc sh => List.zipWith f32Add acc (((parts.find? (·.1 = sh)).map (·.2)).getD zero)) zero
      else keys.foldl (fun acc k => List.zipWith f32Add acc (keyValue s e die f k)) zero
    let out := if fld f 44 44 = 1 ∧ keys ≠ [] then sum.map fun x => f32Div x (f32OfCount keys.length) else sum
    out.map asBf16

/-- Whether a lookup pinned at `e` uses a tile's hot copy (R341). -/
def hotHit (s : State) (die tile tab e x : Nat) : Bool :=
  match mapGet s.hots (die * 64 + tile) with
  | some h => h.table = tab && (mapGet h.fetched x).elim false (fun v => decide (v ≤ e))
  | none => false

/-- One row looked up by a pass: counted, its memory read unless a hot or prefetched copy serves it or a BSU read it; the code it meets or 0. -/
def lookRow (die tile e c g : Nat) (acc : State × Nat) (x : Nat × Nat) : State × Nat :=
  let (s, code) := acc
  match getTable s x.1 with
  | none => (s, code)
  | some t =>
    let s := bump s ⟨.EMB_CNT0, die, 0⟩ 63 32 1
    if hotHit s die tile x.1 e x.2 then (bump s ⟨.EMB_CNT0, die, 0⟩ 31 0 1, code)
    else if s.ahead.any (fun p => p.die = die && p.ctx = c && p.gen = g && p.table = x.1 && p.row = x.2) then
      (bump s ⟨.EMB_CNT1, die, 0⟩ 31 0 1, code)
    else match rowAddr s t (tResolve s t e) die x.2 with
      | none => (s, code)
      | some a =>
        let st := a / stackBytes
        let n := tRowBytes s t
        let here := rangeCode s a n
        let noted (s : State) : State := modTable s x.1 fun t => { t with readNow := mapSet t.readNow st (mapGetD t.readNow st 0 + 1) }
        if tBsu s t then (noted s, code) else (noted (touchRange s a n), if code = 0 then here else code)

/-! ### Hot rows and prefetch (R340 to R342) -/

/-- The model and group that a tile serves; an unassigned tile, or one of another polder, serves none (R559). -/
def tileGroup (s : State) (die tile : Nat) : Option (Nat × Model × TileGroup) :=
  let cfg := getReg s ⟨.TEN_CFG, die, tile⟩
  match getModel s (fld cfg 51 44) with
  | some m => if m.polder ≠ fld cfg 63 52 then none
    else (m.groups.find? fun g => g.die = die && g.tiles.contains tile).map fun g => (fld cfg 51 44, m, g)
  | none => none

/-- HOT_LOAD (R340): the hot list at EMB_HOT_ADDR is checked and held for the next boundary, or cfg_error is set. -/
def doHotLoad (s : State) (die tile : Nat) : State :=
  let reg : Reg := ⟨.EMB_HOT_ADDR, die, 0⟩
  let p := fld (getReg s ⟨.TEN_CFG, die, tile⟩) 63 52
  let off := getF s reg 47 0
  let bad := setBit s ⟨.EMB_HOT_CTL, die, 0⟩ 7
  match regionAddr s p (getF s reg 59 48) off 64, tileGroup s die tile with
  | some a, some (_, _, g) =>
    let w := rdW s a
    let tab := fld w 63 56
    let n := fld w 55 40
    match getTable s tab, regionAddr s p (getF s reg 59 48) off (64 + 4 * n) with
    | some t, some _ =>
      let rows := (List.range n).map fun i => leNat (rdBytes s (a + 64 + 4 * i) 4)
      if off % 64 ≠ 0 ∨ t.polder ≠ p ∨ p = 0 ∨ n = 0 ∨ 16384 < n ∨ (rows.any fun x => tRows s t ≤ x)
          ∨ g.hotBytes < n * tStride s t then bad
      else { s with hotAsk := s.hotAsk.filter (fun h => !(h.die = die && h.tile = tile)) ++ [⟨die, tile, tab, rows⟩] }
    | _, _ => bad
  | _, _ => bad

/-- HOT_LIST_SWITCH (R340) at boundary `b`. -/
def doHotSwitch (s : State) (die tile b : Nat) : State :=
  match s.hotAsk.find? fun h => h.die = die && h.tile = tile with
  | none => s
  | some h =>
    let s := { s with hotAsk := s.hotAsk.erase h, hots := mapSet s.hots (die * 64 + tile) ⟨h.table, h.rows, b, [], []⟩ }
    let v : Reg := ⟨.EMB_HOT_VAL, die, tile⟩
    setF (setF s v 63 56 h.table) v 55 41 h.rows.length

/-- The boundary from which a tile's copy of a row is valid (R340, R341). -/
def Hot.validFrom (h : Hot) (row : Nat) : Nat := mapGetD h.since row h.from_

/-- HOT_ROW_FETCH (R340, R341): a listed row that is not fetched is read from the version of the boundary its copy is valid from, and
its copy becomes usable; a row whose page does not exist is zeros. -/
def doHotFetch (s : State) (die tile row : Nat) : State :=
  match mapGet s.hots (die * 64 + tile) with
  | none => s
  | some h =>
    if !(h.rows.contains row) || (mapGet h.fetched row).isSome then s else
      match getTable s h.table with
      | none => s
      | some t =>
        let v := h.validFrom row
        let got (s : State) : State := { s with hots := mapSet s.hots (die * 64 + tile) { h with fetched := mapSet h.fetched row v } }
        match rowAddr s t (tResolve s t v) die row with
        | none => got s
        | some a => let r := touchRange s a (tRowBytes s t); if rangeCode s a (tRowBytes s t) ≠ 0 then r else got r

/-- Action 2 of boundary `e`: hot copies of rows that an update changed are dropped, and are fetched again with valid_from `e` (R341). -/
def dropHot (s : State) (tab e : Nat) (rows : List Nat) : State :=
  { s with hots := s.hots.map fun x => if x.2.table = tab then
      (x.1, { x.2 with fetched := x.2.fetched.filter (fun f => !(rows.contains f.1)),
                       since := (rows.filter x.2.rows.contains).foldl (fun m r => mapSet m r e) x.2.since }) else x }

/-- Bytes of the prefetch buffer in use on a die. -/
def aheadUsed (s : State) (die : Nat) : Nat := (s.ahead.filter (·.die = die)).foldl (fun n p => n + p.bytes) 0

/-- PREFETCH (R342): a row that a waiting pass's bags name is read ahead into the buffer. -/
def doPrefetch (s : State) (die slot tab row : Nat) : State :=
  let cfg := getReg s ⟨.EMB_CFG, die, 0⟩
  match mapGet s.passes (die * 96 + slot), getTable s tab with
  | some p, some t =>
    let wanted := match getModel s p.model with
      | some m => match m.ops.head? with
        | some (.bag fs) => p.bags.any fun b => (bagRows s ((nth? fs b.1).getD 0) b.2).contains (tab, row)
        | _ => false
      | none => false
    let n := tStride s t
    if fld cfg 0 0 = 0 || !wanted || fld cfg 63 48 * 1024 < aheadUsed s die + n
        || s.ahead.any (fun x => x.die = die && x.slot = slot && x.table = tab && x.row = row) then s
    else bump { s with ahead := s.ahead ++ [⟨die, slot, p.ctx, p.gen, tab, row, n⟩] } ⟨.EMB_CNT1, die, 0⟩ 63 32 1
  | _, _ => s

/-! ### The table apply step (R344 to R347) -/

/-- Payload bytes of a row record (R343). -/
def rowPayload (s : State) (t : Table) : Nat :=
  if tOptim s t ≠ 0 then cdiv (4 * tWidth s t) 64 * 64 else cdiv (tStride s t) 64 * 64

/-- A row record of a TABLE_UPDATE operand: op, target stack, row, address of its payload. -/
structure RowRec where
  op    : Nat
  stack : Nat
  row   : Nat
  at_   : Nat

def rowRecs (s : State) (t : Table) (d : List Word) : List RowRec :=
  (List.range (dItems d)).map fun i =>
    let a := operandAddr s d + i * (64 + rowPayload s t)
    let w := rdW s a
    ⟨fld w 63 62, fld w 61 57, fld w 31 0, a + 64⟩

/-- The refusals of R344. -/
def updateBad (s : State) (t : Table) (rs : List RowRec) : Bool :=
  let moves := rs.filter (·.op = 2)
  rs.any (fun r => decide (tRows s t ≤ r.row) || decide (r.op = 3) || (r.op = 1 && tOptim s t = 0) || (r.op = 2 && decide (20 ≤ r.stack)))
    || (!moves.isEmpty && decide (moves.length < rs.length)) || decide (64 < moves.length)
    || (!moves.isEmpty && (tBsu s t || tReplicated s t))

/-- The lowest free page of a region that meets a condition. -/
def freeIn (s : State) (p region : Nat) (used : List Nat) (ok : Nat → Bool) : Option Nat :=
  match regionOf s p region with
  | none => none
  | some g => (findFrom (fun i => let a := g.addr 0 + 65536 * i; ok a && !(used.contains a)) (g.bytes / 65536) 0).map fun i => g.addr 0 + 65536 * i

/-- A new table version: its directory and page tables copy the former ones (R226, R332). -/
def newTabVer (s : State) (t : Table) (old : Nat) : State × Nat :=
  let n := tParts s t
  let (s, pts) := (List.range n).foldl (fun (acc : State × List Nat) sh =>
    let (s, a) := copyTable acc.1 (tPt acc.1 old sh) (tPages acc.1 t sh); (s, acc.2 ++ [a])) (s, [])
  let (s, dir) := sysPut s (wordBytes (pts.map (BitVec.ofNat 64)))
  sysPut s (wordBytes [0, BitVec.ofNat 64 old, BitVec.ofNat 64 dir, 0, 0, 0, 0, 0])

/-- What a table apply step has built: state, new version, pages taken, (shard, page) pairs that are the group's own, page copies in
other places written alongside (R348). -/
structure TabBuild where
  st    : State
  ver   : Nat
  used  : List Nat
  own   : List (Nat × Nat)
  ok    : Bool := true

/-- The shards and pages that a row lives in: one, or one per die of a REPLICATED table. -/
def rowHomes (s : State) (t : Table) (x : Nat) : List (Nat × Nat × Nat) :=
  (if tReplicated s t then List.range 4 else [0]).map fun d =>
    let (sh, i) := tPlace s t d x
    (sh, i / tPerPage s t, i % tPerPage s t * tStride s t)

/-- Make a page of a shard the group's own copy (R226, R344). -/
def ownTabPage (t : Table) (b : TabBuild) (sh page : Nat) : TabBuild :=
  if !b.ok || b.own.contains (sh, page) then b else
    let s := b.st
    let w := tEntry s b.ver sh page
    let old := if pteValid w then some (ptePage w) else none
    match freeIn s t.polder (tDelta s t) b.used (pageFits s old) with
    | none => { b with ok := false }
    | some a =>
      let s := match old with
        | some o => copyPage s o a
        | none => wrBytes s a (List.replicate 65536 0)
      { b with st := wrW s (tPt s b.ver sh + 8 * page) (mkPte true a), used := a :: b.used, own := (sh, page) :: b.own }

/-- Take the pages a request changes; on failure the former build stands (R226). -/
def ownRows (t : Table) (b : TabBuild) (rows : List Nat) : TabBuild :=
  rows.foldl (fun b x => (rowHomes b.st t x).foldl (fun b h => ownTabPage t b h.1 h.2.1) b) b

/-- Address of a row's accumulator (R345). -/
def accAddr (s : State) (t : Table) (x : Nat) : Nat :=
  ((regionOf s t.polder (tStateRegion s t)).map fun g => g.addr (4 * x)).getD 0

/-- Components of a GRAD payload. -/
def gradOf (s : State) (t : Table) (a : Nat) : List F32 := (List.range (tWidth s t)).map fun j => BitVec.ofNat 32 (leNat (rdBytes s (a + 4 * j) 4))

/-- One optimiser update of a row: new components, new accumulator (R345). -/
def optimRow (s : State) (t : Table) (x : Nat) (w g : List F32) : List F32 × Option F32 :=
  if tOptim s t = 1 then (List.zipWith (fun w g => asBf16 (f32Sub w (f32Mul (tLr s t) g))) w g, none)
  else
    let a0 : F32 := BitVec.ofNat 32 (leNat (rdBytes s (accAddr s t x) 4))
    let s2 := laneSum (g.map fun v => f32Mul v v)
    let a := f32Add a0 (f32Div s2 (f32OfCount (tWidth s t)))
    let d := f32Div (tLr s t) (f32Add (f32Sqrt a) (tEps s t))
    (List.zipWith (fun w g => asBf16 (f32Sub w (f32Mul d g))) w g, some a)

/-- Bytes of BF16 components. -/
def bf16Bytes (xs : List F32) : List Byte := xs.flatMap fun x => leBytes 2 (toBf16 x).toNat

/-- Write a row's stored bytes in the group's pages, and in the target page of every MOVE that flips with it (R348). -/
def putRow (t : Table) (flips : List Move) (ver : Nat) (s : State) (x : Nat) (bs : List Byte) : State :=
  (rowHomes s t x).foldl (fun s h =>
    let w := tEntry s ver h.1 h.2.1
    let s := if pteValid w then wrBytes s (ptePage w + h.2.2) bs else s
    (flips.filter fun m => m.shard = h.1 && m.page = h.2.1).foldl (fun s m => wrBytes s (m.target + h.2.2) bs) s) s

/-- Apply a row's records of the step (R345): the state, whether the row changed, whether a non-finite g left it unchanged. -/
def applyRow (t : Table) (flips : List Move) (ver : Nat) (recs : List RowRec) (s : State) (x : Nat) : State × Bool × Bool :=
  let mine := recs.filter (·.row = x)
  let assigns := mine.filter (·.op = 0)
  let s := match assigns.getLast? with
    | some r => putRow t flips ver s x (rdBytes s r.at_ (tRowBytes s t))
    | none => s
  let grads := mine.filter (·.op = 1)
  if grads.isEmpty then (s, !assigns.isEmpty, false) else
    let g := grads.foldl (fun acc r => List.zipWith f32Add acc (gradOf s t r.at_)) (List.replicate (tWidth s t) (0 : F32))
    if g.any fun v => !f32Finite v then (s, !assigns.isEmpty, true) else
      let (w, a) := optimRow s t x (rowAt s t ver 0 x) g
      let s := putRow t flips ver s x (bf16Bytes w)
      let s := match a with
        | some v => wrBytes s (accAddr s t x) (leBytes 4 v.toNat)
        | none => s
      (s, true, false)

/-- Requests in the table's apply stage whose batches have passed and that no earlier one holds back, by tseq (R344). -/
def tableJobs (s : State) (tab : Nat) : List Nat :=
  let rs := s.ctxs.filter fun e => isLive s e.1 && dKind e.2.desc = kTableUpdate && fld (dB e.2.desc 0) 63 56 = tab
    && !e.2.work.applied && !e.2.work.done && e.2.work.refuse.isNone
  let rs := sortBy (fun a b => decide (a.2.work.seq.getD 0 < b.2.work.seq.getD 0)) rs
  (rs.takeWhile fun e => standsIn s e.1 .tableApply && e.2.work.weir = 2).map (·.1)

/-- The requests that apply_max allows; the first is taken even when it alone passes it (DEDUCED). -/
def withinMax (s : State) (max_ : Nat) : Nat → List Nat → List Nat
  | _, [] => []
  | n, c :: cs =>
    let k := dItems (getCtx s c).desc
    if n ≠ 0 ∧ max_ < n + k then [] else c :: withinMax s max_ (n + k) cs

/-- Refuse a TABLE_UPDATE (R344, R347): a refusal that no record causes is carried by every record (DEDUCED from R219). -/
def refuseTable (s : State) (c code : Nat) : State := refuseMut s c code none

/-- The requests whose records the step reads: it waits for a host that holds a line of an operand; a request whose operand is lost or
poisoned ends, and one that R344 refuses ends with BAD_ITEM and touches nothing else. -/
def judgeUpdates (s : State) (t : Table) (jobs : List Nat) : Bool × State × List Nat :=
  jobs.foldl (fun (acc : Bool × State × List Nat) c =>
    let (wait, s, ok) := acc
    let d := (getCtx s c).desc
    match hostAccess s (some c) (operandAddr s d) (dOpBytes d) false with
    | (.wait, s) => (true, s, ok)
    | (.code e, s) => (wait, failCtx s c e, ok)
    | (.ok, s) =>
      let s := poolUse s (dPolder d) (dOpRegion d) (dOpOffset d) (dOpBytes d) false
      if updateBad s t (rowRecs s t d) then (wait, refuseTable s c Code.BAD_ITEM, ok) else (wait, s, ok ++ [c])) (false, s, [])

/-- The accumulators that the step reads: waits for a host, or ends the requests that a poisoned line meets (R346). -/
def accAccess (s : State) (t : Table) (jobs : List Nat) : Bool × State :=
  jobs.foldl (fun (acc : Bool × State) c =>
    let (wait, s) := acc
    if tOptim s t ≠ 2 || !isLive s c then acc else
      let rs := (rowRecs s t (getCtx s c).desc).filter (·.op = 1)
      rs.foldl (fun (acc : Bool × State) r =>
        let (wait, s) := acc
        if !isLive s c then acc else
          match hostAccess s (some c) (accAddr s t r.row) 4 true with
          | (.wait, s) => (true, s)
          | (.code e, s) => (wait, failCtx s c e)
          | (.ok, s) => match rangeCode s (accAddr s t r.row) 4 with
            | 0 => (wait, s)
            | e => (wait, failCtx s c e)) (wait, s)) (false, s)

/-- Per-record status of a taken TABLE_UPDATE: OK, with bit 16 for a row left unchanged for a non-finite g (R347). -/
def rowStatus (bad : List Nat) (r : RowRec) : Nat := if r.op = 1 ∧ bad.contains r.row then 65536 else 0

/-- TABLE_APPLY_STEP (R344, R345, R348): once per tick for each table, on the timing of R225. -/
def doTableApply (s : State) (tab : Nat) : State :=
  match getTable s tab, (getTable s tab).bind fun tb => applyStart s tb.stepB with
  | some tb, some start =>
    if !s.tick.running || !s.tick.begun || tb.stepTick = some s.tick.tick || decide (start < s.now) then s else
    let s := at_ s start
    let t := start + tb.stepB
    let jobs := withinMax s (tApplyMax s tb) 0 (tableJobs s tab)
    let (wait, s, jobs) := judgeUpdates s tb jobs
    if wait then s else
    let (wait, s) := accAccess s tb jobs
    if wait then s else
    let jobs := jobs.filter (isLive s)
    let live := tb.moves.filter fun m => isLive s m.ctx && (getCtx s m.ctx).gen = m.gen
    -- A copy of the epoch lacks what a group that was deferred holds: such a MOVE is copied again.
    let flips := live.filter fun m => m.copied = some s.tick.tick && tb.groups.isEmpty
    let late := live.filter fun m => decide (m.taken < s.tick.tick) && !flips.contains m
    let s := late.foldl (fun s m => bump s ⟨.EMB_CNT3, m.target / stackBytes / 5, 0⟩ 31 0 1) s
    let (s, ver) := newTabVer s tb (tBase s tb)
    let b0 : TabBuild := { st := s, ver := ver, used := pagesInUse s tb.polder, own := [] }
    -- Pages of updates, then targets of MOVEs, request by request.
    let (b, taken, moves) := jobs.foldl (fun (acc : TabBuild × List Nat × List Move) c =>
      let (b, taken, moves) := acc
      let rs := rowRecs b.st tb (getCtx b.st c).desc
      if rs.any (·.op = 2) then
        let (b', ms) := rs.foldl (fun (acc : TabBuild × List Move) r =>
          let (b, ms) := acc
          let (sh, i) := tPlace b.st tb 0 r.row
          match freeIn b.st tb.polder (tDelta b.st tb) b.used (fun a => a / stackBytes = r.stack) with
          | some a => ({ b with used := a :: b.used },
              ms ++ [⟨c, (getCtx b.st c).gen, sh, i / tPerPage b.st tb, a, b.st.tick.tick, none⟩])
          | none => ({ b with ok := false }, ms)) (b, [])
        if b'.ok then ({ b' with st := modWork b'.st c fun w => { w with applied := true } }, taken, moves ++ ms)
        else ({ b with st := refuseTable b.st c Code.DELTA_FULL }, taken, moves)
      else
        let b' := ownRows tb b (rs.map (·.row))
        if b'.ok then (b', taken ++ [c], moves) else ({ b with st := refuseTable b.st c Code.DELTA_FULL }, taken, moves)) (b0, [], [])
    let recs := taken.flatMap fun c => rowRecs b.st tb (getCtx b.st c).desc
    let rows := ascending (recs.map (·.row))
    let (s, changed, nonfin) := rows.foldl (fun (acc : State × List Nat × List Nat) x =>
      let (s, ch, nf) := applyRow tb flips b.ver recs acc.1 x
      (s, if ch then acc.2.1 ++ [x] else acc.2.1, if nf then acc.2.2 ++ [x] else acc.2.2)) (b.st, [], [])
    -- The flipped pages name their targets.
    let s := flips.foldl (fun s m => wrW s (tPt s b.ver m.shard + 8 * m.page) (mkPte true m.target)) s
    let s := changed.foldl (fun s x => (rowHomes s tb x).foldl (fun s h =>
      let a := ptePage (tEntry s b.ver h.1 h.2.1)
      let s := bump s ⟨.EMB_CNT2, a / stackBytes / 5, 0⟩ 63 32 1
      s) s) s
    let s := nonfin.foldl (fun s x => (rowHomes s tb x).foldl (fun s h =>
      bump s ⟨.EMB_CNT2, ptePage (tEntry s b.ver h.1 h.2.1) / stackBytes / 5, 0⟩ 31 0 1) s) s
    let writ := changed.foldl (fun m x => (rowHomes s tb x).foldl (fun m h =>
      let st := ptePage (tEntry s b.ver h.1 h.2.1) / stackBytes; mapSet m st (mapGetD m st 0 + 1)) m) ([] : Map Nat)
    let (s, done) := taken.foldl (fun (acc : State × List Taken) c =>
      let rs := rowRecs acc.1 tb (getCtx acc.1 c).desc
      let n := (rs.filter fun r => changed.contains r.row).length
      (modWork acc.1 c fun w => { w with applied := true }, acc.2 ++ [⟨c, (getCtx acc.1 c).gen, n, rs.map (rowStatus nonfin)⟩])) (s, [])
    let keep := live.filter fun m => !flips.contains m
    let tb' := (getTable s tab).getD tb
    let tb' := { tb' with stepTick := some s.tick.tick, moves := keep ++ moves, written := writ }
    if done.isEmpty && flips.isEmpty then setTable s tab tb'
    else
      let g : TabGroup := { newVer := b.ver, commit := commitFor s t, taken := done, rows := changed, flips := flips.map fun m => (m.ctx, m.shard, m.page) }
      setTable s tab { tb' with groups := tb'.groups ++ [g] }
  | _, _ => s

/-- MOVE_COPY (R348): the pages of MOVEs taken in an earlier tick are copied as they stand in this tick's epoch, before the tick's
apply step. -/
def doMoveCopy (s : State) (tab : Nat) : State :=
  match getTable s tab with
  | none => s
  | some tb =>
    if !s.tick.running || tb.stepTick = some s.tick.tick then s else
      let todo := tb.moves.filter fun m => decide (m.taken < s.tick.tick) && m.copied ≠ some s.tick.tick
      let s := todo.foldl (fun s m =>
        let w := tEntry s (tResolve s tb s.tick.epoch) m.shard m.page
        if pteValid w then copyPage s (ptePage w) m.target
        else wrBytes s m.target (List.replicate 65536 0)) s
      modTable s tab fun t => { t with moves := t.moves.map fun m => if todo.contains m then { m with copied := some s.tick.tick } else m }

end Sys2Proof.Machine
end

