-- ==== Sys2Proof/Machine/Tensor.lean ====
section
/-! DEFINITION. Tensor tiles: passes (R278 to R284), jobs (R286 to R288), attention and the KV cache (R290 to R297), adapters and
training (R298 to R305), faults (R306), and the publication of scale and adapter versions (R300, R320). -/

namespace Sys2Proof.Machine

/-! ### Passes and their rows -/

def passKey (die slot : Nat) : Nat := die * 96 + slot
def getPass (s : State) (key : Nat) : Option Pass := mapGet s.passes key
def setPass (s : State) (key : Nat) (p : Pass) : State := { s with passes := mapSet s.passes key p }
def modPass (s : State) (key : Nat) (f : Pass → Pass) : State := { s with passes := mapMod s.passes key f }

/-- Key of what one part of an operator holds. -/
def partKey (op part : Nat) : Nat := op * 64 + part
/-- Key of a query block of a head. -/
def blockKey (op head qb : Nat) : Nat := (op * 64 + head) * 1024 + qb

def isPoolOp : ModelOp → Bool
  | .pool _ => true
  | _ => false
def isTokenOp : ModelOp → Bool
  | .embed _ _ => true
  | .bag _ => true
  | _ => false
def isItemOp : ModelOp → Bool
  | .itemProj _ => true
  | _ => false

def opAt (m : Model) (i : Nat) : Option ModelOp := nth? m.ops i
/-- The group of a model on a die. -/
def groupOn (m : Model) (die : Nat) : Option TileGroup := m.groups.find? (·.die = die)
def groupTiles (m : Model) (die : Nat) : Nat := ((groupOn m die).map (·.tiles.length)).getD 1

/-- Columns that tile `gi` of `gt` takes: blocks of 64 split evenly (R285). -/
def sliceCols (n gt gi : Nat) : Nat × Nat := let b := cdiv n 64; (64 * (gi * b / gt), min n (64 * ((gi + 1) * b / gt)))

/-- Output columns of the operators that are cut into slices. -/
def slicedCols : ModelOp → Option Nat
  | .linear _ w _ => some w.n
  | .itemProj w => some w.n
  | .score _ w => some w.n
  | _ => none

/-- Parts of an operator that hold rows: the slices that are not empty, or the whole. -/
def opParts (m : Model) (die i : Nat) : List Nat :=
  match (opAt m i).bind slicedCols with
  | some n => let gt := groupTiles m die
    (List.range gt).filter fun g => decide ((sliceCols n gt g).1 < (sliceCols n gt g).2)
  | none => [0]

/-- Rows that an operator's parts hold when it is complete (R273, R282). -/
def opLen (m : Model) (p : Pass) (i : Nat) : Nat :=
  match opAt m i with
  | some (.embed _ _) => p.rows - p.ids.length * ((p.rows - p.prefix_) / max 1 p.ids.length)
  | some (.bag _) => p.rows
  | some (.itemProj _) => p.ids.length
  | some (.score _ _) => p.ids.length
  | some (.pool _) => 1
  | _ => if (m.ops.take i).any isPoolOp then 1 else p.rows

def partRows (p : Pass) (op part : Nat) : List (List F32) := mapGetD p.outs (partKey op part) []

/-- Query blocks of a pass. -/
def qBlocks (p : Pass) : Nat := cdiv p.rows 64

/-- Whether every job of an operator has ended (R287). -/
def opDone (s : State) (m : Model) (p : Pass) (i : Nat) : Bool :=
  match opAt m i with
  | some (.attention _ _ _ _ _) => (List.range (mHeads s m)).all fun h => (List.range (qBlocks p)).all fun q => (mapGet p.blocks (blockKey i h q)).isSome
  | some _ => (opParts m p.die i).all fun g => (partRows p i g).length = opLen m p i
  | none => false

/-- Whether an operator may run: every earlier operator has ended and it has not (R287). -/
def opReady (s : State) (m : Model) (p : Pass) (i : Nat) : Bool :=
  decide (i < m.ops.length) && (List.range i).all (opDone s m p) && !opDone s m p i

/-- Join the parts of an operator's rows. -/
def joinParts (p : Pass) (i n : Nat) (parts : List Nat) : List (List F32) :=
  (List.range n).map fun r => parts.flatMap fun g => (nth? (partRows p i g) r).getD []

/-- Cut a row of item_tokens × hidden into its rows (R273). -/
def cutRows (t : Nat) (row : List F32) : List (List F32) :=
  let w := row.length / max 1 t
  (List.range t).map fun i => (row.drop (i * w)).take w

/-- The output rows of one operator. -/
def opRows (s : State) (m : Model) (p : Pass) (i : Nat) : List (List F32) :=
  match opAt m i with
  | some (.attention _ _ _ _ _) =>
    let heads := (List.range (mHeads s m)).map fun h => (List.range (qBlocks p)).flatMap fun q => mapGetD p.blocks (blockKey i h q) []
    (List.range p.rows).map fun r => heads.flatMap fun h => (nth? h r).getD []
  | some (.itemProj _) => (joinParts p i (opLen m p i) (opParts m p.die i)).flatMap (cutRows (mItemTokens s m))
  | _ => joinParts p i (opLen m p i) (opParts m p.die i)

/-- The model's input rows: the rows of its EMBED or BAG, then those of its ITEM_PROJ (R282, DEDUCED). -/
def inputRows (s : State) (m : Model) (p : Pass) : List (List F32) :=
  (((List.range m.ops.length).filter fun i => ((opAt m i).map isTokenOp).getD false).flatMap (opRows s m p))
    ++ ((List.range m.ops.length).filter fun i => ((opAt m i).map isItemOp).getD false).flatMap (opRows s m p)

/-- Rows that an operand names. -/
def operandRows (s : State) (m : Model) (p : Pass) : Operand → List (List F32)
  | .input => inputRows s m p
  | .op i => match opAt m i with
    | some o => if !mEncoder s m && (isTokenOp o || isItemOp o) then inputRows s m p else opRows s m p i
    | none => []

/-- Branch of a row (R282, R291). -/
def branchOf (p : Pass) (r : Nat) : Nat :=
  if p.ids.isEmpty ∨ r < p.prefix_ then 0 else (r - p.prefix_) / max 1 ((p.rows - p.prefix_) / p.ids.length) + 1

/-- Rotary position of a row (R282). -/
def positionOf (p : Pass) (r : Nat) : Nat :=
  if p.ids.isEmpty ∨ r < p.prefix_ then r else p.prefix_ + (r - p.prefix_) % max 1 ((p.rows - p.prefix_) / p.ids.length)

/-- Whether key row j is visible to query row i (R291). -/
def visible (s : State) (m : Model) (p : Pass) (i j : Nat) : Bool :=
  decide (j < p.rows) && (!mCausal s m || decide (j < p.prefix_) || (branchOf p j = branchOf p i && decide (j ≤ i)))

/-- Rows of a block that are valid. -/
def blockRows (p : Pass) (b : Nat) : List Nat := (List.range (min 64 (p.rows - 64 * b))).map (64 * b + ·)

/-- Whether a block pair is fully masked (R292). -/
def fullyMasked (s : State) (m : Model) (p : Pass) (qb kb : Nat) : Bool :=
  (blockRows p qb).all fun i => (blockRows p kb).all fun j => !visible s m p i j

/-! ### Starting a pass (R278 to R282) -/

/-- Sequence slots of a polder in use on a die. -/
def seqUsed (s : State) (die p : Nat) : Nat :=
  let own (c : Nat) : Bool := (getCtx s c).polder = p
  let tr := s.trains.filter fun e => e.1 / 96 = die && own e.2.ctx
  (s.passes.filter fun e => e.2.die = die && own e.2.ctx && !(tr.any fun t => t.1 = e.1)).length + tr.length

/-- Model that the current stage of a request runs: the request names it (R82). -/
def stageModel (s : State) (c : Nat) : Nat :=
  let d := (getCtx s c).desc
  if dKind d = kPipeline ∧ stageKindOf s c = some .rerank then fld (dB d 1) 63 56 else fld (dB d 0) 63 56

def Pass.start (c g model die pin : Nat) : Pass :=
  { ctx := c, gen := g, model := model, die := die, rows := 0, prefix_ := 0, pin := pin, tokens := [], bags := [], ids := [], source := 0,
    cands := [], deadC := [], outs := [], attn := [], kv := [], appended := [], escal := false, example_ := none, back := none,
    grads := [], blocks := [], layer := 0 }

/-- The checks at a pass's start (R279, R333). -/
def passCode (s : State) (m : Model) (p : Pass) : Nat :=
  let fs := match m.ops.head? with
    | some (.bag fs) => fs
    | _ => []
  if mMaxTokens s m < p.rows then Code.SEQ_LIMIT
  else if p.bags.any fun b => b.2.any fun k => (keyRows s ((nth? fs b.1).getD 0) k).isNone then Code.TOKEN_RANGE
  else if p.tokens.any fun t => decide (mVocab s m ≤ t) then Code.TOKEN_RANGE
  else 0

/-- Put a pass into its slot, or end its request. -/
def beginPass (s : State) (key : Nat) (m : Model) (p : Pass) : State :=
  let code := passCode s m p
  if code = 0 then setPass s key p else failCtx s p.ctx code

/-- An encode pass from its operand (R280, R336). -/
def encodePass (s : State) (key : Nat) (m : Model) (p : Pass) (d : List Word) (bs : List Byte) : State :=
  let n := fld (dB d 0) 55 40
  match m.ops.head? with
  | some (.bag fs) =>
    match parseBags fs.length (n + 1) (tokenIds bs n) with
    | none => failCtx s p.ctx Code.BAD_ITEM
    | some bags => beginPass s key m { p with rows := bags.length, bags := bags, prefix_ := min (mPrefix s m) bags.length }
  | _ => beginPass s key m { p with rows := n, tokens := tokenIds bs n, prefix_ := min (mPrefix s m) n }

/-- A rerank pass: its query tokens, candidates and source (R281, R282). -/
def rerankPass (s : State) (p : Pass) (m : Model) (toks ids : List Nat) (source : Nat) : Pass :=
  { p with rows := toks.length + ids.length * mItemTokens s m, prefix_ := toks.length, tokens := toks, ids := ids, source := source }

/-- Offset of the vectors of a RERANK operand (R281). -/
def vecOffset (query cands : Nat) : Nat := cdiv (8 * cdiv query 2 + 8 * cands) 64 * 64

/-- An example of an ADAPTER_STEP (R301). -/
structure Example where
  tokens : List Nat
  source : Nat
  id     : Nat
  target : F32
  weight : F32
  vecAt  : Nat

/-- Example `i` of an operand at `a`, and where the next one starts. -/
def exampleAt (s : State) (m : Model) (a : Nat) : Nat → Example × Nat
  | 0 =>
    let w := rdW s a
    let n := fld w 63 48
    let src := fld w 47 46
    let v := a + 64 + cdiv (4 * n) 64 * 64
    ({ tokens := tokenIds (rdBytes s (a + 64) (4 * n)) n, source := src, id := rdN s (a + 8), target := BitVec.ofNat 32 (fld (rdW s (a + 16)) 63 32),
       weight := BitVec.ofNat 32 (fld (rdW s (a + 16)) 31 0), vecAt := v }, v + (if src = 2 then cdiv (2 * mVecDim s m) 64 * 64 else 0))
  | n + 1 => exampleAt s m (exampleAt s m a n).2 0

/-- Begin example `i` of the training step in a slot (R302). -/
def startExample (s : State) (key i : Nat) (m : Model) (model : Nat) : State :=
  match mapGet s.trains key with
  | none => s
  | some tr =>
    let x := (exampleAt s m (operandAddr s (getCtx s tr.ctx).desc) i).1
    let p := rerankPass s (Pass.start tr.ctx tr.gen model (key / 96) (getCtx s tr.ctx).pin) m x.tokens [x.id] x.source
    beginPass s key m { p with example_ := some i }

/-- The stage kinds that run a pass. -/
def modelStage (k : Option StageKind) : Bool := k = some .encode || k = some .rerank || k = some .train

/-- Free slots: no pass and no training step. -/
def slotFree (s : State) (key : Nat) : Bool := (mapGet s.passes key).isNone && (mapGet s.trains key).isNone

/-- PASS_START (R278): the pass takes a free slot of its polder on its stage's die, and is checked (R279). -/
def doPassStart (s : State) (c die slot : Nat) : State :=
  let k := getCtx s c
  let d := k.desc
  let key := passKey die slot
  let mn := stageModel s c
  let kind := stageKindOf s c
  let has := s.passes.any (fun e => e.2.ctx = c && e.2.gen = k.gen) || s.trains.any (fun e => e.2.ctx = c && e.2.gen = k.gen)
  match getModel s mn with
  | none => s
  | some m =>
    if !(isLive s c && modelStage kind && activeOwner s c = some die && (groupOn m die).isSome && !k.work.done && !has && slotFree s key
          && decide (seqUsed s die k.polder < ((nth? (getPolder s k.polder).seqSlots die).getD 0))) then s
    else
      let p := Pass.start c k.gen mn die k.pin
      withBytes s c (operandOf s k) (dOpBytes d) fun s bs =>
        if kind = some .train then
          let s := { s with trains := mapSet s.trains key ⟨c, k.gen, mn, fld (dB d 0) 55 48, k.work.seq.getD 0, [], 0, 0,
                                                       fld (rdW s (adpVer s m (fld (dB d 0) 55 48) k.pin)) 47 0, [], 0⟩ }
          startExample s key 0 m mn
        else if kind = some .encode then encodePass s key m p d bs
        else if dKind d = kPipeline then
          let n := fld (dB d 0) 55 40
          beginPass s key m (rerankPass s p m (tokenIds bs n) k.work.cands (if k.work.vectors.isEmpty then 0 else 1))
        else
          let n := fld (dB d 0) 31 16
          let cs := fld (dB d 0) 55 45
          let ids := (List.range cs).map fun i => leNat ((bs.drop (8 * cdiv n 2 + 8 * i)).take 8)
          beginPass s key m (rerankPass s p m (tokenIds bs n) ids (fld (dB d 0) 33 32))

/-! ### Ending a pass -/

/-- A pass ends: its slot and its KV pages are free (R278, R297). -/
def endPass (s : State) (key : Nat) : State :=
  match getPass s key with
  | none => s
  | some p => bump { s with passes := mapDel s.passes key, ahead := s.ahead.filter fun x => !(x.die = p.die && x.slot = key % 96) }
      ⟨.TEN_SEQ_CNT, p.die, 0⟩ 63 32 1

/-- The delivered vector of an encode pass (R280, R325). -/
def finishEncode (s : State) (key : Nat) (p : Pass) (row : List F32) : State :=
  let s := endPass s key
  if row.any fun x => !f32Finite (asBf16 x) then failCtx s p.ctx Code.ENCODE_NONFINITE
  else
    let v := row.map toBf16
    let bs := v.flatMap fun x => leBytes 2 x.toNat
    modWork s p.ctx fun w =>
      if dKind (getCtx s p.ctx).desc = kEncode then { w with output := bs, grain := max 1 bs.length, done := true }
      else { w with query := v, done := true }

/-- The list a rerank delivers (R284): score −z, position and id of each candidate. For a PIPELINE it carries on what the levels below left out,
and whether a walk of the request ended by BUDGET (R210, R211). -/
def finishRerank (s : State) (key : Nat) (p : Pass) (zs : List F32) : State :=
  let s := endPass s key
  let ents := (zs.zip p.ids).zipIdx.map fun e => (⟨f32Neg e.1.1, e.2, e.1.2⟩ : Entry)
  let from_ (r : Option Ranked) : PList :=
    { src := 0, entries := ents, full := false, leftCount := r.elim 0 (·.leftCount), leftSum := r.elim 0 (·.leftSum), tie := 0, kth := f32NaN,
      reason := r.elim .exhausted (·.reason), expanded := 0, poison := false, covers := [], dups := r.elim 0 (·.dups) }
  modWork s p.ctx fun w => { w with lists := [from_ w.ranked], done := true }

/-- Loss and its gradient (R301). -/
def lossOf (squared : Bool) (y w z : F32) : F32 × F32 :=
  let half : F32 := 0x3F000000#32
  if squared then
    let d := f32Sub z y
    (f32Mul (f32Mul w (f32Mul d d)) half, f32Mul w d)
  else (f32Mul w (f32Sub (f32Softplus z) (f32Mul y z)), f32Mul w (f32Sub (f32Sigma z) y))

/-- The forward pass of an example has ended: the loss is added and the backward starts from the SCORE row (R302). -/
def startBackward (s : State) (key : Nat) (m : Model) (p : Pass) (i : Nat) (z : F32) : State :=
  match mapGet s.trains key with
  | none => s
  | some tr =>
    let x := (exampleAt s m (operandAddr s (getCtx s tr.ctx).desc) i).1
    let (l, dz) := lossOf (fld (adpW s m tr.adapter 0) 52 52 = 1) x.target x.weight z
    let s := { s with trains := mapSet s.trains key { tr with loss := f32Add tr.loss l, ran := tr.ran + 1 } }
    setPass s key { p with back := some (m.ops.length - 1), grads := [(m.ops.length - 1, [[dz]])] }

/-- When the last operator has ended, the pass delivers (R280, R284) or turns to its backward (R302). -/
def finishPass (s : State) (key : Nat) : State :=
  match getPass s key with
  | none => s
  | some p =>
    match getModel s p.model with
    | none => s
    | some m =>
      let last := m.ops.length - 1
      if p.back.isSome || !opDone s m p last then s
      else if mEncoder s m then finishEncode s key p ((opRows s m p last).headD [])
      else
        let zs := (opRows s m p last).map fun r => r.headD 0
        match p.example_ with
        | some i => startBackward s key m p i (zs.headD 0)
        | none => finishRerank s key p zs

/-! ### Jobs (R286, R306) -/

/-- What a tile may run: model, group and its place in the group. -/
structure JobAt where
  num   : Nat
  model : Model
  group : TileGroup
  gi    : Nat

def tenUnit (die tile : Nat) : Nat := unitNo die 0 tile

/-- The tile is enabled, serves a group, needs no reload, and its step may end at `t` (R42, R306, R309). -/
def jobAt (s : State) (die tile : Nat) (t : Stamp) : Option JobAt :=
  let cfg := getReg s ⟨.TEN_CFG, die, tile⟩
  if fld cfg 0 0 = 1 ∧ getF s ⟨.TEN_STS, die, tile⟩ 63 61 ≠ 4 ∧ mayRun s (tenUnit die tile) t then
    (tileGroup s die tile).map fun g => ⟨g.1, g.2.1, g.2.2, (g.2.2.tiles.takeWhile (· ≠ tile)).length⟩
  else none

/-- Passes of the model in the listed slots, at most 16 (R287). -/
def jobPasses (s : State) (die : Nat) (j : JobAt) (slots : List Nat) : List (Nat × Pass) :=
  ((slots.filterMap fun x => (getPass s (passKey die x)).map fun p => (passKey die x, p)).filter fun e => e.2.model = j.num && isLive s e.2.ctx
    && (getCtx s e.2.ctx).gen = e.2.gen).take 16

/-! ### Resident weights (R285, R306) -/

/-- The weights of an operator that is cut into slices, and its adapters. -/
def slicedWeights : ModelOp → Option (Weights × List Nat)
  | .linear _ w ads => some (w, ads)
  | .itemProj w => some (w, [])
  | .score _ w => some ({ w with fmt := .bf16 }, [])
  | _ => none

/-- The slices that a tile of a group keeps, with their operators: one after another from the start of its SRAM. -/
def residentSlices (m : Model) (g : TileGroup) (tile : Nat) : List (Nat × Weights × WSlice) :=
  let gi := (g.tiles.takeWhile (· ≠ tile)).length
  let step (acc : List (Nat × Weights × WSlice) × Nat) (o : ModelOp × Nat) : List (Nat × Weights × WSlice) × Nat :=
    match slicedWeights o.1 with
    | none => acc
    | some (w, _) => if !(g.resident.contains o.2) then acc else
      let (lo, hi) := sliceCols w.n g.tiles.length gi
      let x : WSlice := ⟨tileAddr g.die tile + acc.2, lo, hi⟩
      (acc.1 ++ [(o.2, w, x)], acc.2 + x.bytes w)
  (m.ops.zipIdx.foldl step ([], 0)).1

/-- The slice of an operator that a tile keeps. -/
def residentAt (m : Model) (g : TileGroup) (tile op : Nat) : Option WSlice := ((residentSlices m g tile).find? (·.1 = op)).map (·.2.2)

/-- Load a tile's resident weights from the weight region; none where a read of it meets an error. -/
def loadTile (s : State) (m : Model) (g : TileGroup) (tile : Nat) : Option State :=
  let xs := residentSlices m g tile
  if firstCode (xs.map fun x => weightCode s m x.2.1) ≠ 0 then none
  else some (xs.foldl (fun s x => loadSlice s m x.2.1 x.2.2) s)

/-- WEIGHT_RELOAD (R306, R538). While the weight region cannot be read the tile goes on waiting, and the requests whose passes its model runs on
the die end, as their next jobs on the tile would have them (DESIGN CHOICE: at the reload). -/
def doWeightReload (s : State) (die tile : Nat) : State :=
  let idle (s : State) : State := setF s ⟨.TEN_STS, die, tile⟩ 63 61 0
  if getF s ⟨.TEN_STS, die, tile⟩ 63 61 ≠ 4 then s
  else match tileGroup s die tile with
    | none => idle s
    | some (n, m, g) => match loadTile s m g tile with
      | some s => idle s
      | none =>
        let code := firstCode ((residentSlices m g tile).map fun x => weightCode s m x.2.1)
        ((s.passes.filter fun e => e.2.die = die && e.2.model = n).map (·.2.ctx)).foldl (fun s c => if isLive s c then failCtx s c code else s) s

/-- TEN_STS and TEN_CNT0 after a job (R309). -/
def noteJob (s : State) (die tile kind slot layer : Nat) : State :=
  let r : Reg := ⟨.TEN_STS, die, tile⟩
  let s := setF (setF (setF s r 60 57 kind) r 56 50 slot) r 49 43 layer
  bump s ⟨.TEN_CNT0, die, tile⟩ 63 32 1

/-- The tile's own errors in a job (R306): one-bit errors are counted; another error ends the job and every request it held. -/
def tileErr (s : State) (die tile : Nat) (ctxs : List Nat) (err : TileErr) (k : State → State) : State :=
  let r : Reg := ⟨.TEN_ERR, die, tile⟩
  let s := if err.corrected = 0 then s else bump s r 63 32 err.corrected
  if err.kind = 0 then k s
  else
    let s := setRun (bump s r 31 16 1) r 15 14 err.kind.val
    let s := setF s ⟨.TEN_STS, die, tile⟩ 63 61 4
    ctxs.foldl (fun s c => failCtx s c Code.TILE_FAULT) s


/-! ### LINEAR_SLICE (R274, R298, R317, R318, R322 to R324) -/

/-- Input rows of an operator that is cut into slices: rows of its operand, candidate vectors, or each candidate's last row. -/
def slicedInput (s : State) (m : Model) (p : Pass) : ModelOp → List (List F32)
  | .linear x _ _ => operandRows s m p x
  | .itemProj _ => p.cands.map fun v => v.map bf16Widen
  | .score x _ =>
    let rows := operandRows s m p x
    let t := (p.rows - p.prefix_) / max 1 p.ids.length
    (List.range p.ids.length).map fun i => (nth? rows (p.prefix_ + i * t + t - 1)).getD []
  | _ => []

/-- Columns `lo` to `hi` − 1 of one output row, in binary32, and the row's blocks. -/
def linRow (s : State) (m : Model) (op pin : Nat) (w : Weights) (ads : List Nat) (lo hi : Nat) (sl : Option WSlice) (row : List F32) :
    List F32 × List QBlock :=
  let sx := w.point.elim f32One fun j => pow2 (scaleExp s m pin j)
  let bs := if w.fmt = .bf16 then [] else quantRow w.fmt sx row
  let us := (ascending ads).map fun a => (a, adpU s m a op pin row)
  ((List.range (hi - lo)).map fun j => biasAt s m w (lo + j) (addAdapters s m op w.k w.n pin us (lo + j) (linElem s m w sx bs row (lo + j) sl)) sl, bs)

/-- The largest |x| over finite elements. -/
def amaxOf (a : F32) (row : List F32) : F32 := row.foldl (fun a x => if f32Finite x && f32Lt a (f32Abs x) then f32Abs x else a) a

/-- A DELAYED model observes the rows of a job at a scale point (R320). -/
def observe (s : State) (die mn point : Nat) (rows : List (List F32)) : State :=
  { s with models := mapMod s.models mn fun m =>
    let k := die * 4096 + point
    { m with obs := mapPut 0 m.obs point (rows.foldl amaxOf (mapGetD m.obs point 0)),
             obsDie := mapPut 0 m.obsDie k (rows.foldl amaxOf (mapGetD m.obsDie k 0)) } }

/-- Counts of a job at a scale point: escalated rows, failures, blocks, observation (R320, R322, R324). -/
def noteScale (s : State) (die tile mn point : Nat) (rows : List (List F32)) (qs : List (List QBlock)) (t : Stamp) : State :=
  let esc := (qs.filter rowFails).length
  let n0 : Reg := ⟨.NUM_CNT0, die, tile⟩
  let n1 : Reg := ⟨.NUM_CNT1, die, tile⟩
  let s := bump s ⟨.NUM_CNT2, die, tile⟩ 63 0 (qs.foldl (fun n q => n + q.length) 0)
  let s := bump (bump s n1 63 32 (qs.filter rowOver).length) n1 31 0 (qs.filter rowUnder).length
  let s := if (getModel s mn).elim false (numDelayed s) then observe s die mn point rows else s
  if esc = 0 then s else
    let s := bumpScl (bump s n0 63 32 esc) (sclKey mn die point) esc
    let s := setReg s ⟨.NUM_LAST0, die, tile⟩ (BitVec.ofNat 64 (tickOf s t % 2 ^ 48 * 2 ^ 16 + mn * 2 ^ 8))
    setF s ⟨.NUM_LAST1, die, tile⟩ 63 52 point

/-- One pass's part of a job: the next rows it holds for this slice, at most `room`. -/
def linPass (s : State) (die tile op : Nat) (j : JobAt) (w : Weights) (ads : List Nat) (t : Stamp) (key room : Nat) (p : Pass) : State × Nat :=
  match opAt j.model op with
  | none => (s, 0)
  | some o =>
    let m := j.model
    let (lo, hi) := sliceCols w.n (groupTiles m die) j.gi
    let have_ := partRows p op j.gi
    let ins := ((slicedInput s m p o).drop have_.length).take (min room (opLen m p op - have_.length))
    let sl := residentAt m j.group tile op
    let code := firstCode ((if sl.isSome then 0 else weightCode s m w) :: ads.map (adapterCode s m p.pin))
    if ins.isEmpty ∨ hi ≤ lo then (s, 0)
    else if code ≠ 0 then (failCtx s p.ctx code, 0)
    else
      let outs := ins.map (linRow s m op p.pin w ads lo hi sl)
      let isScore := (match o with | .score _ _ => true | _ => false)
      let rows := outs.map fun r => if isScore then r.1 else r.1.map asBf16
      let rows := if isScore then rows.zipIdx.map fun e => if p.deadC.contains (have_.length + e.2) then [f32NaN] else e.1 else rows
      let esc := (outs.map (·.2)).filter rowFails
      let s := match w.point with
        | some pt => if w.fmt = .bf16 then s else noteScale s die tile j.num pt ins (outs.map (·.2)) t
        | none => s
      let rb := cdiv ins.length 64 + (if esc.isEmpty then 0 else cdiv esc.length 64)
      let s := bump s ⟨.TEN_CNT1, die, tile⟩ 63 0 (rb * cdiv w.k 64 * cdiv (hi - lo) 64)
      let s := if esc.isEmpty then s else modWork s p.ctx fun x => { x with escal := true }
      let s := setPass s key { p with outs := mapSet p.outs (partKey op j.gi) (have_ ++ rows), escal := p.escal || !esc.isEmpty }
      (finishPass s key, ins.length)

/-- Run a job over passes, rows_max rows in all. -/
def overPasses (f : Nat → Nat → Pass → State → State × Nat) : Nat → List (Nat × Pass) → State → State
  | _, [], s => s
  | room, (key, p) :: ps, s =>
    let (s, n) := f key room p s
    overPasses f (room - n) ps s

/-- A LINEAR_SLICE job over its forward passes (R318); a job in which some row escalated is counted once (R328). -/
def linJob (s : State) (die tile op : Nat) (j : JobAt) (w : Weights) (ads : List Nat) (t : Stamp) (fwd : List (Nat × Pass)) : State :=
  let r := overPasses (fun key room p s => linPass s die tile op j w ads t key room p) j.group.rowsMax fwd s
  let n0 : Reg := ⟨.NUM_CNT0, die, tile⟩
  if r.cnt.any fun e => e.1 = regAddr n0 && decide (fld (mapGetD s.cnt e.1 0) 63 32 < fld e.2 63 32) then bump r n0 31 0 1 else r

/-! ### VECTOR (R273, R315) -/

/-- The next output rows of a vector operator, at most `n` from row `a`. -/
def vecRows (s : State) (m : Model) (p : Pass) (o : ModelOp) (a n : Nat) : List (List F32) :=
  let cut (x : Operand) : List (List F32) := ((operandRows s m p x).drop a).take n
  match o with
  | .norm x rms g b e => (cut x).map (normRow rms (g.map bf16Widen) (b.map bf16Widen) e)
  | .act x k => (cut x).map fun r => r.map (actOf k)
  | .gate x y => List.zipWith (List.zipWith f32Mul) (cut x) (cut y)
  | .add x y => List.zipWith (List.zipWith f32Add) (cut x) (cut y)
  | .l2norm x => (cut x).map l2Row
  | .pool x =>
    let rows := operandRows s m p x
    match mPool s m with
    | 0 => [rows.headD []]
    | 1 =>
      let zero := (rows.headD []).map fun _ => (0 : F32)
      [(rows.foldl (fun acc r => List.zipWith f32Add acc r) zero).map fun v => f32Div v (f32OfCount rows.length)]
    | _ => [rows.getLastD []]
  | _ => []

def isVectorOp : ModelOp → Bool
  | .norm _ _ _ _ _ => true
  | .act _ _ => true
  | .gate _ _ => true
  | .add _ _ => true
  | .pool _ => true
  | .l2norm _ => true
  | _ => false

def vecPass (s : State) (op : Nat) (m : Model) (o : ModelOp) (key room : Nat) (p : Pass) : State × Nat :=
  let have_ := partRows p op 0
  let rows := (vecRows s m p o have_.length (min room (opLen m p op - have_.length))).map fun r => r.map asBf16
  let s := setPass s key { p with outs := mapSet p.outs (partKey op 0) (have_ ++ rows) }
  (finishPass s key, rows.length)

/-! ### EMBED (R273, R283, R337) -/

/-- EMBED rows from `a`, at most `n`. -/
def embedRows (s : State) (m : Model) (p : Pass) (tok : Weights) (pos : Option Weights) (a n : Nat) : List (List F32) :=
  (List.range n).map fun i =>
    let r := a + i
    let x := (List.range tok.n).map fun j => wVal s m tok ((nth? p.tokens r).getD 0) j
    match pos with
    | some w => List.zipWith f32Add x ((List.range w.n).map fun j => wVal s m w r j)
    | none => x

/-- The collection that a candidate of a pass lies in: the request's, or for a training example the polder's collection whose shard and
range hold the id (DESIGN CHOICE). -/
def candColl (s : State) (p : Pass) (gid : Nat) : Option (Nat × Coll) :=
  let k := getCtx s p.ctx
  let fits_ (co : Coll) : Bool := cShard s co = gid / 2 ^ 40 && cHas s co (gid % 2 ^ 40)
  if namesColl (dKind k.desc) then
    (mapGet s.colls (dColl k.desc)).bind fun co => if fits_ co then some (dColl k.desc, co) else none
  else s.colls.find? fun e => e.2.polder = k.polder && fits_ e.2

/-- The vector of candidate `i` (R283): its components, whether it is not live, and the code it meets or 0; none while a flash read of it
is awaited. -/
def candVec (s : State) (m : Model) (p : Pass) (i : Nat) : Option (List (BitVec 16) × Bool × Nat) :=
  let gid := (nth? p.ids i).getD 0
  let d := (getCtx s p.ctx).desc
  let n := mVecDim s m
  if p.source = 2 then
    let a := match p.example_ with
      | some x => (exampleAt s m (operandAddr s d) x).1.vecAt
      | none => operandOf s (getCtx s p.ctx) + vecOffset p.prefix_ p.ids.length + 2 * n * i
    some (bf16s (rdBytes s a (2 * n)), false, rangeCode s a (2 * n))
  else match candColl s p gid with
    | none => some ([], false, Code.BAD_ITEM)
    | some (_, co) =>
      let id := gid % 2 ^ 40
      let ver := cResolve s co (cSegOf s co id) p.pin
      if !liveIn s co ver (cIxOf s co id) then some (List.replicate n 0, true, 0)
      else if p.source = 0 then
        some ((decodeCode s co (readCode s co ver (cIxOf s co id))).map toBf16, false, recCode s co ver .codes (cIxOf s co id))
      else (mapGet (getCtx s p.ctx).work.vectors (p.example_.getD i)).map fun v => (v, false, 0)

/-- Decode the next candidate vectors, at most `n`; stops at one that is awaited, and ends the request at one that is refused. -/
def decodeCands (m : Model) (key : Nat) : Nat → State → State
  | 0, s => s
  | n + 1, s =>
    match getPass s key with
    | none => s
    | some p =>
      let i := p.cands.length
      if p.ids.length ≤ i then s else
        match candVec s m p i with
        | none => s
        | some (v, dead, code) =>
          if code ≠ 0 then failCtx s p.ctx code
          else decodeCands m key n (setPass s key { p with cands := p.cands ++ [v], deadC := if dead then p.deadC ++ [i] else p.deadC })

/-- EMBED (R273, R283, R337): token rows, pooled bags, or candidate vectors for ITEM_PROJ. -/
def doEmbed (s : State) (die tile op slot : Nat) (err : TileErr) (t : Stamp) : State :=
  match jobAt s die tile t with
  | none => s
  | some j =>
    match jobPasses s die j [slot], opAt j.model op with
    | [(key, p)], some o =>
      let m := j.model
      let have_ := (partRows p op 0).length
      let n := min j.group.rowsMax (opLen m p op - have_)
      let put (s : State) (rows : List (List F32)) : State :=
        match getPass s key with
        | none => s
        | some p => finishPass (setPass s key { p with outs := mapSet p.outs (partKey op 0) (partRows p op 0 ++ rows.map fun r => r.map asBf16) }) key
      if !opReady s m p op || p.back.isSome || !(isTokenOp o || isItemOp o) then s
      else tileErr (noteJob s die tile 2 slot p.layer) die tile [p.ctx] err fun s =>
        match o with
        | .embed tok pos =>
          let code := firstCode (weightCode s m tok :: pos.toList.map (weightCode s m))
          if code ≠ 0 then failCtx s p.ctx code else put s (embedRows s m p tok pos have_ n)
        | .bag fs =>
          let bags := (p.bags.zipIdx.drop have_).take n
          let parts (i : Nat) : List (Nat × List F32) := ((getCtx s p.ctx).work.partials.filter (·.1 = i)).map (·.2)
          let (s, code) := bags.foldl (fun acc b =>
            (bagRows acc.1 ((nth? fs b.1.1).getD 0) b.1.2).foldl (lookRow die tile p.pin p.ctx p.gen) acc) (s, 0)
          if code ≠ 0 then failCtx s p.ctx code
          else put s (bags.map fun b => poolBag s p.pin die ((nth? fs b.1.1).getD 0) (parts b.2) b.1.2)
        | _ => decodeCands m key j.group.rowsMax s
    | _, _ => s

/-! ### The KV cache (R293 to R297) -/

/-- Rows of a KV page (R293). -/
def kvRows (s : State) (m : Model) : Nat := 16384 / mHeadDim s m
def kvMax (s : State) (m : Model) : Nat := cdiv (mMaxTokens s m) (kvRows s m)
/-- Index of a KV page table entry (R294). -/
def kvIndex (s : State) (m : Model) (layer g page : Nat) : Nat := (layer * mKvHeads s m + g) * kvMax s m + page

/-- Whether an address lies in the crest pool of a die. -/
def inPool (die a : Nat) : Bool := decide (poolAddr die ≤ a) && decide (a < poolAddr die + 0x8000000)

/-- The entry of a KV page at an address, in a slot of a die (R294). -/
def kvEntry (die a : Nat) : Word :=
  if inPool die a then BitVec.ofNat 64 (2 ^ 63 + 2 ^ 62 + (a - poolAddr die)) else BitVec.ofNat 64 (2 ^ 63 + a)

/-- The page that a valid entry names (R294). -/
def kvPage (die : Nat) (e : Word) : Option Nat :=
  if fld e 63 63 = 0 then none
  else some (65536 * fld e 40 16 + (if fld e 62 62 = 1 then poolAddr die else 0))

/-- KV pages that the passes of a polder hold; the region is one for all dies (R297). -/
def kvHeld (s : State) (polder : Nat) : List Nat :=
  (s.passes.filter fun e => (getCtx s e.2.ctx).polder = polder).flatMap fun e => e.2.kv.filterMap fun x => kvPage e.2.die x.2

/-- Address of the key of a row of a layer and kv head; its value lies 32,768 bytes on (R293). -/
def kvAddr (s : State) (m : Model) (p : Pass) (layer g r : Nat) : Option Nat :=
  ((mapGet p.kv (kvIndex s m layer g (r / kvRows s m))).bind (kvPage p.die)).map fun a => a + r % kvRows s m * 2 * mHeadDim s m

/-- A head's part of a row, rotated where the model is rotary, in BF16 (R290). -/
def headPart (s : State) (m : Model) (p : Pass) (rot : Bool) (col h r : Nat) (row : List F32) : List F32 :=
  let dh := mHeadDim s m
  let x := (row.drop (col + h * dh)).take dh
  (if rot && mRotary s m then Config.rotary (positionOf p r) dh x else x).map asBf16

def bf16Row (xs : List F32) : List Byte := xs.flatMap fun x => leBytes 2 (toBf16 x).toNat

/-- Write one row of a kv head into its page, taking a page when it is first written; none when no page is free (R296). A page is one that an
entry can name: in HBM, or in the crest pool of the slot's die. -/
def appendOne (m : Model) (key layer kCol vCol r : Nat) (row : List F32) (acc : Option State) (g : Nat) : Option State :=
  acc.bind fun s => (getPass s key).bind fun p =>
    let put (s : State) (p : Pass) (a : Nat) : State :=
      let at_ := a + r % kvRows s m * 2 * mHeadDim s m
      wrBytes (wrBytes s at_ (bf16Row (headPart s m p true kCol g r row))) (at_ + 32768) (bf16Row (headPart s m p false vCol g r row))
    let ix := kvIndex s m layer g (r / kvRows s m)
    match (mapGet p.kv ix).bind (kvPage p.die) with
    | some a => some (put s p a)
    | none =>
      (freeIn s m.polder (mKvRegion s m) (kvHeld s m.polder) fun a => decide (a < hbmEnd) || inPool p.die a).map fun a =>
        let p := { p with kv := mapSet p.kv ix (kvEntry p.die a) }
        put (setPass s key p) p a

/-- APPEND (R296): the next rows of a layer's keys and values, at most rows_max, or KV_SPACE (R297). -/
def doAppend (s : State) (die tile op slot : Nat) (err : TileErr) (t : Stamp) : State :=
  match jobAt s die tile t with
  | none => s
  | some j =>
    match jobPasses s die j [slot], opAt j.model op with
    | [(key, p)], some (.attention x layer _ kCol vCol) =>
      let m := j.model
      let a := mapGetD p.appended op 0
      let n := min j.group.rowsMax (p.rows - a)
      if !opReady s m p op || n = 0 || p.back.isSome then s
      else tileErr (noteJob s die tile 3 slot layer) die tile [p.ctx] err fun s =>
        let rows := ((operandRows s m p x).drop a).take n
        let res := rows.zipIdx.foldl (fun acc e => (List.range (mKvHeads s m)).foldl (appendOne m key layer kCol vCol (a + e.2) e.1) acc) (some s)
        match res with
        | none => failCtx (bump s ⟨.TEN_SEQ_CNT, die, 0⟩ 31 0 1) p.ctx Code.KV_SPACE
        | some s =>
          let s := bump s ⟨.TEN_CNT2, die, tile⟩ 31 0 (n * mKvHeads s m)
          modPass s key fun p => { p with appended := mapSet p.appended op (a + n), layer := layer }
    | _, _ => s

/-! ### ATTN (R290 to R292, R295) -/

/-- Keys and values of a block, as they stand in the KV pages. -/
def kvBlock (s : State) (m : Model) (p : Pass) (layer g kb : Nat) : List (List F32 × List F32) :=
  (blockRows p kb).map fun r => match kvAddr s m p layer g r with
    | some a =>
      let n := 2 * mHeadDim s m
      ((bf16s (rdBytes s a n)).map bf16Widen, (bf16s (rdBytes s (a + 32768) n)).map bf16Widen)
    | none => ([], [])

/-- The code that fetching a block meets, or 0: its 64 keys and 64 values, rows beyond the valid ones too (R295). -/
def kvCode (s : State) (m : Model) (p : Pass) (layer g kb : Nat) : Nat :=
  (kvAddr s m p layer g (64 * kb)).elim 0 fun a => firstCode [rangeCode s a (128 * mHeadDim s m), rangeCode s (a + 32768) (128 * mHeadDim s m)]

abbrev f32NegInf : F32 := 0xFF800000#32
def kvHead (s : State) (m : Model) (h : Nat) : Nat := h * mKvHeads s m / max 1 (mHeads s m)
def attnScale (s : State) (m : Model) : F32 := f32Div f32One (f32Sqrt (f32OfCount (mHeadDim s m)))

/-- s[i][j] of a row over a block (R290). -/
def attnScores (s : State) (m : Model) (p : Pass) (q : List F32) (i kb : Nat) (kv : List (List F32 × List F32)) : List F32 :=
  kv.zipIdx.map fun e => if visible s m p i (64 * kb + e.2) then f32Mul (laneSum (List.zipWith f32Mul q e.1.1)) (attnScale s m) else f32NegInf

/-- The column of a block's values. -/
def valCol (kv : List (List F32 × List F32)) (c : Nat) : List F32 := kv.map fun e => (nth? e.2 c).getD 0

/-- One row of one block pair: new m, l, o (R290). -/
def attnRow (sc : List F32) (kv : List (List F32 × List F32)) (mo : F32) (lo : F32) (oo : List F32) : F32 × F32 × List F32 :=
  let mn := sc.foldl f32Max mo
  let a := if f32Eq mn mo then f32One else f32Exp (f32Sub mo mn)
  let ps := sc.map fun x => if x = f32NegInf then (0 : F32) else f32Exp (f32Sub x mn)
  let pb := ps.map asBf16
  (mn, f32Add (f32Mul lo a) (laneSum ps),
    oo.zipIdx.map fun e => f32Add (f32Mul e.1 a) (laneSum (List.zipWith f32Mul pb (valCol kv e.2))))

/-- Key blocks from the run's next one: up to `n` that are not fully masked; the run, pairs computed and skipped, and a code. -/
def attnGo (s : State) (m : Model) (p : Pass) (layer g qb : Nat) (qs : List (Nat × List F32)) : Nat → Nat → AttnRun → Nat × Nat × Nat → AttnRun × Nat × Nat × Nat
  | 0, _, r, c => (r, c)
  | fuel + 1, n, r, (done, skip, code) =>
    if qBlocks p ≤ r.next ∨ code ≠ 0 then (r, done, skip, code)
    else if fullyMasked s m p qb r.next then attnGo s m p layer g qb qs fuel n { r with next := r.next + 1 } (done, skip + 1, code)
    else match n with
      | 0 => (r, done, skip, code)
      | n + 1 =>
        let kv := kvBlock s m p layer g r.next
        let c := kvCode s m p layer g r.next
        let rows := qs.zipIdx.map fun e =>
          attnRow (attnScores s m p e.1.2 e.1.1 r.next kv) kv ((nth? r.m e.2).getD 0) ((nth? r.l e.2).getD 0) ((nth? r.o e.2).getD [])
        let r' : AttnRun := ⟨r.next + 1, rows.map (·.1), rows.map (·.2.1), rows.map (·.2.2)⟩
        attnGo s m p layer g qb qs fuel n r' (done + 1, skip, c)

/-- ATTN (R290, R295): one query block of one head over up to kb_job key blocks, carrying its statistics from job to job (R287). -/
def doAttn (s : State) (die tile op slot head qb : Nat) (err : TileErr) (t : Stamp) : State :=
  match jobAt s die tile t with
  | none => s
  | some j =>
    match jobPasses s die j [slot], opAt j.model op with
    | [(key, p)], some (.attention x layer qCol _ _) =>
      let m := j.model
      if !opReady s m p op || p.back.isSome || mapGetD p.appended op 0 < p.rows || !(decide (head < mHeads s m)) || !(decide (qb < qBlocks p))
          || (mapGet p.blocks (blockKey op head qb)).isSome then s
      else tileErr (noteJob s die tile 4 slot layer) die tile [p.ctx] err fun s =>
        let ids := blockRows p qb
        let rows := operandRows s m p x
        let qs := ids.map fun i => (i, headPart s m p true qCol head i ((nth? rows i).getD []))
        let zero := List.replicate (mHeadDim s m) (0 : F32)
        let r0 := mapGetD p.attn (blockKey op head qb) ⟨0, ids.map fun _ => f32NegInf, ids.map fun _ => 0, ids.map fun _ => zero⟩
        let (r, done, skip, code) := attnGo s m p layer (kvHead s m head) qb qs (qBlocks p + 1) j.group.kbJob r0 (0, 0, 0)
        let s := bump (bump s ⟨.TEN_CNT2, die, tile⟩ 63 32 done) ⟨.TEN_CNT0, die, tile⟩ 31 0 skip
        let s := bump s ⟨.TEN_CNT1, die, tile⟩ 63 0 (done * 2 * (mHeadDim s m / 64))
        if code ≠ 0 then failCtx s p.ctx code
        else
          let p := { p with attn := mapSet p.attn (blockKey op head qb) r, layer := layer }
          if r.next < qBlocks p then setPass s key p
          else
            let out := (r.o.zip r.l).map fun e => (e.1.map fun v => f32Div v e.2).map asBf16
            finishPass (setPass s key { p with blocks := mapSet p.blocks (blockKey op head qb) out }) key
    | _, _ => s

/-! ### The backward of an operator (R302) -/

/-- Gradient rows of an operator's output. -/
def gradRows (p : Pass) (i : Nat) : List (List F32) := mapGetD p.grads i []

/-- Add gradient rows to what an operand has; the model input carries no gradient on. -/
def addGrad (p : Pass) (x : Operand) (rows : List (List F32)) : Pass :=
  match x with
  | .input => p
  | .op i =>
    let old := gradRows p i
    { p with grads := mapSet p.grads i (if old.isEmpty then rows else List.zipWith (List.zipWith f32Add) old rows) }

/-- Add to an accumulator of the step. -/
def accAdd (acc : Map (BitVec 32)) (i : Nat) (v : F32) : Map (BitVec 32) := mapSet acc i (f32Add (mapGetD acc i 0) v)

/-- One row of a LINEAR's backward for one adapter: accumulators and the row's share of dx (R302). -/
def adpBack (s : State) (m : Model) (op pin : Nat) (w : Weights) (x dy : List F32) (acc : Map (BitVec 32) × List F32) (a : Nat) (mine : Bool) :
    Map (BitVec 32) × List F32 :=
  let ver := adpVer s m a pin
  let rank := adpRank s m a
  let u := adpU s m a op pin x
  let al := adpAlpha s m a
  let bRow (r : Nat) : List F32 := (List.range w.n).map fun n => adpParam s ver (adpB s m a op w.k w.n r n)
  let du := (List.range rank).map fun r => f32Mul al (chunkDot dy (bRow r))
  let acc1 := if !mine then acc.1 else
    let g := (List.range w.k).foldl (fun g k => (List.range rank).foldl (fun g r =>
      accAdd g (adpA s m a op k r) (f32Mul ((nth? x k).getD 0) ((nth? du r).getD 0))) g) acc.1
    (List.range rank).foldl (fun g r => (List.range w.n).foldl (fun g n =>
      accAdd g (adpB s m a op w.k w.n r n) (f32Mul (f32Mul al ((nth? u r).getD 0)) ((nth? dy n).getD 0))) g) g
  let aRow (k : Nat) : List F32 := (List.range rank).map fun r => adpParam s ver (adpA s m a op k r)
  (acc1, acc.2.zipIdx.map fun e => f32Add e.1 (chunkDot du (aRow e.2)))

/-- The backward of one operator: the pass with its operands' gradients, and the step's accumulators. The attention's comes from its
ATTN_BACK jobs. -/
def backOp (s : State) (m : Model) (p : Pass) (op adapter : Nat) (acc : Map (BitVec 32)) : Pass × Map (BitVec 32) :=
  let dy := gradRows p op
  let rowsOf (x : Operand) : List (List F32) := operandRows s m p x
  match opAt m op with
  | some (.score x w) =>
    let dz := (dy.headD []).headD 0
    let rows := rowsOf x
    let dx := rows.zipIdx.map fun e => if e.2 + 1 = p.rows then (List.range w.k).map fun k => f32Mul dz (wVal s m { w with fmt := .bf16 } k 0)
                                        else e.1.map fun _ => (0 : F32)
    (addGrad p x dx, acc)
  | some (.linear x w ads) =>
    let go (st : Map (BitVec 32) × List (List F32)) (e : List F32 × List F32) : Map (BitVec 32) × List (List F32) :=
      let base := (List.range w.k).map fun k => chunkDot e.2 ((List.range w.n).map fun n => wVal s m w k n)
      let r := (ascending ads).foldl (fun st a => adpBack s m op p.pin w e.1 e.2 st a (decide (a = adapter))) (st.1, base)
      (r.1, st.2 ++ [r.2])
    let (acc, dx) := ((rowsOf x).zip dy).foldl go (acc, [])
    (addGrad p x dx, acc)
  | some (.norm x rms g b e) =>
    let _ := b
    (addGrad p x (List.zipWith (fun r d => normBack rms (g.map bf16Widen) e r d) (rowsOf x) dy), acc)
  | some (.act x k) => (addGrad p x (List.zipWith (List.zipWith (actBack k)) (rowsOf x) dy), acc)
  | some (.gate x y) =>
    let gx := List.zipWith (List.zipWith f32Mul) dy (rowsOf y)
    let gy := List.zipWith (List.zipWith f32Mul) dy (rowsOf x)
    (addGrad (addGrad p x gx) y gy, acc)
  | some (.add x y) => (addGrad (addGrad p x dy) y dy, acc)
  | _ => (p, acc)

/-- The next operator below that has a gradient to take, or none when the backward has ended. -/
def nextBack (m : Model) (p : Pass) : Nat → Option Nat
  | 0 => none
  | i + 1 => match opAt m i with
    | some o => if isTokenOp o || isItemOp o || (gradRows p i).isEmpty then nextBack m p i else some i
    | none => nextBack m p i

/-- The backward moves on; at its end the example's pages return and the next example begins (R297, R302). -/
def advanceBack (s : State) (key : Nat) (m : Model) (p : Pass) (op : Nat) : State :=
  match nextBack m p op with
  | some i => setPass s key { p with back := some i }
  | none =>
    let s := endPass (setPass s key p) key
    let i := p.example_.getD 0
    if i + 1 < dItems (getCtx s p.ctx).desc then startExample s key (i + 1) m p.model else s

/-- The code of a memory error in what an operator's backward reads, or 0 (R306). -/
def backCode (s : State) (m : Model) (p : Pass) (op : Nat) : Nat :=
  match (opAt m op).bind slicedWeights with
  | some (w, ads) => firstCode (weightCode s m w :: ads.map (adapterCode s m p.pin))
  | none => 0

/-- The backward job of an operator other than ATTENTION (R302). -/
def backJob (s : State) (key : Nat) (m : Model) (p : Pass) (op : Nat) : State :=
  match mapGet s.trains key with
  | none => s
  | some tr =>
    if backCode s m p op ≠ 0 then failCtx s p.ctx (backCode s m p op) else
    let (p, acc) := backOp s m p op tr.adapter tr.acc
    advanceBack { s with trains := mapSet s.trains key { tr with acc := acc } } key m p op

/-- LINEAR_SLICE (R318): forward rows of passes at the operator, or the operator's backward for a training pass that has reached it. -/
def doLinear (s : State) (die tile op : Nat) (slots : List Nat) (err : TileErr) (t : Stamp) : State :=
  match jobAt s die tile t with
  | none => s
  | some j =>
    match (opAt j.model op).bind slicedWeights with
    | none => s
    | some (w, ads) =>
      let all := jobPasses s die j slots
      let fwd := all.filter fun e => e.2.back.isNone && opReady s j.model e.2 op
        && !(((opAt j.model op).map isItemOp).getD false && decide (e.2.cands.length < e.2.ids.length))
      let back := all.filter fun e => e.2.back = some op
      let held := fwd ++ back
      match held with
      | [] => s
      | (k0, p0) :: _ =>
        tileErr (noteJob s die tile 0 (k0 % 96) p0.layer) die tile (held.map (·.2.ctx)) err fun s =>
          let s := linJob s die tile op j w ads t fwd
          back.foldl (fun s e => backJob s e.1 j.model e.2 op) s

/-- VECTOR (R286). -/
def doVector (s : State) (die tile op : Nat) (slots : List Nat) (err : TileErr) (t : Stamp) : State :=
  match jobAt s die tile t with
  | none => s
  | some j =>
    match opAt j.model op with
    | none => s
    | some o =>
      let all := jobPasses s die j slots
      let fwd := all.filter fun e => e.2.back.isNone && opReady s j.model e.2 op
      let back := all.filter fun e => e.2.back = some op
      let held := fwd ++ back
      match held with
      | [] => s
      | (k0, p0) :: _ =>
        if !isVectorOp o then s else
          tileErr (noteJob s die tile 1 (k0 % 96) p0.layer) die tile (held.map (·.2.ctx)) err fun s =>
            let s := overPasses (fun key room p s => vecPass s op j.model o key room p) j.group.rowsMax fwd s
            back.foldl (fun s e => backJob s e.1 j.model e.2 op) s

/-! ### ATTN_BACK (R302) -/

/-- Keys of the gradients a head's jobs gather: dk, dv and dq rows. -/
def dKey (op head part : Nat) : Nat := 2 ^ 40 + (op * 64 + head) * 4 + part

/-- A head's gradient rows of `width` components, zeros at first. -/
def headGrad (p : Pass) (op head part width : Nat) : List (List F32) :=
  let g := mapGetD p.grads (dKey op head part) []
  if g.isEmpty then List.replicate p.rows (List.replicate width 0) else g

/-- What one row of one block pair adds to dq of the row and to dk, dv of the block (R302). -/
def backRow (s : State) (m : Model) (p : Pass) (kb i : Nat) (kv : List (List F32 × List F32)) (q do_ : List F32) (mi li d : F32)
    (acc : List F32 × List (List F32) × List (List F32)) : List F32 × List (List F32) × List (List F32) :=
  let sc := attnScores s m p q i kb kv
  let ps := sc.map fun x => if x = f32NegInf then (0 : F32) else f32Div (f32Exp (f32Sub x mi)) li
  let dps := kv.map fun e => laneSum (List.zipWith f32Mul do_ e.2)
  let ds := List.zipWith (fun a b => f32Mul a (f32Sub b d)) ps dps
  let scale := attnScale s m
  let keyCol (c : Nat) : List F32 := kv.map fun e => (nth? e.1 c).getD 0
  (acc.1.zipIdx.map fun e => f32Add e.1 (f32Mul (laneSum (List.zipWith f32Mul ds (keyCol e.2))) scale),
   List.zipWith (fun row x => List.zipWith (fun a b => f32Add a (f32Mul3 x b scale)) row q) acc.2.1 ds,
   List.zipWith (fun row x => List.zipWith (fun a b => f32Add a (f32Mul x b)) row do_) acc.2.2 ps)

/-- Replace rows from `a`. -/
def putRows (rows : List (List F32)) (a : Nat) (xs : List (List F32)) : List (List F32) := rows.take a ++ xs ++ rows.drop (a + xs.length)

/-- One block pair of the backward: rows in ascending order. -/
def backPair (s : State) (m : Model) (p : Pass) (op head layer qb kb : Nat) (qs dos : List (List F32)) (outs : List (List F32)) (run : AttnRun) (pass_ : Pass) : Pass :=
  let dh := mHeadDim s m
  let kv := kvBlock s m p layer (kvHead s m head) kb
  let dq := headGrad pass_ op head 2 dh
  let dk := headGrad pass_ op head 0 dh
  let dv := headGrad pass_ op head 1 dh
  let blk (g : List (List F32)) : List (List F32) := (g.drop (64 * kb)).take kv.length
  let (dqs, dks, dvs) := (blockRows p qb).zipIdx.foldl (fun (acc : List (List F32) × List (List F32) × List (List F32)) e =>
      let q := (nth? qs e.2).getD []
      let do_ := (nth? dos e.2).getD []
      let d := laneSum (List.zipWith f32Mul do_ ((nth? outs e.2).getD []))
      let r := backRow s m p kb e.1 kv q do_ ((nth? run.m e.2).getD 0) ((nth? run.l e.2).getD 0) d ((nth? dq e.1).getD [], acc.2.1, acc.2.2)
      (acc.1 ++ [r.1], r.2.1, r.2.2)) ([], blk dk, blk dv)
  let grads := mapSet pass_.grads (dKey op head 2) (putRows dq (64 * qb) dqs)
  let grads := mapSet grads (dKey op head 0) (putRows dk (64 * kb) dks)
  { pass_ with grads := mapSet grads (dKey op head 1) (putRows dv (64 * kb) dvs) }

/-- Key of the place a backward query block has reached. -/
def backKey (op head qb : Nat) : Nat := 2 ^ 40 + blockKey op head qb

/-- Key blocks of the backward of one query block: up to `n` that are not fully masked. -/
def backGo (s : State) (m : Model) (p : Pass) (op head layer qb : Nat) (qs dos outs : List (List F32)) (run : AttnRun) :
    Nat → Nat → Nat → Pass × Nat × Nat → Nat × Pass × Nat × Nat
  | 0, _, kb, acc => (kb, acc)
  | fuel + 1, n, kb, (q, done, skip) =>
    if qBlocks p ≤ kb then (kb, q, done, skip)
    else if fullyMasked s m p qb kb then backGo s m p op head layer qb qs dos outs run fuel n (kb + 1) (q, done, skip + 1)
    else match n with
      | 0 => (kb, q, done, skip)
      | n + 1 => backGo s m p op head layer qb qs dos outs run fuel n (kb + 1) (backPair s m p op head layer qb kb qs dos outs run q, done + 1, skip)

/-- Gradient of an attention's operand from its heads: dq by head, dk and dv of a kv head summed over its heads ascending; rotated parts
are carried back through the rotary. -/
def attnGrad (s : State) (m : Model) (p : Pass) (op qCol kCol vCol width : Nat) : List (List F32) :=
  let dh := mHeadDim s m
  let heads := List.range (mHeads s m)
  let part (h k : Nat) (r : Nat) : List F32 := (nth? (headGrad p op h k dh) r).getD []
  let sumOf (g k r : Nat) : List F32 := (heads.filter fun h => kvHead s m h = g).foldl (fun acc h => List.zipWith f32Add acc (part h k r)) (List.replicate dh 0)
  let back (r : Nat) (x : List F32) : List F32 := if mRotary s m then Config.rotaryBack (positionOf p r) dh x else x
  (List.range p.rows).map fun r =>
    let zero := List.replicate width (0 : F32)
    let put (row : List F32) (col : Nat) (x : List F32) : List F32 := row.take col ++ List.zipWith f32Add ((row.drop col).take x.length) x ++ row.drop (col + x.length)
    let row := heads.foldl (fun row h => put row (qCol + h * dh) (back r (part h 2 r))) zero
    let row := (List.range (mKvHeads s m)).foldl (fun row g => put row (kCol + g * dh) (back r (sumOf g 0 r))) row
    (List.range (mKvHeads s m)).foldl (fun row g => put row (vCol + g * dh) (sumOf g 1 r)) row

/-- ATTN_BACK (R302): the backward of one query block of one head, query blocks of a head in ascending order. -/
def doAttnBack (s : State) (die tile op slot head qb : Nat) (err : TileErr) (t : Stamp) : State :=
  match jobAt s die tile t with
  | none => s
  | some j =>
    match jobPasses s die j [slot], opAt j.model op with
    | [(key, p)], some (.attention x layer qCol kCol vCol) =>
      let m := j.model
      let at_ (h q : Nat) : Nat := ((mapGet p.attn (backKey op h q)).map (·.next)).getD 0
      if p.back ≠ some op || !(decide (head < mHeads s m)) || !(decide (qb < qBlocks p)) || decide (qBlocks p ≤ at_ head qb)
          || !((List.range qb).all fun q => decide (qBlocks p ≤ at_ head q)) then s
      else tileErr (noteJob s die tile 5 slot layer) die tile [p.ctx] err fun s =>
        let dh := mHeadDim s m
        let ids := blockRows p qb
        let rows := operandRows s m p x
        let qs := ids.map fun i => headPart s m p true qCol head i ((nth? rows i).getD [])
        let dos := ids.map fun i => (((nth? (gradRows p op) i).getD []).drop (head * dh)).take dh
        let outs := mapGetD p.blocks (blockKey op head qb) []
        let run := mapGetD p.attn (blockKey op head qb) ⟨0, [], [], []⟩
        let (kb, q, done, skip) := backGo s m p op head layer qb qs dos outs run (qBlocks p + 1) j.group.kbJob (at_ head qb) (p, 0, 0)
        let s := bump (bump s ⟨.TEN_CNT2, die, tile⟩ 63 32 done) ⟨.TEN_CNT0, die, tile⟩ 31 0 skip
        let s := bump s ⟨.TEN_CNT1, die, tile⟩ 63 0 (done * 5 * (mHeadDim s m / 64))
        let code := (List.range kb).map (kvCode s m p layer (kvHead s m head)) |>.find? (· ≠ 0) |>.getD 0
        if code ≠ 0 then failCtx s p.ctx code else
        let q := { q with attn := mapSet q.attn (backKey op head qb) ⟨kb, [], [], []⟩, layer := layer }
        let all := (List.range (mHeads s m)).all fun h => (List.range (qBlocks q)).all fun b =>
          decide (qBlocks q ≤ ((mapGet q.attn (backKey op h b)).map (·.next)).getD 0)
        if all then
          let width := ((rows.headD []).length)
          advanceBack s key m (addGrad q x (attnGrad s m q op qCol kCol vCol width)) op
        else setPass s key q
    | _, _ => s

/-! ### Versions in the weight region (R300, R319) -/

/-- Blocks of the weight region that version records and their arrays take: records in the chains of the adapters and of the scale
points, and staged ones. -/
def liveBlocks (s : State) (m : Model) : List (Nat × Nat) :=
  let adps := (List.range (mAdapters s m)).flatMap fun a =>
    let st := ((mapGet m.adapters a).bind (·.staged)).elim [] fun x => [x.rec_]
    (st ++ chainOf s chainFuel (adpNewest s m a)).map fun r => (r, 64 + cdiv (2 * adpSize s m a) 64 * 64)
  let scl := (chainOf s chainFuel (numW s m 1).toNat).map fun r => (r, 64 + cdiv (numPoints s m) 64 * 64)
  let run := (s.trains.filter fun e => e.2.newRec ≠ 0).map fun e => (e.2.newRec, 64 + cdiv (2 * adpSize s m e.2.adapter) 64 * 64)
  adps ++ scl ++ run

/-- The lowest place past the image's weights where `n` bytes fit beside the live blocks (DESIGN CHOICE). -/
def placeVersion (s : State) (m : Model) (n : Nat) : Option Nat :=
  let live := liveBlocks s m
  let hi := ((regionOf s m.polder (mWeightRegion s m)).map fun g => g.addr 0 + g.bytes).getD 0
  let free (a : Nat) : Bool := decide (m.top ≤ a) && decide (a + n ≤ hi) && live.all fun b => decide (a + n ≤ b.1) || decide (b.1 + b.2 ≤ a)
  let cands := ascending (m.top :: live.map fun b => b.1 + b.2)
  cands.find? free

/-! ### OPTIM (R303 to R305) -/

/-- Address of word `i` of an adapter's state region (R303). -/
def optAddr (s : State) (m : Model) (a i : Nat) : Nat :=
  ((regionOf s m.polder (fld (adpW s m a 0) 47 36)).map fun g => g.addr (4 * i)).getD 0
def optF (s : State) (m : Model) (a i : Nat) : F32 := BitVec.ofNat 32 (leNat (rdBytes s (optAddr s m a i) 4))
def putF (s : State) (a : Nat) (v : F32) : State := wrBytes s a (leBytes 4 v.toNat)

/-- t, b1t and b2t after this step: 0, 1 and 1 before an adapter's first (R303). -/
def stepTimes (s : State) (m : Model) (a : Nat) : Nat × F32 × F32 :=
  let n := 3 * adpSize s m a
  let t := (optF s m a n).toNat
  let b1 := if t = 0 then f32One else optF s m a (n + 1)
  let b2 := if t = 0 then f32One else optF s m a (n + 2)
  (t + 1, f32Mul b1 (adpF s m a 2 true), f32Mul b2 (adpF s m a 2 false))

/-- The update of one element (R303): θ, m, v. -/
def optimElem (s : State) (m : Model) (a : Nat) (b1t b2t g th mo vo : F32) : F32 × F32 × F32 :=
  let b1 := adpF s m a 2 true
  let b2 := adpF s m a 2 false
  let m' := f32Add (f32Mul b1 mo) (f32Mul (f32Sub f32One b1) g)
  let v' := f32Add (f32Mul b2 vo) (f32Mul (f32Sub f32One b2) (f32Mul g g))
  let mh := f32Div m' (f32Sub f32One b1t)
  let vh := f32Div v' (f32Sub f32One b2t)
  (f32Sub th (f32Mul (adpF s m a 1 false) (f32Div mh (f32Add (f32Sqrt vh) (adpF s m a 3 true)))), m', v')

/-- Parameters that tile `gi` of `gt` updates. -/
def optSlice (n gt gi : Nat) : List Nat := (List.range ((gi + 1) * n / gt - gi * n / gt)).map (gi * n / gt + ·)

/-- Update the elements of a slice: state region and new version. -/
def optimSlice (s : State) (m : Model) (tr : Train) (ixs : List Nat) : State :=
  let n := adpSize s m tr.adapter
  let (_, b1t, b2t) := stepTimes s m tr.adapter
  ixs.foldl (fun s i =>
    let at_ (k : Nat) : Nat := optAddr s m tr.adapter (k * n + i)
    let (th, m', v') := optimElem s m tr.adapter b1t b2t (mapGetD tr.acc i 0) (optF s m tr.adapter i) (optF s m tr.adapter (n + i)) (optF s m tr.adapter (2 * n + i))
    let s := putF (putF (putF s (at_ 0) th) (at_ 1) m') (at_ 2) v'
    wrBytes s (tr.newRec + 64 + 2 * i) (leBytes 2 (toBf16 th).toNat)) s

/-- grad_norm2 (R305). -/
def gradNorm (s : State) (m : Model) (tr : Train) : F32 :=
  (List.range (adpSize s m tr.adapter)).foldl (fun acc i => let g := mapGetD tr.acc i 0; f32Add acc (f32Mul g g)) 0

/-- The record of R305. -/
def stepRecord (s : State) (m : Model) (tr : Train) (publish t : Nat) : List Byte :=
  wordBytes [BitVec.ofNat 64 (3 * 2 ^ 56 + tr.ran * 2 ^ 43), BitVec.ofNat 64 (tr.loss.toNat * 2 ^ 32 + (gradNorm s m tr).toNat),
    BitVec.ofNat 64 tr.gradEp, BitVec.ofNat 64 publish, BitVec.ofNat 64 (t * 2 ^ 32), 0, 0, 0]

/-- Whether an earlier step of the adapter is not yet over (R300). -/
def earlierStep (s : State) (mn a seq : Nat) : Bool :=
  (((getModel s mn).bind fun m => mapGet m.adapters a).elim false fun ad => ad.staged.isSome)
    || s.ctxs.any fun e => e.2.st = .live && dKind e.2.desc = kAdapterStep && fld (dB e.2.desc 0) 63 56 = mn && fld (dB e.2.desc 0) 55 48 = a
      && decide (e.2.work.seq.getD 0 < seq)
    || s.trains.any fun e => e.2.model = mn && e.2.adapter = a && !e.2.optim.isEmpty && decide (e.2.seq < seq)

def modAdapter (s : State) (mn a : Nat) (f : Adapter → Adapter) : State :=
  { s with models := mapMod s.models mn fun m =>
      let ad := (mapGet m.adapters a).getD { seqNext := 0, staged := none, by_ := none }
      { m with adapters := mapSet m.adapters a (f ad) } }

/-- Count a published step, or one not finite, of an adapter (R308, R310). -/
def countStep (s : State) (mn a : Nat) (nonfinite : Bool) : State :=
  let (n, f) := mapGetD s.adpRun (16 * mn + a) (0, 0)
  { s with adpRun := mapSet s.adpRun (16 * mn + a) (if nonfinite then (n, satAdd 32 f 1) else (satAdd 32 n 1, f)) }

/-- A step whose loss or gradient is not finite (R304): its record is written and its request ends. -/
def stepNonfinite (s : State) (key mn : Nat) (m : Model) (tr : Train) : State :=
  let rec_ := stepRecord s m tr 0 (stepTimes s m tr.adapter).1.pred
  withResult s tr.ctx 0 64 rec_ fun s n =>
    let s := countStep s mn tr.adapter true
    let s := modWork s tr.ctx fun w => { w with written := n }
    failCtx { s with trains := mapDel s.trains key } tr.ctx Code.ADAPTER_NONFINITE

/-- The host copies in the way of the state region's arrays (R371), for the request. -/
def optAccess (s : State) (m : Model) (tr : Train) (ixs : List Nat) : Access2 × State :=
  let n := adpSize s m tr.adapter
  let as_ := ixs.flatMap (fun i => [optAddr s m tr.adapter i, optAddr s m tr.adapter (n + i), optAddr s m tr.adapter (2 * n + i)])
    ++ (List.range 3).map fun i => optAddr s m tr.adapter (3 * n + i)
  as_.foldl (fun (acc : Access2 × State) a => match acc.1 with
    | .ok => match hostAccess acc.2 (some tr.ctx) a 4 true with
      | (.ok, s) => (if rangeCode s a 4 = 0 then .ok else .code (rangeCode s a 4), s)
      | r => r
    | _ => acc) (.ok, s)

/-- OPTIM (R303): the tile's slice of the adapter. The last one stores t, b1t and b2t and stages the version at its end (R50, R300). A tile error
ends the step with its request (R306). -/
def doOptim (s : State) (die tile slot adapter : Nat) (err : TileErr) (t : Stamp) : State :=
  let key := passKey die slot
  match jobAt s die tile t, mapGet s.trains key with
  | some j, some tr =>
    let m := j.model
    let gt := groupTiles m die
    let examples := dItems (getCtx s tr.ctx).desc
    if tr.adapter ≠ adapter || (getPass s key).isSome || (tr.optim.isEmpty && decide (tr.ran < examples)) || tr.optim.contains j.gi
        || earlierStep s j.num adapter tr.seq then s
    else if err.kind ≠ 0 then
      let s := tileErr (noteJob s die tile 6 slot 0) die tile [tr.ctx] err id
      { s with trains := mapDel s.trains key }
    else tileErr (noteJob s die tile 6 slot 0) die tile [tr.ctx] err fun s =>
      let n := adpSize s m adapter
      let bad := !f32Finite tr.loss || (List.range n).any fun i => !f32Finite (mapGetD tr.acc i 0)
      if bad then stepNonfinite s key j.num m tr
      else
        let ixs := optSlice n gt j.gi
        match optAccess s m tr ixs with
        | (.wait, s) => s
        | (.code c, s) => failCtx { s with trains := mapDel s.trains key } tr.ctx c
        | (.ok, s) =>
          let tr? : Option Train := if tr.newRec ≠ 0 then some tr else (placeVersion s m (64 + cdiv (2 * n) 64 * 64)).map fun a => { tr with newRec := a }
          match tr? with
          | none => s
          | some tr =>
            let s := optimSlice s m tr ixs
            let tr := { tr with optim := tr.optim ++ [j.gi] }
            if tr.optim.length < gt then { s with trains := mapSet s.trains key tr }
            else
              let (t', b1t, b2t) := stepTimes s m adapter
              let s := wrWords s tr.newRec [0, BitVec.ofNat 64 (adpNewest s m adapter), BitVec.ofNat 64 (tr.newRec + 64), 0, 0, 0, 0, 0]
              let a3 := 3 * n
              let s := wrBytes s (optAddr s m adapter a3) (leBytes 4 t')
              let s := putF (putF s (optAddr s m adapter (a3 + 1)) b1t) (optAddr s m adapter (a3 + 2)) b2t
              let out := stepRecord s m tr 0 t'
              let s := modAdapter s j.num adapter fun a => { a with staged := some ⟨tr.newRec, boundaryFor s t⟩, by_ := some (tr.ctx, tr.gen) }
              let s := { s with trains := mapDel s.trains key }
              if isLive s tr.ctx && (getCtx s tr.ctx).gen = tr.gen then modWork s tr.ctx fun w => { w with output := out, grain := 64, applied := true } else s
  | _, _ => s

/-! ### Action 2 for models -/

/-- Publish one adapter's staged version at boundary `e` (R300, R305). -/
def publishAdapter (e mn : Nat) (s : State) (a : Nat) : State :=
  match getModel s mn with
  | none => s
  | some m =>
    match (mapGet m.adapters a).bind (·.staged), (mapGet m.adapters a) with
    | some st, some ad =>
      if e < st.commit then s else
        let old := adpNewest s m a
        let s := wrW s st.rec_ (BitVec.ofNat 64 e)
        let s := wrW s (adpRec s m a + 32) (BitVec.ofNat 64 st.rec_)
        let s := countStep (modAdapter s mn a fun x => { x with staged := none, by_ := none }) mn a false
        let s := if old = 0 then s else { s with models := mapMod s.models mn fun m => { m with retained := m.retained ++ [⟨e, st.rec_, []⟩] } }
        match ad.by_ with
        | some (c, g) =>
          if isLive s c && (getCtx s c).gen = g then
            modWork s c fun w => { w with output := w.output.take 24 ++ leBytes 8 e ++ w.output.drop 32, done := true }
          else s
        | none => s
    | _, _ => s

/-- The exponent that a running maximum sets (R320): the least x with A × 2^margin ≤ fmax × 2^x, clamped. -/
def scaleFor (fm a : F32) (margin : Nat) : Int :=
  let lhs := f32Exact a * 2 ^ (margin + 63)
  match findFrom (fun i => decide (lhs ≤ f32Exact fm * 2 ^ i)) 127 0 with
  | some i => (i : Int) - 63
  | none => 63

/-- Format of each scale point, in operator order (R319). -/
def pointFmts (m : Model) : List WFmt :=
  m.ops.filterMap fun o => match o with
    | .linear _ w _ => if w.fmt = .bf16 then none else some w.fmt
    | .itemProj w => if w.fmt = .bf16 then none else some w.fmt
    | _ => none

/-- Publish a model's scale version at boundary `e`, when any exponent changes (R320). -/
def publishScale (e : Nat) (s : State) (mn : Nat) : State :=
  match getModel s mn with
  | none => s
  | some m =>
    if !numDelayed s m then s else
      let hist := (m.obs :: m.hist).take (numWindow s m)
      let n := numPoints s m
      let amax (j : Nat) : F32 := hist.foldl (fun a h => let v := mapGetD h j 0; if f32Lt a v then v else a) 0
      let old := (numW s m 1).toNat
      let was (j : Nat) : Int := if old = 0 then 0 else toSigned 8 (rdB s (rdN s (old + 16) + j)).toNat
      let now_ (j : Nat) : Int := let a := amax j
        if f32Lt 0 a then scaleFor (fmax ((nth? (pointFmts m) j).getD .e4m3)) a (numMargin s m) else was j
      let all := (List.range n).foldl (fun (acc : Map (BitVec 32)) j => mapPut 0 acc j (amax j)) []
      let s := { s with models := mapMod s.models mn fun m => { m with obs := [], obsDie := [], hist := hist, amax := all } }
      if (List.range n).all fun j => now_ j = was j then s
      else match placeVersion s m (64 + cdiv n 64 * 64) with
        | none => s
        | some r =>
          let s := wrWords s r [BitVec.ofNat 64 e, BitVec.ofNat 64 old, BitVec.ofNat 64 (r + 64), 0, 0, 0, 0, 0]
          let s := wrBytes s (r + 64) ((List.range n).map fun j => BitVec.ofInt 8 (now_ j))
          let s := wrW s (mWeights s m + 8) (BitVec.ofNat 64 r)
          { bumpScl s (sclVerKey mn) 1 with models := mapMod s.models mn fun m =>
              { m with retained := if old = 0 then m.retained else m.retained ++ [⟨e, r, []⟩] } }

/-- Action 2 for every model. -/
def publishModels (s : State) (e : Nat) : State :=
  s.models.foldl (fun s x =>
    let s := (List.range 16).foldl (publishAdapter e x.1) s
    publishScale e s x.1) s

end Sys2Proof.Machine
end

