-- ==== Sys2Proof/Machine/MemTiers.lean ====
section
/-! DEFINITION. Memory tiers: mover lists (R354 to R359), publication (R376 to R379), host windows and their losses (R371 to R375) and
the host meter (R380, R381). -/

namespace Sys2Proof.Machine

/-! ### Lists (R355) -/

/-- The number a unit waits for a host under, beside the contexts: the mover of a crest die, then the flash lists of a toe die. -/
def waiterOf (crest : Bool) (d : Nat) : Nat := if crest then 8192 + d else 8196 + d

/-- Whether a polder's image grants a host a register block (R499), by bits [31:16] of its address. -/
def blockGranted (s : State) (host p unit : Nat) : Bool := (getPolder s p).st ≠ .absent && (getPolder s p).grants.contains (host, unit)

/-- Entries of the list at an address. -/
def listEntries (s : State) (a : Nat) : Nat := fld (rdW s a) 63 51

/-- A list the part may take: granted, in a region of its polder, aligned, fewer than 64 queued (R354, R412). -/
def listOk (s : State) (host : Option Nat) (p r off unit queued : Nat) : Option Nat :=
  let granted := host.elim true fun h => blockGranted s h p unit
  match regionAddr s p r off 64 with
  | some a => if granted && off % 64 = 0 && decide (queued < 64) && (regionAddr s p r off (64 + 32 * listEntries s a)).isSome then some a else none
  | none => none

/-- Write a list's header words 2 and 1, word 1 last (R355). -/
def listHeader (s : State) (a state tick done dispo : Nat) : State :=
  let s := wrW s (a + 16) (BitVec.ofNat 64 (done * 2 ^ 51 + dispo * 2 ^ 32))
  wrW s (a + 8) (BitVec.ofNat 64 (state * 2 ^ 62 + tick % 2 ^ 48))

/-- Address of an entry. -/
def entryAt (a i : Nat) : Nat := a + 64 + 32 * i
/-- Write an entry's status (R356, R412). -/
def putStatus (s : State) (a i code : Nat) : State := wrBytes s (entryAt a i) (leBytes 2 code)

/-- Entries with status 0 below `n`. -/
def doneEntries (s : State) (a n : Nat) : Nat := ((List.range n).filter fun i => fld (rdW s (entryAt a i)) 15 0 = 0).length

/-! ### Accesses that carry poison -/

/-- The code that a window's state gives an access to its lines, or 0 (R373, R374). -/
def windowCode (s : State) (lines : List Nat) : Nat :=
  match windowOf s (lines.headD 0 * 64) with
  | some h =>
    if (getWin s h).st = .lost then Code.HOSTWIN_LOST
    else if (getWin s h).st = .recovering ∧ lines.any s.mirror.contains then Code.MEM_POISON else 0
  | none => 0

/-- The host copies and window states in the way of a transfer over lines, leaving the lines' own errors to it (R359, R371, R374). -/
def linesAccess (s : State) (who : Nat) (lines : List Nat) (write : Bool) : Access2 × State :=
  let held := lines.filter (conflict s write)
  if windowCode s lines ≠ 0 then (.code (windowCode s lines), s)
  else if !held.isEmpty then (.wait, held.foldl (fun s l => recallLine s (some who) write l) s)
  else if lines.any (fun l => memLost s (l * 64)) then (.code Code.MEM_STACK_LOST, s)
  else (.ok, s)

def tileAccess (s : State) (who a n : Nat) (write : Bool) : Access2 × State := linesAccess s who (linesOf a n) write

/-- Whether a line cannot be read clean. -/
def lineBad (s : State) (line : Nat) : Bool := match lineOk s line with
  | .poisoned => true
  | .uncorrectable => true
  | _ => false

/-- Write one destination line from the source bytes at `src 0` to `src 63`; it is poisoned when a source line is (R262, R359). -/
def carryLine (src : Nat → Nat) (s : State) (dst : Nat) : State :=
  let ix := List.range 64
  let bad := ix.any fun i => lineBad s (lineOf (src i))
  let s' := wrBytes s dst (ix.map fun i => rdB s (src i))
  if bad then poisonLine s' (lineOf dst) else s'

/-- Copy a 64 KiB tile, its bytes found by `src`. -/
def carryTile (s : State) (src : Nat → Nat) (dst : Nat) : State :=
  let s := (ascending ((List.range 1024).flatMap fun l => [lineOf (src (64 * l)), lineOf (src (64 * l + 63))])).foldl touchWindow s
  (List.range 1024).foldl (fun s l => carryLine (fun i => src (64 * l + i)) s (dst + 64 * l)) s

/-! ### Mover lists (R354 to R359) -/

def movers (s : State) (die : Nat) : List MovList := mapGetD s.movers die []
def setMovers (s : State) (die : Nat) (ls : List MovList) : State := { s with movers := mapPut [] s.movers die ls }
def setFront (s : State) (die : Nat) (l : MovList) : State := setMovers s die (l :: (movers s die).drop 1)

/-- The mover's register block as a unit field. -/
def movUnit (die : Nat) : Nat := unitNo die 5 0

/-- MOVER_LIST_DOORBELL (R354). -/
def doMovDoorbell (s : State) (die : Nat) (host : Option Nat) : State :=
  let s := unIdle s
  let a := getReg s ⟨.MEM_MOV_ADDR, die, 0⟩
  match listOk s host (fld a 63 52) (fld a 51 40) (fld a 39 0) (movUnit die) (movers s die).length with
  | none => setBit s ⟨.MEM_MOV_CTL, die, 0⟩ 7
  | some at_ => setMovers s die (movers s die ++ [⟨fld a 63 52, at_, host, 0, 0, false, false⟩])

/-- End the running list with a code (R358). -/
def endMovList (s : State) (die code : Nat) : State :=
  match movers s die with
  | [] => s
  | l :: rest =>
    let s := putStatus s l.addr l.entry code
    let s := listHeader s l.addr 3 s.tick.tick (doneEntries s l.addr l.entry) code
    bump (setMovers s die rest) ⟨.MEM_MOV_CNT1, die, 0⟩ 31 0 1

/-- The entry reached has ended with a status; after the last one the list is DONE (R355). -/
def endMovEntry (s : State) (die code : Nat) : State :=
  match movers s die with
  | [] => s
  | l :: rest =>
    let s := putStatus s l.addr l.entry code
    if listEntries s l.addr ≤ l.entry + 1 then
      let s := listHeader s l.addr 2 s.tick.tick (doneEntries s l.addr (l.entry + 1)) 0
      bump (setMovers s die rest) ⟨.MEM_MOV_CNT0, die, 0⟩ 31 0 1
    else setMovers s die ({ l with entry := l.entry + 1, tile := 0, begun := false, passed := false } :: rest)

/-- An entry's fields (R356). -/
structure MovEntry where
  op     : Nat
  format : Nat
  src    : Nat
  dst    : Nat
  tiles  : Nat
  srcOff : Nat
  dstOff : Nat
  arg    : Nat

def movEntry (s : State) (l : MovList) : MovEntry :=
  let a := entryAt l.addr l.entry
  let w := rdW s a
  ⟨fld w 63 60, fld w 59 56, fld w 55 44, fld w 43 32, fld w 31 16, fld (rdW s (a + 8)) 47 0, fld (rdW s (a + 16)) 47 0, rdN s (a + 24)⟩

/-- Column width of a format (R357). -/
def colWidth (f : Nat) : Nat := if f = 1 then 32 else if f = 2 then 64 else 128

/-- Offset in the source of byte `i` of tile `t` (R357). -/
def srcByte (e : MovEntry) (t i : Nat) : Nat :=
  if e.format = 0 then e.srcOff + 65536 * t + i
  else
    let w := colWidth e.format
    let h := 65536 / w
    let c := e.arg / w
    e.srcOff + (t / c * h + i / w) * e.arg + t % c * w + i % w

/-- Bytes from src_offset to the last source byte of an entry. -/
def srcExtent (e : MovEntry) : Nat :=
  if e.format = 0 then 65536 * e.tiles
  else
    let w := colWidth e.format
    let h := 65536 / w
    let c := e.arg / w
    if e.tiles = 0 ∨ c = 0 then 0 else ((e.tiles - 1) / c * h + h - 1) * e.arg + (min e.tiles c - 1) * w + w

/-- Whether a COPY destination is not allowed (R358). -/
def dstBarred (s : State) (p : Nat) (e : MovEntry) : Bool :=
  match regionOf s p e.dst with
  | none => true
  | some g =>
    let lo := g.addr e.dstOff
    let n := 65536 * e.tiles
    let kv := s.models.any fun m => m.2.polder = p && mKvRegion s m.2 = e.dst
    let delta := s.colls.any (fun c => c.2.polder = p && mDeltaRegion s c.2 = e.dst) || s.tables.any fun t => t.2.polder = p && tDelta s t.2 = e.dst
    let pages := (pagesInUse s p).any fun a => decide (lo ≤ a) && decide (a < lo + n)
    let blocks := (s.models.filter (·.2.polder = p)).any fun m => (liveBlocks s m.2).any fun b => decide (b.1 < lo + n) && decide (lo < b.1 + b.2)
    g.tier = 3 || kv || delta || pages || blocks

/-- The checks before a COPY entry's first tile (R358). -/
def copyOk (s : State) (p : Nat) (e : MovEntry) : Bool :=
  let w := colWidth e.format
  decide (e.format ≤ 3) && e.srcOff % (if e.format = 0 then 65536 else 64) = 0 && e.dstOff % 65536 = 0
    && (e.format = 0 || (e.arg ≠ 0 && e.arg % w = 0))
    && (regionAddr s p e.src e.srcOff (srcExtent e)).isSome && (regionAddr s p e.dst e.dstOff (65536 * e.tiles)).isSome && !dstBarred s p e

/-- Begin the entry reached: the list is RUNNING. -/
def beginEntry (s : State) (die : Nat) (l : MovList) (tiles : Nat) : State :=
  let s := if l.entry = 0 then listHeader s l.addr 1 0 0 0 else s
  let s := setFront s die { l with begun := true, tile := 0 }
  if tiles = 0 then endMovEntry s die 0 else s

/-- Access of the mover to its list's memory. -/
def listAccess (s : State) (who a : Nat) : Access2 × State := hostAccess s (some who) a (64 + 32 * listEntries s a) true

/-- MOVER_COPY (R357, R358): the front list's next entry, a COPY or an entry with a reserved op. -/
def doMoverCopy (s : State) (die : Nat) : State :=
  match movers s die with
  | [] => s
  | l :: _ =>
    if l.begun then s else
      match listAccess s (waiterOf true die) l.addr with
      | (.wait, s) => s
      | (.code c, s) => endMovList s die c
      | (.ok, s) =>
        let e := movEntry s l
        if listEntries s l.addr = 0 then
          bump (setMovers (listHeader s l.addr 2 s.tick.tick 0 0) die ((movers s die).drop 1)) ⟨.MEM_MOV_CNT0, die, 0⟩ 31 0 1
        else if e.op = 1 then s
        else if e.op = 0 ∧ copyOk s l.polder e then beginEntry s die l e.tiles
        else endMovList s die Code.MOVER_INVALID

/-! ### Publication (R376 to R379) -/

/-- A buffer of a SHARED region: 0 A, 1 B (R353). -/
def bufAddr (g : Region) (b : Nat) : Nat := g.base + 65536 + b * ((g.bytes - 65536) / 2)
def activeBuf (s : State) (g : Region) : Nat := fld (rdW s (g.base + 8)) 63 63

/-- The pending version of a region, if one waits for its flip. -/
def pendingPub (s : State) (p r : Nat) : Option PubPend := s.pubs.find? fun x => x.polder = p && x.region = r

/-- A publication is refused: the entry ends with a code (R378). -/
def refusePub (s : State) (die code h : Nat) (others : List Nat) (v p r : Nat) : State :=
  let s := (h :: others.filter (· ≠ h)).foldl (fun s x => publishNotice s x code v p r) s
  endMovEntry (bump s ⟨.MEM_HW_CNT2, h, 0⟩ 31 0 1) die code

/-- PUBLISH (R378): the front list's next entry, a PUBLISH. -/
def doPublish (s : State) (die : Nat) : State :=
  match movers s die with
  | [] => s
  | l :: _ =>
    let who := waiterOf true die
    if l.begun then s else
      match listAccess s who l.addr with
      | (.wait, s) => s
      | (.code c, s) => endMovList s die c
      | (.ok, s) =>
        let e := movEntry s l
        if listEntries s l.addr = 0 ∨ e.op ≠ 1 then s else
        match l.host, regionOf s l.polder e.src, regionOf s l.polder e.dst with
        | some h, some gs, some gd =>
          let n := 65536 * e.tiles
          let ok := e.format = 0 && e.srcOff % 65536 = 0 && e.dstOff % 65536 = 0 && gs.tier = 2 && gs.host = h && gd.tier = 3
            && bits gd.writers h h = 1 && e.arg ≠ 0 && decide (e.srcOff + n ≤ gs.bytes) && decide (e.dstOff + n ≤ (gd.bytes - 65536) / 2)
          if !ok then endMovList s die Code.MOVER_INVALID else
          let pend := pendingPub s l.polder e.dst
          let c := pend.elim (rdN s gd.base) (·.version)
          let act := activeBuf s gd
          if c < e.arg then
            match pend with
            | some _ => s
            | none =>
              match tileAccess s who (bufAddr gd (1 - act)) ((gd.bytes - 65536) / 2) true with
              | (.wait, s) => s
              | (.code x, s) => endMovList s die x
              | (.ok, s) =>
                let s := { s with pubs := s.pubs ++ [⟨l.polder, e.dst, e.arg, h, n, if e.tiles = 0 then some (boundaryFor s s.now) else none⟩] }
                beginEntry s die l e.tiles
          else if e.arg < c then refusePub s die Code.PUBLISH_STALE h [] e.arg l.polder e.dst
          else
            let buf := bufAddr gd (if pend.isSome then 1 - act else act)
            let len := pend.elim (rdN s (gd.base + 24)) (·.length)
            let by_ := pend.elim (fld (rdW s (gd.base + 16)) 1 0) (·.host)
            if pend.elim false fun x => x.commit.isNone then s else
            match hostAccess s (some who) (gs.addr e.srcOff) n false with
            | (.wait, s) => s
            | (.code x, s) => endMovList s die x
            | (.ok, s) =>
              if len = n ∧ rdBytes s (gs.addr e.srcOff) n = rdBytes s (buf + e.dstOff) n then endMovEntry s die 0
              else refusePub s die Code.PUBLISH_CONFLICT h [by_] e.arg l.polder e.dst
        | _, _, _ => endMovList s die Code.MOVER_INVALID

/-- PUBLICATION_FLIP (R379): at or after the commit boundary the header takes the pending version, once no host holds the header. -/
def doFlip (s : State) (p r : Nat) : State :=
  match pendingPub s p r, regionOf s p r with
  | some x, some g =>
    if x.commit.elim true fun c => decide (s.tick.epoch < c) then s else
      match tileAccess s (waiterOf true g.die) g.base 64 true with
      | (.ok, s) =>
        let act := 1 - activeBuf s g
        let s := wrWords s g.base [BitVec.ofNat 64 x.version, BitVec.ofNat 64 (act * 2 ^ 63 + s.tick.epoch), BitVec.ofNat 64 x.host,
          BitVec.ofNat 64 x.length, 0, 0, 0, 0]
        publishNotice { s with pubs := s.pubs.erase x } x.host 0 x.version p r
      | (_, s) => s
  | _, _ => s

/-- Every flip due at a boundary. -/
def flipAll (s : State) : State := s.pubs.foldl (fun s x => doFlip s x.polder x.region) s

/-! ### Tiles (R359) -/

/-- The access bound of an address from a crest die, in ns (R24, R351). -/
def accessBound (die a : Nat) : Nat := (match place a with
  | .hbm st _ => if st / 5 = die then Reach.stackOwn else .stackOther
  | .pool d _ => if d = die then Reach.poolOwn else .sramOther
  | .tile d _ _ => if d = die then Reach.poolOwn else .sramOther
  | _ => Reach.stackOther).ns

/-- Retire the pool tile that holds an uncorrectable source (R363). -/
def retirePoolTile (s : State) (p r off : Nat) (g : Region) : State :=
  if g.tier ≠ 1 then s
  else if g.pinned then { s with poolBad := s.poolBad ++ [(g.die, (g.base + off) / 65536)] }
  else match s.pool.find? fun x => x.polder = p && x.region = r && x.tile = off / 65536 with
    | some x => { s with pool := s.pool.erase x, poolBad := s.poolBad ++ [(g.die, x.index)] }
    | none => s

/-- MOVER_TILE (R359): the next tile of the entry that has begun; one with an end in a host window passes the MOVER weir first. -/
def doMoverTile (s : State) (die : Nat) (poolErr : Bool) (t : Stamp) : State :=
  match movers s die with
  | [] => s
  | l :: _ =>
    let e := movEntry s l
    match regionOf s l.polder e.src, regionOf s l.polder e.dst with
    | some gs, some gd =>
      let p := l.polder
      let who := waiterOf true die
      let src (i : Nat) : Nat := gs.addr (srcByte e l.tile i)
      let dst := if e.op = 1 then bufAddr gd (1 - activeBuf s gd) + e.dstOff + 65536 * l.tile else gd.addr (e.dstOff + 65536 * l.tile)
      let dur := accessBound die (src 0) + accessBound die dst + 256
      if !l.begun || !fits s t dur then s
      else if poolErr && gs.tier = 1 then endMovList (retirePoolTile s p e.src (srcByte e l.tile 0) gs) die Code.MEM_UNCORRECTABLE
      else
        let (ok, s) := if (gs.tier = 2 || gd.tier = 2) && !l.passed then weirAsk s p wMover die 65536 dur (.flow (2 ^ 60 + die)) else (true, s)
        let l := { l with passed := ok && (gs.tier = 2 || gd.tier = 2) }
        if !ok then s else
        let s := if l.passed then setFront s die l else s
        match linesAccess s who (ascending ((List.range 2048).map fun i => lineOf (src (32 * i)))) false with
        | (.wait, s) => bump s ⟨.MEM_MOV_CNT1, die, 0⟩ 63 32 1
        | (.code c, s) => endMovList s die c
        | (.ok, s) =>
          match tileAccess s who dst 65536 true with
          | (.wait, s) => bump s ⟨.MEM_MOV_CNT1, die, 0⟩ 63 32 1
          | (.code c, s) => endMovList s die c
          | (.ok, s) =>
            let s := carryTile s src dst
            let s := poolUse (poolUse s p e.src (srcByte e l.tile 0) 65536 false) p e.dst (e.dstOff + 65536 * l.tile) 65536 true
            let s := bump s ⟨.MEM_MOV_CNT0, die, 0⟩ 63 32 1
            if l.tile + 1 < e.tiles then setFront s die { l with tile := l.tile + 1, passed := false }
            else
              let s := if e.op = 1 then { s with pubs := s.pubs.map fun x =>
                  if x.polder = p ∧ x.region = e.dst ∧ x.version = e.arg then { x with commit := some (boundaryFor s t) } else x } else s
              endMovEntry s die 0
    | _, _ => if l.begun then endMovList s die Code.MOVER_INVALID else s

/-! ### Recalls (R371) and the loss of a host (R374) -/

/-- Runs of consecutive lines: first line and length. -/
def lineRuns : List Nat → List (Nat × Nat)
  | [] => []
  | l :: ls => match lineRuns ls with
    | (a, n) :: rs => if a = l + 1 then (l, n + 1) :: rs else (l, 1) :: (a, n) :: rs
    | [] => [(l, 1)]

/-- Whether a line lies in a host's window. -/
def inWindow (s : State) (h line : Nat) : Bool := windowOf s (line * 64) = some h

/-- The lines of a RECOVERING window whose mirror bit is 1 are written poisoned and HOME, with one notice per run (R374). -/
def recoverWindow (s : State) (h : Nat) : State :=
  let lines := s.mirror.filter (inWindow s h)
  let s := lines.foldl (fun s l => poisonLine (dirSet s l 0) l) s
  let s := bump s ⟨.MEM_HW_CNT1, h, 0⟩ 63 32 lines.length
  (lineRuns lines).foldl (fun s r => poisonNotice s h r.1 r.2) s

/-- WINDOW_CLOSE (R373): mirror bits that are left are processed; at the first boundary after the last one the window is CLOSED. -/
def doWindowClose (s : State) (h : Nat) : State :=
  if (getWin s h).st ≠ .recovering then s
  else if s.mirror.any (inWindow s h) then recoverWindow s h
  else windowNotice (modWin s h fun w => { w with st := .closed }) h .closed

/-- The moment of a boundary: what R373 lets a window do at its next boundary. -/
def atBoundary (s : State) : Bool := s.tick.begun && decide (s.now = s.tick.base)

/-- BML_STS.state of a port: 5 ATTACHED is read by its unit; here whether a host is attached is a parameter (R373). -/
def doWindowOpen (s : State) (h : Nat) (attached : Bool) : State :=
  if (getWin s h).st = .closed ∧ attached ∧ hwSize s h ≠ 0 then windowNotice (modWin s h fun w => { w with st := .open_ }) h .open_ else s

/-- Window memory that meets `gone` is lost with stack `st` (R375): poison of its lines is a loss the reader meets as MEM_STACK_LOST, so
it is counted and noticed here; without a readable mirror the window is LOST. -/
def loseWindowMem (s : State) (st : Nat) (first n : Nat) : State :=
  (List.range 4).foldl (fun s h =>
    let lo := max first (hwBase s h / 64)
    let hi := min (first + n) ((hwBase s h + hwSize s h) / 64)
    if hi ≤ lo ∨ hwSize s h = 0 then s
    else if mirrorOk s st then
      poisonNotice (bump s ⟨.MEM_HW_CNT1, h, 0⟩ 63 32 (hi - lo)) h lo (hi - lo)
    else windowNotice (modWin s h fun w => { w with st := .lost }) h .lost) s

/-- Stacks whose mirror lies in a stack that is lost can no longer be told (R375). -/
def loseMirrors (s : State) (st : Nat) : State :=
  { s with noMirror := s.noMirror ++ ((List.range 20).filter fun x => mirrorStack s x = st && !s.noMirror.contains x) }

/-- MIRROR_REBUILD (R375): after the loss of a mirror's stack, the mirror of a living stack is written anew from the in-line directories
into the next live crest die in ascending order, in a stack of it that lives. -/
def doMirrorRebuild (s : State) (st : Nat) : State :=
  let up (x : Nat) : Bool := getF s ⟨.MEM_CTL_STS, x, 0⟩ 1 0 ≠ 3 && !dieLost s (x / 5)
  let place := (((List.range 4).map fun i => (st / 5 + 1 + i) % 4).flatMap fun d => (List.range 5).map fun j => 5 * d + (st + j) % 5).find?
    fun x => up x && x ≠ st
  match place with
  | none => s
  | some m =>
    if !s.noMirror.contains st || !up st then s else
    let own := (s.dir.filter fun e => dirState e.2 = 2 && e.1 * 64 / stackBytes = st).map (·.1)
    { s with noMirror := s.noMirror.filter (· ≠ st), mirrorAt := mapSet s.mirrorAt st m,
             mirror := ascending (s.mirror.filter (fun l => l * 64 / stackBytes ≠ st) ++ own) }

/-! ### The host meter (R380, R381) -/

def hwRate (s : State) (h : Nat) : Nat := getF s ⟨.MEM_HW_RATE, h, 0⟩ 63 32

/-- HOST_METER_REFILL (R380): tokens of every whole microsecond up to `t`; credits withheld are given back once 64 tokens are there. -/
def meterFill (s : State) (h : Nat) (t : Stamp) : State :=
  let w := getWin s h
  let cap := getF s ⟨.MEM_HW_RATE, h, 0⟩ 31 0 * 2 ^ 20
  let tok := min cap (w.tok + (t / us - w.tokLast / us) * (hwRate s h * 2 ^ 20))
  let s := modWin s h fun w => { w with tok := tok, tokLast := max w.tokLast (t / us * us) }
  match w.withheld with
  | some t0 => if 64 * 2 ^ 20 ≤ tok then
      bump (modWin s h fun w => { w with withheld := none }) ⟨.MEM_HW_CNT2, h, 0⟩ 63 32 ((t - t0) / us) else s
  | none => s

/-- A line read or written by a host costs 64 bytes; below 64 tokens the host's credits are withheld (R380). -/
def meterLine (s : State) (h : Nat) (t : Stamp) : State :=
  if hwRate s h = 0 then s else
    let s := meterFill s h t
    let w := getWin s h
    let tok := w.tok - 64 * 2 ^ 20
    modWin s h fun w => { w with tok := tok, bytes := w.bytes + 64,
                                 withheld := if tok < 64 * 2 ^ 20 ∧ w.withheld.isNone then some t else w.withheld }

/-- The load field of a response (R381). -/
def loadField (s : State) (h : Nat) (waited : Bool) : Nat :=
  if hwRate s h = 0 then 0
  else b2n waited * 8 + min 7 (8 * (getWin s h).bytesPrev / (hwRate s h * (periodNs s / us)))

end Sys2Proof.Machine
end

