-- ==== Sys2Proof/Machine/Flash.lean ====
section
/-! DEFINITION. The flash subsystem: geometry (R386), reading (R388, R389, R395), the map (R393, R394, R400), writing (R397 to R399),
collection and refresh (R403), failures (R404), checkpoints and recovery (R405 to R408), and flash lists (R412, R413). -/

namespace Sys2Proof.Machine

/-! ### Geometry (R386, R393): a page's location is bits [55:16] of its map entry -/

def chCfg (s : State) (ch : Nat) : Word := getReg s ⟨.FSS_CH_CFG, ch, 0⟩
def pagesPer (s : State) (ch : Nat) : Nat := fld (chCfg s ch) 33 22 + 1
def planesOf (s : State) (ch : Nat) : Nat := 2 ^ fld (chCfg s ch) 50 49
def blocksPer (s : State) (ch : Nat) : Nat := fld (chCfg s ch) 48 34

def locBlock (loc : Nat) : Nat := loc / 4096
def locPage (loc : Nat) : Nat := loc % 4096
def blockLun (b : Nat) : Nat := b / 2 ^ 17
def lunCh (l : Nat) : Nat := l / 64
def blockCh (b : Nat) : Nat := lunCh (blockLun b)
def locCh (loc : Nat) : Nat := blockCh (locBlock loc)
/-- Block `i` of a LUN, plane by plane. -/
def lunBlock (s : State) (l i : Nat) : Nat := let n := max 1 (blocksPer s (lunCh l)); (l * 4 + i / n) * 2 ^ 15 + i % n
def lunSize (s : State) (l : Nat) : Nat := planesOf s (lunCh l) * blocksPer s (lunCh l)

def entryOfLoc (loc : Nat) : Word := BitVec.ofNat 64 (2 ^ 63 + loc * 2 ^ 16)
def entryLoc (w : Word) : Nat := fld w 55 16
def entryMapped (w : Word) : Bool := fld w 63 63 = 1
def entryPoisoned (w : Word) : Bool := fld w 62 62 = 1
/-- The entry of a poisoned unit (R393). -/
def poisonEntry : Word := BitVec.ofNat 64 (2 ^ 62)

/-- LUNs that are used: their channel is ACTIVE on a living toe die and they have not failed, in order (R397). -/
def goodLuns (s : State) : List Nat :=
  (List.range 2048).filter fun l =>
    let ch := lunCh l
    getF s ⟨.FSS_CH_STS, ch, 0⟩ 1 0 = 2 && !s.toeLost.contains (ch / 8) && decide (l / 8 % 8 < fld (chCfg s ch) 57 54)
      && decide (l % 8 ≤ fld (chCfg s ch) 53 51) && !s.fss.badLuns.contains l

def FlashBlk.fresh : FlashBlk :=
  { st := .free, stream := 0, next := 0, erases := 0, reads := 0, progAt := 0, refresh := false, copied := false }
def getBlk (s : State) (b : Nat) : FlashBlk := mapGetD s.fss.blks b FlashBlk.fresh
def modFss (s : State) (f : Fss → Fss) : State := { s with fss := f s.fss }
def setBlk (s : State) (b : Nat) (v : FlashBlk) : State := modFss s fun f => { f with blks := mapPut FlashBlk.fresh f.blks b v }
def modBlk (s : State) (b : Nat) (f : FlashBlk → FlashBlk) : State := setBlk s b (f (getBlk s b))

/-- Whether block `i` of a LUN is one of the system blocks: the first 16 good blocks of LUN 0 of target 0 (R407). -/
def isSystemBlk (s : State) (l i : Nat) : Bool :=
  l % 64 = 0 && decide (((List.range i).filter fun j => decide ((getBlk s (lunBlock s l j)).st ≠ .retired)).length < 16)

/-- The lowest free block of a LUN. -/
def freeBlk (s : State) (l : Nat) : Option Nat :=
  (findFrom (fun i => (getBlk s (lunBlock s l i)).st = .free && !isSystemBlk s l i) (lunSize s l) 0).map (lunBlock s l)

/-- Free blocks of a LUN (R403). -/
def freeBlocks (s : State) (l : Nat) : Nat :=
  lunSize s l - (s.fss.blks.filter fun e => blockLun e.1 = l && e.2.st ≠ .free).length - (if l % 64 = 0 then 16 else 0)

/-! ### State and life (R404, R410) -/

def fssState (s : State) : Nat := getF s ⟨.FSS_STS, 0, 0⟩ 1 0
def setFssState (s : State) (v : Nat) : State := (List.range 4).foldl (fun s n => setF s ⟨.FSS_STS, n, 0⟩ 1 0 v) s
def spareBlocks (s : State) : Nat := getF s ⟨.FSS_WEAR, 0, 0⟩ 39 16
def retiredBlocks (s : State) : Nat := getF s ⟨.FSS_STS, 0, 0⟩ 39 16
def ioLimit (s : State) : Nat := getF s ⟨.FSS_CFG, 0, 0⟩ 63 48 * us

/-- The life percentage L (R410). -/
def lifePct (s : State) : Nat :=
  let good := s.fss.blks.filter fun e => e.2.st ≠ .retired
  let luns := goodLuns s
  let g := luns.foldl (fun n l => n + lunSize s l) 0
    - (s.fss.blks.filter fun e => e.2.st = .retired && luns.contains (blockLun e.1)).length
  let e := good.foldl (fun n x => n + x.2.erases) 0
  let w := if g * getF s ⟨.FSS_WEAR, 0, 0⟩ 63 40 = 0 then 0 else 100 * e / (g * getF s ⟨.FSS_WEAR, 0, 0⟩ 63 40)
  let r := if spareBlocks s = 0 then 0 else 100 * retiredBlocks s / spareBlocks s
  min 255 (max w r)

/-- Retire a block; READONLY follows when retirements reach spare_blocks (R404). -/
def retireBlk (s : State) (b : Nat) : State :=
  if (getBlk s b).st = .retired then s else
    let s := modBlk s b fun v => { v with st := .retired }
    let n := retiredBlocks s + 1
    let s := (List.range 4).foldl (fun s i => setF s ⟨.FSS_STS, i, 0⟩ 39 16 n) s
    let s := bump s ⟨.FSS_CH_CNT2, blockCh b, 0⟩ 15 0 1
    if spareBlocks s ≤ n ∧ fssState s = 2 then setFssState s 3 else s

/-! ### The map (R393, R394) -/

def getNs (s : State) (ns : Nat) : Option FlashNs := mapGet s.fss.nss ns
/-- Directory entries of a namespace. -/
def nsPages (n : FlashNs) : Nat := cdiv n.units 8192
/-- Address of the map page of a unit in a version, if the page exists. -/
def mapPage (s : State) (ver u : Nat) : Option Nat :=
  if ver = 0 then none else let w := rdW s (rdN s (ver + 16) + 8 * (u / 8192)); if pteValid w then some (ptePage w) else none
/-- The map entry of a unit in a version. -/
def mapEntry (s : State) (ver u : Nat) : Word := (mapPage s ver u).elim 0 fun a => rdW s (a + 8 * (u % 8192))

/-- Versions of a namespace's map, newest first. -/
def nsVers (s : State) (ns : Nat) : List Nat := (getNs s ns).elim [] fun n => chainOf s chainFuel n.newest

/-- Whether any map version names a page (R396). -/
def pageNamed (s : State) (loc : Nat) (g : FlashPg) : Bool := (nsVers s g.ns).any fun v => mapEntry s v g.unit = entryOfLoc loc

/-- Map pages in use. -/
def mapPagesUsed (s : State) : List Nat :=
  s.fss.nss.flatMap fun e => (nsVers s e.1).flatMap fun v =>
    (List.range (nsPages e.2)).filterMap fun i => mapPage s v (i * 8192)

/-- The lowest free page of the map area. -/
def freeMapPage (s : State) : Option Nat :=
  let used := mapPagesUsed s
  (findFrom (fun i => !used.contains (s.fss.mapBase + 65536 * i)) (s.fss.mapBytes / 65536) 0).map fun i => s.fss.mapBase + 65536 * i

/-- A map version under construction: its record, directory, and the map pages that are its own. -/
structure MapBuild where
  st  : State
  rec_ : Nat
  own : List Nat := []
  ok  : Bool := true

/-- Set one entry of the version being built, copying its map page first (R394). -/
def buildEntry (used : List Nat) (b : MapBuild) (u : Nat) (w : Word) : MapBuild :=
  if !b.ok then b else
    let s := b.st
    let dir := rdN s (b.rec_ + 16)
    let at_ (a : Nat) : Nat := a + 8 * (u % 8192)
    match mapPage s b.rec_ u with
    | some a =>
      if b.own.contains a then { b with st := wrW s (at_ a) w }
      else go b dir (some a) at_
    | none => go b dir none at_
where
  /-- Take a free map page for the copy. -/
  go (b : MapBuild) (dir : Nat) (old : Option Nat) (at_ : Nat → Nat) : MapBuild :=
    let s := b.st
    let free := findFrom (fun i => let a := s.fss.mapBase + 65536 * i; !used.contains a && !b.own.contains a) (s.fss.mapBytes / 65536) 0
    match free with
    | none => { b with ok := false }
    | some i =>
      let a := s.fss.mapBase + 65536 * i
      let s := wrBytes s a (old.elim (List.replicate 65536 0) fun o => rdBytes s o 65536)
      let s := wrW s (dir + 8 * (u / 8192)) (mkPte false a)
      { b with st := wrW s (at_ a) w, own := a :: b.own }

/-- Publish changed entries of a namespace as its next map version at epoch `e` (R394); none when the map area is full. -/
def publishMap (s : State) (ns e : Nat) (ups : List (Nat × Word)) : Option State :=
  match getNs s ns with
  | none => some s
  | some n =>
    let used := mapPagesUsed s
    let old := n.newest
    let (s1, dir) := copyTable s (if old = 0 then 0 else rdN s (old + 16)) (nsPages n)
    let (s1, r) := sysPut s1 (wordBytes [BitVec.ofNat 64 e, BitVec.ofNat 64 old, BitVec.ofNat 64 dir, 0, 0, 0, 0, 0])
    let b := ups.foldl (fun b x => buildEntry used b x.1 x.2) { st := s1, rec_ := r }
    if !b.ok then none else
      let s := modFss b.st fun f => { f with nss := mapSet f.nss ns { n with newest := r } }
      let s := if n.bound ∧ n.desc ≠ 0 then wrW s (n.desc + 24) (BitVec.ofNat 64 r) else s
      some (if old = 0 then s else modFss s fun f =>
        { f with retained := f.retained ++ [(ns, ⟨e, r, [(old, 64), (rdN s (old + 16), 8 * nsPages n)]⟩)] })

/-! ### Reading (R388, R389, R395) -/

/-- Undefined data of a unit (R395). -/
def undefinedUnit (s : State) : State × List Byte := let (s, n) := drawFresh s; (s, (List.range 16384).map (Config.freeFlash n))

/-- Pad a page's data to its 16,384 bytes. -/
def padUnit (bs : List Byte) : List Byte := bs ++ List.replicate (16384 - bs.length) 0

/-- Mark a unit poisoned at the next boundary (R404). -/
def markPoison (s : State) (ns u : Nat) : State :=
  modFss s fun f => { f with marks := f.marks ++ [⟨f.seq, ns, u, true, s.tick.nextNum, none⟩] }

/-- Queue a block for refresh (R403). -/
def queueRefresh (s : State) (b : Nat) : State := modBlk s b fun v => { v with refresh := true }

/-- The code a unit's read meets before its ladder, or 0: state, namespace range, map page, poison, lost toe die. -/
def readCode0 (s : State) (n : FlashNs) (ver u : Nat) : Nat :=
  let w := mapEntry s ver u
  if fssState s < 2 then Code.FLASH_MAP_LOST
  else if n.units ≤ u then Code.FLASH_RANGE
  else if (mapPage s ver u).elim false (fun a => rangeCode s a 65536 ≠ 0) then Code.FLASH_MAP_LOST
  else if entryPoisoned w then Code.FLASH_POISON
  else if entryMapped w ∧ s.toeLost.contains (locCh (entryLoc w) / 8) then Code.FLASH_LOST
  else 0

/-- Read one unit of a namespace through a map version: its data, or a code. `okStep` is the ladder step that succeeds (R388). -/
def readUnit (s : State) (ns ver u : Nat) (okStep : Option Nat) : State × Nat × List Byte :=
  match getNs s ns with
  | none => (s, Code.FLASH_NS, [])
  | some n =>
    let c := readCode0 s n ver u
    let w := mapEntry s ver u
    if c ≠ 0 then (s, c, [])
    else if !entryMapped w then let (s, bs) := undefinedUnit s; (s, 0, bs)
    else
      let loc := entryLoc w
      let b := locBlock loc
      let ch := blockCh b
      let steps := fld (chCfg s ch) 21 18 + 2
      let s := modBlk (bump s ⟨.FSS_CH_CNT0, ch, 0⟩ 63 32 1) b fun v => { v with reads := v.reads + 1 }
      let s := if getF s ⟨.FSS_CKPT, 0, 0⟩ 15 0 * 1000 ≤ (getBlk s b).reads then queueRefresh s b else s
      match okStep, mapGet s.fss.pages loc with
      | some k, some g =>
        if k = 0 ∨ steps < k then (queueRefresh (markPoison (bump s ⟨.FSS_CH_CNT2, ch, 0⟩ 63 32 1) ns u) b, Code.FLASH_UNCORRECTABLE, [])
        else
          let s := if 2 ≤ k then bump s ⟨.FSS_CH_CNT1, ch, 0⟩ 31 0 1 else s
          let s := if getF s ⟨.FSS_CFG, 0, 0⟩ 15 12 ≤ k then queueRefresh s b else s
          (s, 0, padUnit g.data)
      | _, _ => (queueRefresh (markPoison (bump s ⟨.FSS_CH_CNT2, ch, 0⟩ 63 32 1) ns u) b, Code.FLASH_UNCORRECTABLE, [])

/-- Transfer time of a unit on a channel, in ns (R123). -/
def unitDur (s : State) (ch : Nat) : Nat := 16384 * 10 / ((fld (chCfg s ch) 61 58 + 1) * 4)

/-- A flash flow's weir for one unit on a channel (R121, R413). -/
def flashAsk (s : State) (p kind ch tag : Nat) : Bool × State := weirAsk s p kind (ch / 8) 16384 (unitDur s ch) (.flow tag)

/-- What a request wants of flash: index of the vector, unit, offset in it (R147). -/
def wantVecs (s : State) (c : Nat) : List (Nat × Nat × Nat) :=
  let k := getCtx s c
  let co := getColl s (dColl k.desc)
  let at_ (co : Coll) (i id : Nat) : Nat × Nat × Nat :=
    let x := id - cIdBase s co
    (i, x / max 1 (cFullPer s co), x % max 1 (cFullPer s co) * cFullStride s co)
  let mine (xs : List (Nat × Nat)) : List (Nat × Nat × Nat) :=
    (xs.filter fun e => cHas s co e.2 && (mapGet k.work.vectors e.1).isNone).map fun e => at_ co e.1 e.2
  let cands : List (Nat × Nat) := ((candIds s c).zipIdx.filter fun e => e.1 / 2 ^ 40 = cShard s co).map fun e => (e.2, e.1 % 2 ^ 40)
  match stageKindOf s c with
  | some .fetch => mine cands
  | some .rerank => if dKind k.desc = kRerank ∧ fld (dB k.desc 0) 33 32 = 1 then mine cands else []
  | some .lookup => if fld (dB k.desc 0) 47 47 = 1 then mine ((List.range (dItems k.desc)).map fun i => (i, lookupId s c i)) else []
  | _ => []

/-- The collection of a training example's candidate, and what it wants (R283, R301). -/
def wantTrain (s : State) (c : Nat) : List (Nat × Coll × Nat × Nat) :=
  let k := getCtx s c
  s.passes.filterMap fun e =>
    let p := e.2
    match p.example_, p.ids.head? with
    | some i, some gid =>
      if p.ctx = c ∧ p.gen = k.gen ∧ p.source = 1 ∧ (mapGet k.work.vectors i).isNone then
        (candColl s p gid).map fun co =>
          let x := gid % 2 ^ 40 - cIdBase s co.2
          (i, co.2, x / max 1 (cFullPer s co.2), x % max 1 (cFullPer s co.2) * cFullStride s co.2)
      else none
    | _, _ => none

/-- Bytes of a full vector out of its unit. -/
def vecFrom (s : State) (co : Coll) (bs : List Byte) (off : Nat) : List (BitVec 16) := bf16s ((bs.drop off).take (2 * cDim s co))

/-- FLASH_READ (R388, R395): for a request, the unit's full vectors at its pinned epoch; without one, the part's own read of the newest
version. -/
def doFlashRead (s : State) (ns u : Nat) (c : Option Nat) (okStep : Option Nat) : State :=
  match c with
  | none => match getNs s ns with
    | some n => if entryMapped (mapEntry s n.newest u) then (readUnit s ns n.newest u okStep).1 else s
    | none => s
  | some c =>
    let k := getCtx s c
    let co := getColl s (dColl k.desc)
    let plain := if cFullNs s co = ns then ((wantVecs s c).filter fun x => x.2.1 = u).map fun x => (x.1, co, x.2.2) else []
    let train := ((wantTrain s c).filter fun x => cFullNs s x.2.1 = ns && x.2.2.1 = u).map fun x => (x.1, x.2.1, x.2.2.2)
    let want := plain ++ train
    if !isLive s c || want.isEmpty || (activeOwner s c).isNone then s
    else match getNs s ns with
      | none => failCtx s c Code.FLASH_NS
      | some n =>
        if n.isHost || n.polder ≠ k.polder || !n.bound then failCtx s c Code.FLASH_NS else
        let ver := resolveFrom s k.pin chainFuel n.newest
        let w := mapEntry s ver u
        let (ok, s) := if entryMapped w then flashAsk s k.polder wFlashRd (locCh (entryLoc w)) (flowTag 1 c u) else (true, s)
        if !ok then s else
          let (s, code, bs) := readUnit s ns ver u okStep
          if code ≠ 0 then failCtx s c code
          else modWork s c fun x => { x with vectors := want.foldl (fun m y => mapSet m y.1 (vecFrom s y.2.1 bs y.2.2)) x.vectors }

/-! ### Writing (R397 to R399) -/

/-- Where the next unit of a stream goes: the next good LUN after the last one, its open block of the stream or a free block (R397). -/
def nextPage (s : State) (stream : Nat) : Option Nat :=
  let luns := goodLuns s
  let last := mapGet s.fss.cursor stream
  let order := last.elim luns fun l => luns.filter (fun x => l < x) ++ luns.filter (fun x => x ≤ l)
  order.findSome? fun l =>
    match s.fss.blks.find? fun e => blockLun e.1 = l && e.2.st = .open_ && e.2.stream = stream with
    | some e => some (e.1 * 4096 + e.2.next)
    | none => (freeBlk s l).map fun b => b * 4096

/-- Program a page: its block opens or fills up (R397). -/
def programPage (s : State) (stream loc : Nat) (g : FlashPg) : State :=
  let b := locBlock loc
  let s := modBlk s b fun v => { v with st := if pagesPer s (blockCh b) ≤ locPage loc + 1 then .closed else .open_, stream := stream,
                                        next := locPage loc + 1, progAt := s.now, copied := false }
  let s := bump s ⟨.FSS_CH_CNT0, blockCh b, 0⟩ 31 0 1
  modFss s fun f => { f with pages := mapSet f.pages loc g }

/-- A unit enters the write buffer: it takes the next seq and a page (R397, R398); none when no page is free. -/
def writePage (s : State) (ns u stream srcSeq : Nat) (data : List Byte) (reloc : Option Nat) (ctx : Option (Nat × Nat)) (list : Option Nat)
    (hold : Option (Nat × Nat)) : Option State :=
  (nextPage s stream).map fun loc =>
    let q := s.fss.seq
    let s := programPage s stream loc ⟨ns, u, stream, q, srcSeq, data⟩
    modFss s fun f => { f with seq := q + 1, ckptNew := f.ckptNew + 1, cursor := mapSet f.cursor stream (blockLun (locBlock loc)),
                               wrs := f.wrs ++ [⟨q, loc, ns, u, reloc, ctx, list, none, hold⟩] }

/-- The stream of a namespace's own writes (R391). -/
def nsStream (n : FlashNs) : Nat := if n.cold then 1 else 0

/-- The code a write meets at once, or 0 (R404, R411, R413). -/
def writeCode (s : State) (n : FlashNs) (u : Nat) : Nat :=
  if fssState s < 2 then Code.FLASH_MAP_LOST
  else if n.units ≤ u then Code.FLASH_RANGE
  else if fssState s = 3 then Code.FLASH_READONLY else 0

/-- The data of a whole unit for a write of part of it: the unit through the newest map version, merged (R397). -/
def mergeUnit (s : State) (n : FlashNs) (ns u off : Nat) (data : List Byte) : State × Nat × List Byte :=
  if off = 0 ∧ 16384 ≤ data.length then (s, 0, data.take 16384)
  else
    let (s, code, old) := readUnit s ns n.newest u (some 1)
    (s, code, if code = 0 then old.take off ++ data ++ old.drop (off + data.length) else [])

/-- One unit write of a flow of polder `p` (R397, R413): the state, whether it was taken, and a code. -/
def writeUnit (s : State) (p ns u off : Nat) (data : List Byte) (ctx : Option (Nat × Nat)) (list : Option Nat) (hold : Option (Nat × Nat))
    (tag : Nat) : State × Bool × Nat :=
  match getNs s ns with
  | none => (s, false, Code.FLASH_NS)
  | some n =>
    let c := writeCode s n u
    if c ≠ 0 then (s, false, c) else
      match nextPage s (nsStream n) with
      | none => (s, false, 0)
      | some loc =>
        let (ok, s) := flashAsk s p wFlashWr (locCh loc) tag
        if !ok then (s, false, 0) else
          let (s, code, bs) := mergeUnit s n ns u off data
          if code ≠ 0 then (s, false, code)
          else match writePage s ns u (nsStream n) 0 bs none ctx list hold with
            | some s => (s, true, 0)
            | none => (s, false, 0)

/-- Items of a mutation whose full vector lies in a unit and is not written yet: record index and offset (R147, R222). -/
def itemsIn (s : State) (c u : Nat) : List (Nat × Nat) :=
  let k := getCtx s c
  let co := getColl s (dColl k.desc)
  ((List.range (dItems k.desc)).filter fun i => !k.work.vecDone.contains i).filterMap fun i =>
    let x := itemId s co k.desc i - cIdBase s co
    if x / max 1 (cFullPer s co) = u then some (i, x % max 1 (cFullPer s co) * cFullStride s co) else none

/-- The items' vectors laid over a unit's bytes. -/
def layVecs (s : State) (c : Nat) (old : List Byte) (items : List (Nat × Nat)) : List Byte :=
  let k := getCtx s c
  let co := getColl s (dColl k.desc)
  items.foldl (fun bs x => let v := itemVec s co k.desc x.1; bs.take x.2 ++ v ++ bs.drop (x.2 + v.length)) old

/-- UNIT_WRITE (R397): the full vectors of a mutation in its flash stage (R222), or the data given of a namespace's own write. A mutation's
write of a unit whose map change for an earlier mutation has not committed waits, so that it merges with the newest map version (DESIGN
CHOICE). -/
def doUnitWrite (s : State) (ns u off : Nat) (data : List Byte) (c : Option Nat) : State :=
  match c with
  | none => match getNs s ns with
    | some n => if n.isHost then (writeUnit s n.polder ns u off data none none none (flowTag 7 0 u)).1 else s
    | none => s
  | some c =>
    let k := getCtx s c
    let co := getColl s (dColl k.desc)
    let items := itemsIn s c u
    if !(standsIn s c .flashWr && isMutation (dKind k.desc) && dKind k.desc ≠ kDelete && k.work.weir = 2 && cFull s co && cFullNs s co = ns)
        || items.isEmpty then s
    else match getNs s ns with
      | none => failCtx s c Code.FLASH_NS
      | some n =>
        if n.isHost || n.polder ≠ k.polder || !n.bound then failCtx s c Code.FLASH_NS else
        if s.fss.wrs.any (fun w => w.ns = ns && w.unit = u && w.hold.isSome) then s else
        let (s, code, old) := readUnit s ns n.newest u (some 1)
        if code ≠ 0 then failCtx s c code else
          let (s, took, code) := writeUnit s k.polder ns u 0 (layVecs s c old items) (some (c, k.gen)) none (some (c, k.gen)) (flowTag 2 c u)
          if code ≠ 0 then failCtx s c code
          else if took then modWork s c fun w => { w with vecDone := w.vecDone ++ items.map (·.1) } else s

/-- Fill an open word line with padding pages (R399). -/
def padTo (s : State) (b : Nat) : Nat → State
  | 0 => s
  | fuel + 1 =>
    let v := getBlk s b
    if v.st ≠ .open_ ∨ v.next = 0 ∨ Config.wordLine v.next ≠ Config.wordLine (v.next - 1) then s
    else padTo (programPage s v.stream (b * 4096 + v.next) ⟨0, 0, v.stream, 0, 0, []⟩) b fuel

/-- WORD_LINE_PADDING (R399): in the berm. -/
def doPadding (s : State) : State :=
  if !inBerm s s.now then s else
    (s.fss.blks.filter fun e => e.2.st = .open_).foldl (fun s e => padTo s e.1 4096) s

/-- A list's latest commit boundary. -/
def noteList (s : State) (n commit : Nat) : State :=
  modFss s fun f => { f with lists := mapMod f.lists n fun ls => ls.map fun l =>
    if !l.waiting || l.wrote.isSome then { l with wrote := some (max commit (l.wrote.getD 0)) } else l }

/-- PROGRAM_END (R399): every write of the word line takes its commit boundary; a mutation whose vectors are all programmed has passed
its flash stage. -/
def doProgramEnd (s : State) (q : Nat) (t : Stamp) : State :=
  match s.fss.wrs.find? fun w => w.seq = q && w.commit.isNone with
  | none => s
  | some w =>
    let e := boundaryFor s t
    let same (x : FlashWr) : Bool := x.commit.isNone && locBlock x.loc = locBlock w.loc && Config.wordLine (locPage x.loc) = Config.wordLine (locPage w.loc)
    let hit := s.fss.wrs.filter fun x => x.seq = q || same x
    let s := modFss s fun f => { f with wrs := f.wrs.map fun x => if x.seq = q || same x then { x with commit := some e } else x }
    hit.foldl (fun s x =>
      let s := x.list.elim s fun n => noteList s n e
      match x.ctx with
      | none => s
      | some (c, g) =>
        if !(isLive s c && (getCtx s c).gen = g) then s else
          let k := getCtx s c
          let todo := (List.range (dItems k.desc)).any fun i => !k.work.vecDone.contains i
          let open_ := s.fss.wrs.any fun y => y.ctx = some (c, g) && y.commit.isNone
          modWork s c fun w => { w with wroteFl := some (max e (w.wroteFl.getD 0)), done := w.done || (stageKindOf s c = some .flashWr && !todo && !open_) }) s

/-! ### Commit (R400, R406) -/

/-- A map change that is due, in seq order: a mark comes before the write of the same number. -/
inductive MapChange where
  | write (w : FlashWr)
  | mark (m : FlashMark)

def MapChange.key : MapChange → Nat
  | .write w => 2 * w.seq + 1
  | .mark m => 2 * m.seq

/-- Entries changed so far at a boundary: namespace, unit, entry. -/
abbrev Updates : Type := List ((Nat × Nat) × Word)

def curEntry (s : State) (ups : Updates) (ns u : Nat) : Word :=
  ((ups.find? fun x => x.1 = (ns, u)).map (·.2)).getD (((getNs s ns).map fun n => mapEntry s n.newest u).getD 0)

def setEntry (ups : Updates) (ns u : Nat) (w : Word) : Updates := ((ns, u), w) :: ups.filter fun x => x.1 ≠ (ns, u)

/-- One change (R400). -/
def applyChange (s : State) (ups : Updates) : MapChange → Updates
  | .write w => match w.reloc with
    | some src => if curEntry s ups w.ns w.unit = entryOfLoc src then setEntry ups w.ns w.unit (entryOfLoc w.loc) else ups
    | none => setEntry ups w.ns w.unit (entryOfLoc w.loc)
  | .mark m => setEntry ups m.ns m.unit (if m.poison then poisonEntry else 0)

def sortedChanges (ws : List FlashWr) (ms : List FlashMark) : List MapChange :=
  sortBy (fun a b => decide (a.key < b.key)) (ms.map .mark ++ ws.map .write)

/-- Whether the request, or the replica's group, for which a write's map change waits is gone: it changes nothing (R218). -/
def holdGone (s : State) (h : Nat × Nat) : Bool :=
  if h.1 < 8192 then
    !(isLive s h.1 && (getCtx s h.1).gen = h.2) && !s.colls.any fun e => e.2.groups.any fun g => g.taken.any fun x => x.ctx = h.1 && x.gen = h.2
  else !(getColl s (h.1 - 8192)).groups.any fun g => g.mseqHi = h.2

/-- MAP_COMMIT (R400, R406): the changes due at the current epoch, one map version per namespace, and a commit log record. -/
def doMapCommit (s : State) : State :=
  let e := s.tick.epoch
  let s := modFss s fun f => { f with wrs := f.wrs.filter fun w => !w.hold.elim false (holdGone s) }
  let ws := s.fss.wrs.filter fun w => w.hold.isNone && w.commit.elim false fun c => decide (c ≤ e)
  let ms := s.fss.marks.filter fun m => decide (m.commit ≤ e)
  if ws.isEmpty && ms.isEmpty then s else
    let ups := (sortedChanges ws ms).foldl (applyChange s) []
    let nss := ascending (ups.map (·.1.1))
    let res := nss.foldl (fun (acc : Option State) ns => acc.bind fun s => publishMap s ns e ((ups.filter fun x => x.1.1 = ns).map fun x => (x.1.2, x.2))) (some s)
    match res with
    | none => s
    | some s' =>
      let s' := ms.foldl (fun s m => if m.poison then bump s ⟨.FSS_CNT1, locCh (entryLoc (curEntry s [] m.ns m.unit)) / 8 % 4, 0⟩ 63 32 1 else s) s'
      let hi := ws.foldl (fun n w => max n w.seq) ((s.fss.log.getLast?).elim 0 (·.hi))
      let pick (p : Bool) : List (Nat × Nat × Nat) := (ms.filter (·.poison = p)).map fun m => (m.seq, m.ns, m.unit)
      modFss s' fun f => { f with wrs := f.wrs.filter fun w => !ws.contains w, marks := f.marks.filter fun m => !ms.contains m,
                                  log := f.log ++ [⟨e, hi, pick false, pick true, false⟩] }

/-! ### Flash lists (R412, R413) -/

def flLists (s : State) (n : Nat) : List FlashList := mapGetD s.fss.lists n []
def setLists (s : State) (n : Nat) (ls : List FlashList) : State := modFss s fun f => { f with lists := mapPut [] f.lists n ls }
/-- The list that runs: the first that does not only wait for durability. -/
def runningList (s : State) (n : Nat) : Option FlashList := (flLists s n).find? fun l => !l.waiting
def modList (s : State) (n : Nat) (l : FlashList) (f : FlashList → FlashList) : State :=
  setLists s n ((flLists s n).map fun x => if x = l then f x else x)

/-- FLASH_LIST_DOORBELL (R412). -/
def doFlashDoorbell (s : State) (n : Nat) (host : Option Nat) : State :=
  let s := unIdle s
  let a := getReg s ⟨.FSS_LIST_ADDR, n, 0⟩
  match listOk s host (fld a 63 52) (fld a 51 40) (fld a 39 0) (unitNo (4 + n) 0 0) (flLists s n).length with
  | none => setBit s ⟨.FSS_LIST_CTL, n, 0⟩ 7
  | some at_ => setLists s n (flLists s n ++ [⟨fld a 63 52, at_, host, 0, 0, none, 0, none, false⟩])

/-- End a list with a code. -/
def endFlList (s : State) (n : Nat) (l : FlashList) (code : Nat) : State :=
  let s := putStatus s l.addr l.entry code
  let s := listHeader s l.addr 3 s.tick.tick (doneEntries s l.addr l.entry) code
  setLists s n ((flLists s n).filter (· ≠ l))

/-- A list's last entry has ended: DONE, or waiting for the durability of what it wrote (R402). -/
def finishFlList (s : State) (n : Nat) (l : FlashList) : State :=
  let pend := s.fss.wrs.any fun w => w.list = some n && w.commit.isNone
  if !pend && l.wrote.elim true (fun c => decide (c ≤ s.fss.durable)) then
    let s := listHeader s l.addr 2 s.tick.tick (doneEntries s l.addr l.entry) 0
    setLists s n ((flLists s n).filter (· ≠ l))
  else modList s n l fun x => { x with waiting := true }

/-- An entry has ended with status 0. -/
def endFlEntry (s : State) (n : Nat) (l : FlashList) : State :=
  let s := putStatus s l.addr l.entry 0
  let l' : FlashList := { l with entry := l.entry + 1, unit := 0, since := none }
  let s := modList s n l fun _ => l'
  if listEntries s l.addr ≤ l.entry + 1 then finishFlList s n l' else s

/-- A flash list entry (R412). -/
structure FlEntry where
  op     : Nat
  ns     : Nat
  region : Nat
  units  : Nat
  first  : Nat
  off    : Nat
  resvd  : Bool

def flEntry (s : State) (a : Nat) : FlEntry :=
  let w := rdW s a
  let w1 := rdW s (a + 8)
  let w2 := rdW s (a + 16)
  ⟨fld w 63 60, fld w 59 48, fld w 47 36, fld w 31 16, fld w1 34 0, fld w2 47 0,
   fld w 35 32 ≠ 0 || fld w1 63 35 ≠ 0 || fld w2 63 48 ≠ 0 || rdN s (a + 24) ≠ 0⟩

/-- The code an entry ends with before its first unit, or 0 (R412, R413). -/
def flEntryCode (s : State) (p : Nat) (host : Option Nat) (e : FlEntry) : Nat :=
  if 2 < e.op ∨ e.resvd ∨ e.units = 0 ∨ e.off % 16384 ≠ 0 then Code.FLASH_LIST_INVALID
  else match getNs s e.ns with
    | none => Code.FLASH_NS
    | some n =>
      if !n.isHost || n.polder ≠ p || !n.bound || host.elim false (fun h => h ≠ n.host) then Code.FLASH_NS
      else if n.units < e.first + e.units then Code.FLASH_RANGE
      else if e.op = 2 then (if e.region = 0 then 0 else Code.FLASH_LIST_INVALID)
      else if (regionAddr s p e.region e.off (16384 * e.units)).isSome then 0 else Code.FLASH_LIST_INVALID

/-- Number under which a toe die's lists wait for a host. -/
def flWho (n : Nat) : Nat := waiterOf false n

/-- One unit of a READ entry: the state, whether the entry goes on, and a code (R413). -/
def readStep (s : State) (n p : Nat) (e : FlEntry) (epoch i : Nat) (okStep : Option Nat) : State × Bool × Nat :=
  match getNs s e.ns, regionAddr s p e.region (e.off + 16384 * i) 16384 with
  | some ns, some a =>
    let ver := resolveFrom s epoch chainFuel ns.newest
    let w := mapEntry s ver (e.first + i)
    let (ok, s) := if entryMapped w then flashAsk s p wFlashRd (locCh (entryLoc w)) (flowTag 3 n (e.first + i)) else (true, s)
    if !ok then (s, false, 0) else
      match hostAccess s (some (flWho n)) a 16384 true with
      | (.wait, s) => (s, false, 0)
      | (.code c, s) => (s, false, c)
      | (.ok, s) =>
        let (s, code, bs) := readUnit s e.ns ver (e.first + i) okStep
        if code ≠ 0 then (s, false, code) else (poolUse (wrBytes s a bs) p e.region (e.off + 16384 * i) 16384 true, true, 0)
  | _, _ => (s, false, Code.FLASH_LIST_INVALID)

/-- One unit of a WRITE entry. -/
def writeStep (s : State) (n p : Nat) (e : FlEntry) (i : Nat) (list : Option Nat) : State × Bool × Nat :=
  match regionAddr s p e.region (e.off + 16384 * i) 16384 with
  | some a => match hostAccess s (some (flWho n)) a 16384 false with
    | (.wait, s) => (s, false, 0)
    | (.code c, s) => (s, false, c)
    | (.ok, s) =>
      writeUnit (poolUse s p e.region (e.off + 16384 * i) 16384 false) p e.ns (e.first + i) 0 (rdBytes s a 16384) none list none (flowTag 4 n (e.first + i))
  | none => (s, false, Code.FLASH_LIST_INVALID)

/-- Units of an entry from `i` on, until one waits or ends it: the state, the units done, and a code. -/
def unitLoop (f : State → Nat → State × Bool × Nat) (units : Nat) : Nat → State → Nat → State × Nat × Nat
  | 0, s, i => (s, i, 0)
  | fuel + 1, s, i =>
    if units ≤ i then (s, i, 0) else
      let (s, go, code) := f s i
      if code ≠ 0 then (s, i, code) else if go then unitLoop f units fuel s (i + 1) else (s, i, 0)

/-- Begin the entry reached when its op is one of `ops`: the list with its entry's start noted; none when it is another's or ended. -/
def startFl (s : State) (n : Nat) (ops : Nat → Bool) : Option (FlashList × FlEntry) × State :=
  match runningList s n with
  | none => (none, s)
  | some l =>
    match hostAccess s (some (flWho n)) l.addr (64 + 32 * listEntries s l.addr) true with
    | (.wait, s) => (none, s)
    | (.code c, s) => (none, endFlList s n l c)
    | (.ok, s) =>
      let e := flEntry s (entryAt l.addr l.entry)
      if listEntries s l.addr = 0 then (none, if ops 0 then finishFlList s n l else s)
      else if !ops e.op then (none, s)
      else if l.since.isSome then (some (l, e), s)
      else
        let code := flEntryCode s l.polder l.host e
        let s := if l.entry = 0 then listHeader s l.addr 1 0 0 0 else s
        if code ≠ 0 then (none, endFlList s n l code)
        else
          let l' : FlashList := { l with since := some s.now, epoch := s.tick.epoch }
          (some (l', e), modList s n l fun _ => l')

/-- READ (R413). -/
def doListRead (s : State) (n : Nat) (okSteps : List (Option Nat)) : State :=
  match startFl s n fun op => op = 0 || decide (2 < op) with
  | (none, s) => s
  | (some (l, e), s) =>
    let (s, i, code) := unitLoop (fun s i => readStep s n l.polder e l.epoch i ((nth? okSteps i).getD none)) e.units e.units s l.unit
    if code ≠ 0 then endFlList s n l code
    else if e.units ≤ i then endFlEntry s n l
    else modList s n l fun x => { x with unit := i }

/-- WRITE (R413). -/
def doListWrite (s : State) (n : Nat) : State :=
  match startFl s n fun op => op = 1 with
  | (none, s) => s
  | (some (l, e), s) =>
    let (s, i, code) := unitLoop (fun s i => writeStep s n l.polder e i (some n)) e.units e.units s l.unit
    if code ≠ 0 then endFlList s n l code
    else if e.units ≤ i then endFlEntry s n l
    else modList s n l fun x => { x with unit := i }

/-- DISCARD (R401): marks that clear the units' entries at their commit boundary. -/
def doListDiscard (s : State) (n : Nat) (t : Stamp) : State :=
  match startFl s n fun op => op = 2 with
  | (none, s) => s
  | (some (l, e), s) =>
    let c := boundaryFor s t
    let s := modFss s fun f => { f with marks := f.marks ++ (List.range e.units).map fun i => ⟨f.seq, e.ns, e.first + i, false, c, some n⟩ }
    endFlEntry s n l

/-- Lists that waited for durability become DONE (R402). -/
def settleLists (s : State) : State :=
  (List.range 4).foldl (fun s n => ((flLists s n).filter (·.waiting)).foldl (fun s l => finishFlList s n l) s) s

/-- COMMIT_LOG (R406): the oldest commit log record that is not programmed, in a tick after its boundary began. -/
def doCommitLog (s : State) : State :=
  match s.fss.log.find? fun r => !r.written with
  | none => s
  | some r =>
    if s.tick.tick < r.epoch then s else
      settleLists (modFss s fun f => { f with log := f.log.map fun x => if x = r then { r with written := true } else x, durable := max f.durable r.epoch })

/-- The toe die of the channel that the first unit a request waits for lies on; T0 where it waits for a free page (DESIGN CHOICE). -/
def lateToe (s : State) (c : Nat) : Nat :=
  match (wantVecs s c).head? with
  | none => 0
  | some x => ((getNs s (cFullNs s (getColl s (dColl (getCtx s c).desc)))).elim 0 fun n =>
      let w := mapEntry s (resolveFrom s (getCtx s c).pin chainFuel n.newest) x.2.1
      if entryMapped w then locCh (entryLoc w) / 8 % 4 else 0)

/-- FLASH_LATE (R389): a request, or the list that runs on a toe die, whose flash wait has passed io_limit_us. -/
def doFlashLate (s : State) (io : Nat) (t : Stamp) : State :=
  if io < 8192 then
    let k := getCtx s io
    let kind := stageKindOf s io
    let waits := !(wantVecs s io).isEmpty || !(wantTrain s io).isEmpty || (kind = some .flashWr && !k.work.done && cFull s (getColl s (dColl k.desc)))
    if isLive s io && waits && decide (k.work.since + ioLimit s ≤ t) then failCtx (bump s ⟨.FSS_CNT1, lateToe s io, 0⟩ 31 0 1) io Code.FLASH_LATE
    else s
  else
    let n := io - 8192
    match runningList s n with
    | some l => if l.since.elim false fun t0 => decide (t0 + ioLimit s ≤ t) then
        endFlList (bump s ⟨.FSS_CNT1, n, 0⟩ 31 0 1) n l Code.FLASH_LATE else s
    | none => s

/-! ### Collection, refresh and erasure (R396, R403) -/

/-- Pages of a block that hold units. -/
def blkPages (s : State) (b : Nat) : List (Nat × FlashPg) := s.fss.pages.filter fun e => locBlock e.1 = b && e.2.ns ≠ 0
/-- Pages of a block that a map version names. -/
def validPages (s : State) (b : Nat) : List (Nat × FlashPg) := (blkPages s b).filter fun e => pageNamed s e.1 e.2

/-- Copy every valid page of a block into RELOC; a source page that cannot be read is mapped as poisoned (R403, R404). -/
def copyBlock (s : State) (b : Nat) (bad : List Nat) (gc : Bool) : State :=
  let ch := blockCh b
  let (s, ok) := (validPages s b).foldl (fun (acc : State × Bool) e =>
    let (s, ok) := acc
    if !ok then acc
    else if bad.contains (locPage e.1) then
      let cur := ((getNs s e.2.ns).map fun n => mapEntry s n.newest e.2.unit).getD 0
      (if cur = entryOfLoc e.1 then markPoison s e.2.ns e.2.unit else s, true)
    else match writePage s e.2.ns e.2.unit 2 e.2.seq e.2.data (some e.1) none none none with
      | some s => (bump s ⟨.FSS_CNT0, ch / 8, 0⟩ (if gc then 63 else 31) (if gc then 32 else 0) 1, true)
      | none => (s, false)) (s, true)
  if ok then modBlk s b fun v => { v with copied := true, refresh := false } else s

/-- Whether a block waits for refresh (R403). -/
def refreshDue (s : State) (b : Nat) (t : Stamp) : Bool :=
  let v := getBlk s b
  (v.st = .closed || v.st = .retired) && !v.copied && (v.refresh || decide (getF s ⟨.FSS_CKPT, 0, 0⟩ 15 0 * 1000 ≤ v.reads)
    || decide (v.progAt + getF s ⟨.FSS_CKPT, 0, 0⟩ 31 16 * 86400000000000 ≤ t))

/-- BLOCK_REFRESH (R403). -/
def doBlockRefresh (s : State) (b : Nat) (bad : List Nat) (t : Stamp) : State :=
  if 2 ≤ fssState s ∧ refreshDue s b t then copyBlock s b bad false else s

/-- The victim of a LUN: the closed block with the fewest valid pages, the lowest first (R403). -/
def gcVictim (s : State) (l : Nat) : Option Nat :=
  let cs := (s.fss.blks.filter fun e => blockLun e.1 = l && e.2.st = .closed && !e.2.copied).map fun e => (e.1, (validPages s e.1).length)
  ((sortBy (fun a b => decide (a.2 < b.2)) cs).head?).map (·.1)

/-- GARBAGE_COLLECTION (R403) on a LUN: from gc_low to gc_high; blocks queued for refresh go first. -/
def doGc (s : State) (l : Nat) (bad : List Nat) (t : Stamp) : State :=
  let lo := getF s ⟨.FSS_CFG, 0, 0⟩ 31 24
  let hi := getF s ⟨.FSS_CFG, 0, 0⟩ 23 16
  let free := freeBlocks s l
  let on := decide (free < lo) || (s.fss.gc.contains l && decide (free < hi))
  if fssState s < 2 || !(goodLuns s).contains l then s
  else if !on then modFss s fun f => { f with gc := f.gc.filter (· ≠ l) }
  else
    let s := modFss s fun f => { f with gc := insertUniq l f.gc }
    if s.fss.blks.any fun e => blockLun e.1 = l && refreshDue s e.1 t then s
    else match gcVictim s l with
      | some b => copyBlock s b bad true
      | none => s

/-- BLOCK_ERASE (R403): a closed block whose pages no map version names and no pending copy reads. -/
def doBlockErase (s : State) (b : Nat) : State :=
  let busy := s.fss.wrs.any fun w => locBlock w.loc = b || w.reloc.elim false (fun src => locBlock src = b)
  if fssState s < 2 || (getBlk s b).st ≠ .closed || busy || !(validPages s b).isEmpty then s else
    let v := getBlk s b
    let s := setBlk s b { FlashBlk.fresh with erases := v.erases + 1 }
    let s := bump s ⟨.FSS_CH_CNT1, blockCh b, 0⟩ 63 32 1
    modFss s fun f => { f with pages := f.pages.filter fun e => locBlock e.1 ≠ b }

/-! ### Failures (R404) -/

/-- Uncommitted writes in blocks that meet `p`: units are written again from the write buffer, copies are discarded and their sources
copied again (R404). -/
def rewriteFrom (s : State) (p : Nat → Bool) : State :=
  let hit := s.fss.wrs.filter fun w => p (locBlock w.loc)
  let s := modFss s fun f => { f with wrs := f.wrs.filter fun w => !p (locBlock w.loc) }
  hit.foldl (fun s w =>
    match w.reloc, mapGet s.fss.pages w.loc with
    | some src, _ => modBlk s (locBlock src) fun v => { v with copied := false }
    | none, some g => (writePage s w.ns w.unit g.stream 0 g.data none w.ctx w.list w.hold).getD s
    | none, none => s) s

/-- PROGRAM_FAILURE (R404): the block is retired, its uncommitted units are written again, and its committed ones are relocated. -/
def doProgramFailure (s : State) (b : Nat) : State :=
  if fssState s < 2 || (getBlk s b).st = .free then s else
    let s := rewriteFrom (retireBlk s b) (· = b)
    copyBlock s b [] false

/-- ERASE_FAILURE (R404). -/
def doEraseFailure (s : State) (b : Nat) : State := if fssState s < 2 || (getBlk s b).st ≠ .closed then s else retireBlk s b

/-- Poison every unit mapped to a LUN (R404). -/
def poisonLun (s : State) (l : Nat) : State :=
  (s.fss.pages.filter fun e => blockLun (locBlock e.1) = l && e.2.ns ≠ 0).foldl (fun s e =>
    if ((getNs s e.2.ns).map fun n => mapEntry s n.newest e.2.unit).getD 0 = entryOfLoc e.1 then markPoison s e.2.ns e.2.unit else s) s

/-- LUN_FAILED (R404). -/
def doLunFailed (s : State) (l : Nat) : State :=
  if s.fss.badLuns.contains l || decide (2048 ≤ l) then s else
    let s := bump s ⟨.FSS_CH_CNT2, lunCh l, 0⟩ 31 16 1
    let s := poisonLun (modFss s fun f => { f with badLuns := insertUniq l f.badLuns }) l
    let s := rewriteFrom s fun b => blockLun b = l
    (List.range (lunSize s l)).foldl (fun s i => retireBlk s (lunBlock s l i)) s

/-- CHANNEL_FAILED (R404, R386). -/
def doChannelFailed (s : State) (ch : Nat) : State :=
  let luns := (goodLuns s).filter fun l => lunCh l = ch
  let s := setF s ⟨.FSS_CH_STS, ch, 0⟩ 1 0 3
  luns.foldl doLunFailed s

/-! ### Checkpoints and recovery (R405, R408) -/

/-- Every mapped or poisoned unit of a map version. -/
def mapOf (s : State) (n : FlashNs) : Map Word :=
  ((List.range (nsPages n)).filter fun i => (mapPage s n.newest (i * 8192)).isSome).flatMap fun i =>
    (List.range 8192).filterMap fun j => let w := mapEntry s n.newest (i * 8192 + j); if w = 0 then none else some (i * 8192 + j, w)

/-- A checkpoint of the subsystem as it stands, covering every committed write. -/
def makeCkpt (s : State) : Ckpt :=
  { cSeq := (s.fss.log.getLast?).elim ((s.fss.ckpt.map (·.cSeq)).getD 0) (·.hi),
    maps := s.fss.nss.map fun e => (e.1, mapOf s e.2), nss := s.fss.nss,
    bad := (s.fss.blks.filter fun e => e.2.st = .retired).map (·.1),
    counts := s.fss.blks.map fun e => (e.1, (e.2.erases, e.2.reads)), epoch := s.tick.epoch }

/-- Write a checkpoint (R405). -/
def writeCkpt (s : State) : State :=
  let c := makeCkpt s
  let s := bump s ⟨.FSS_CNT2, 0, 0⟩ 63 32 1
  modFss s fun f => { f with ckpt := some c, ckptTick := s.tick.tick, ckptNew := 0 }

/-- CHECKPOINT (R405): every ckpt_ticks ticks, or when ckpt_units units have been written. -/
def doCheckpoint (s : State) : State :=
  let due := decide (s.fss.ckptTick + getF s ⟨.FSS_CFG, 0, 0⟩ 47 32 ≤ s.tick.tick) || decide (getF s ⟨.FSS_CKPT, 0, 0⟩ 63 32 ≤ s.fss.ckptNew)
  if 2 ≤ fssState s ∧ due then writeCkpt s else s

/-- A change that recovery replays. -/
inductive Replay where
  | unit (loc : Nat) (g : FlashPg)
  | mark (seq ns u : Nat) (poison : Bool)

def Replay.key : Replay → Nat
  | .unit _ g => 2 * g.seq + 1
  | .mark q _ _ _ => 2 * q

/-- One replayed change over the maps (R408). -/
def replayOne (s : State) (m : Map (Map Word)) (x : Replay) : Map (Map Word) :=
  let put (ns u : Nat) (w : Word) : Map (Map Word) := mapSet m ns (mapPut 0 (mapGetD m ns []) u w)
  match x with
  | .unit loc g =>
    let cur := mapGetD (mapGetD m g.ns []) g.unit 0
    let curSeq := ((mapGet s.fss.pages (entryLoc cur)).map (·.seq)).getD 0
    if g.stream = 2 then (if entryMapped cur && curSeq = g.srcSeq then put g.ns g.unit (entryOfLoc loc) else m)
    else put g.ns g.unit (entryOfLoc loc)
  | .mark _ ns u p => put ns u (if p then poisonEntry else 0)

/-- MAP_RECOVERY (R408): maps from the root record, the written log and the pages whose seq lies in (c_seq, s_max]; each namespace gets one
version. The read of "every block opened after the checkpoint" is taken as every page above c_seq (DEDUCED). A mark is numbered by the
write that would follow it: one below c_seq is in the checkpoint's maps. Records that were not written, and pages above s_max, are gone. -/
def flashRecover (s : State) : State :=
  match s.fss.ckpt with
  | none => s
  | some c =>
    let log := s.fss.log.filter (·.written)
    let sMax := log.foldl (fun n r => max n r.hi) c.cSeq
    let units := (s.fss.pages.filter fun e => e.2.ns ≠ 0 && decide (c.cSeq < e.2.seq) && decide (e.2.seq ≤ sMax)).map fun e => Replay.unit e.1 e.2
    let after (xs : List (Nat × Nat × Nat)) : List (Nat × Nat × Nat) := xs.filter fun x => decide (c.cSeq < x.1)
    let marks := log.flatMap fun r =>
      (after r.discards).map (fun x => Replay.mark x.1 x.2.1 x.2.2 false) ++ (after r.poisons).map fun x => Replay.mark x.1 x.2.1 x.2.2 true
    let maps := (sortBy (fun a b => decide (a.key < b.key)) (units ++ marks)).foldl (replayOne s) c.maps
    let top := s.fss.pages.foldl (fun n e => max n e.2.seq) sMax
    let s := modFss s fun f =>
      { f with seq := top + 1, log := log, wrs := [], marks := [],
               pages := f.pages.map fun e => if sMax < e.2.seq then (e.1, ⟨0, 0, e.2.stream, 0, 0, []⟩) else e, lists := [], retained := [], durable := 0, ckptTick := 0, ckptNew := 0,
               nss := f.nss.map fun e => (e.1, { e.2 with newest := 0 }),
               blks := f.blks.map fun e => if e.2.st = .open_ then (e.1, { e.2 with st := .closed, refresh := true }) else e }
    s.fss.nss.foldl (fun s e => (publishMap s e.1 0 (mapGetD maps e.1 [])).getD s) s

/-- Every configured channel trains when the subsystem is enabled, and is DOWN while it is not (R386, R416). -/
def trainChannels (s : State) (on : Bool) : State :=
  (List.range 32).foldl (fun s ch =>
    let cfg := chCfg s ch
    let r : Reg := ⟨.FSS_CH_STS, ch, 0⟩
    if getF s r 1 0 = 3 ∨ fld cfg 63 62 = 0 ∨ fld cfg 57 54 = 0 then s else setF s r 1 0 (if on then 2 else 0)) s

/-- Blocks retired since the first format, not those the maker marked bad (R410). -/
def countRetired (s : State) : State :=
  let n := (s.fss.blks.filter fun e => e.2.st = .retired && !Config.makerBad.contains e.1).length
  (List.range 4).foldl (fun s d => setF s ⟨.FSS_STS, d, 0⟩ 39 16 n) s

/-- The first format (R514): every block is erased, the maker's bad blocks enter the table, and a root record is written. -/
def formatFlash (s : State) : State :=
  let s := modFss s fun f => { f with
    nss := [], pages := [], wrs := [], marks := [], log := [], seq := 1
    blks := Config.makerBad.foldl (fun m b => mapSet m b { FlashBlk.fresh with st := .retired }) [] }
  modFss s fun f => { f with ckpt := some { cSeq := 0, maps := [], nss := [], bad := (f.blks.map (·.1)), counts := [], epoch := 0 } }

/-- The bound of a recovery, in ms (R409): map pages of all namespaces and ckpt_units units at 90 GB/s, and 0.1 s. -/
def recoverBound (s : State) : Nat :=
  (65536 * (mapPagesUsed s).length + 16384 * getF s ⟨.FSS_CKPT, 0, 0⟩ 63 32) / 90000000 + 100

/-- FLASH_ENABLE (R411): a write to FSS_CFG on T0. Enabling recovers the map; without a root record the subsystem stays OFF. -/
def doFlashEnable (s : State) (v : Word) : State :=
  let r : Reg := ⟨.FSS_CFG, 0, 0⟩
  let was := getF s r 0 0
  if fld v 0 0 = 1 ∧ spareBlocks s = 0 then s
  else
    let s := setReg s r (setFld v 11 1 0)
    if fld v 0 0 = 0 then setFssState (trainChannels s false) 0
    else if was = 1 then s
    else
      let s := trainChannels s true
      if s.fss.ckpt.isNone then s
      else
        let (s, n) := drawFresh (countRetired (flashRecover s))
        let ms := Config.recoverMs n % (recoverBound s + 1)
        let s := setF (setRun s ⟨.FSS_CNT2, 0, 0⟩ 31 0 ms) ⟨.FSS_CNT2, 0, 0⟩ 31 0 ms
        setFssState s (if spareBlocks s ≤ retiredBlocks s then 3 else 2)

/-- What the loss of a toe die does to flash (R97, R404): its queued lists are gone; writes on their way to its channels are lost, the
requests and lists that they belong to end with FLASH_LOST, and relocations begin again from their sources. -/
def flashToeLost (s : State) (n : Nat) : State :=
  let hit := s.fss.wrs.filter fun w => w.commit.isNone && locCh w.loc / 8 = n
  let s := setLists (modFss s fun f => { f with wrs := f.wrs.filter fun w => !hit.contains w }) n []
  hit.foldl (fun s w =>
    match w.reloc, w.ctx, w.list with
    | some src, _, _ => modBlk s (locBlock src) fun v => { v with copied := false }
    | none, some (c, g), _ => if isLive s c && (getCtx s c).gen = g then failCtx s c Code.FLASH_LOST else s
    | none, none, some l => match (flLists s l).head? with
      | some x => endFlList s l x Code.FLASH_LOST
      | none => s
    | none, none, none => s) s

end Sys2Proof.Machine
end

