-- ==== Sys2Proof/Machine/Publish.lean ====
section
/-! DEFINITION. Publication at a boundary (R46 to R48), retained versions (R58, R227), replacement plans (R235 to R240) and a replica's
apply step (R233). -/

namespace Sys2Proof.Machine

/-! ### Groups of collections -/

/-- Blocks of the system area that a segment version takes: its record and its page tables (R153, R227). -/
def verBlocks (s : State) (co : Coll) (seg ver : Nat) : List (Nat × Nat) :=
  if ver = 0 then [] else
    (ver, 64) :: allComps.filterMap fun c => if ptOf s ver c = 0 then none else some (ptOf s ver c, 8 * compPages s co seg c)

/-- Bytes of an entry-point record (R167). -/
def epBlock (s : State) (a : Nat) : List (Nat × Nat) := if a = 0 then [] else [(a, 64 + 8 * fld (rdW s (a + 16)) 6 0)]

/-- Retain a superseded record of a collection until R58 frees it. -/
def retainIn (s : State) (coll sup newer : Nat) (blocks : List (Nat × Nat)) : State :=
  if blocks.isEmpty then s else
    setColl s coll { getColl s coll with retained := (getColl s coll).retained ++ [⟨sup, newer, blocks⟩] }

/-- Publish a segment's new version at `e` (R153): the segment table names it, and the one it displaces is retained. -/
def publishSeg (s : State) (coll e seg ver : Nat) : State :=
  let co := getColl s coll
  let old := cNewest s co seg
  let s := wrW s ver (BitVec.ofNat 64 e)
  let s := wrW s (cSegTab s co + 16 * seg) (BitVec.ofNat 64 ver)
  retainIn s coll e ver (verBlocks s co seg old)

/-- Publish a partition's new entry-point record at `e` (R167). -/
def publishEp (s : State) (coll e part rec_ : Nat) : State :=
  let co := getColl s coll
  let old := cEntryList s co part
  let s := wrW s rec_ (BitVec.ofNat 64 e)
  let s := wrW s (cPartTab s co + 16 * part + 8) (BitVec.ofNat 64 rec_)
  retainIn s coll e rec_ (epBlock s old)

/-- A request of a published group completes with the epoch of its commit (R50, R219). -/
def completeTaken (e : Nat) (s : State) (x : Taken) : State :=
  if isLive s x.ctx && (getCtx s x.ctx).gen = x.gen then
    let room := decide (8 * x.status.length ≤ dResBytes (getCtx s x.ctx).desc)
    modWork s x.ctx fun w => { w with commit := some e, items := x.items, grain := 8, done := true,
                                      output := if room then x.status.flatMap (leBytes 8) else [] }
  else s

/-- A plan when a group is published at `e`: the entries that swap with it are swapped, and a RUNNING plan is DONE when all are (R235, R236). -/
def notePlan (e : Nat) (g : Group) (p : Plan) : Plan :=
  let hit (w : Swapped) : Bool := g.segs.any fun x => x.seg = w.seg && x.newVer = w.new
  let ws := p.swaps.map fun w => if hit w then { w with at_ := e, freed := if w.old = 0 then some e else none } else w
  { p with swaps := ws, lastEp := if p.swaps.any hit then e else p.lastEp
           st := if p.st = .running ∧ p.segs ≤ (ws.filter (·.at_ ≠ 0)).length then .done else p.st }

/-- Full vectors written for a request, or for a replica's group, change their map with its commit (R218, R222). -/
def releaseVecs (s : State) (holds : List (Nat × Nat)) : State :=
  modFss s fun f => { f with wrs := f.wrs.map fun w => if w.hold.elim false holds.contains then { w with hold := none } else w }

/-- The holds of a group's full vectors: those of its requests and, on a replica, its own. -/
def groupHolds (coll : Nat) (g : Group) : List (Nat × Nat) := (8192 + coll, g.mseqHi) :: g.taken.map fun x => (x.ctx, x.gen)

/-- Publish one group whole (R47). -/
def publishGroup (coll e : Nat) (s : State) (g : Group) : State :=
  let s := g.segs.foldl (fun s x => publishSeg s coll e x.seg x.newVer) s
  let s := g.eps.foldl (fun s x => publishEp s coll e x.1 x.2) s
  let s := setColl s coll { getColl s coll with plan := (getColl s coll).plan.map (notePlan e g) }
  g.taken.foldl (completeTaken e) (releaseVecs s (groupHolds coll g))

/-- Whether a group may be published at `e`: a group of a replicated collection only when the writer's commit names `e` (R233, R234). -/
def publishable (rep : Bool) (e : Nat) (g : Group) : Bool := decide (g.commit ≤ e) && (!rep || g.named = some e)

/-- Action 2 for one collection: its due groups, in mseq order. -/
def publishColl (e : Nat) (s : State) (coll : Nat) : State :=
  let co := getColl s coll
  let rep := mReplicated s co
  let due := co.groups.takeWhile (publishable rep e)
  let s := due.foldl (publishGroup coll e) s
  setColl s coll { getColl s coll with groups := co.groups.drop due.length }

/-- A group whose commit would complete after a plan's acceptance is refused and what it built is discarded (R236). -/
def dropGroup (coll : Nat) (s : State) (g : Group) : State :=
  let s := g.taken.foldl (fun s x => if isLive s x.ctx && (getCtx s x.ctx).gen = x.gen then refuseMut s x.ctx Code.COLL_REPLACING none else s) s
  let co := getColl s coll
  let blocks := (g.segs.flatMap fun x => verBlocks s co x.seg x.newVer) ++ g.eps.flatMap fun x => epBlock s x.2
  blocks.foldl (fun s b => sysFree s b.1 b.2) s

/-- Drop the groups that a replacement of the collection refuses. -/
def dropBlocked (s : State) (coll : Nat) : State :=
  let co := getColl s coll
  let bad (g : Group) : Bool := planBlocks co g.commit && !(co.plan.elim false fun p => p.swaps.any fun w => g.segs.any fun x => x.newVer = w.new)
  let s := (co.groups.filter bad).foldl (dropGroup coll) s
  setColl s coll { getColl s coll with groups := co.groups.filter fun g => !bad g }

/-- Apply a change to the groups due at `n`, but for the first `k` of them. -/
def fromDue {α : Type} (due : α → Bool) (f : α → α) : Nat → List α → List α
  | _, [] => []
  | k, g :: gs => if due g then (if k = 0 then f g else g) :: fromDue due f (k - 1) gs else g :: fromDue due f k gs

/-- EPOCH_FREEZE for one collection (R47, R238): of its groups due at boundary `n`, the one after the first `k` and every later one, and an
ATOMIC swap due there, move to the next boundary; the first `k` publish. A commit that names the boundary no longer stands for them. -/
def deferColl (n : Nat) (s : State) (coll k : Nat) : State :=
  let co := getColl s coll
  let due := co.groups.filter fun g => decide (g.commit ≤ n)
  let atomic := co.plan.elim false fun p => p.atomic && p.st = .running && p.swapAt = n
  let swap := atomic && co.plan.elim false (·.swaps.isEmpty) && decide (k ≤ due.length)
  let s := bump s (rTck .TCK_CNT0) 31 0 (due.length - k + b2n swap)
  let s := setColl s coll { co with
    groups := fromDue (fun g => decide (g.commit ≤ n)) (fun g => { g with commit := n + 1, named := none }) k co.groups
    plan := co.plan.map fun p => if atomic && decide (k ≤ due.length) then { p with swapAt := n + 1 } else p }
  dropBlocked s coll

/-! ### Groups of tables -/

/-- Blocks of a table version: its record, directory and page tables (R332). -/
def tabBlocks (s : State) (t : Table) (ver : Nat) : List (Nat × Nat) :=
  if ver = 0 then [] else
    let dir := rdN s (ver + 16)
    (ver, 64) :: (dir, 8 * tParts s t) ::
      (List.range (tParts s t)).filterMap fun sh => if tPt s ver sh = 0 then none else some (tPt s ver sh, 8 * tPages s t sh)

/-- Publish one group of a table: updates, and MOVEs that flip with it (R344, R348). -/
def publishTabGroup (tab e : Nat) (s : State) (g : TabGroup) : State :=
  match getTable s tab with
  | none => s
  | some t =>
    let old := tNewest s t
    let s := wrW s g.newVer (BitVec.ofNat 64 e)
    let s := wrW s (t.desc + 40) (BitVec.ofNat 64 g.newVer)
    let s := modTable s tab fun x => { x with retained := x.retained ++ (if old = 0 then [] else [⟨e, g.newVer, tabBlocks s t old⟩]) }
    let s := dropHot s tab e g.rows
    let s := g.taken.foldl (completeTaken e) s
    g.flips.foldl (fun s f =>
      let page := ptePage (tEntry s g.newVer f.2.1 f.2.2)
      let s := bump s ⟨.EMB_CNT3, page / stackBytes / 5, 0⟩ 63 32 1
      let more := (getTable s tab).elim false fun x => x.moves.any (fun m => m.ctx = f.1) || x.groups.any (fun h => h.newVer ≠ g.newVer && h.flips.any (·.1 = f.1))
      if isLive s f.1 && (getCtx s f.1).work.applied && !more then
        completeTaken e s ⟨f.1, (getCtx s f.1).gen, dItems (getCtx s f.1).desc, List.replicate (dItems (getCtx s f.1).desc) 0⟩
      else s) s

/-- Action 2 for one table. -/
def publishTab (e : Nat) (s : State) (tab : Nat) : State :=
  match getTable s tab with
  | none => s
  | some t =>
    let due := t.groups.takeWhile fun g => decide (g.commit ≤ e)
    let s := due.foldl (publishTabGroup tab e) s
    modTable s tab fun t => { t with groups := t.groups.drop due.length }

/-- EPOCH_FREEZE for one table: of its due groups, the one after the first `k` and every later one move (R47). -/
def deferTab (n : Nat) (s : State) (tab k : Nat) : State :=
  match getTable s tab with
  | none => s
  | some t =>
    let due (g : TabGroup) : Bool := decide (g.commit ≤ n)
    let s := bump s (rTck .TCK_CNT0) 31 0 ((t.groups.filter due).length - k)
    let s := (((t.groups.filter due).drop k).flatMap fun g => g.flips.map fun f => ptePage (tEntry s g.newVer f.2.1 f.2.2)).foldl
      (fun s a => bump s ⟨.EMB_CNT3, a / stackBytes / 5, 0⟩ 31 0 1) s
    modTable s tab fun t => { t with groups := fromDue due (fun g => { g with commit := n + 1 }) k t.groups }

/-! ### Retained versions (R58, R59, R227) -/

/-- Whether a superseded record is freed at boundary `b`, given the pins of its readers (R58). -/
def freeable (s : State) (b : Nat) (pins : List Nat) (r : Retained) : Bool :=
  decide (r.sup + retainMin s ≤ b) && pins.all fun p => decide (r.sup ≤ p)

/-- Free a superseded record: the newer one names what it named before, and its blocks return (R227). The superseded record is the one
that the newer one's prev names. -/
def freeRec (s : State) (r : Retained) : State :=
  let old := rdN s (r.newer + 8)
  let s := wrW s (r.newer + 8) (rdW s (old + 8))
  r.sysMem.foldl (fun s b => sysFree s b.1 b.2) s

/-- Free what of a list may be freed; answers what stays. -/
def freeList (s : State) (b : Nat) (pins : List Nat) (rs : List Retained) : State × List Retained :=
  ((rs.filter (freeable s b pins)).foldl freeRec s, rs.filter fun r => !freeable s b pins r)

/-- Action 4 for one collection: freed versions, and the entries of its plan whose superseded version is gone. -/
def freeColl (b : Nat) (s : State) (coll : Nat) : State :=
  let co := getColl s coll
  let (s, keep) := freeList s b (pinsOf s coll ++ consolPins s coll) co.retained
  let gone := (co.retained.filter fun r => !keep.contains r).foldl (fun n r => max n (r.sup - 1)) co.goneTo
  let note (p : Plan) : Plan := { p with swaps := p.swaps.map fun w =>
    if w.freed.isNone && w.at_ ≠ 0 && !keep.any (fun r => r.newer = w.new) then { w with freed := some b } else w }
  setColl s coll { co with retained := keep, goneTo := gone, plan := co.plan.map note, past := co.past.map note }

/-- RETAINED_VERSION_FREE (R58) for one collection at the current boundary. -/
def doRetainedFree (s : State) (coll : Nat) : State := if (mapGet s.colls coll).isNone then s else freeColl s.tick.epoch s coll

/-- Pins of a polder's readers: its live requests, and the flash lists that run for it (R55, R57). -/
def polderPins (s : State) (p : Nat) : List Nat :=
  ((s.ctxs.filter fun e => e.2.st = .live && e.2.polder = p).map fun e => e.2.pin)
    ++ s.fss.lists.flatMap fun e => (e.2.filter fun l => l.polder = p && l.since.isSome).map (·.epoch)

/-- Action 4: every retained version of collections, tables, models and flash maps. -/
def freeRetained (s : State) (b : Nat) : State :=
  let s := s.colls.foldl (fun s e => freeColl b s e.1) s
  let s := s.tables.foldl (fun s e =>
    let (s, keep) := freeList s b (polderPins s e.2.polder) e.2.retained
    modTable s e.1 fun t => { t with retained := keep }) s
  let s := s.models.foldl (fun s e =>
    let (s, keep) := freeList s b (polderPins s e.2.polder) e.2.retained
    { s with models := mapMod s.models e.1 fun m => { m with retained := keep } }) s
  let owner (ns : Nat) : Nat := (getNs s ns).elim 0 (·.polder)
  let ok (r : Nat × Retained) : Bool := freeable s b (polderPins s (owner r.1)) r.2
  let all := s.fss.retained
  let s := (all.filter ok).foldl (fun s r => freeRec s r.2) s
  modFss s fun f => { f with retained := all.filter fun r => !ok r }

/-- What a stop frees: every retained version (R68). -/
def freeAll (s : State) : State :=
  let far := s.tick.epoch + 2 ^ 20
  freeRetained s far

/-! ### Replacement plans (R235 to R240) -/

/-- The header's fields (R235). -/
structure PlanHdr where
  coll     : Nat
  mode     : Nat
  window   : Nat
  perTick  : Nat
  ringLog  : Nat
  segs     : Nat
  appended : Nat
  epRegion : Nat
  epOff    : Nat

def planHdr (s : State) (a : Nat) : PlanHdr :=
  let w := rdW s a
  let w5 := rdW s (a + 40)
  ⟨fld w 63 56, fld w 55 54, fld w 53 48, fld w 47 44, fld w 43 40, fld w 39 18, rdN s (a + 8), fld w5 59 48, fld w5 47 0⟩

/-- Pages of a segment's run: codes, adjacency, attributes, tombstones (R235). -/
def runPages (s : State) (co : Coll) (seg : Nat) : Nat := (allComps.map (compPages s co seg)).foldl (· + ·) 0

/-- Pages of the polder's regions that no version of its collections references (R237). -/
def freeCount (s : State) (p : Nat) : Nat :=
  let used := ascending (polderPages s p)
  (regionsOf s p).foldl (fun n r =>
    let lo := r.2.addr 0
    n + r.2.bytes / 65536 - (used.filter fun a => decide (lo ≤ a) && decide (a < lo + r.2.bytes / 65536 * 65536)).length) 0

/-- The new entry-point lists that a header names, one per partition; none when one breaks R167 or leaves its region (R235, R237). -/
def readEps (s : State) (co : Coll) (r : Nat) : Nat → Nat → Nat → Option (List (Nat × List Nat))
  | 0, _, _ => some []
  | n + 1, part, off =>
    match regionAddr s co.polder r off 64 with
    | none => none
    | some a =>
      let count := fld (rdW s (a + 16)) 6 0
      let size := 64 + 8 * count
      let ids := (List.range count).map fun i => rdN s (a + 64 + 8 * i)
      if count = 0 ∨ 64 < count ∨ (regionAddr s co.polder r off size).isNone
          ∨ ids.any (fun x => decide (2 ^ 34 ≤ x) || !cHas s co x || cPartOf s co x ≠ part) then none
      else (readEps s co r n (part + 1) (off + cdiv size 64 * 64)).map fun rest => (part, ids) :: rest

/-- The lists of a plan: none when they are bad, an empty list when it names none. -/
def planEps (s : State) (co : Coll) (h : PlanHdr) : Option (List (Nat × List Nat)) :=
  if h.epRegion = 0 ∧ h.epOff = 0 then some []
  else if h.epOff % 64 ≠ 0 then none else readEps s co h.epRegion (cParts s co) 0 h.epOff

/-- What R237 calls an invalid plan, of the header at `a`. `mine`: the plan itself waits for its acceptance. A plan on a replicated
collection runs on the writer (R240); another part refuses it with REPLACE_INVALID (DESIGN CHOICE). -/
def planInvalid (s : State) (p r off : Nat) (mine : Bool) (a : Nat) : Bool :=
  let h := planHdr s a
  let co := getColl s h.coll
  let n := cSegments s co
  let running := co.plan.elim false fun q => (q.st = .waiting && !mine) || q.st = .running
  decide (off % 64 ≠ 0 ∨ (mapGet s.colls h.coll).isNone ∨ co.polder ≠ p ∨ 1 < h.mode ∨ h.perTick = 0 ∨ h.ringLog < 4
        ∨ (h.mode = 0 ∧ h.window ≠ 0) ∨ (h.mode = 1 ∧ h.window = 0) ∨ h.segs ≠ n ∨ (regionAddr s p r off (64 + 32 * 2 ^ h.ringLog)).isNone
        ∨ running ∨ (h.mode = 0 ∧ h.appended ≠ h.segs) ∨ (planEps s co h).isNone ∨ (mReplicated s co ∧ !co.writer))

/-- Free pages that a plan needs (R237): for every segment at once, or for the largest one in each place of its window. -/
def planNeed (s : State) (a : Nat) : Nat :=
  let h := planHdr s a
  let co := getColl s h.coll
  let runs := (List.range (cSegments s co)).map (runPages s co)
  if h.mode = 0 then runs.foldl (· + ·) 0 else h.window * runs.foldl max 0

/-- The checks of R237: 0, or the code that refuses the plan. -/
def planCode (s : State) (p r off : Nat) (mine : Bool) : Nat :=
  match regionAddr s p r off 64 with
  | none => Code.REPLACE_INVALID
  | some a =>
    if planInvalid s p r off mine a then Code.REPLACE_INVALID
    else if planNeed s a ≤ freeCount s p then 0 else Code.REPLACE_SPACE

/-- Write a refusal into a plan's header (R511). -/
def planRefuse (s : State) (a code : Nat) : State := wrWords s (a + 24) [BitVec.ofNat 64 (3 * 2 ^ 60), BitVec.ofNat 64 (code * 2 ^ 48)]

/-- Take a checked plan: it waits for boundary `r0` (R236). A plan that is over stays until its superseded versions are freed (R235). -/
def planWait (s : State) (a r0 : Nat) : State :=
  let h := planHdr s a
  let p : Plan :=
    { hdr := a, atomic := h.mode = 0, window := h.window, perTick := h.perTick, ringLog := h.ringLog, segs := h.segs, r0 := r0, swapAt := r0 + 1,
      eps := [], swaps := [], st := .waiting, seen := 0, dispo := 0, lastEp := 0 }
  let co := getColl s h.coll
  setColl s h.coll { co with plan := some p, past := co.past ++ co.plan.toList }

/-- The plan of a collection begins: its entry-point lists are copied, and mutations committing later are refused (R236, R237). -/
def planRun (s : State) (coll : Nat) : State :=
  let co := getColl s coll
  match co.plan with
  | some p =>
    if p.st ≠ .waiting then s else
      let eps := (planEps s co (planHdr s p.hdr)).getD []
      dropBlocked (setColl s coll { co with plan := some { p with st := .running, eps := eps, r0 := s.tick.epoch, swapAt := s.tick.epoch + 1 } }) coll
  | none => s

/-- A ring entry's segment and the address of its run. -/
def planEntry (s : State) (co : Coll) (p : Plan) (i : Nat) : Nat × Option Nat :=
  let a := p.hdr + 64 + 32 * (i % 2 ^ p.ringLog)
  let seg := fld (rdW s a) 63 32
  let w := rdW s (a + 8)
  (seg, if fld w 47 0 % 65536 = 0 then regionAddr s co.polder (fld w 59 48) (fld w 47 0) (65536 * runPages s co seg) else none)

/-- Whether a page lies in rows that the loader proved for the collection: stacks of its delta region, same layout mode (R240). -/
def pageProved (s : State) (co : Coll) (a : Nat) : Bool :=
  match regionOf s co.polder (mDeltaRegion s co) with
  | none => false
  | some g =>
    let lo := g.addr 0
    decide (a < hbmEnd) && decide (lo / stackBytes ≤ a / stackBytes) && decide (a / stackBytes ≤ (lo + g.bytes - 1) / stackBytes)
      && rowStriped s (a / stackBytes) (a % stackBytes / rowBytes) = rowStriped s (lo / stackBytes) (lo % stackBytes / rowBytes)

/-- Pages of a run. -/
def pagesFrom (a n : Nat) : List Nat := (List.range n).map fun i => a + 65536 * i

/-- An entry taken: ring index, segment, first page. -/
structure TakenEntry where
  ix  : Nat
  seg : Nat
  at_ : Nat

/-- The pages of an entry's run. -/
def entryPages (s : State) (co : Coll) (p : Plan) (i : Nat) : List Nat :=
  let (seg, a?) := planEntry s co p i
  a?.elim [] fun a => pagesFrom a (runPages s co seg)

/-- Check the entries `is` of the entries `all` taken at a boundary, in ring order: those that pass before the first that fails, and whether
one fails (R240). An entry fails that shares a page with any other one taken there. -/
def checkEntries (s : State) (co : Coll) (p : Plan) (used all : List Nat) : List Nat → List TakenEntry → List TakenEntry × Bool
  | [], acc => (acc, false)
  | i :: is, acc =>
    let (seg, a?) := planEntry s co p i
    match a? with
    | none => (acc, true)
    | some a =>
      let pages := pagesFrom a (runPages s co seg)
      let others := p.swaps.flatMap (·.pages) ++ (all.filter (· ≠ i)).flatMap (entryPages s co p)
      if cSegments s co ≤ seg ∨ p.swaps.any (·.seg = seg) ∨ acc.any (·.seg = seg) ∨ pages.any (fun x => !pageProved s co x)
          ∨ pages.any (fun x => used.contains x || others.contains x) then (acc, true)
      else checkEntries s co p used all is (acc ++ [⟨i, seg, a⟩])

/-- Live items of a segment by its tombstone pages (R150). -/
def liveCount (s : State) (co : Coll) (seg tomb : Nat) : Nat :=
  ((List.range (cSegSize s co seg)).filter fun ix =>
    decide (bits (rdB s (tomb + ix / 524288 * 65536 + ix % 524288 / 8)).toNat (ix % 8) (ix % 8) = 0)).length

/-- Build the version record over a run's pages (R153, R235). -/
def runVersion (s : State) (co : Coll) (x : TakenEntry) (old : Nat) : State × Nat :=
  let step (acc : State × List Nat × Nat) (c : Comp) : State × List Nat × Nat :=
    let (s, pts, a) := acc
    let n := compPages s co x.seg c
    if n = 0 then (s, pts ++ [0], a) else
      let (s, pt) := sysPut s (wordBytes ((pagesFrom a n).map (mkPte false)))
      (s, pts ++ [pt], a + 65536 * n)
  let (s, pts, _) := allComps.foldl step (s, [], x.at_)
  let tomb := x.at_ + 65536 * (runPages s co x.seg - compPages s co x.seg .tomb)
  let live := liveCount s co x.seg tomb
  sysPut s (wordBytes ([0, BitVec.ofNat 64 old] ++ pts.map (BitVec.ofNat 64) ++ [BitVec.ofNat 64 (live * 2 ^ 32), 0]))

/-- Swap the entries taken at boundary `e`, with the entry-point lists when `eps`. On a replicated collection they form a group that
commits two boundaries on (R240, R233). Segments' base pages for folding belong to the displaced version. -/
def swapEntries (s : State) (coll e : Nat) (xs : List TakenEntry) (eps : Bool) : State :=
  let co := getColl s coll
  let rep := mReplicated s co
  let (s, segs, ws) := xs.foldl (fun (acc : State × List SegChange × List Swapped) x =>
    let (s, segs, ws) := acc
    let old := baseVer s co x.seg
    let (s, v) := runVersion s co x old
    (s, segs ++ [⟨x.seg, v⟩], ws ++ [⟨x.ix, x.seg, old, v, pagesFrom x.at_ (runPages s co x.seg), 0, none⟩])) (s, [], [])
  let p := co.plan
  let (s, es) := (if eps then (p.map (·.eps)).getD [] else []).foldl (fun (acc : State × List (Nat × Nat)) x =>
    let (s, a) := putEp acc.1 (baseEp acc.1 co x.1) x.2; (s, acc.2 ++ [(x.1, a)])) (s, [])
  let s := setColl s coll { getColl s coll with
    bases := (getColl s coll).bases.filter fun b => !xs.any (·.seg = b.1)
    plan := p.map fun p => { p with swaps := p.swaps ++ ws, swapAt := if p.atomic && rep then e + 2 else p.swapAt } }
  let (s, lo, hi) := groupRange s coll none 0
  let g : Group := { mseqLo := lo, mseqHi := hi, stamp := s.now, commit := if rep then e + 2 else e, segs := segs, eps := es, taken := [],
                     wrote := [], staged := [], named := none }
  if rep then setColl s coll { getColl s coll with groups := (getColl s coll).groups ++ [g] } else publishGroup coll e s g

/-- The replacement ends with a code (R240). -/
def endPlan (s : State) (coll code : Nat) : State :=
  setColl s coll { getColl s coll with plan := (getColl s coll).plan.map fun p => { p with st := .ended, dispo := code } }

/-- ATOMIC_SWAP (R238): every entry is checked, then all swap as one group. -/
def doAtomicSwap (s : State) (coll : Nat) : State :=
  let co := getColl s coll
  let e := s.tick.epoch
  match co.plan with
  | none => s
  | some p =>
    if !(p.atomic && p.st = .running && p.swapAt = e && p.swaps.isEmpty) then s else
      let all := List.range p.segs
      let (xs, bad) := checkEntries s co p (versionPages s co.polder) all all []
      if bad then endPlan s coll Code.REPLACE_PAGES else swapEntries s coll e xs true

/-- ROLLING_SWAP (R239). -/
def doRollingSwap (s : State) (coll : Nat) : State :=
  let co := getColl s coll
  let e := s.tick.epoch
  match co.plan with
  | none => s
  | some p =>
    if p.atomic || p.st ≠ .running || decide (e ≤ p.r0) || p.rollAt = e then s else
      let done := p.swaps.length
      let out := (p.swaps.filter (·.freed.isNone)).length
      let n := min (min p.perTick (p.window - out)) (min (p.seen - done) (p.segs - done))
      let all := (List.range n).map (done + ·)
      let (xs, bad) := checkEntries s co p (versionPages s co.polder) all all []
      let s := setColl s coll { co with plan := some { p with rollAt := e } }
      let s := if xs.isEmpty then s else swapEntries s coll e xs (p.segs ≤ done + xs.length)
      if bad then endPlan s coll Code.REPLACE_PAGES else s

/-- The berm notice: entries appended so far (R239). -/
def seePlans (s : State) : State :=
  { s with colls := s.colls.map fun e => (e.1, { e.2 with plan := e.2.plan.map fun p => { p with seen := rdN s (p.hdr + 8) } }) }

def PlanState.num : PlanState → Nat
  | .waiting => 0
  | .running => 1
  | .done => 2
  | .ended => 3

/-- Words 2 to 4 of a plan's header and the epoch words of its entries (R235). Entries whose group is not published are not swapped yet. -/
def planWords (s : State) (p : Plan) : State :=
  let done := p.swaps.filter (·.at_ ≠ 0)
  let freed := (done.filter (·.freed.isSome)).length
  let s := wrWords s (p.hdr + 16) [BitVec.ofNat 64 (done.length * 2 ^ 32 + freed), BitVec.ofNat 64 (p.st.num * 2 ^ 60 + p.lastEp),
    BitVec.ofNat 64 (p.dispo * 2 ^ 48)]
  done.foldl (fun s w => wrWords s (p.hdr + 64 + 32 * (w.ix % 2 ^ p.ringLog) + 16) [BitVec.ofNat 64 w.at_, BitVec.ofNat 64 (w.freed.getD 0)]) s

/-- Whether a plan is over and its superseded versions are all freed. -/
def Plan.over (p : Plan) : Bool := decide (p.st = .done ∨ p.st = .ended) && p.swaps.all (·.freed.isSome)

/-- After action 4: what the part writes of a collection's plans (R235). A plan that is over is forgotten. -/
def writePlan (s : State) (coll : Nat) : State :=
  let co := getColl s coll
  let s := (co.past ++ co.plan.toList).foldl planWords s
  setColl s coll { co with plan := co.plan.filter fun p => !p.over, past := co.past.filter fun p => !p.over }

/-- Every plan's header and entries, of every collection (R235, R239). -/
def writePlans (s : State) : State := s.colls.foldl (fun s e => writePlan s e.1) s

/-! ### Action 2 -/

/-- Action 2 of boundary `e`: every collection, swaps of plans, tables, models and flash maps (R46 to R48, R379). -/
def publishAll (s : State) (e : Nat) : State :=
  let s := s.colls.foldl (fun s x => publishColl e s x.1) s
  let s := s.colls.foldl (fun s x => doRollingSwap (doAtomicSwap s x.1) x.1) s
  let s := s.tables.foldl (fun s x => publishTab e s x.1) s
  let s := publishModels s e
  flipAll (doMapCommit s)

/-! ### Replicas (R233) -/

/-- An item as a group leaves it: id, code, attributes, slots, tombstone bit, full vector when the group wrote it. -/
abbrev ItemImage : Type := Nat × List Byte × List Byte × List Nat × Bool × List Byte

/-- The final records of the ids a group wrote (R233), read from its staged versions. -/
def itemImage (s : State) (co : Coll) (g : Group) (vecs : Map (List Byte)) (id : Nat) : ItemImage :=
  let seg := cSegOf s co id
  let ix := cIxOf s co id
  let ver := (g.segs.find? (·.seg = seg)).elim (cNewest s co seg) (·.newVer)
  (id, readCode s co ver ix, readAttr s co ver ix, filled (readAdj s co ver ix), !liveIn s co ver ix, mapGetD vecs id [])

/-- Full vectors that the requests of a group wrote (R233). -/
def groupVecs (s : State) (co : Coll) (g : Group) : Map (List Byte) :=
  if !cFull s co then [] else
    g.taken.foldl (fun m x =>
      let d := (getCtx s x.ctx).desc
      if dKind d = kDelete then m else (List.range (dItems d)).foldl (fun m i => mapSet m (itemId s co d i) (itemVec s co d i)) m) []

/-- Write one item's image into a replica's build; the images are written unchanged (R233). -/
def putImage (co : Coll) (acc : State × Build) (x : ItemImage) : State × Build :=
  let (id, code, attr, slots, dead, _) := x
  let (s, b) := acc
  if !b.ok || !cHas s co id then acc else
    let (s, b) := putRec s co b .codes id code
    let (s, b) := if b.ok then putRec s co b .attr id attr else (s, b)
    let (s, b) := if b.ok then putRec s co b .adj id (adjBytes (cDegree s co) slots) else (s, b)
    if b.ok then putTomb s co b id dead else (s, b)

/-- A unit as a replica's staged groups leave it: the latest of their writes, or the newest map version (R233, R397). -/
def unitNow (s : State) (coll ns u : Nat) : State × Nat × List Byte :=
  match (s.fss.wrs.filter fun w => w.ns = ns && w.unit = u && w.hold.elim false (·.1 = 8192 + coll)).getLast? with
  | some w => (s, 0, (mapGet s.fss.pages w.loc).elim [] (·.data))
  | none => readUnit s ns ((getNs s ns).elim 0 (·.newest)) u (some 1)

/-- Write one unit of a replica's namespace: the vectors of a group's images that lie in it (R233). -/
def putUnit (coll hi : Nat) (items : List ItemImage) (s : State) (u : Nat) : State :=
  let co := getColl s coll
  let per := max 1 (cFullPer s co)
  let (s, code, old) := unitNow s coll (cFullNs s co) u
  let data := items.foldl (fun bs x =>
    let n := x.1 - cIdBase s co
    let v := x.2.2.2.2.2
    if v.isEmpty || n / per ≠ u then bs else let o := n % per * cFullStride s co; bs.take o ++ v ++ bs.drop (o + v.length)) old
  if code ≠ 0 then s else (writeUnit s co.polder (cFullNs s co) u 0 data none none (some (8192 + coll, hi)) (flowTag 7 1 u)).1

/-- Stage a group from its images; none when pages are short (R226, R233). The map changes of its full vectors wait for its commit. -/
def stageImages (s : State) (coll lo hi commit : Nat) (items : List ItemImage) (eps : List (Nat × List Nat)) (t : Stamp) : Option State :=
  let co := getColl s coll
  let (s', b) := items.foldl (putImage co) (s, { used := pagesInUse s co.polder })
  if !b.ok then none else
    let units := if !cFull s co then [] else
      ascending ((items.filter fun x => !x.2.2.2.2.2.isEmpty).map fun x => (x.1 - cIdBase s co) / max 1 (cFullPer s co))
    let s' := units.foldl (putUnit coll hi items) s'
    some (stageGroup s' coll { b with eps := eps } lo hi t commit [])

end Sys2Proof.Machine
end

