-- ==== Sys2Proof/Machine/Fabric.lean ====
section
/-! DEFINITION. The fabric's ports, packets and connections (R417 to R442): receiving (R434, R438), go-back-N (R432, R433), queues of
software (R435 to R440), the context cache (R430, R431) and egress (R441, R442). -/

namespace Sys2Proof.Machine

/-! ### Ports and peers -/

def AftPort.fresh : AftPort :=
  { pauses := [], frames := [], xoff := [], cache := [], parked := [], held := [], inbox := [], rr := [], defer := none, kaTick := none, kept := 0 }
def getPort (s : State) (n : Nat) : AftPort := (nth? s.fab.ports n).getD AftPort.fresh
def modFab (s : State) (f : Fabric → Fabric) : State := { s with fab := f s.fab }
def modPort (s : State) (n : Nat) (f : AftPort → AftPort) : State := modFab s fun x => { x with ports := modAt x.ports n f }

def rPortCfg (n : Nat) : Reg := ⟨.AFT_PORT_CFG, n, 0⟩
def rPortSts (n : Nat) : Reg := ⟨.AFT_PORT_STS, n, 0⟩
def portMode (s : State) (n : Nat) : Nat := getF s (rPortCfg n) 37 36
def retryMax (s : State) (n : Nat) : Nat := getF s (rPortCfg n) 35 32
def rtoNs (s : State) (n : Nat) : Nat := getF s (rPortCfg n) 31 16 * us
def rnrRetry (s : State) (n : Nat) : Nat := getF s (rPortCfg n) 15 12
def ackNs (s : State) (n : Nat) : Nat := getF s (rPortCfg n) 7 0 * us

/-- State of a half (R459): 0 DOWN, 1 TRAINING, 2 UP, 3 FAILED. -/
def halfState (s : State) (n h : Nat) : Nat := getF s (rPortSts n) (49 + 2 * h) (48 + 2 * h)
def setHalf (s : State) (n h v : Nat) : State := setF s (rPortSts n) (49 + 2 * h) (48 + 2 * h) v

/-- Whether the port's toe die lives and its mode is not OFF. -/
def portOn (s : State) (n : Nat) : Bool := portMode s n ≠ 0 && !s.toeLost.contains n

/-- Line rate of a half in bytes per ns (R419). -/
def halfRate (s : State) (n : Nat) : Nat := if portMode s n = 2 then 50 else 100

/-- This part's node number (R461). -/
def myNode (s : State) : Nat := getF s ⟨.AFT_COLL_CFG, 0, 0⟩ 63 48

/-- Address of peer record `i` of a port; the local records follow the table (R425). -/
def peerAddr (s : State) (n i : Nat) : Nat := s.fab.peerArr + n * (1024 * 32 + 64) + 32 * i
def peerValid (s : State) (n i : Nat) : Bool := fld (rdW s (peerAddr s n i + 24)) 0 0 = 1
def peerNode (s : State) (n i : Nat) : Nat := fld (rdW s (peerAddr s n i)) 15 0
def peerHalf (s : State) (n i : Nat) : Nat := fld (rdW s (peerAddr s n i + 24)) 2 2
def getPeer (s : State) (n i : Nat) : Peer := mapGetD s.fab.peers (n * 1024 + i) { st := 1, last := 0, losses := 0 }
def setPeer (s : State) (n i : Nat) (v : Peer) : State := modFab s fun f => { f with peers := mapSet f.peers (n * 1024 + i) v }

/-! ### Connections -/

def Conn.fresh : Conn :=
  { st := .closed, incarn := 0, reason := 0, reopen := false, next := 0, una := 0, cur := 0, alloc := 0, w := 0, tally := 0, fell := none,
    timeouts := 0, rnrPsn := 0, rnrCount := 0, rnrUntil := none, advAt := 0, nakAt := none, paid := false, waited := false, tx := [],
    sqProd := 0, sqCons := 0, sqCount := 0, rqProd := 0, rqCons := 0, rqCount := 0, cqIx := 0, cqPend := [], chained := false, busy := false,
    epsn := 0, rx := none, unacked := 0, ackFrom := none, seqNak := none, ce := false, ackTick := none, msn := 0 }

def getConn (s : State) (c : Nat) : Conn := mapGetD s.fab.conns c Conn.fresh
def setConn (s : State) (c : Nat) (v : Conn) : State := modFab s fun f => { f with conns := mapSet f.conns c v }
def modConn (s : State) (c : Nat) (f : Conn → Conn) : State := setConn s c (f (getConn s c))

def connHalf (s : State) (c : Nat) : Nat := connTarget s c % 2
def connClass (s : State) (c : Nat) : Nat := fld (connW s c 0) 45 43
def connMtu (s : State) (c : Nat) : Nat := 1024 * 2 ^ fld (connW s c 0) 42 41
def connPinned (s : State) (c : Nat) : Bool := fld (connW s c 0) 40 40 = 1
def connPeer (s : State) (c : Nat) : Nat := fld (connW s c 0) 39 30
def connNode (s : State) (c : Nat) : Nat := peerNode s (connPort s c) (connPeer s c)
def connWinMax (s : State) (c : Nat) : Nat := fld (connW s c 1) 31 21
def connWinMin (s : State) (c : Nat) : Nat := fld (connW s c 1) 20 10
def connRxKey (s : State) (c : Nat) : Nat := fld (connW s c 2) 63 32
def sqSize (s : State) (c : Nat) : Nat := 2 ^ fld (connW s c 2) 31 28
def rqSize (s : State) (c : Nat) : Nat := 2 ^ fld (connW s c 2) 27 24
def connRelay (s : State) (c : Nat) : Nat := fld (connW s c 4) 63 46
def connRelayEn (s : State) (c : Nat) : Bool := fld (connW s c 4) 45 45 = 1
def connPoolNs (s : State) (c : Nat) : Nat := fld (connW s c 4) 11 0

/-- Address of the queue block of a DATA connection (R435). -/
def queueAddr (s : State) (c : Nat) : Option Nat :=
  regionAddr s (connPolder s c) (fld (connW s c 3) 59 48) (fld (connW s c 3) 47 0) (64 * (sqSize s c + rqSize s c))

/-- Bump an AFT counter of a port. -/
def bumpAft (s : State) (name : RegName) (n hi lo k : Nat) : State := bump s ⟨name, n, 0⟩ hi lo k
def violation (s : State) (n : Nat) : State := bumpAft s .AFT_CNT3 n 63 32 1

/-! ### The bytes of a frame up to its payload (R8, R418, R421 to R424): fields of standard headers lie in network byte order -/

/-- A field of `n` bytes in network byte order (R8). -/
def netBytes (n v : Nat) : List Byte := (leBytes n v).reverse

/-- An address record's MAC address and IP address (R425). -/
def recMac (s : State) (a : Nat) : List Byte := netBytes 6 (fld (rdW s a) 63 16)
def recIp (s : State) (a : Nat) (v6 : Bool) : List Byte :=
  if v6 then netBytes 8 (rdN s (a + 8)) ++ netBytes 8 (rdN s (a + 16)) else netBytes 4 (fld (rdW s (a + 16)) 31 0)

/-- The ones' complement sum of 16-bit words that IPv4 defines for its header. -/
def ipSum : Nat → List Byte → Nat
  | acc, hi :: lo :: bs => let n := acc + 256 * hi.toNat + lo.toNat; ipSum (n % 0x10000 + n / 0x10000) bs
  | acc, _ => 0xFFFF - acc

/-- Ethernet, 802.1Q, IP and UDP headers before `n` bytes, to peer `i` of port `n0`, for a connection number and a class (R418, R421, R425). -/
def lowerHeaders (s : State) (n0 i conn cls n : Nat) : List Byte :=
  let peer := peerAddr s n0 i
  let own := peerAddr s n0 1024 + 32 * peerHalf s n0 i
  let v6 := fld (rdW s (peer + 24)) 1 1 = 1
  let cfg := getReg s (rPortCfg n0)
  let udp := netBytes 2 (0xC000 + conn % 16384) ++ netBytes 2 4791 ++ netBytes 2 (8 + n) ++ netBytes 2 0
  let tos := 4 * Config.ipDscp.toNat + 2
  let ip := if v6 then
      netBytes 4 (6 * 2 ^ 28 + tos * 2 ^ 20 + (Config.flowLabel conn).toNat) ++ netBytes 2 (8 + n) ++ netBytes 1 17 ++ netBytes 1 (fld cfg 47 40)
        ++ recIp s own true ++ recIp s peer true
    else
      let a := netBytes 1 0x45 ++ netBytes 1 tos ++ netBytes 2 (28 + n) ++ netBytes 2 (Config.ipIdent s.out.length).toNat ++ netBytes 2 0x4000
        ++ netBytes 1 (fld cfg 47 40) ++ netBytes 1 17
      let b := recIp s own false ++ recIp s peer false
      a ++ netBytes 2 (ipSum 0 (a ++ b)) ++ b
  recMac s peer ++ recMac s own ++ netBytes 2 0x8100 ++ netBytes 2 (cls * 2 ^ 13 + fld cfg 63 52) ++ netBytes 2 (if v6 then 0x86DD else 0x0800) ++ ip ++ udp

/-- The base transport header (R422). -/
def bthBytes (op pad conn dest psn : Nat) (ackReq becn : Bool) : List Byte :=
  netBytes 1 op ++ netBytes 1 (pad * 16) ++ netBytes 2 (conn % 0x10000) ++ netBytes 1 (b2n becn * 64) ++ netBytes 3 dest
    ++ netBytes 1 (b2n ackReq * 128 + conn / 0x10000 % 4) ++ netBytes 3 psn

/-- The opcodes of R421. -/
def PktOp.num : PktOp → Nat
  | .first => 0
  | .middle => 1
  | .last => 2
  | .lastImm => 3
  | .only => 4
  | .onlyImm => 5

def PktOp.isFirst : PktOp → Bool
  | .first => true
  | .only => true
  | .onlyImm => true
  | _ => false
def PktOp.isLast : PktOp → Bool
  | .first => false
  | .middle => false
  | _ => true
def PktOp.hasImm : PktOp → Bool
  | .lastImm => true
  | .onlyImm => true
  | _ => false

/-- The number that DestQP names at the far end of a connection (R422, R427). -/
def connDest (s : State) (c : Nat) : Nat := 0x100000 + fld (connW s c 0) 17 0

/-- Everything of a SEND packet that precedes its payload, the ICRC and FCS not among it (R421 to R423). -/
def sendHeader (s : State) (c : Nat) (op : PktOp) (psn incarn len : Nat) (ackReq : Bool) (imm : Option Nat) (n : Nat) : List Byte :=
  let pad := (4 - n % 4) % 4
  let ext := (if op.isFirst then netBytes 4 (fld (connW s c 1) 63 32) ++ netBytes 4 len ++ netBytes 1 incarn ++ netBytes 7 0 else [])
    ++ imm.elim [] (netBytes 4)
  let bth := bthBytes op.num pad c (connDest s c) psn ackReq false
  lowerHeaders s (connPort s c) (connPeer s c) c (connClass s c) (bth.length + ext.length + n + pad + 4) ++ bth ++ ext

/-- AETH and KETH (R424). -/
def ackExt (s : State) (syn msn incarn : Nat) : List Byte :=
  netBytes 1 syn ++ netBytes 3 (msn % 2 ^ 24) ++ netBytes 6 (s.tick.tick % 2 ^ 48) ++ netBytes 1 incarn ++ netBytes 1 0

/-- An Acknowledge of a connection (R421, R422, R424). -/
def ackHeader (s : State) (c psn syn msn incarn : Nat) (becn : Bool) : List Byte :=
  lowerHeaders s (connPort s c) (connPeer s c) c (connClass s c) 28 ++ bthBytes 0x11 0 c (connDest s c) psn false becn ++ ackExt s syn msn incarn

/-- A keepalive to a peer (R422, R426): of no connection, so what it shows of one is open. -/
def keepaliveHeader (s : State) (n i : Nat) : List Byte :=
  let (conn, cls) := (Config.keepaliveConn.toNat, Config.keepaliveClass.val)
  lowerHeaders s n i conn cls 28 ++ bthBytes 0x11 0 conn 2 0 false false ++ ackExt s 0x1F 0 0xFF

/-- Send an Acknowledge (R424): it carries BECN for the packets marked CE since the last one. -/
def sendAckPkt (s : State) (c psn syn : Nat) : State :=
  let k := getConn s c
  let s := modConn s c fun k => { k with ce := false }
  { s with out := s.out ++ [.ack c (psn % 2 ^ 24) syn k.ce k.incarn (ackHeader s c (psn % 2 ^ 24) syn k.msn k.incarn k.ce)] }

/-- Send a NAK, counted in naks_sent. -/
def sendNak (s : State) (c psn syn : Nat) : State := bumpAft (sendAckPkt s c psn syn) .AFT_CNT1 (connPort s c) 31 0 1

/-- ACK naming ePSN − 1 (R434). -/
def sendAckNow (s : State) (c : Nat) : State :=
  let k := getConn s c
  modConn (sendAckPkt s c (k.epsn + 2 ^ 24 - 1) 0x1F) c fun k => { k with unacked := 0, ackFrom := none }

/-! ### Queues of software (R435 to R440) -/

/-- The number under which a connection waits for a host. -/
def connWho (c : Nat) : Nat := 16384 + c

/-- Write the completion entries that wait, while hosts let it (R437, R371). -/
def flushCq (s : State) (c : Nat) : Nat → State
  | 0 => s
  | fuel + 1 =>
    let k := getConn s c
    match k.cqPend, queueAddr s c with
    | ws :: rest, some q =>
      let n := sqSize s c + rqSize s c
      let a := q + 32 * n + 32 * (k.cqIx % n)
      let phase := if k.cqIx / n % 2 = 0 then 1 else 0
      match hostAccess s (some (connWho c)) a 32 true with
      | (.wait, s) => s
      | (.code _, s) => flushCq (modConn s c fun k => { k with cqPend := rest, cqIx := k.cqIx + 1 }) c fuel
      | (.ok, s) => flushCq (modConn (wrWords s a (ws ++ [BitVec.ofNat 64 phase])) c fun k => { k with cqPend := rest, cqIx := k.cqIx + 1 }) c fuel
    | _, _ => s

/-- A completion entry of a DATA connection (R437). -/
def putCq (s : State) (c queue code bytes imm count entry : Nat) : State :=
  let ws : List Word := [BitVec.ofNat 64 (queue * 2 ^ 63 + code * 2 ^ 32 + bytes), BitVec.ofNat 64 (imm * 2 ^ 32 + count % 2 ^ 32),
    BitVec.ofNat 64 (entry * 2 ^ 32)]
  let s := modConn s c fun k => { k with cqPend := k.cqPend ++ [ws] }
  flushCq s c 8

/-- Address of a send entry. -/
def sqEntry (s : State) (c ix : Nat) : Nat := (queueAddr s c).getD 0 + 32 * (ix % sqSize s c)
def rqEntry (s : State) (c ix : Nat) : Nat := (queueAddr s c).getD 0 + 32 * sqSize s c + 32 * (ix % rqSize s c)

/-- The head send entry ends with a code (R437, R439). -/
def endEntry (s : State) (c code : Nat) : State :=
  let k := getConn s c
  let bytes := fld (rdW s (sqEntry s c k.sqCons + 8)) 63 32
  let s := modConn s c fun k => { k with sqCons := k.sqCons + 1, sqCount := k.sqCount + 1, busy := false, chained := false }
  putCq s c 0 code bytes 0 (k.sqCount + 1) (k.sqCons % sqSize s c)

/-- End the posted entries from the head on: the head with `code`, the rest with CONN_LOST (R429). -/
def endPosted (s : State) (c : Nat) : Nat → Nat → State
  | 0, _ => s
  | fuel + 1, code =>
    let k := getConn s c
    if k.sqCons < k.sqProd then endPosted (endEntry s c code) c fuel Code.CONN_LOST else s

/-- A connection becomes LOST for a reason (R429): its outstanding entry ends with `head`, every later one with CONN_LOST, and requests
that wait on it with CONN_LOST. Collectives learn of a MEMBER connection through R448. -/
def loseConn (s : State) (c reason head : Nat) : State :=
  let k := getConn s c
  if k.st ≠ .established ∧ k.st ≠ .connecting then s else
    let s := setConn s c { k with st := .lost, reason := reason, tx := [], rx := none, rnrUntil := none, ackFrom := none, unacked := 0 }
    let s := endPosted s c (sqSize s c + 1) (if k.busy then head else Code.CONN_LOST)
    k.tx.foldl (fun s m => match m.tag with
      | .message (some (x, g)) => if connKind s c ≠ 2 ∧ isLive s x ∧ (getCtx s x).gen = g then failCtx s x Code.CONN_LOST else s
      | _ => s) s

/-- Queue a message on a connection: it takes the next PSNs. Nothing is queued on a CLOSED or LOST connection. -/
def pushMsg (s : State) (c : Nat) (tag : TxTag) (imm : Option Nat) (bytes : List Byte) : State :=
  let k := getConn s c
  if k.st = .closed ∨ k.st = .lost then s else
    let n := max 1 (cdiv bytes.length (connMtu s c))
    setConn s c { k with tx := k.tx ++ [⟨tag, k.alloc, n, imm, bytes⟩], alloc := k.alloc + n }

/-- AFT_DB (R435): announce entries, or discard the doorbell and count it. -/
def doDoorbell (s : State) (n : Nat) (host : Option Nat) (v : Word) : State :=
  let s := unIdle s
  let c := fld v 63 46
  let q := fld v 45 45
  let idx := fld v 15 0
  let k := getConn s c
  let size := if q = 1 then rqSize s c else sqSize s c
  let prod := if q = 1 then k.rqProd else k.sqProd
  let cons := if q = 1 then k.rqCons else k.sqCons
  let ahead := (idx + 65536 - cons % 65536) % 65536
  let granted := host.elim true fun h => (s.img.ranges.any fun r => r.1 = h && decide (r.2.1 ≤ connPolder s c) && decide (connPolder s c ≤ r.2.2))
  if k.st = .closed ∨ connKind s c ≠ 0 ∨ connPort s c ≠ n ∨ !granted ∨ size < ahead then bumpAft s .AFT_CNT3 n 31 16 1
  else
    let new_ := max prod (cons + ahead)
    let s := modConn s c fun k => if q = 1 then { k with rqProd := new_ } else { k with sqProd := new_ }
    if k.st = .lost ∧ q = 0 then endPosted s c (size + 1) Code.CONN_LOST else s

/-- Whether a waiting entry's count has been reached (R439). -/
def chainMet (s : State) (w2 w3 : Word) : Bool :=
  let k := getConn s (fld w2 59 42)
  let count := if fld w2 61 61 = 1 then k.rqCount else k.sqCount
  decide ((count + 2 ^ 32 - fld w3 63 32 % 2 ^ 32) % 2 ^ 32 < 2 ^ 31)

/-- The code that a waiting entry ends with at the head of its ring, or 0 (R440). -/
def chainCode (s : State) (c : Nat) (w2 : Word) : Nat :=
  let x := fld w2 59 42
  let p := connPolder s c
  if (getConn s x).st = .closed ∨ connKind s x ≠ 0 ∨ connPolder s x ≠ p then Code.CHAIN_INVALID
  else if fld w2 61 61 = 1 ∧ p ≠ 0 ∧ getF s ⟨.PLD_PRIV, p, 0⟩ 0 0 = 0 then Code.CHAIN_DENIED else 0

/-- Whether a send entry is at the head of a DATA connection's ring and has not been taken. -/
def headReady (s : State) (c : Nat) : Bool :=
  let k := getConn s c
  connKind s c = 0 && (k.st = .established || k.st = .connecting) && decide (k.sqCons < k.sqProd) && !k.busy

/-- CHAIN_START (R439, R440): the head entry's wait is over, or it is refused. -/
def doChainStart (s : State) (c : Nat) : State :=
  let a := sqEntry s c (getConn s c).sqCons
  let w2 := rdW s (a + 16)
  if !headReady s c ∨ fld w2 60 60 = 0 then s
  else if chainCode s c w2 ≠ 0 then endEntry s c (chainCode s c w2)
  else if chainMet s w2 (rdW s (a + 24)) then modConn s c fun k => { k with chained := true } else s

/-- SEND, SEND_IMM and NOP (R436): the head entry, when it is of the row's op; a reserved op ends with LOCAL_ACCESS by the SEND row.
The whole message is checked before its first packet (R538). -/
def doEntry (s : State) (c op : Nat) : State :=
  let a := sqEntry s c (getConn s c).sqCons
  if !headReady s c then s else
    match hostAccess s (some (connWho c)) a 32 false with
    | (.wait, s) => s
    | (.code e, s) => endEntry s c e
    | (.ok, s) =>
      let w0 := rdW s a
      let w1 := rdW s (a + 8)
      let w2 := rdW s (a + 16)
      let mine := fld w0 63 60 = op || (op = 0 && decide (2 < fld w0 63 60))
      if !mine then s
      else if fld w2 60 60 = 1 ∧ !(getConn s c).chained ∧ (chainCode s c w2 ≠ 0 ∨ !chainMet s w2 (rdW s (a + 24))) then
        (if chainCode s c w2 ≠ 0 then endEntry s c (chainCode s c w2) else s)
      else if op = 2 then endEntry s c Code.OK
      else
        let n := fld w1 63 32
        match (if 2 < fld w0 63 60 ∨ n = 0 ∨ 2 ^ 24 < n then none else regionAddr s (connPolder s c) (fld w0 59 48) (fld w0 47 0) n) with
        | none => endEntry s c Code.LOCAL_ACCESS
        | some d => match hostAccess s (some (connWho c)) d n false with
          | (.wait, s) => s
          | (.code e, s) => endEntry s c e
          | (.ok, s) =>
            let s := poolUse s (connPolder s c) (fld w0 59 48) (fld w0 47 0) n false
            let s := pushMsg s c .entry (if op = 1 then some (fld w1 31 0) else none) (rdBytes s d n)
            modConn s c fun k => { k with busy := true }

/-! ### Receiving (R434, R438) -/

/-- The landing of a region (R438): its entry of the polder's landing table. -/
def landingOf (s : State) (p r : Nat) : Word := (mapGet s.fab.landing p).elim 0 fun a => rdW s (a + 8 * r)

/-- What the first packet of a message meets: none when no receive entry is posted or a relay cannot take it; otherwise whether it is
a violation, and where it lands (R438, R455). -/
def landingCheck (s : State) (c : Nat) (p : Packet) : Option (Bool × Nat) :=
  let k := getConn s c
  if connKind s c ≠ 0 then
    if connKind s c = 4 ∧ connRelayEn s c ∧ (getConn s (connRelay s c)).st ≠ .established then none
    else some (p.key.toNat ≠ connRxKey s c, 0)
  else if k.rqProd ≤ k.rqCons then none
  else
    let a := rqEntry s c k.rqCons
    let w := rdW s a
    let r := fld w 59 48
    let pol := connPolder s c
    let land := landingOf s pol r
    let room := fld (rdW s (a + 8)) 63 32
    let reg := regionOf s pol r
    match reg, regionAddr s pol r (fld w 47 0) room with
    | some g, some at_ =>
      some (fld land 63 63 = 0 || fld land 31 0 ≠ p.key.toNat || (g.tier = 1 && !g.pinned) || decide (room < p.length), at_)
    | _, _ => some (true, 0)

/-- The message types of MEMBER, SHARD and POOL connections (R445). -/
def msgTypes : List Nat :=
  [0x01, 0x02, 0x03, 0x10, 0x11, 0x12, 0x13, 0x14, 0x15, 0x16, 0x20, 0x21, 0x22, 0x23, 0x30, 0x31, 0x32]

/-- A message of a reserved type is discarded and counted (R445); a relayed one is not read. -/
def msgReserved (s : State) (c : Nat) (bs : List Byte) : Bool :=
  connKind s c ≠ 1 && !(connKind s c = 4 && connRelayEn s c) && !msgTypes.contains ((nth? bs 7).getD 0).toNat

/-- A message has arrived whole: a receive completion, or delivery to the intake buffer (R428, R437, R439). -/
def deliverMsg (s : State) (c : Nat) (m : RxMsg) (imm : Nat) : State :=
  let k := getConn s c
  let s := modConn s c fun k => { k with rx := none }
  if m.bad then s
  else
  let s := modConn s c fun k => { k with msn := (k.msn + 1) % 2 ^ 24 }
  if connKind s c = 0 then
    let s := modConn s c fun k => { k with rqCons := k.rqCons + 1, rqCount := k.rqCount + 1 }
    putCq s c 1 m.code m.len imm (k.rqCount + 1) (k.rqCons % rqSize s c)
  else if msgReserved s c m.buf then violation s (connPort s c)
  else
    let s := if connKind s c = 3 then s else wakeAt s 4 s.now
    modPort s (connPort s c) fun x => { x with inbox := x.inbox ++ [(c, m.buf)] }

/-- An accepted packet: its bytes are written and ePSN advances (R434). -/
def acceptPkt (s : State) (c : Nat) (op : PktOp) (p : Packet) (m : RxMsg) (bytes : List Byte) (t : Stamp) : State :=
  let m := { m with got := m.got + bytes.length, buf := if connKind s c = 0 ∨ m.bad then m.buf else m.buf ++ bytes }
  let s := modConn s c fun k => { k with epsn := k.epsn + 1, rx := some m, unacked := k.unacked + 1, ackFrom := some (k.ackFrom.getD t), seqNak := none }
  let s := if op.isLast then deliverMsg s c m (if op.hasImm then p.imm.toNat else 0) else s
  if p.ackReq ∨ 64 ≤ (getConn s c).unacked then sendAckNow s c else s

/-- The packet expected next (R434, R438); none when a host's line must be recalled first (R371). -/
def takePkt (s : State) (c : Nat) (op : PktOp) (p : Packet) (t : Stamp) : Option State × State :=
  let k := getConn s c
  let n := connPort s c
  let go (s : State) (m : RxMsg) : Option State × State :=
    let bytes := p.payload.take (m.len - m.got)
    if connKind s c ≠ 0 ∨ m.bad ∨ m.code ≠ 0 ∨ bytes.isEmpty then (some (acceptPkt s c op p m bytes t), s)
    else match hostAccess s (some (connWho c)) (m.at_ + m.got) bytes.length true with
      | (.wait, s) => (none, s)
      | (.code e, s) => (some (acceptPkt s c op p { m with code := e } bytes t), s)
      | (.ok, s) => (some (acceptPkt (wrBytes s (m.at_ + m.got) bytes) c op p m bytes t), s)
  if op.isFirst then
    match landingCheck s c p with
    | none => (some (sendNak s c k.epsn 0x24), s)
    | some (bad, at_) =>
      let m : RxMsg := { first := k.epsn, len := p.length, got := 0, bad := bad, code := 0, at_ := at_, buf := [] }
      if bad then
        let s' := violation (sendNak s c k.epsn 0x62) n
        let s' := if connKind s c = 0 then putCq s' c 1 Code.REMOTE_ACCESS p.length 0 k.rqCount (k.rqCons % rqSize s c) else s'
        go s' m
      else go s m
  else match k.rx with
    | some m => go s m
    | none => (some (violation s n), s)

/-- A SEND packet whose context is cached (R429, R434): none when it must be held. -/
def processSend (s : State) (c : Nat) (op : PktOp) (p : Packet) (t : Stamp) : Option State × State :=
  let k := getConn s c
  let n := connPort s c
  if k.st = .closed then (some (sendNak s c p.psn.toNat 0x61), s)
  else if k.st = .lost then (some s, s)
  else if op.isFirst ∧ p.incarn.toNat ≠ k.incarn then (some (violation s n), s)
  else
    let s := if op.isFirst ∧ k.st = .connecting then modConn s c fun k => { k with st := .established } else s
    let behind := (k.epsn % 2 ^ 24 + 2 ^ 24 - p.psn.toNat) % 2 ^ 24
    let s := if p.ecnCe then bumpAft (modConn s c fun k => { k with ce := true }) .AFT_CNT4 n 63 32 1 else s
    if behind = 0 then takePkt s c op p t
    else if behind ≤ 2 ^ 23 then (some (bumpAft (sendAckPkt s c (k.epsn + 2 ^ 24 - 1) 0x1F) .AFT_CNT1 n 63 32 1), s)
    else if k.seqNak.elim false fun x => x.1 = k.epsn && decide (t < x.2 + ackNs s n) then (some s, s)
    else (some (modConn (sendNak s c k.epsn 0x60) c fun k => { k with seqNak := some (k.epsn, t) }), s)

/-! ### Go-back-N (R432, R433) -/

/-- Halve the window, at most once until una passes the next that held when it last fell (R432). -/
def shrink (s : State) (c : Nat) : State :=
  let k := getConn s c
  if k.fell.elim false fun f => decide (k.una < f) then s
  else setConn s c { k with w := max (connWinMin s c) (cdiv k.w 2), fell := some k.next }

/-- A message whose packets are all acknowledged is over. -/
def finishMsg (s : State) (c : Nat) (m : TxMsg) : State :=
  match m.tag with
  | .entry => endEntry s c Code.OK
  | _ => s

/-- una advances (R432). -/
def advance (s : State) (c una : Nat) (becn : Bool) (t : Stamp) : State :=
  let k := getConn s c
  let n := una - k.una
  let done := k.tx.filter fun m => decide (m.start + m.pkts ≤ una)
  let tally := if becn then k.tally else k.tally + n
  let grow := decide (k.w ≤ tally)
  let s := setConn s c { k with una := una, cur := max k.cur una, tx := k.tx.filter (fun m => !decide (m.start + m.pkts ≤ una)), timeouts := 0,
                                rnrCount := 0, advAt := t, w := if grow then min (connWinMax s c) (k.w + 1) else k.w, tally := if grow then 0 else tally }
  done.foldl (fun s m => finishMsg s c m) s

/-- The unacknowledged packet that a 24-bit PSN names: una ≤ p < next. -/
def unaIndex (k : Conn) (psn : Nat) : Option Nat :=
  let d := (psn + 2 ^ 24 - k.una % 2 ^ 24) % 2 ^ 24
  if d < k.next - k.una then some (k.una + d) else none

/-- Whether an Acknowledge belongs to the connection: its incarnation, or 0xFF in a NAK (R429). -/
def ackOwn (k : Conn) (kind : Nat) (p : AckPacket) : Bool := p.incarn.toNat = k.incarn || (kind ≠ 0 && p.incarn.toNat = 0xFF)

/-- The message whose PSNs hold `q`. -/
def msgAt (k : Conn) (q : Nat) : Option TxMsg := k.tx.find? fun m => decide (m.start ≤ q) && decide (q < m.start + m.pkts)

/-- NAK ACCESS (R438): the message's entry, or the request that sends it, ends with REMOTE_ACCESS. -/
def nakAccessMsg (s : State) (c : Nat) (m : TxMsg) : State :=
  let s := violation s (connPort s c)
  let s := modConn s c fun k => { k with tx := k.tx.map fun x => if x = m then { m with tag := .quiet } else x }
  match m.tag with
  | .entry => endEntry s c Code.REMOTE_ACCESS
  | .message (some (x, g)) => if isLive s x ∧ (getCtx s x).gen = g then failCtx s x Code.REMOTE_ACCESS else s
  | _ => s

/-- An Acknowledge whose context is cached: 0 ACK, 1 RNR NAK, 2 NAK SEQUENCE, 3 NAK INVALID, 4 NAK ACCESS (R424). -/
def processAck (s : State) (c kind wait : Nat) (p : AckPacket) (t : Stamp) : State :=
  let k := getConn s c
  let n := connPort s c
  if k.st = .closed ∨ k.st = .lost then s
  else if !ackOwn k kind p then violation s n
  else
    let s := if k.st = .connecting ∧ p.incarn.toNat = k.incarn then modConn s c fun k => { k with st := .established } else s
    let s := if p.becn then shrink s c else s
    let at_ := unaIndex k p.psn.toNat
    match kind, at_ with
    | 0, some q => advance s c (q + 1) p.becn t
    | 1, some q =>
      let n' := if k.rnrPsn = q then k.rnrCount + 1 else 1
      if rnrRetry s n ≤ n' then loseConn s c 3 Code.RECV_NOT_READY
      else modConn s c fun k => { k with rnrPsn := q, rnrCount := n', rnrUntil := some (t + (wait + 1) * 10 * us) }
    | 2, some q =>
      let s := shrink s c
      if k.nakAt.elim false fun x => x.1 = q && decide (t < x.2 + rtoNs s n) then s
      else modConn s c fun k => { k with cur := q, nakAt := some (q, t), paid := false }
    | 3, _ => loseConn s c 4 Code.CONN_CLOSED
    | 4, some q => match msgAt k q with
      | some m => if m.start = q then nakAccessMsg s c m else s
      | none => s
    | _, _ => s

/-- RETRANSMIT_TIMEOUT (R432). -/
def doTimeout (s : State) (c : Nat) (t : Stamp) : State :=
  let k := getConn s c
  let n := connPort s c
  if (k.st ≠ .established ∧ k.st ≠ .connecting) ∨ k.una = k.next ∨ t < k.advAt + rtoNs s n then s
  else
    let s := bumpAft s .AFT_CNT0 n 31 0 1
    if retryMax s n ≤ k.timeouts + 1 then loseConn s c 2 Code.CONN_LOST
    else modConn (shrink s c) c fun k => { k with timeouts := k.timeouts + 1, cur := k.una, advAt := t, paid := false }

/-- RNR_WAIT_END (R433). -/
def doRnrEnd (s : State) (c : Nat) (t : Stamp) : State :=
  let k := getConn s c
  match k.rnrUntil with
  | some u => if u ≤ t then setConn s c { k with rnrUntil := none, cur := k.rnrPsn, paid := false } else s
  | none => s

/-- ACK_DELAY (R434). -/
def doAckDelay (s : State) (c : Nat) (t : Stamp) : State :=
  let k := getConn s c
  match k.ackFrom with
  | some f => if f + ackNs s (connPort s c) ≤ t ∧ k.unacked ≠ 0 then sendAckNow s c else s
  | none => s

/-! ### Arrival, parking and the context cache (R430, R431) -/

/-- A context is used: it moves to the front of its port's cache. -/
def cacheUse (s : State) (c : Nat) : State :=
  modPort s (connPort s c) fun x => { x with cache := c :: x.cache.filter (· ≠ c) }

/-- A valid packet from a peer (R426). -/
def peerSeen (s : State) (c : Nat) (t : Stamp) : State :=
  let n := connPort s c
  let i := connPeer s c
  setPeer s n i { getPeer s n i with last := tickOf s t }

/-- Process packets of a connection that wait in order, until one must wait for a host; answers what is left. -/
def runQueue (s : State) (c : Nat) (t : Stamp) : List Parked → State × List Parked
  | [] => (s, [])
  | .ack kind wait p :: rest => runQueue (processAck s c kind wait p t) c t rest
  | .send op p :: rest => match processSend s c op p t with
    | (some s, _) => runQueue s c t rest
    | (none, s) => (s, .send op p :: rest)

/-- Packets that a connection holds for a host's line run on (R438). -/
def retryHeld (s : State) (c : Nat) (t : Stamp) : State :=
  let n := connPort s c
  let mine := ((getPort s n).held.filter (·.1 = c)).map (·.2)
  let (s, left) := runQueue s c t mine
  modPort s n fun x => { x with held := x.held.filter (·.1 ≠ c) ++ left.map fun y => (c, y) }

/-- A packet of a connection arrives (R430, R431): it is processed, held behind one that waits, parked, or dropped. -/
def arrive (s : State) (c : Nat) (x : Parked) (t : Stamp) : State :=
  let n := connPort s c
  let p := getPort s n
  if !portOn s n then s
  else
    let s := peerSeen (modPort (unIdle s) n fun y => { y with frames := y.frames.drop 1 }) c t
    if p.cache.contains c ∧ !p.parked.any (·.1 = c) then
      retryHeld (modPort (cacheUse s c) n fun y => { y with held := y.held ++ [(c, x)] }) c t
    else if p.parked.length < 256 then bumpAft (modPort s n fun y => { y with parked := y.parked ++ [(c, x)] }) .AFT_CNT2 n 63 32 1
    else
      let s := bumpAft s .AFT_CNT2 n 31 0 1
      match x with
      | .send _ q => bumpAft { s with out := s.out ++ [.ack c q.psn.toNat 0x60 false 0xFF (ackHeader s c q.psn.toNat 0x60 0 0xFF false)] } .AFT_CNT1 n 31 0 1
      | .ack _ _ _ => s

/-- The cached context to evict: the least recently used one that is not pinned and has no parked packet. -/
def evictee (s : State) (n : Nat) : Option Nat :=
  let p := getPort s n
  p.cache.reverse.find? fun c => !connPinned s c && !p.parked.any (·.1 = c) && !p.held.any (·.1 = c)

/-- CONTEXT_FETCH (R430): the context of a parked packet's connection is fetched, and its packets are processed in order. -/
def doFetch (s : State) (c : Nat) (t : Stamp) : State :=
  let n := connPort s c
  let p := getPort s n
  if !portOn s n || !p.parked.any (·.1 = c) then s
  else
    let out := if 2048 ≤ p.cache.length then evictee s n else none
    if 2048 ≤ p.cache.length ∧ out.isNone then s
    else
      let mine := p.parked.filter (·.1 = c)
      let s := modPort s n fun x => { x with cache := c :: x.cache.filter (fun y => y ≠ c && out ≠ some y), parked := x.parked.filter (·.1 ≠ c),
                                             held := x.held ++ mine }
      retryHeld (bumpAft s .AFT_CNT4 n 31 0 1) c t

/-! ### Egress (R441, R442) -/

/-- Bytes of the frame of a packet: headers, payload padded to 4 bytes, ICRC and FCS (R418, R421 to R423). -/
def wireBytes (s : State) (c : Nat) (first imm : Bool) (n : Nat) : Nat :=
  let v6 := fld (rdW s (peerAddr s (connPort s c) (connPeer s c) + 24)) 1 1 = 1
  14 + 4 + (if v6 then 40 else 20) + 8 + 12 + (if first then 16 else 0) + (if imm then 4 else 0) + cdiv n 4 * 4 + 4 + 4

/-- The packet of a connection that goes next: its opcode, A bit, immediate, payload. -/
def nextPkt (s : State) (c : Nat) : Option (PktOp × Bool × Option Nat × List Byte) :=
  let k := getConn s c
  (msgAt k k.cur).map fun m =>
    let i := k.cur - m.start
    let mtu := connMtu s c
    let lastOne := decide (i + 1 = m.pkts)
    let op : PktOp := if m.pkts = 1 then (if m.imm.isSome then .onlyImm else .only)
      else if i = 0 then .first else if lastOne then (if m.imm.isSome then .lastImm else .last) else .middle
    (op, lastOne || decide ((i + 1) % 32 = 0), if lastOne then m.imm else none, (m.bytes.drop (i * mtu)).take mtu)

/-- Whether a connection has a packet that may be sent (R419, R429, R432, R433). -/
def sendable (s : State) (c : Nat) (t : Stamp) : Bool :=
  let k := getConn s c
  let n := connPort s c
  k.st = .established && k.rnrUntil.isNone && decide (k.cur < k.alloc) && (decide (k.cur < k.next) || decide (k.next - k.una < k.w))
    && !((mapGet (getPort s n).pauses (8 * connHalf s c + connClass s c)).elim false fun u => decide (t < u))

/-- A gate window of a bank. -/
def gateWin (s : State) (n h k w : Nat) : Word := getReg s ⟨.AFT_GATE_WIN, n, 32 * h + 16 * k + w⟩

/-- Whether a frame may start at `t` by the gates and the berm (R441, R442): lengths compared in bytes at the line rate. -/
def gateOpen (s : State) (c bytes : Nat) (t : Stamp) : Bool :=
  let n := connPort s c
  let h := connHalf s c
  let rate := halfRate s n
  let ends (lim : Nat) : Bool := decide (bytes + 20 ≤ (lim - t) * rate)
  let bank := getF s ⟨.AFT_GATE_CTL, n, 0⟩ 0 0
  let wins := ((List.range 16).map (gateWin s n h bank)).filter fun w => fld w 31 31 = 1
  s.tick.running && s.tick.begun && (match bermStart s with
    | none => false
    | some b => ends b && (connKind s c = 2 || connKind s c = 3 || wins.isEmpty || wins.any fun w =>
        bits (fld w 7 0) (connClass s c) (connClass s c) = 1 && decide (s.tick.base + fld w 30 21 * us ≤ t) && ends (min b (s.tick.base + fld w 20 11 * us))))

/-- Send the packet at `cur`: a new one, or one sent again. -/
def sendPkt (s : State) (c : Nat) (pk : PktOp × Bool × Option Nat × List Byte) (t : Stamp) : State :=
  let k := getConn s c
  let (op, ackReq, imm, payload) := pk
  let again := decide (k.cur < k.next)
  let s := setConn s c { k with cur := k.cur + 1, next := max k.next (k.cur + 1), advAt := if k.una = k.next then t else k.advAt,
                                paid := false, waited := false }
  let s := if again then bumpAft s .AFT_CNT0 (connPort s c) 63 32 1 else s
  let len := (msgAt k k.cur).elim 0 (·.bytes.length)
  let header := sendHeader s c op (k.cur % 2 ^ 24) k.incarn len ackReq imm payload.length
  { s with out := s.out ++ [.packet c op (k.cur % 2 ^ 24) k.incarn ackReq imm payload header] }

/-- Try connections in order: each asks its weir, then its gate; the first that may start is sent (R441, R442). -/
def tryEgress (s : State) (t : Stamp) : List Nat → State × Option Nat
  | [] => (s, none)
  | c :: cs =>
    match nextPkt s c with
    | none => tryEgress s t cs
    | some pk =>
      let n := connPort s c
      let bytes := wireBytes s c pk.1.isFirst pk.2.2.1.isSome pk.2.2.2.length
      let k := getConn s c
      let dur := cdiv (bytes + 20) (halfRate s n)
      let (ok, s) := if k.paid then (true, s) else weirAsk s (connPolder s c) wFabricTx (connTarget s c) bytes dur (.flow (2 ^ 80 + c * 2 ^ 24 + k.cur % 2 ^ 24))
      if !ok then tryEgress s t cs
      else if gateOpen s c bytes t then (sendPkt s c pk t, some c)
      else
        let s := if k.waited then s else bumpAft s .AFT_CNT5 n 63 32 1
        tryEgress (modConn s c fun k => { k with paid := true, waited := true }) t cs

/-- EGRESS_START (R441, R442): the highest class first, then connections in round-robin order of number. -/
def doEgress (s : State) (n h : Nat) (t : Stamp) : State :=
  if !portOn s n ∨ halfState s n h ≠ 2 then s else
    let mine := (s.fab.conns.filter fun e => connPort s e.1 = n && connHalf s e.1 = h && sendable s e.1 t).map (·.1)
    let last := mapGetD (getPort s n).rr h 0
    let order := mine.filter (fun c => last < c) ++ mine.filter (fun c => c ≤ last)
    let byClass := (List.range 8).reverse.flatMap fun k => order.filter fun c => connClass s c = k
    let (s, sent) := tryEgress s t byClass
    match sent with
    | some c => modPort s n fun x => { x with rr := mapSet x.rr h c }
    | none => s

/-- GATE_SWAP (R441): a swap asked for takes effect. -/
def doGateSwap (s : State) (n : Nat) : State :=
  let r : Reg := ⟨.AFT_GATE_CTL, n, 0⟩
  if getF s r 1 1 = 1 then setReg s r (BitVec.ofNat 64 (1 - getF s r 0 0)) else s

/-! ### Frames, peers and the port's own rows -/

/-- A port that goes OFF: every connection is treated as its peer being LOST (R417). -/
def losePort (s : State) (n : Nat) : State :=
  (s.fab.conns.filter fun e => connPort s e.1 = n).foldl (fun s e => loseConn s e.1 1 Code.CONN_LOST) s

/-- Fields of AFT_PORT_CFG other than vlan and mode are in range (R459). -/
def portFieldsOk (v : Word) : Bool :=
  decide (1 ≤ fld v 47 40) && decide (1 ≤ fld v 35 32) && decide (10 ≤ fld v 31 16) && decide (1 ≤ fld v 15 12) && decide (1 ≤ fld v 7 0)

/-- Put deferred fields of AFT_PORT_CFG in force. -/
def applyPortCfg (s : State) (n : Nat) : State :=
  match (getPort s n).defer with
  | none => s
  | some v =>
    let r := rPortCfg n
    let old := getReg s r
    let w := setFld (setFld (setFld v 63 52 (fld old 63 52)) 37 36 (fld old 37 36)) 51 48 0
    modPort (setReg s r (setFld (setFld w 39 38 0) 11 8 0)) n fun x => { x with defer := none }

/-- PORT_MODE (R417, R459): a write of AFT_PORT_CFG. -/
def doPortMode (s : State) (n : Nat) (v : Word) : State :=
  let mode := fld v 37 36
  let cur := portMode s n
  if mode = 3 ∨ !portFieldsOk v ∨ s.toeLost.contains n then s
  else
    let s := modPort s n fun x => { x with defer := some v }
    if mode = 0 then
      if cur = 0 then setF s (rPortCfg n) 63 52 (fld v 63 52)
      else setF (setF (losePort (setF s (rPortCfg n) 37 36 0) n) (rPortSts n) 63 56 0) (rPortSts n) 51 48 0
    else if cur ≠ 0 then s
    else
      let s := setF (setF s (rPortCfg n) 63 52 (fld v 63 52)) (rPortCfg n) 37 36 mode
      setF s (rPortSts n) 51 48 (if mode = 1 then 1 else 5)

/-- LANE_TRAINED (R417). -/
def doLane (s : State) (n l : Nat) : State :=
  let h := if portMode s n = 2 then l / 4 else 0
  if !portOn s n ∨ halfState s n h ≠ 1 then s
  else
    let s := setF s (rPortSts n) (56 + l) (56 + l) 1
    let lanes := getF s (rPortSts n) 63 56
    let all := if portMode s n = 2 then bits lanes (4 * h + 3) (4 * h) = 15 else lanes = 255
    if all then setHalf s n h 2 else s

/-- HALF_TRAINING_TIMEOUT (R417). -/
def doHalfTimeout (s : State) (n h : Nat) : State := if halfState s n h = 1 then setHalf s n h 3 else s

/-- Bytes that a port buffers for a class. -/
def buffered (s : State) (n c : Nat) : Nat := ((getPort s n).frames.filter (·.1 = c)).foldl (fun a f => a + f.2) 0

/-- PFC towards the far side for a class (R419): XOFF above xoff_kib, XON below half of it. -/
def pfcFor (s : State) (n c : Nat) : State :=
  let r : Reg := ⟨.AFT_PFC_CFG, n, 0⟩
  let lossless := bits (getF s r 63 56) c c = 1
  let lim := getF s r 45 34 * 1024
  let held := (getPort s n).xoff.contains c
  let b := buffered s n c
  if lossless ∧ !held ∧ lim < b then
    let s := modPort s n fun x => { x with xoff := insertUniq c x.xoff }
    { s with out := s.out ++ [.pfc n c true] }
  else if held ∧ (2 * b < lim ∨ !lossless) then
    let s := modPort s n fun x => { x with xoff := x.xoff.filter (· ≠ c) }
    { s with out := s.out ++ [.pfc n c false] }
  else s

def pfcAll (s : State) (n : Nat) : State := (List.range 8).foldl (fun s c => pfcFor s n c) s

/-- ETHERNET_FRAME (R418, R421): a frame is discarded and counted, or its bytes wait in the ingress buffer. -/
def doFrame (s : State) (n : Nat) (isAft : Bool) (vlan : Option Nat) (pcp bytes : Nat) (fcsOk icrcOk : Bool) : State :=
  if !portOn s n then s
  else if !fcsOk ∨ 4202 < bytes then violation s n
  else if !isAft then s
  else if vlan ≠ some (getF s (rPortCfg n) 63 52) then violation s n
  else if !icrcOk then bumpAft s .AFT_CNT3 n 15 0 1
  else pfcAll (modPort s n fun x => { x with frames := x.frames ++ [(pcp, bytes)] }) n

/-- PFC_FRAME (R419): each class named is paused for its time, in quanta of 512 bits at the port's rate. -/
def doPfc (s : State) (n h : Nat) (quanta : List (Nat × Nat)) (t : Stamp) : State :=
  if !portOn s n then s else
    quanta.foldl (fun s q => modPort s n fun x => { x with pauses := mapPut 0 x.pauses (8 * h + q.1) (if q.2 = 0 then 0 else t + cdiv (q.2 * 64) (halfRate s n)) })
      (bumpAft s .AFT_CNT5 n 31 0 1)

/-- PFC_CONFIG_WRITE (R419). -/
def doPfcCfg (s : State) (n : Nat) (v : Word) : State :=
  let r : Reg := ⟨.AFT_PFC_CFG, n, 0⟩
  let err := setBit s r 0
  let count := ((List.range 8).filter fun c => bits (fld v 63 56) c c = 1).length
  let h := 2 * 4202 + 100 * (10 * fld v 55 46 + 1300)
  if portMode s n ≠ 0 then s
  else if 3 < count ∨ 3072 < count * (fld v 45 34 + fld v 33 22) ∨ fld v 33 22 * 1024 < h ∨ fld v 45 34 = 0 ∨ 3072 < fld v 45 34 ∨ 1000 < fld v 55 46 then err
  else setReg s r (setFld (setFld v 21 1 0) 0 0 (if fld v 0 0 = 1 then 0 else getF s r 0 0))

/-- Mark UNALIGNED, with align_lost on the way in (R62, R66). A number mismatch does so while the part is ACQUIRING too (DESIGN CHOICE: R66
marks it UNALIGNED, and R65 says that it leaves ACQUIRING only for ALIGNED). -/
def becomeUnaligned (s : State) : State :=
  let s := if s.tick.align = .unaligned then s else setBit s (rTck .TCK_STS) 3
  { s with tick := { s.tick with align := .unaligned, good := 0 } }

/-- KEEPALIVE (R426, R66). -/
def doKeepalive (s : State) (n i tick : Nat) (t : Stamp) : State :=
  if !portOn s n || !peerValid s n i then s
  else
    let s := setPeer s n i { getPeer s n i with st := 2, last := tickOf s t }
    let own := tickOf s t
    if s.tick.running && s.tick.begun && tick ≠ own && tick ≠ own + 1 && tick + 1 ≠ own then
      let s := becomeUnaligned (setBit s (rTck .TCK_STS) 5)
      { s with tick := { s.tick with mismatch := true } }
    else s

/-- KEEPALIVE_SEND (R426): one to each valid peer of the port in every tick. -/
def doKeepaliveSend (s : State) (n : Nat) : State :=
  if !portOn s n ∨ !s.tick.running ∨ !s.tick.begun ∨ (getPort s n).kaTick = some s.tick.tick then s
  else
    let peers := (List.range 1024).filter fun i => peerValid s n i && halfState s n (peerHalf s n i) = 2
    let s := modPort s n fun x => { x with kaTick := some s.tick.tick }
    { s with out := s.out ++ peers.map fun i => .keepalive n i s.tick.tick (keepaliveHeader s n i) }

/-- Whether a peer is lost at the current boundary (R426). -/
def peerDue (s : State) (n i : Nat) : Bool :=
  let p := getPeer s n i
  p.st = 2 && decide (p.last + 3 ≤ s.tick.tick)

/-- PEER_LOST (R426): the peer and every connection to it. -/
def losePeer (s : State) (n i : Nat) : State :=
  if !peerDue s n i then s
  else
    let p := getPeer s n i
    let s := setPeer s n i { p with st := 3, losses := min (p.losses + 1) (2 ^ 32 - 1) }
    (s.fab.conns.filter fun e => connPort s e.1 = n && connPeer s e.1 = i).foldl (fun s e => loseConn s e.1 1 Code.CONN_LOST) s

/-- CONNECTING_ACK (R429): once per tick. -/
def doConnectingAck (s : State) (c : Nat) : State :=
  let k := getConn s c
  if k.st ≠ .connecting ∨ k.ackTick = some s.tick.tick ∨ !portOn s (connPort s c) then s
  else sendAckPkt (modConn s c fun k => { k with ackTick := some s.tick.tick }) c (2 ^ 24 - 1) 0x1F

/-- REOPEN (R429): a write of reopen for the selected connection of a port, when it is LOST. -/
def doReopen (s : State) (n : Nat) : State :=
  let c := getF s ⟨.AFT_CONN_SEL, n, 0⟩ 17 0
  let k := getConn s c
  if k.st ≠ .lost ∨ connPort s c ≠ n ∨ k.reopen then s
  else setConn s c { k with incarn := (k.incarn + 1) % 256, reopen := true, next := 0, una := 0, cur := 0, alloc := 0, epsn := 0, tally := 0,
                            w := connWinMax s c, fell := none, timeouts := 0, rnrPsn := 0, rnrCount := 0, nakAt := none, seqNak := none,
                            ce := false, paid := false, waited := false, msn := 0 }

/-- REOPEN_EFFECT (R429): at the boundary after the write. -/
def doReopenEffect (s : State) (c : Nat) : State :=
  let k := getConn s c
  if k.reopen ∧ k.st = .lost then setConn s c { k with st := .connecting, reason := 0, reopen := false, ackTick := none } else s

/-- The connections of a polder at its activation (R429): CONNECTING, or LOST on a port that is OFF or whose peer is (R417). -/
def openConns (s : State) (cs : List Nat) : State :=
  cs.foldl (fun s c =>
    let dead := !portOn s (connPort s c) || (getPeer s (connPort s c) (connPeer s c)).st = 3
    setConn s c { Conn.fresh with st := if dead then .lost else .connecting, reason := if dead then 1 else 0, w := connWinMax s c }) s

/-- The connections of a polder that becomes ABSENT are CLOSED (R111, R429). -/
def closeConns (s : State) (p : Nat) : State :=
  let mine := (s.fab.conns.filter fun e => connPolder s e.1 = p).map (·.1)
  let s := modFab s fun f => { f with conns := f.conns.filter fun e => !mine.contains e.1,
                                      ports := f.ports.map fun x => { x with cache := x.cache.filter (!mine.contains ·),
                                                                             parked := x.parked.filter (!mine.contains ·.1),
                                                                             held := x.held.filter (!mine.contains ·.1),
                                                                             inbox := x.inbox.filter (!mine.contains ·.1) } }
  mine.foldl (fun s c => zeroFill s (s.fab.connArr + 64 * c) 64) s

/-- Packets and completion entries that waited for a host try again, on every port. -/
def retryFabric (s : State) (t : Stamp) : State :=
  let held := ascending (s.fab.ports.flatMap fun p => p.held.map (·.1))
  let s := held.foldl (fun s c => retryHeld s c t) s
  (s.fab.conns.filter fun e => !e.2.cqPend.isEmpty).foldl (fun s e => flushCq s e.1 64) s

end Sys2Proof.Machine
end

