-- ==== Sys2Proof/Machine/Collect.lean ====
section
/-! DEFINITION. Intake of descriptors (R80), collectives (R443 to R449), the shard map (R450 to R452), replication (R233, R234, R453) and
pooled flash (R454, R455). -/

namespace Sys2Proof.Machine

/-! ### Intake (R80) -/

/-- Whether a polder holds a privilege bit; polder 0 holds every one (R129). -/
def privBit (s : State) (p b : Nat) : Bool := p = 0 || getF s ⟨.PLD_PRIV, p, 0⟩ b b = 1

/-- A model that the polder holds, of the wanted role (R279). -/
def modelIs (s : State) (p m : Nat) (encoder : Bool) : Bool :=
  (getModel s m).elim false fun x => x.polder = p && mEncoder s x = encoder

/-- End of a RERANK operand (R281). -/
def rerankEnd (s : State) (d : List Word) : Nat :=
  let w := dB d 0
  let ids := 8 * cdiv (fld w 31 16) 2 + 8 * fld w 55 45
  if fld w 33 32 = 2 then cdiv ids 64 * 64 + fld w 55 45 * 2 * (getModel s (fld w 63 56)).elim 0 (mVecDim s) else ids

/-- Order 5 of R80: the conditions of R129, R147, R169, R217, R279 and R343. A TABLE_UPDATE that names no table of its polder has no
record size (DEDUCED). -/
def objectsOk (s : State) (d : List Word) (p : Nat) : Bool :=
  let k := dKind d
  let w := dB d 0
  let co := getColl s (dColl d)
  if k = kSearch then walkIntakeOk s d
  else if k = kEncode then modelIs s p (fld w 63 56) true && dOpBytes d = 4 * fld w 55 40
  else if k = kRerank then
    modelIs s p (fld w 63 56) false && (fld w 33 32 ≠ 1 || cFull s co) && dOpBytes d = rerankEnd s d
  else if k = kPipeline then
    walkIntakeOk s d && modelIs s p (fld w 63 56) true && (fld (dB d 1) 63 56 = 0xFF || modelIs s p (fld (dB d 1) 63 56) false)
  else if isMutation k then dOpBytes d = dItems d * mutRecBytes s co d
  else if k = kLookup then fld w 47 47 = 0 || cFull s co
  else if k = kTableUpdate then
    (getTable s (fld w 63 56)).elim false fun t => t.polder = p && dOpBytes d = dItems d * (64 + rowPayload s t)
  else if k = kAdapterStep then
    privBit s p 4 && modelIs s p (fld w 63 56) false && (getModel s (fld w 63 56)).elim false fun m => decide (fld w 55 48 < mAdapters s m)
  else true

/-- The first code of R80's table that refuses a descriptor of polder `p`, or 0. A member's operand travelled with its SUB and its result
goes back in a LIST, so their regions are not looked at (R446). -/
def intakeCode (s : State) (src : Src) (d : List Word) (p : Nat) : Nat :=
  let ring := match src with
    | .ring _ _ => true
    | _ => false
  let pol := getPolder s p
  let coll := getColl s (dColl d)
  let entry := (entryOf pol (dEntry d)).elim false fun e => bits e.kinds (kindBit (dKind d)) (kindBit (dKind d)) = 1
  if !headOk d ring then Code.BAD_DESCRIPTOR
  else if dPolder d ≠ p then Code.POLDER_MISMATCH
  else if namesColl (dKind d) ∧ ((mapGet s.colls (dColl d)).isNone ∨ coll.polder ≠ p) then Code.BAD_COLLECTION
  else if dKind d ≠ kCancel ∧ !entry then Code.BAD_ENTRY
  else if dKind d ≠ kCancel ∧ !objectsOk s d p then Code.BAD_DESCRIPTOR
  else if !src.isMember ∧ (badRange s p (dOpRegion d) (dOpOffset d) (dOpBytes d) ∨ badRange s p (dResRegion d) (dResOffset d) (dResBytes d)) then
    Code.BAD_REGION
  else 0

/-- A descriptor arrives for polder `p` (R80, R112): refused at intake, or passed to the dike. -/
def intake (s : State) (src : Src) (d : List Word) (p : Nat) (t : Stamp) (toe line ix : Nat) : State :=
  if (getPolder s p).st = .absent then s
  else
    let c := intakeCode s src d p
    if c ≠ 0 then refuseIntake s src d p c else dikeArrive s src d p t toe line ix

/-- Drop the oldest message that a port holds for a connection: its row has taken it. -/
def takeInbox (s : State) (c : Nat) : State :=
  modPort s (connPort s c) fun x => match x.inbox.find? (·.1 = c) with
    | some m => { x with inbox := x.inbox.erase m }
    | none => x

/-- Whether a connection of a kind may deliver a message: its port is on and it is ESTABLISHED. -/
def connHears (s : State) (c kind : Nat) : Bool :=
  connKind s c = kind && (getConn s c).st = .established && portOn s (connPort s c)

/-- The oldest message that a port holds for a connection. -/
def inFront (s : State) (c : Nat) : Option (List Byte) := ((getPort s (connPort s c)).inbox.find? (·.1 = c)).map (·.2)

/-- AFT_DESCRIPTOR (R78): the connection's oldest SEND is one descriptor. A payload that is not 64 + 8 × body_words bytes long is refused as a
descriptor whose body_words is wrong (R80, DEDUCED). -/
def doAftDescriptor (s : State) (c : Nat) (t : Stamp) : State :=
  match inFront s c with
  | none => s
  | some bs =>
    if !connHears s c 1 ∨ !toePath s (connPort s c) then s
    else
      let d := leWords (cdiv bs.length 8) bs
      let s := takeInbox s c
      if bs.length ≠ 64 + 8 * dBody d then refuseIntake s (.conn c) d (connPolder s c) Code.BAD_DESCRIPTOR
      else intake s (.conn c) d (connPolder s c) t (connPort s c) c 0

/-! ### Messages (R444, R445) -/

abbrev mSub : Nat := 0x01
abbrev mList : Nat := 0x02
abbrev mAbort : Nat := 0x03
abbrev mPrepare : Nat := 0x10
abbrev mPrepared : Nat := 0x11
abbrev mRefuse : Nat := 0x12
abbrev mCommit : Nat := 0x13
abbrev mMapAbort : Nat := 0x14
abbrev mStatus : Nat := 0x15
abbrev mOutcome : Nat := 0x16
abbrev mReplStage : Nat := 0x20
abbrev mReplStaged : Nat := 0x21
abbrev mReplCommit : Nat := 0x22
abbrev mReplDefer : Nat := 0x23
abbrev mPoolRead : Nat := 0x30
abbrev mPoolWrite : Nat := 0x31
abbrev mPoolDone : Nat := 0x32

/-- Lay out a message (R444). -/
def fabBytes (type attempt epoch origin ctx gen : Nat) (a0 a1 : Word) (body : List Byte) : List Byte :=
  wordBytes [BitVec.ofNat 64 (type * 2 ^ 56 + attempt * 2 ^ 48 + epoch % 2 ^ 48), BitVec.ofNat 64 (origin * 2 ^ 48 + ctx * 2 ^ 35 + gen * 2 ^ 27),
    a0, a1, 0, 0, 0, 0] ++ body

/-- A message as bytes. -/
def msgBytes (m : FabMsg) (type : Nat) : List Byte :=
  fabBytes type m.attempt m.epoch m.origin.toNat m.context.val m.gen.toNat m.arg0 m.arg1 m.body

/-- Whether a message of a type is the oldest one that a connection of a kind may deliver (R444). -/
def hears (s : State) (m : FabMsg) (kind type : Nat) : Bool :=
  connHears s m.conn.val kind && inFront s m.conn.val = some (msgBytes m type)

/-- Send a message of a SHARD or POOL connection on behalf of no request. -/
def sendFab (s : State) (c type epoch : Nat) (a0 a1 : Word) (body : List Byte) : State :=
  pushMsg s c (.message none) none (fabBytes type 0 epoch (myNode s) 0 0 a0 a1 body)

/-- A live connection of a kind and polder to a node: the lowest-numbered. -/
def connTo (s : State) (kind : Nat) (polder : Option Nat) (node : Nat) : Option Nat :=
  (s.fab.conns.find? fun e => (e.2.st = .established || e.2.st = .connecting) && connKind s e.1 = kind
    && polder.elim true (fun p => connPolder s e.1 = p) && connNode s e.1 = node).map (·.1)

/-- Send a SHARD message to a node. -/
def sendShard (s : State) (node type epoch : Nat) (a0 a1 : Word) (body : List Byte) : State :=
  match connTo s 3 none node with
  | some c => sendFab s c type epoch a0 a1 body
  | none => s

/-! ### The shard map (R450 to R452) -/

/-- The map in force at an epoch (R450). -/
def mapAtEpoch (s : State) (e : Nat) : Option ShardMap := s.fab.maps.find? fun m => decide (m.from_ ≤ e)
/-- The newest published map. -/
def mapNow (s : State) : Option ShardMap := mapAtEpoch s s.tick.epoch
def mapVersion (s : State) : Nat := (mapNow s).elim 0 (·.version)
def entryOfShard (m : Option ShardMap) (sh : Nat) : Option MapEntry := m.bind fun m => m.entries.find? (·.shard = sh)

/-- The entry of a shard, 32 bytes (R450). -/
def mapEntryBytes (e : MapEntry) : List Byte :=
  let n (i : Nat) : Nat := (nth? e.nodes i).getD 0
  wordBytes [BitVec.ofNat 64 (e.shard * 2 ^ 40 + e.group * 2 ^ 24 + e.nodes.length * 2 ^ 16 + e.writer),
    BitVec.ofNat 64 (n 0 * 2 ^ 48 + n 1 * 2 ^ 32 + n 2 * 2 ^ 16 + n 3), 0, 0]

def mapEntryOf (bs : List Byte) : MapEntry :=
  let w := leNat (bs.take 8)
  let v := leNat ((bs.drop 8).take 8)
  { shard := bits w 63 40, group := bits w 39 24, writer := bits w 15 0,
    nodes := ([bits v 63 48, bits v 47 32, bits v 31 16, bits v 15 0]).take (bits w 23 16) }

/-- Cut `n` records of `size` bytes. -/
def cutRecs (size : Nat) : Nat → List Byte → List (List Byte)
  | 0, _ => []
  | n + 1, bs => bs.take size :: cutRecs size n (bs.drop size)

/-- The body of a PREPARE: changed entries and removed shards (R445). -/
def prepareBody (bs : List Byte) : List MapEntry × List Nat :=
  let n := min (Config.prepareSplit bs) (bs.length / 32)
  ((cutRecs 32 n bs).map mapEntryOf, (cutRecs 8 ((bs.length - 32 * n) / 8) (bs.drop (32 * n))).map leNat)

/-- A map with changes applied, entries by ascending shard. -/
def changeMap (old : List MapEntry) (chg : List MapEntry) (removed : List Nat) : List MapEntry :=
  let kept := old.filter fun e => !removed.contains e.shard && !chg.any (·.shard = e.shard)
  sortBy (fun a b => decide (a.shard < b.shard)) (kept ++ chg)

/-- Which replicated collections this part writes (R232), by the newest map. -/
def refreshWriters (s : State) : State :=
  let m := mapNow s
  { s with colls := s.colls.map fun e =>
      if mReplicated s e.2 then (e.1, { e.2 with writer := (entryOfShard m (cShard s e.2)).elim false fun x => x.writer = myNode s }) else e }

/-- Publication of a prepared map whose boundary has come (R451, R452). A replica that a changed entry names again is no longer in
doubt (R452). -/
def publishShardMap (s : State) (e : Nat) : State :=
  match s.fab.prep with
  | none => s
  | some p =>
    if p.commit.elim true fun b => decide (e < b) then s
    else
      let old := (s.fab.maps.head?).elim [] (·.entries)
      let m : ShardMap := ⟨p.new_, e, changeMap old p.entries p.removed⟩
      let s := modFab s fun f => { f with maps := m :: f.maps, prep := none, statusAt := none }
      let named (co : Coll) : Bool := p.entries.any fun x => x.shard = cShard s co && x.nodes.contains (myNode s)
      refreshWriters { s with colls := s.colls.map fun c => if named c.2 then (c.1, { c.2 with inDoubt := false }) else c }

/-- Shard maps that no pinned epoch and no retained epoch needs are dropped with the other retained versions (R58, R450). -/
def dropMaps (s : State) (b : Nat) : State :=
  let pins := (s.ctxs.filter fun e => e.2.st = .live).map fun e => e.2.pin
  let low := pins.foldl min (b - retainMin s)
  let keep := s.fab.maps.takeWhile fun m => decide (low < m.from_)
  modFab s fun f => { f with maps := keep ++ (f.maps.drop keep.length).take 1 }

/-- Every node that an old or a new map names, but this part's. -/
def mapNodes (s : State) (chg : List MapEntry) : List Nat :=
  (ascending (((s.fab.maps.head?).elim [] (·.entries) ++ chg).flatMap (·.nodes))).filter (· ≠ myNode s)

/-- PREPARE (R451): a participant answers PREPARED or REFUSE. One whose origin is this part starts a proposal of its own polder, which
sends it to every part named in the old or new map. -/
def doPrepare (s : State) (m : FabMsg) : State :=
  let c := m.conn.val
  let (chg, gone) := prepareBody m.body
  if m.origin.toNat = myNode s then
    if s.fab.prop.isSome || s.fab.prep.isSome || !privBit s (connPolder s c) 2 || (getConn s c).st = .closed || decide (m.epoch < s.tick.tick + 2)
        || m.arg0.toNat ≠ mapVersion s then s
    else
      let parts := mapNodes s chg
      let s := modFab s fun f => { f with prop := some ⟨m.arg0.toNat, m.arg0.toNat + 1, m.epoch, chg, gone, parts, [], false⟩ }
      parts.foldl (fun s n => sendShard s n mPrepare m.epoch m.arg0 (m.arg0 + 1) m.body) s
  else if !hears s m 3 mPrepare then s
  else
    let s := takeInbox s c
    let why := if mapVersion s ≠ m.arg0.toNat then 1 else if s.tick.align ≠ .aligned then 2
      else if s.fab.prep.isSome || s.fab.prop.isSome then 3 else 0
    if why ≠ 0 then sendFab s c mRefuse m.epoch (BitVec.ofNat 64 why) m.arg1 []
    else
      let s := modFab s fun f => { f with prep := some ⟨m.arg0.toNat, m.arg1.toNat, m.epoch, c, chg, gone, none, false⟩ }
      sendFab s c mPrepared m.epoch 0 m.arg1 []

/-- PREPARED and REFUSE (R451) at the proposer. -/
def doPrepared (s : State) (m : FabMsg) (ok : Bool) : State :=
  let c := m.conn.val
  if !hears s m 3 (if ok then mPrepared else mRefuse) then s
  else
    let s := takeInbox s c
    modFab s fun f => { f with prop := f.prop.map fun p =>
      if !ok then { p with refused := true }
      else if p.new_ = m.arg1.toNat then { p with yes := insertUniq (connNode s c) p.yes } else p }

/-- MAP_COMMIT_DECISION (R451): COMMIT when every participant answered in time; otherwise MAP_ABORT. -/
def doMapDecision (s : State) : State :=
  match s.fab.prop with
  | none => s
  | some p =>
    let inTime := decide (s.tick.nextNum < p.at_) || (s.tick.nextNum = p.at_ && !inBerm s s.now)
    let all := p.parts.all p.yes.contains
    if !p.refused && !all && inTime then s
    else
      let s := modFab s fun f => { f with prop := none }
      if !p.refused && all && inTime then
        let s := modFab s fun f => { f with prep := some ⟨p.old, p.new_, p.at_, 0, p.entries, p.removed, some p.at_, false⟩ }
        p.parts.foldl (fun s n => sendShard s n mCommit p.at_ 0 (BitVec.ofNat 64 p.new_) []) s
      else
        let s := modFab s fun f => { f with aborted := p.new_ :: f.aborted }
        p.parts.foldl (fun s n => sendShard s n mMapAbort p.at_ 0 (BitVec.ofNat 64 p.new_) []) s

/-- Whether a stamp lies at or before B(e) − 1 µs. -/
def beforeFreeze (s : State) (e : Nat) (t : Stamp) : Bool :=
  decide (s.tick.nextNum < e) || (s.tick.nextNum = e && s.tick.nextAt.elim true fun b => decide (t + us ≤ b))

/-- COMMIT (R451). -/
def doCommit (s : State) (m : FabMsg) (t : Stamp) : State :=
  let c := m.conn.val
  if !hears s m 3 mCommit then s
  else
    let s := takeInbox s c
    modFab s fun f => { f with prep := f.prep.map fun p =>
      if p.new_ = m.arg1.toNat ∧ !p.doubt ∧ beforeFreeze s p.at_ t then { p with commit := some p.at_ } else p }

/-- MAP_ABORT (R451). -/
def doMapAbort (s : State) (m : FabMsg) : State :=
  let c := m.conn.val
  if !hears s m 3 mMapAbort then s
  else
    let s := takeInbox s c
    modFab s fun f => { f with prep := f.prep.filter fun p => !(p.new_ = m.arg1.toNat && p.commit.isNone) }

/-- IN_DOUBT (R452). -/
def doInDoubt (s : State) : State :=
  modFab s fun f => { f with prep := f.prep.map fun p =>
    if p.commit.isNone ∧ !(beforeFreeze s p.at_ s.now) then { p with doubt := true } else p }

/-- STATUS_SEND (R452): once per tick while IN_DOUBT. -/
def doStatusSend (s : State) : State :=
  match s.fab.prep with
  | some p =>
    if !p.doubt || p.commit.isSome || s.fab.statusAt = some s.tick.tick then s
    else
      let s := modFab s fun f => { f with statusAt := some s.tick.tick }
      (mapNodes s p.entries).foldl (fun s n => sendShard s n mStatus p.at_ 0 (BitVec.ofNat 64 p.new_) []) s
  | none => s

/-- STATUS (R452): a part that has published the version, or that sent MAP_ABORT for it, tells; another answers 0. -/
def doStatus (s : State) (m : FabMsg) : State :=
  let c := m.conn.val
  if !hears s m 3 mStatus then s
  else
    let s := takeInbox s c
    let v := m.arg1.toNat
    match s.fab.maps.find? fun x => x.version = v with
    | some x => sendFab s c mOutcome m.epoch 1 (BitVec.ofNat 64 x.from_) []
    | none => sendFab s c mOutcome m.epoch (if s.fab.aborted.contains v then 2 else 0) m.arg1 []

/-- OUTCOME (R452). -/
def doOutcome (s : State) (m : FabMsg) : State :=
  let c := m.conn.val
  if !hears s m 3 mOutcome then s
  else
    let s := takeInbox s c
    let code := m.arg0.toNat
    let next := s.fab.prep.bind fun p =>
      if !p.doubt then some p else if code = 1 then some { p with commit := some s.tick.nextNum } else if code = 2 then none else some p
    modFab s fun f => { f with prep := next }

/-! ### Collectives at the coordinator (R443, R448, R449) -/

/-- Whether the connections of this part show a node's peer UP. -/
def nodeUp (s : State) (node : Nat) : Bool :=
  s.fab.conns.any fun e => connNode s e.1 = node && (getPeer s (connPort s e.1) (connPeer s e.1)).st = 2

/-- The replica that R443 chooses: the first node of the entry that is UP, has not failed here and can be reached. -/
def pickNode (s : State) (p : Nat) (failed : List Nat) (e : MapEntry) : Option Nat :=
  e.nodes.find? fun n => n ≠ myNode s && !failed.contains n && nodeUp s n && (connTo s 2 (some p) n).isSome

/-- Send the SUB of one shard to a node (R443, R445). -/
def sendSub (s : State) (c attempt sh node : Nat) : State :=
  let k := getCtx s c
  match connTo s 2 (some k.polder) node with
  | none => s
  | some x =>
    let d := k.desc.zipIdx.map fun e => if e.2 = 2 then setFld e.1 47 0 k.pin else e.1
    let body := wordBytes d ++ rdBytes s (operandOf s k) (dOpBytes k.desc)
    pushMsg s x (.message (some (c, k.gen))) none
      (fabBytes mSub attempt k.pin (myNode s) c k.gen (BitVec.ofNat 64 sh) (BitVec.ofNat 64 (k.deadline.getD 0)) body)

/-- Tell the remote members of the current attempt to stop, but those on the nodes of `skip` (R449). -/
def abortMembers (s : State) (c : Nat) (g : Gather) (skip : List Nat) : State :=
  let k := getCtx s c
  (ascending (g.shards.filterMap (·.node))).foldl (fun s n =>
    if skip.contains n then s else
      match connTo s 2 (some k.polder) n with
      | some x => pushMsg s x (.message none) none (fabBytes mAbort g.attempt k.pin (myNode s) c k.gen 0 0 [])
      | none => s) s

/-- A new attempt for every remote shard, or none when a shard has no replica left (R443, R449). -/
def nextAttempt (s : State) (c : Nat) (g : Gather) : Option Gather :=
  let m := mapNow s
  let pick (x : Shardlet) : Option Shardlet := match x.node with
    | none => some x
    | some _ => ((entryOfShard m x.shard).bind (pickNode s (getCtx s c).polder g.failed)).map fun n => ⟨x.shard, some n, none⟩
  let xs := g.shards.map pick
  if xs.all Option.isSome then some { g with attempt := g.attempt + 1, shards := xs.filterMap id } else none

def collCnt : Reg := ⟨.AFT_COLL_CNT, 0, 0⟩

/-- End a collective for want of members. -/
def endMembers (s : State) (c : Nat) : State := failCtx (bump s collCnt 15 0 1) c Code.COLL_MEMBER_LOST

/-- Send the SUBs of an attempt. -/
def sendSubs (s : State) (c : Nat) (g : Gather) : State :=
  g.shards.foldl (fun s x => x.node.elim s fun n => sendSub s c g.attempt x.shard n) s

/-- Members on the nodes `bad` have failed (R448, R449). -/
def memberFailure (s : State) (c : Nat) (bad : List Nat) : State :=
  match (getCtx s c).work.gather with
  | none => s
  | some g =>
    if !isLive s c || !g.shards.any (fun x => x.node.elim false bad.contains) then s
    else
      let g := { g with failed := g.failed ++ bad }
      let s := abortMembers s c g bad
      if g.attempt < getF s ⟨.AFT_COLL_CFG, 0, 0⟩ 41 40 then
        match nextAttempt s c g with
        | some g' =>
          let s := modWork s c fun w => { w with gather := some g' }
          sendSubs (bump s collCnt 31 16 1) c g'
        | none => endMembers s c
      else endMembers s c

/-- FANOUT (R443): the shards of the group, and a SUB to each remote one. A member's own path does not fan out again. -/
def doFanout (s : State) (c : Nat) : State :=
  let k := getCtx s c
  if !standsIn s c .fanout || k.work.done then s
  else if k.src.isMember then stageDone s c
  else if s.tick.align = .unaligned ∨ s.tick.align = .acquiring then failCtx s c Code.EPOCH_UNALIGNED
  else
    let m := mapAtEpoch s k.pin
    let own := cShard s (getColl s (dColl k.desc))
    let group := (entryOfShard m own).map (·.group)
    let others := (m.elim [] (·.entries)).filter fun e => group = some e.group && e.shard ≠ own
    let s := bump s collCnt 63 32 1
    let all := sortBy (fun a b => decide (a.shard < b.shard)) (⟨own, 0, 0, []⟩ :: others)
    let pick (e : MapEntry) : Option Shardlet :=
      if e.shard = own then some ⟨own, none, none⟩ else (pickNode s k.polder [] e).map fun n => ⟨e.shard, some n, none⟩
    let xs := all.map pick
    if xs.all Option.isSome then
      let g : Gather := { attempt := 0, shards := xs.filterMap id, failed := [] }
      let s := modWork s c fun w => { w with gather := some g, done := true }
      sendSubs s c g
    else endMembers s c

/-- A member's list as its message carries it (R211, R212, R447). -/
def parseList (bs : List Byte) : Nat × PList :=
  let w (i : Nat) : Nat := leNat ((bs.drop (8 * i)).take 8)
  let n := bits (w 0) 44 34
  let short := bits (w 0) 33 33 = 1
  let f (v : Nat) : F32 := BitVec.ofNat 32 v
  (bits (w 5) 63 40,
   { src := 0, entries := (List.range n).map fun i => ⟨f (bits (w (9 + 2 * i)) 63 32), i, w (8 + 2 * i)⟩, full := !short,
     leftCount := bits (w 3) 63 32, leftSum := f (bits (w 2) 31 0), tie := bits (w 1) 63 32,
     kth := if short then f32NaN else f (bits (w 1) 31 0),
     reason := if bits (w 5) 0 0 = 1 then .budget else if bits (w 0) 32 31 = 2 then .exhausted else .none, expanded := 0, poison := false,
     covers := [], dups := bits (w 3) 31 0 })

/-- LIST (R448): a member's list, or its failure. -/
def doListMsg (s : State) (m : FabMsg) : State :=
  let x := m.conn.val
  if !hears s m 2 mList then s
  else
    let s := takeInbox s x
    let c := m.context.val
    let k := getCtx s c
    let node := connNode s x
    let code := m.arg0.toNat % 65536
    match k.work.gather with
    | none => s
    | some g =>
      if !isLive s c || k.gen ≠ m.gen.toNat || g.attempt ≠ m.attempt || m.origin.toNat ≠ myNode s then s
      else if served code then
        let (sh, l) := parseList m.body
        let shards := g.shards.map fun y => if y.node = some node ∧ y.shard = sh then { y with list := some l } else y
        modWork s c fun w => { w with gather := some { g with shards := shards } }
      else if code = Code.EPOCH_GONE ∨ code = Code.EPOCH_AHEAD then failCtx (abortMembers s c g [node]) c code
      else memberFailure s c [node]

/-! ### Collectives at the member (R446, R449) -/

/-- The code with which a member refuses a SUB as it arrives, or 0 (R63, R234, R446, R452). -/
def subCode (s : State) (d : List Word) (sh : Nat) : Nat :=
  if s.tick.align = .unaligned ∨ s.tick.align = .acquiring then Code.EPOCH_UNALIGNED
  else if s.fab.prep.elim false (fun p => p.doubt && p.commit.isNone) then Code.MAP_IN_DOUBT
  else if !((entryOfShard (mapNow s) sh).elim false (fun e => e.nodes.contains (myNode s))) then Code.SHARD_ABSENT
  else if (getColl s (dColl d)).inDoubt then Code.REPLICA_IN_DOUBT else 0

/-- SUB (R446): a request of the polder that owns the MEMBER connection; its operand is placed in the system area. -/
def doSub (s : State) (m : FabMsg) (t : Stamp) : State :=
  let x := m.conn.val
  if !hears s m 2 mSub ∨ !toePath s (connPort s x) then s
  else
    let s := takeInbox s x
    let n := 8 * (8 + fld (BitVec.ofNat 64 (leNat (m.body.take 8))) 23 16)
    let d := leWords (n / 8) m.body
    let op := m.body.drop n
    let (s, a) := if op.isEmpty then (s, 0) else sysPut s op
    let info : MemberInfo := ⟨x, m.origin.toNat, m.context.val, m.gen.toNat, m.attempt, m.arg0.toNat % 2 ^ 24, m.arg1.toNat, a, op.length⟩
    let p := connPolder s x
    let c := subCode s d info.shard
    if c = Code.REPLICA_IN_DOUBT then refuseDesc s (.member info) d p c (ctxUnit (homeDie info.ctx)) 0
    else if c ≠ 0 then refuseIntake s (.member info) d p c else intake s (.member info) d p t (connPort s x) x 0

/-- Free the operand that a member placed for a sub-request. -/
def freeOperand (s : State) (m : MemberInfo) : State := if m.bytes = 0 then s else sysFree s m.operand m.bytes

/-- End a member's sub-requests that meet `p`, sending nothing (R449). -/
def dropMembers (s : State) (p : MemberInfo → Bool) : State :=
  let hit (src : Src) : Option MemberInfo := match src with
    | .member m => if p m then some m else none
    | _ => none
  let live := (s.ctxs.filter fun e => e.2.st = .live && (hit e.2.src).isSome)
  let s := live.foldl (fun s e => endCtx (modCtx s e.1 fun k => { k with src := .none }) e.1 Code.COLL_ABORTED (ctxUnit (homeDie e.1))) s
  let wait := s.sluice.waiting.filter fun w => (hit w.src).isSome
  let s := { s with sluice := { s.sluice with waiting := s.sluice.waiting.filter fun w => (hit w.src).isNone } }
  (live.filterMap (fun e => hit e.2.src) ++ wait.filterMap fun w => hit w.src).foldl freeOperand s

/-- COLLECTIVE_ABORT (R449): noted for the next boundary. -/
def doCollAbort (s : State) (m : FabMsg) : State :=
  let x := m.conn.val
  if !hears s m 2 mAbort then s
  else modFab (takeInbox s x) fun f => { f with aborts := f.aborts ++ [⟨m.origin.toNat, m.context.val, m.gen.toNat, m.attempt, s.tick.nextNum⟩] }

/-- Action 3 for ABORTs that are due (R449). -/
def runAborts (s : State) : State :=
  let due := s.fab.aborts.filter fun a => decide (a.due ≤ s.tick.epoch)
  let s := modFab s fun f => { f with aborts := f.aborts.filter fun a => !decide (a.due ≤ s.tick.epoch) }
  dropMembers s fun m => due.any fun a => a.origin = m.origin && a.ctx = m.ctx && a.gen = m.gen && a.attempt = m.attempt

/-- What a waiting sub-request meets at a boundary (R67, R446): it goes on waiting, or ends with a code. -/
def memberCode (s : State) (w : Waiting) (m : MemberInfo) : Option Nat :=
  let a := s.tick.epoch
  let e := dEpoch w.desc
  if m.deadline ≠ 0 ∧ m.deadline ≤ a then some Code.DEADLINE
  else if s.tick.align = .unaligned ∨ s.tick.align = .acquiring then some Code.EPOCH_UNALIGNED
  else if a + 1 < e then some Code.EPOCH_AHEAD
  else if e < a ∧ e ≤ (getColl s (dColl w.desc)).goneTo then some Code.EPOCH_GONE else none

/-- Action 5 before the grants: sub-requests of collectives are held, refused or left to be granted (R67). -/
def judgeMembers (s : State) : State :=
  (s.sluice.waiting.filter fun w => decide (w.elig ≤ s.tick.epoch)).foldl (fun s w => match w.src with
    | .member m => match memberCode s w m with
      | some code => refuseWaiting s w code (s.tick.epoch - w.elig)
      | none => if dEpoch w.desc = s.tick.epoch + 1 then
          { s with sluice := { s.sluice with waiting := s.sluice.waiting.map fun y => if y = w then { w with elig := s.tick.epoch + 1 } else y } }
        else s
    | _ => s) s

/-- The LIST that a member returns for a completion record (R446, R447). -/
def listMsg (m : MemberInfo) (ws : List Word) (r : Option Ranked) : List Byte :=
  let code := fld (dWord ws 1) 63 48
  let epoch := fld (dWord ws 2) 47 0
  let body := match r with
    | some r =>
      let bs := rankedBytes 4 epoch { r with entries := r.entries.map fun e => { e with src := 0 } }
      bs.take 40 ++ leBytes 8 (m.shard * 2 ^ 40 + b2n (r.reason = .budget)) ++ bs.drop 48
    | none => []
  fabBytes mList m.attempt epoch m.origin m.ctx m.gen (BitVec.ofNat 64 code) 0 (if served code then body else [])

/-- Send a member's LIST (R446); its operand is freed. -/
def sendList (s : State) (m : MemberInfo) (ws : List Word) (r : Option Ranked) : State :=
  let s := freeOperand s m
  let k := getConn s m.conn
  if k.st = .lost ∨ k.st = .closed then bumpAft s .AFT_CNT1 (connPort s m.conn) 31 0 1
  else pushMsg s m.conn (.message none) none (listMsg m ws r)

/-! ### Replication (R233, R234, R453) -/

/-- Nodes of the replica set of a collection's shard, but this part's. -/
def replicasOf (s : State) (co : Coll) : List Nat :=
  ((entryOfShard (mapNow s) (cShard s co)).elim [] (·.nodes)).filter (· ≠ myNode s)

/-- After an apply step, or a swap: the images of new groups of a replicated collection go to every replica (R233, R240). -/
def sendImages (s : State) (coll had : Nat) : State :=
  let co := getColl s coll
  if !co.writer || !mReplicated s co then s
  else
    (co.groups.drop had).foldl (fun s g =>
      let ids := if g.wrote.isEmpty then g.segs.flatMap fun x => (List.range (cSegSize s co x.seg)).map (cIdAt s co x.seg) else g.wrote
      let vecs := groupVecs s co g
      let body := Config.replEncode (ids.map (itemImage s co g vecs)) (g.eps.map fun e => (e.1, epIds s e.2))
      (replicasOf s co).foldl (fun s n => sendShard s n mReplStage g.commit (BitVec.ofNat 64 g.mseqLo) (BitVec.ofNat 64 g.mseqHi) body) s) s

/-- REPL_STAGE (R453) at a replica. -/
def doReplStage (s : State) (m : FabMsg) (coll : Nat) : State :=
  let c := m.conn.val
  if !hears s m 3 mReplStage ∨ (mapGet s.colls coll).isNone then s
  else
    let s := takeInbox s c
    let co := getColl s coll
    if m.epoch ≠ s.tick.tick + 1 ∧ m.epoch ≠ s.tick.tick + 2 then setColl s coll { co with inDoubt := true }
    else setColl s coll { co with images := co.images ++ [⟨c, m.arg0.toNat, m.arg1.toNat, m.epoch, m.body⟩] }

/-- REPLICA_APPLY_STEP (R233): in tick c − 1, the images of groups for boundary c, in the order in which the writer staged and sent them; each
staged group is reported. Groups are staged in mseq order but for requests that a slower prune held out of their turn (takeJob). -/
def doReplicaApply (s : State) (coll : Nat) (t : Stamp) : State :=
  let co := getColl s coll
  if (mapGet s.colls coll).isNone || co.writer || !s.tick.running || !s.tick.begun then s
  else
    let due := co.images.filter fun i => decide (i.epoch ≤ s.tick.tick + 1)
    due.foldl (fun s i =>
      let (items, eps) := Config.replDecode i.body
      match stageImages s coll i.lo i.hi i.epoch items eps t with
      | some s =>
        let s := setColl s coll { getColl s coll with images := (getColl s coll).images.erase i }
        sendFab s i.conn mReplStaged i.epoch 0 (BitVec.ofNat 64 i.hi) []
      | none => s) s

/-- REPL_STAGED (R233) at the writer: the last mseq names the group. -/
def doReplStaged (s : State) (m : FabMsg) (coll : Nat) : State :=
  let c := m.conn.val
  if !hears s m 3 mReplStaged ∨ (mapGet s.colls coll).isNone then s
  else
    let s := takeInbox s c
    let co := getColl s coll
    setColl s coll { co with groups := co.groups.map fun g => if g.mseqHi = m.arg1.toNat then { g with staged := insertUniq (connNode s c) g.staged } else g }

/-- Tell the replicas that a group moves to a later boundary (R233). -/
def tellDefer (nodes : List Nat) (n : Nat) (s : State) (g : Group) : State :=
  nodes.foldl (fun s x => sendShard s x mReplDefer n (BitVec.ofNat 64 g.mseqHi) (BitVec.ofNat 64 (n + 1)) []) s

/-- Tell the replicas that a group publishes at boundary `n` (R233, R234). -/
def tellCommit (nodes : List Nat) (n : Nat) (s : State) (g : Group) : State :=
  nodes.foldl (fun s x => sendShard s x mReplCommit n 0 (BitVec.ofNat 64 g.mseqHi) []) s

/-- The groups of a collection that are due at `n`. -/
def dueGroups (s : State) (coll n : Nat) : List Group := (getColl s coll).groups.filter fun g => decide (g.commit ≤ n)

/-- Due groups after the first `k` move, and the replicas of a replicated collection are told (R47, R233). -/
def moveGroups (s : State) (coll n k : Nat) : State :=
  let co := getColl s coll
  let moved := if co.writer && mReplicated s co then (dueGroups s coll n).drop k else []
  moved.foldl (tellDefer (replicasOf s co) n) (deferColl n s coll k)

/-- REPL_COMMIT_DECISION (R233), by B(c) − 1 µs: the due groups that every replica has reported STAGED, up to the first that one has not,
publish; that one and every later one move to the next boundary. REPL_COMMIT and REPL_DEFER name their group by its last mseq, in arg1 and
arg0 (DESIGN CHOICE: R445 does not say how they name it). -/
def doReplDecision (s : State) (coll : Nat) : State :=
  let co := getColl s coll
  let n := s.tick.nextNum
  let due := dueGroups s coll n
  if !co.writer || !mReplicated s co || due.isEmpty || due.all (fun g => g.named = some n) then s
  else
    let nodes := replicasOf s co
    let ready := due.takeWhile fun g => nodes.all g.staged.contains
    let s := if ready.length < due.length then moveGroups s coll n ready.length else s
    let s := setColl s coll { getColl s coll with
      groups := (getColl s coll).groups.map fun g => if g.commit ≤ n then { g with commit := n, named := some n } else g }
    ready.foldl (tellCommit nodes n) s

/-- EPOCH_FREEZE for a late collection (R47). -/
def freezeColl (s : State) (x : Nat × Nat) : State := moveGroups s x.1 s.tick.nextNum x.2

/-- REPL_COMMIT (R234) at a replica: received by B(c) − 1 µs. -/
def doReplCommit (s : State) (m : FabMsg) (coll : Nat) (t : Stamp) : State :=
  let c := m.conn.val
  if !hears s m 3 mReplCommit ∨ (mapGet s.colls coll).isNone then s
  else
    let s := takeInbox s c
    let co := getColl s coll
    if !beforeFreeze s m.epoch t then s
    else setColl s coll { co with
      groups := co.groups.map fun g => if g.mseqHi = m.arg1.toNat then { g with commit := m.epoch, named := some m.epoch } else g }

/-- REPL_DEFER (R233) at a replica. -/
def doReplDefer (s : State) (m : FabMsg) (coll : Nat) : State :=
  let c := m.conn.val
  if !hears s m 3 mReplDefer ∨ (mapGet s.colls coll).isNone then s
  else
    let s := takeInbox s c
    let co := getColl s coll
    setColl s coll { co with
      groups := co.groups.map fun g => if g.mseqHi = m.arg0.toNat then { g with commit := m.arg1.toNat, named := none } else g
      images := co.images.map fun i => if i.hi = m.arg0.toNat then { i with epoch := m.arg1.toNat } else i }

/-- Replicas that hold a staged group of a writer on `nodes`, or whose numbering no longer matches, are in doubt (R234, R453). -/
def doubtReplicas (s : State) (nodes : Option (List Nat)) : State :=
  { s with colls := s.colls.map fun e =>
      let w := (entryOfShard (mapNow s) (cShard s e.2)).map (·.writer)
      if mReplicated s e.2 ∧ !e.2.writer ∧ !e.2.groups.isEmpty ∧ nodes.elim true (fun ns => w.elim false ns.contains) then (e.1, { e.2 with inDoubt := true }) else e }

/-! ### Losses as collectives see them (R448, R449) -/

/-- MEMBER connections that a step has lost. -/
def lostMembers (old new_ : State) : List Nat :=
  (new_.fab.conns.filter fun e => e.2.st = .lost && (getConn old e.1).st ≠ .lost && connKind new_ e.1 = 2).map (·.1)

/-- A step of the fabric, with what its lost MEMBER connections mean to the collectives coordinated here. -/
def withMembers (f : State → State) (s : State) : State :=
  let s' := f s
  let gone := lostMembers s s'
  if gone.isEmpty then s' else
    (s'.ctxs.filter fun e => e.2.st = .live && e.2.work.gather.isSome).foldl (fun s e =>
      let bad := ascending ((gone.filter fun x => connPolder s x = e.2.polder).map (connNode s))
      if bad.isEmpty then s else memberFailure s e.1 bad) s'

/-- PEER_LOST with its consequences (R426, R448, R449, R453). -/
def doPeerLost (s : State) (n i : Nat) : State :=
  if !peerDue s n i then s
  else
    let node := peerNode s n i
    let s := withMembers (fun s => losePeer s n i) s
    let s := (s.ctxs.filter fun e => e.2.st = .live && e.2.work.gather.isSome).foldl (fun s e => memberFailure s e.1 [node]) s
    doubtReplicas (dropMembers s fun m => m.origin = node) (some [node])

/-- Every peer that is due at this boundary. -/
def peersAll (s : State) : State :=
  (s.fab.peers.filter fun e => peerDue s (e.1 / 1024) (e.1 % 1024)).foldl (fun s e => doPeerLost s (e.1 / 1024) (e.1 % 1024)) s

/-! ### Pooled flash (R454) and relays (R455) -/

/-- Number under which a pool job's writes are listed. -/
def poolList (id : Nat) : Nat := 100 + id

/-- Answer a POOL message. -/
def poolDone (s : State) (c code : Nat) (data : List Byte) : State := sendFab s c mPoolDone s.tick.tick (BitVec.ofNat 64 code) 0 data

/-- End a job with its status. -/
def endPool (s : State) (j : PoolJob) (code : Nat) : State :=
  let s := modFab s fun f => { f with pool := f.pool.filter (·.id ≠ j.id) }
  poolDone s j.conn code (if j.write ∨ code ≠ 0 then [] else j.data)

/-- The units of a job that can run now: READ and WRITE on the namespace of its connection (R412, R413). -/
def poolRun (s : State) (j : PoolJob) : Nat → State × PoolJob × Option Nat
  | 0 => (s, j, none)
  | fuel + 1 =>
    let ns := connPoolNs s j.conn
    let p := connPolder s j.conn
    if j.units ≤ j.i then (s, j, none)
    else match getNs s ns with
      | none => (s, j, some Code.FLASH_NS)
      | some n =>
        if j.write then
          let (s, took, code) := writeUnit s p ns (j.first + j.i) 0 ((j.data.drop (16384 * j.i)).take 16384) none (some (poolList j.id)) none (flowTag 5 j.id (j.first + j.i))
          if code ≠ 0 then (s, j, some code) else if took then poolRun s { j with i := j.i + 1 } fuel else (s, j, none)
        else
          let ver := resolveFrom s j.epoch chainFuel n.newest
          let w := mapEntry s ver (j.first + j.i)
          let (ok, s) := if entryMapped w then flashAsk s p wFlashRd (locCh (entryLoc w)) (flowTag 5 j.id (j.first + j.i)) else (true, s)
          if !ok then (s, j, none) else
            let (s, code, bs) := readUnit s ns ver (j.first + j.i) ((nth? j.steps j.i).getD (some 1))
            if code ≠ 0 then (s, j, some code) else poolRun s { j with i := j.i + 1, data := j.data ++ bs } fuel

/-- Advance one pool job; a write ends once what it wrote is durable (R402, R413). -/
def stepPool (s : State) (j : PoolJob) : State :=
  let r := poolRun s j j.units
  let s := r.1
  let j := r.2.1
  match r.2.2 with
  | some c => endPool s j c
  | none =>
    let mine := s.fss.wrs.filter fun w => w.list = some (poolList j.id)
    let wrote : Nat := mine.foldl (fun a w => max a (w.commit.getD 0)) (j.wrote.getD 0)
    let j : PoolJob := { j with wrote := if wrote = 0 then none else some wrote }
    if decide (j.units ≤ j.i) && !mine.any (fun x => x.commit.isNone) && (!j.write || decide (wrote ≤ s.fss.durable)) then endPool s j Code.OK
    else modFab s fun f => { f with pool := f.pool.map fun x => if x.id = j.id then j else x }

/-- Pool jobs that wait try again. -/
def retryPool (s : State) : State := s.fab.pool.foldl (fun s j => match s.fab.pool.find? (·.id = j.id) with
  | some j => stepPool s j
  | none => s) s

/-- POOL_READ and POOL_WRITE (R454). -/
def doPool2 (s : State) (m : FabMsg) (write : Bool) (steps : List (Option Nat)) (t : Stamp) : State :=
  let c := m.conn.val
  if !hears s m 4 (if write then mPoolWrite else mPoolRead) ∨ connRelayEn s c then s
  else
    let s := takeInbox s c
    let ns := connPoolNs s c
    let units := m.arg1.toNat % 65536
    let first := m.arg0.toNat
    if ns = 0 then poolDone s c Code.POOL_DENIED []
    else match getNs s ns with
      | none => poolDone s c Code.FLASH_NS []
      | some n =>
        if !n.isHost ∨ !n.bound ∨ n.polder ≠ connPolder s c then poolDone s c Code.FLASH_NS []
        else if units = 0 then poolDone s c Code.FLASH_LIST_INVALID []
        else if n.units < first + units then poolDone s c Code.FLASH_RANGE []
        else
          let j : PoolJob := { id := s.fab.poolNext, conn := c, write := write, first := first, units := units, i := 0,
                               data := if write then m.body else [], steps := steps, since := t, epoch := s.tick.epoch, wrote := none }
          stepPool (modFab s fun f => { f with pool := f.pool ++ [j], poolNext := f.poolNext + 1 }) j

/-- POOL_DONE (R445): the part's own units ask no server for a pool, so the message is taken and has no further effect. -/
def doPoolDone (s : State) (m : FabMsg) : State := if hears s m 4 mPoolDone then takeInbox s m.conn.val else s

/-- RELAY (R455). -/
def doRelay (s : State) (c : Nat) (bytes : List Byte) : State :=
  if !connHears s c 4 ∨ inFront s c ≠ some bytes ∨ !connRelayEn s c ∨ (getConn s (connRelay s c)).st ≠ .established then s
  else pushMsg (takeInbox s c) (connRelay s c) .quiet none bytes

end Sys2Proof.Machine
end

