-- ==== Sys2Proof/Machine/Waiters.lean ====
section
/-! DEFINITION. The ends that meet what waits for a host's copy (R371, R374), and the refusal of an image operation (R510). -/

namespace Sys2Proof.Machine

/-- A refusal: code, section, offset, detail_a, detail_b (R510). -/
structure ImgErr where
  code : Nat
  sec  : Nat := 0
  off  : Nat := 0
  a    : Nat := 0
  b    : Nat := 0
  deriving DecidableEq, Repr

/-- IMG_STS (R519). -/
abbrev rImgSts : Reg := ⟨.IMG_STS, 0, 0⟩

/-- A refusal (R510). -/
def imgRefuse (s : State) (e : ImgErr) : State :=
  let s := setF (setF s rImgSts 47 45 5) rImgSts 63 48 e.code
  let s := setReg s ⟨.IMG_ERR0, 0, 0⟩ (BitVec.ofNat 64 (e.code * 2 ^ 48 + e.sec * 2 ^ 40 + e.off % 2 ^ 40))
  let s := setReg s ⟨.IMG_ERR1, 0, 0⟩ (BitVec.ofNat 64 (e.a % 2 ^ 32 * 2 ^ 32 + e.b % 2 ^ 32))
  let s := bump s ⟨.IMG_CNT, 0, 0⟩ 31 0 1
  { s with img := { s.img with loading := none } }

/-- The number under which the loader waits for a host's copy. -/
abbrev imgWho : Nat := 8200

/-- End what waits for a host: a request, the list of a mover or of the flash subsystem, or the loader. What a connection lands waits on. -/
def endWaiter (s : State) (w code : Nat) : State :=
  if w < 8192 then failCtx s w code
  else if w < 8196 then endMovList s (w - 8192) code
  else if w < 8200 then (runningList s (w - 8196)).elim s fun l => endFlList s (w - 8196) l code
  else if w = imgWho then imgRefuse s { code := Code.LOAD_FAULT }
  else s

/-- RECALL_TIMEOUT (R371): requests that waited longer than recall_us for the line end with HOSTWIN_LATE; the recall stands. -/
def doRecallTimeout (s : State) (line : Nat) (t : Stamp) : State :=
  (List.range 4).foldl (fun s h =>
    let lim := getF s ⟨.MEM_HW_CFG, h, 0⟩ 63 54 * us
    match (getWin s h).recalls.find? fun r => r.line = line && decide (r.sentAt + lim < t) with
    | none => s
    | some r =>
      let s := r.waits.foldl (fun s w => endWaiter (bump s ⟨.MEM_HW_CNT0, h, 0⟩ 31 0 1) w Code.HOSTWIN_LATE) s
      modWin s h fun w => { w with recalls := w.recalls.map fun x => if x = r then { r with waits := [] } else x }) s

/-- HOST_LOST for the window (R374): it becomes RECOVERING, the host's SHARED copies are void, and its recalls end. -/
def loseHost (s : State) (h : Nat) : State :=
  let w := getWin s h
  if w.st ≠ .open_ ∧ w.st ≠ .closed then s else
    let s := modWin s h fun w => { w with st := .recovering }
    let held := s.dir.filter fun e => dirState e.2 = 1 && bits (dirSharers e.2) h h = 1
    let s := held.foldl (fun s e => dirSet s e.1 (mkShared (dirSharers e.2 - 2 ^ h))) s
    let rs := (getWin s h).recalls
    let s := modWin s h fun w => { w with recalls := [] }
    rs.foldl (fun s r => r.waits.foldl (fun s x => endWaiter s x Code.MEM_POISON) s) s

end Sys2Proof.Machine
end

