-- ==== Sys2Proof/Machine/Bml.lean ====
section
/-! DEFINITION. The Byldomund Link (R462 to R493): flits with their codes, sequence numbers, replay and credits; training; heartbeats and the
loss of a host; host memory requests; ring pairs. -/

namespace Sys2Proof.Machine

/-! ### The codes of a flit (R466) -/

/-- One bit of CRC-32C, the reflected Castagnoli polynomial (PRESUMED: the manual names the code only). -/
def crcStep (c : Nat) : Nat := if c % 2 = 1 then Nat.xor (c / 2) 0x82F63B78 else c / 2
def crcBits (c : Nat) : Nat → Nat
  | 0 => c
  | n + 1 => crcBits (crcStep c) n
def crcGo (c : Nat) : List Byte → Nat
  | [] => c
  | b :: bs => crcGo (crcBits (Nat.xor c b.toNat) 8) bs
/-- CRC-32C of bytes. -/
def crc32c (bs : List Byte) : Nat := Nat.xor (crcGo 0xFFFFFFFF bs) 0xFFFFFFFF

/-- The bytes of interleave `i`, ascending. -/
def interleave (i : Nat) : Nat → List Byte → List Byte
  | _, [] => []
  | j, b :: bs => if j % 3 = i then b :: interleave i (j + 1) bs else interleave i (j + 1) bs

/-- Complete a flit from its first 246 bytes. -/
def sealFlit (body : List Byte) : List Byte :=
  let f := body ++ leBytes 4 (crc32c body)
  let c (i : Nat) : List Byte := rsCheck 2 (interleave i 0 f)
  let b (i j : Nat) : Byte := (nth? (c i) j).getD 0
  f ++ [b 1 0, b 2 0, b 0 0, b 1 1, b 2 1, b 0 1]

/-- The byte of an interleave, counted from its end, that is wrong, and its error value; none where no single byte explains it. -/
def flitErr (xs : List Byte) : Option (Nat × Nat) :=
  let n := xs.length - 2
  let dev := List.zipWith (fun a b => Nat.xor a.toNat b.toNat) (xs.drop n) (rsCheck 2 (xs.take n))
  let errs := [(1, dev.getD 0 0), (0, dev.getD 1 0)]
  let syn := [rsSyn 0 errs, rsSyn 1 errs]
  if syn = [0, 0] then none
  else match (List.range xs.length).findSome? (rsOne syn) with
    | some ((p, v) :: _) => some (p, v)
    | _ => none

/-- Undo one byte error of interleave `i`. -/
def fixInter (f : List Byte) (i : Nat) : List Byte :=
  let xs := interleave i 0 f
  match flitErr xs with
  | some (p, v) => modAt f (3 * (xs.length - 1 - p) + i) fun b => b ^^^ BitVec.ofNat 8 v
  | none => f

/-- A received flit, corrected by its FEC; none where its CRC fails (R468). -/
def openFlit (bytes : List Byte) : Option (List Byte) :=
  if bytes.length ≠ 256 then none else
    let f := fixInter (fixInter (fixInter bytes 0) 1) 2
    if leNat ((f.drop 246).take 4) = crc32c (f.take 246) then some (f.take 246) else none

/-! ### Header, acknowledgement, credits (R467, R469, R471) -/

/-- The header of a flit, as a number. -/
def flitHead (f : List Byte) : Nat := leNat (f.take 6)
def hdKind (w : Nat) : Nat := bits w 47 46
def hdSeq (w : Nat) : Nat := bits w 45 36
def hdAck (w : Nat) : Nat := bits w 35 26

/-- Whether sequence number `q` is covered by an ack of `a`, modulo 1,024. -/
def ackCovers (a q : Nat) : Bool := decide ((a + 1024 - q) % 1024 < 512)

/-- Return credits of a class: what it took of the pool comes back first (R20, R471). -/
def creditBack (x : BmlPort) (c n : Nat) : BmlPort :=
  let held := mapGetD x.credit (8 + c) 0
  let p := min held n
  { x with pool := x.pool + p
           credit := mapSet (mapSet x.credit (8 + c) (held - p)) c (mapGetD x.credit c 0 + (n - p)) }

/-- Take the ack and the credit return of an accepted flit's header (R467). -/
def readHeader (s : State) (n w : Nat) : State :=
  modBml s n fun x =>
    let x := if bits w 25 25 = 1 then { x with replay := x.replay.filter fun f => !ackCovers (hdAck w) f.seq } else x
    let k := bits w 21 14
    if k = 0 then x else creditBack x (bits w 24 22) k

/-- The class whose credits the next flit returns: ascending in rotation over the classes that have some; a host's MREQ credits are
withheld while its meter lacks tokens (R467, R380). -/
def nextReturn (s : State) (n : Nat) : Option (Nat × Nat) :=
  let x := getBml s n
  let last := mapGetD x.owe 8 7
  let hold (c : Nat) : Bool := c = 0 && (getWin s n).withheld.isSome
  ((List.range 8).map (fun i => (last + 1 + i) % 8)).findSome? fun c =>
    let o := mapGetD x.owe c 0
    if o = 0 || hold c then none else some (c, min 255 o)

/-- Send a flit of a kind with a sequence number and 240 payload bytes: it carries the ack and a credit return (R466, R467). -/
def sendFlit (s : State) (n kind seq : Nat) (payload : List Byte) : State :=
  let x := getBml s n
  let r := nextReturn s n
  let s := match r with
    | some (c, k) => modBml s n fun x => { x with owe := mapSet (mapSet x.owe c (mapGetD x.owe c 0 - k)) 8 c }
    | none => s
  let ack := (x.rxNext + 1023) % 1024
  let w := kind * 2 ^ 46 + seq * 2 ^ 36 + (if x.rxAny then ack * 2 ^ 26 + 2 ^ 25 else 0) + r.elim 0 fun (c, k) => c * 2 ^ 22 + k * 2 ^ 14
  let bytes := sealFlit (leBytes 6 w ++ payload ++ List.replicate (240 - payload.length) 0)
  let s := if kind = 0 then modBml s n fun x => { x with replay := x.replay ++ [⟨seq, bytes, s.now⟩], txNext := (seq + 1) % 1024 } else s
  { s with out := s.out ++ [.flit n bytes] }

/-- The first message that its class's credit lets go, each class in its order (R471). -/
def pickMsg (x : BmlPort) (blocked : List Nat) : List (Nat × List Byte) → Option (Nat × List Byte)
  | [] => none
  | m :: ms =>
    if blocked.contains m.1 then pickMsg x blocked ms
    else if m.2.length / 16 ≤ mapGetD x.credit m.1 0 + x.pool then some m
    else pickMsg x (m.1 :: blocked) ms

/-- Take the credits of a message: the class reserve first, then the pool. -/
def takeCredit (x : BmlPort) (c n : Nat) : BmlPort :=
  let r := min n (mapGetD x.credit c 0)
  { x with credit := mapSet (mapSet x.credit c (mapGetD x.credit c 0 - r)) (8 + c) (mapGetD x.credit (8 + c) 0 + (n - r))
           pool := x.pool - (n - r) }

/-- Send the messages that can go, one to a DATA flit, while fewer than 256 flits are unacknowledged (R469, R471). -/
def pump (s : State) (n : Nat) : Nat → State
  | 0 => s
  | fuel + 1 =>
    let x := getBml s n
    if bmlState s n ≠ 2 ∨ 256 ≤ x.replay.length then s
    else match pickMsg x [] x.txq with
      | none => s
      | some m =>
        let s := modBml s n fun x => { takeCredit x m.1 (m.2.length / 16) with txq := x.txq.erase m }
        pump (sendFlit s n 0 (getBml s n).txNext m.2) n fuel

/-- Send what waits on every port. -/
def pumpAll (s : State) : State := (List.range 4).foldl (fun s n => pump s n (getBml s n).txq.length) s

/-! ### Received flits (R468, R469) -/

/-- A message as the transaction layer takes it. -/
structure BmlMsg where
  type : Nat
  addr : Nat
  tag  : Nat
  arg  : Nat
  data : List Byte
  deriving DecidableEq, Repr

def slotsOf (bs : List Byte) : List (List Byte) := (List.range (bs.length / 16)).map fun i => (bs.drop (16 * i)).take 16

/-- Cut slots into messages: those that are whole, with their class and slots, and the slots of one that is not yet whole. A slot of zeros
where a header would stand carries nothing; a message with a reserved type or another number of data slots is none (R475). -/
def cutSlots : Nat → List (List Byte) → List (Option Nat × Nat × Option BmlMsg) → List (Option Nat × Nat × Option BmlMsg) × List (List Byte)
  | 0, ss, acc => (acc.reverse, ss)
  | _, [], acc => (acc.reverse, [])
  | fuel + 1, h :: ss, acc =>
    let w0 := leNat (h.take 8)
    let w1 := leNat (h.drop 8)
    if w0 = 0 ∧ w1 = 0 then cutSlots fuel ss acc
    else
      let ds := bits w0 57 55
      if ss.length < ds then (acc.reverse, h :: ss)
      else
        let ty := bmlType (bits w0 63 58)
        let m : BmlMsg := ⟨bits w0 63 58, bits w0 47 0, bits w1 63 48, bits w1 31 0, (ss.take ds).flatten⟩
        let ok := ty.elim false fun x => x.2 = ds && decide (x.1 < 4 ∨ x.1 = 7)
        cutSlots fuel (ss.drop ds) ((ty.map (·.1), ds + 1, if ok then some m else none) :: acc)

def badMsg (s : State) (n : Nat) : State := bump s ⟨.BML_CNT3, n, 0⟩ 31 0 1

/-- Send a NAK that names the last flit received in order (R468). -/
def sendNakFlit (s : State) (n : Nat) : State :=
  bump (sendFlit (modBml s n fun x => { x with missing := true, nakAt := s.now }) n 2 0 []) ⟨.BML_CNT1, n, 0⟩ 63 32 1

/-- A DATA flit arrives: accepted in order, or discarded with a NAK; its whole messages (R468). -/
def takeData (s : State) (n : Nat) (bytes : List Byte) : State × List BmlMsg :=
  if bmlState s n ≠ 2 then (s, []) else
    match openFlit bytes with
    | none => (if (getBml s n).missing then s else sendNakFlit s n, [])
    | some f =>
      let w := flitHead f
      if hdKind w ≠ 0 then (s, [])
      else if hdSeq w ≠ (getBml s n).rxNext then (if (getBml s n).missing then s else sendNakFlit s n, [])
      else
        let s := readHeader s n w
        let (ms, rest) := cutSlots 64 ((getBml s n).slots ++ slotsOf ((f.drop 6).take 240)) []
        let s := modBml s n fun x => { x with rxNext := (hdSeq w + 1) % 1024, rxAny := true, missing := false, slots := rest }
        ms.foldl (fun acc m =>
          let s := match m.1 with
            | some c => modBml acc.1 n fun x => { x with owe := mapSet x.owe c (mapGetD x.owe c 0 + m.2.1) }
            | none => acc.1
          match m.2.2 with
          | some m => (s, acc.2 ++ [m])
          | none => (badMsg s n, acc.2)) (s, [])

/-- IDLE_FLIT (R467). -/
def doIdleFlit (s : State) (n : Nat) (bytes : List Byte) : State :=
  if bmlState s n ≠ 2 then s else
    match openFlit bytes with
    | some f => if hdKind (flitHead f) = 1 then readHeader s n (flitHead f) else s
    | none => s

/-- Enter RETRAIN when a condition of R465 holds. -/
def doRetrain (s : State) (n : Nat) (t : Stamp) : State :=
  let x := getBml s n
  let old := x.replay.head?.elim false fun f => decide (f.sentAt + 10 * us < t)
  if bmlState s n = 2 ∧ (x.nakSame.elim false (fun p => decide (8 ≤ p.2)) ∨ old) then
    let s := setF (setF s ⟨.BML_LINK_STS, n, 0⟩ 5 4 3) ⟨.BML_LINK_STS, n, 0⟩ 8 6 2
    bump (modBml s n fun x => { x with since := t, inits := 0, initLast := [], nakSame := none }) ⟨.BML_CNT1, n, 0⟩ 31 0 1
  else s

/-- Send the unacknowledged flits again, in order, with their bytes (R469). -/
def resend (s : State) (n : Nat) : State :=
  let fs := (getBml s n).replay
  let s := modBml s n fun x => { x with replay := x.replay.map fun f => { f with sentAt := s.now } }
  { s with out := s.out ++ fs.map fun f => .flit n f.bytes }

/-- NAK_FLIT (R469): what it acknowledges goes, the rest is sent again once per microsecond and NAK value; the eighth NAK of one value in a
row begins a retrain (R465). -/
def doNakFlit (s : State) (n : Nat) (bytes : List Byte) (t : Stamp) : State :=
  if bmlState s n ≠ 2 then s else
    match openFlit bytes with
    | none => s
    | some f =>
      let w := flitHead f
      if hdKind w ≠ 2 then s
      else
        let v := hdAck w
        let s := readHeader s n w
        let x := getBml s n
        let count := match x.nakSame with
          | some (u, k) => if u = v then k + 1 else 1
          | none => 1
        let s := modBml s n fun x => { x with nakSame := some (v, count) }
        let fresh := match x.resent with
          | some (u, t0) => u ≠ v || decide (t0 + us ≤ t)
          | none => true
        let s := if fresh then
            bump (resend (modBml s n fun x => { x with resent := some (v, t) }) n) ⟨.BML_LINK_STS, n, 0⟩ 63 32 x.replay.length
          else s
        doRetrain s n t

/-- NAK_REPEAT (R468): every microsecond while the expected flit is missing. -/
def doNakRepeat (s : State) (n : Nat) (t : Stamp) : State :=
  let x := getBml s n
  if bmlState s n = 2 ∧ x.missing ∧ x.nakAt + us ≤ t then sendNakFlit s n else s

/-! ### Training (R463 to R465) -/

/-- The content of an INIT flit this part sends (R464). -/
def initPayload (s : State) (n : Nat) (echoIn : List Byte) : List Byte :=
  let x := getBml s n
  let crd := x.crd.getD (getReg s ⟨.BML_CRD, n, 0⟩)
  let hb := getReg s ⟨.BML_HB_CFG, n, 0⟩
  let b (v : Nat) : Byte := BitVec.ofNat 8 v
  [b 1, b 0, b n, b (getF s ⟨.BML_LINK_STS, n, 0⟩ 12 9)] ++ leBytes 2 x.rxNext ++ [b (b2n (bmlState s n = 3)), 0]
    ++ [b (fld crd 7 0), b (fld crd 15 8), b (fld crd 23 16), b (fld crd 31 24), 0, 0, 0, b (fld crd 39 32)] ++ leBytes 2 (fld crd 63 52)
    ++ leBytes 4 (fld hb 16 0) ++ [b (fld hb 23 20), 0, 0, 0] ++ leBytes 8 s.now ++ echoIn

/-- What of an INIT flit's fields must be equal: all but the echo times (R463). -/
def initContent (f : List Byte) : List Byte := (f.drop 6).take 26

/-- INIT_FLIT (R464): counted while the port trains and answered with the part's own, echoing the sender's time. -/
def doInitFlit (s : State) (n : Nat) (bytes : List Byte) (t : Stamp) : State :=
  if bmlState s n ≠ 1 ∧ bmlState s n ≠ 3 then s else
    match openFlit bytes with
    | none => s
    | some f =>
      if hdKind (flitHead f) ≠ 3 then s
      else
        let c := initContent f
        let s := modBml s n fun x => { x with inits := if x.initLast = c then x.inits + 1 else 1, initLast := c }
        let s := setF s ⟨.BML_LINK_STS, n, 0⟩ 8 6 3
        let out := sealFlit (leBytes 6 (3 * 2 ^ 46) ++ initPayload (at_ s t) n ((f.drop 32).take 8) ++ List.replicate 198 0)
        { s with out := s.out ++ [.flit n out] }

/-- The source of a request whose host is lost (R487). -/
def srcGone (n : Nat) : Src → Src
  | .ring m r => if m = n then .gone m r else .ring m r
  | x => x

/-- The declaration of R487: the window recovers, the port's rings stop, requests taken run on for nobody. -/
def declareLost (s : State) (n : Nat) : State :=
  if (getBml s n).gone then s else
    let s := loseHost s n
    let g := srcGone n
    let s := { s with ctxs := s.ctxs.map fun e => (e.1, { e.2 with src := g e.2.src })
                      pend := s.pend.map fun p => { p with src := g p.src }
                      reeve := s.reeve.map fun x => { x with src := g x.src }
                      sluice := { s.sluice with waiting := s.sluice.waiting.map fun w => { w with src := g w.src }
                                                cancels := s.sluice.cancels.map fun x => { x with src := g x.src } } }
    let s := modBml s n fun x => { x with gone := true, hbSeen := false, attachPend := false, waitq := [] }
    let s := setF (setF s ⟨.BML_LINK_STS, n, 0⟩ 3 3 0) ⟨.BML_LINK_STS, n, 0⟩ 2 2 1
    bump s ⟨.BML_CNT2, n, 0⟩ 31 0 1

/-- A training or retrain fails: the port is DOWN and trains again in 10 ms; entered from ACTIVE or RETRAIN it loses the host (R463,
R465, R487). -/
def bmlDown (s : State) (n : Nat) (t : Stamp) : State :=
  let lost := decide (2 ≤ bmlState s n)
  let s := setF (setF s ⟨.BML_LINK_STS, n, 0⟩ 5 4 0) ⟨.BML_LINK_STS, n, 0⟩ 1 1 1
  let s := bump (setF s ⟨.BML_LINK_STS, n, 0⟩ 3 3 0) ⟨.BML_CNT2, n, 0⟩ 63 32 1
  let s := modBml s n fun x => { x with trainAt := some (t + 10000 * us), txq := [], replay := [], slots := [], hbNext := none, unans := [],
                                        hbSeen := false, attachPend := false, missing := false, nakSame := none, inits := 0 }
  if lost then declareLost s n else s

/-- The lanes that ALIGN settles on, as a mask; 0 where it fails (R463). -/
def alignLanes (s : State) (n : Nat) (ok : Nat) : Nat :=
  if ok = 255 then 255
  else if getF s ⟨.BML_CFG, n, 0⟩ 1 1 = 0 then 0
  else if ok % 16 = 15 then 15 else if ok / 16 = 15 then 240 else 0

/-- Whether INIT succeeds: three equal flits, the version, the far side's reserves and the round trip (R463, R471). -/
def initOk (tr : BmlTrain) : Bool :=
  decide (3 ≤ tr.equalInits) && decide (tr.version = 1) && decide (tr.farRes.length = 4) && tr.farRes.all (fun r => decide (8 ≤ r))
    && decide (tr.rttNs ≤ 560)

/-- Send a heartbeat (R486). -/
def sendHb (s : State) (n : Nat) (t : Stamp) : State :=
  let seq := (getBml s n).hbSeq
  let s := bmlPush s n 0x38 0 (tickOf s t) 0 seq []
  let iv := getF s ⟨.BML_HB_CFG, n, 0⟩ 16 0 * us
  let s := modBml s n fun x => { x with hbSeq := (seq + 1) % 2 ^ 32, unans := x.unans ++ [(seq, t)], hbNext := some (t + iv) }
  bump s ⟨.BML_HB_STS, n, 0⟩ 63 32 1

/-- Whether a port may begin a training at `t` (R463). -/
def mayTrain (s : State) (n : Nat) (t : Stamp) : Bool := bmlState s n = 0 && (getBml s n).trainAt.elim false (fun a => decide (a ≤ t))

/-- TRAINING_RETRY (R463). -/
def doTrainingRetry (s : State) (n : Nat) (t : Stamp) : State :=
  if !mayTrain s n t then s
  else modBml (setF s ⟨.BML_LINK_STS, n, 0⟩ 8 4 1) n fun x => { x with since := t, trainAt := none, inits := 0, initLast := [] }

/-- BML_TRAINING (R463 to R465): the outcome of a training or of a retrain. -/
def doTraining (s : State) (n : Nat) (tr : BmlTrain) (t : Stamp) : State :=
  let re := decide (bmlState s n = 3)
  if !(re || bmlState s n = 1 || mayTrain s n t) then s
  else
    let sts : Reg := ⟨.BML_LINK_STS, n, 0⟩
    let lanes := alignLanes s n tr.lanesOk.toNat
    if lanes = 0 then setF (bmlDown s n t) sts 8 6 2
    else if !initOk tr then setF (bmlDown s n t) sts 8 6 3
    else
      let s := setF (setF s sts 20 13 lanes) sts 12 9 (if lanes = 255 then 8 else 4)
      let s := setF (setF (setF s sts 31 21 tr.rttNs) sts 8 6 3) sts 5 4 2
      if re then
        resend (modBml s n fun x => { x with since := t, nakSame := none,
                                             replay := x.replay.filter fun f => !ackCovers ((tr.rxNext.toNat + 1023) % 1024) f.seq }) n
      else
        let credit := (List.range 4).map fun i => (4 + i, (nth? tr.farRes i).getD 0)
        let s := modBml s n fun x => { BmlPort.fresh with trainAt := none, ever := true, since := t, credit := credit, pool := tr.farPool,
                                                          crd := some (getReg s ⟨.BML_CRD, n, 0⟩), hbSeq := x.hbSeq, rings := x.rings,
                                                          gone := x.gone }
        sendHb s n t

/-- RETRAIN_TIMEOUT (R465). -/
def doRetrainTimeout (s : State) (n : Nat) (t : Stamp) : State :=
  if bmlState s n = 3 ∧ (getBml s n).since + 2000 * us ≤ t then bmlDown s n t else s

/-! ### Heartbeats (R486, R487, R489) -/

/-- HB (R486). -/
def doHb (s : State) (n : Nat) (t : Stamp) : State :=
  if bmlState s n = 2 ∧ (getBml s n).hbNext.elim false (fun a => decide (a ≤ t)) then sendHb s n t else s

/-- Consecutive heartbeats that stay unanswered one interval after they were sent (R487, R491). -/
def hbMissed (s : State) (n : Nat) (t : Stamp) : Nat :=
  let iv := getF s ⟨.BML_HB_CFG, n, 0⟩ 16 0 * us
  ((getBml s n).unans.filter fun u => decide (u.2 + iv ≤ t)).length

/-- HOST_LOST (R487). -/
def doHostLost (s : State) (n : Nat) (t : Stamp) : State :=
  if 2 ≤ bmlState s n ∧ getF s ⟨.BML_HB_CFG, n, 0⟩ 23 20 ≤ hbMissed s n t then declareLost s n else s

/-- HOST_ATTACH (R489): the attachment is reported to the window while the window is CLOSED, and is kept until then. -/
def doAttach (s : State) (n : Nat) : State :=
  if bmlState s n = 2 ∧ (getBml s n).hbSeen then
    let isNew := decide (getF s ⟨.BML_LINK_STS, n, 0⟩ 3 3 = 0)
    let s := setF s ⟨.BML_LINK_STS, n, 0⟩ 3 3 1
    if !isNew && !(getBml s n).attachPend then s
    else if (getWin s n).st = .closed then modBml s n fun x => { x with attachPend := false, gone := false }
    else modBml s n fun x => { x with attachPend := true }
  else s

/-- HB_ACK (R486): the heartbeats up to the one it names are answered. -/
def doHbAck (s : State) (n seq : Nat) : State :=
  if bmlState s n ≠ 2 then s
  else
    let u := (getBml s n).unans
    let rest := if u.any (·.1 = seq) then (u.dropWhile (·.1 ≠ seq)).drop 1 else u
    doAttach (modBml s n fun x => { x with unans := rest, hbSeen := true }) n

/-- Whether host `h` is attached and its window has been told (R373, R489). -/
def attachedTo (s : State) (h : Nat) : Bool := getF s ⟨.BML_LINK_STS, h, 0⟩ 3 3 = 1 && !(getBml s h).attachPend

/-- The windows at a boundary (R373, R374, R489): those that can open, open; RECOVERING ones are processed and close; an attachment that
waited is reported to a window that closed. -/
def windowsAll (s : State) : State :=
  (List.range 4).foldl (fun s h =>
    match (getWin s h).st with
    | .closed => doWindowOpen s h (attachedTo s h)
    | .recovering =>
      let s := doWindowClose s h
      let s := doWindowClose s h
      if (getBml s h).attachPend then doAttach s h else s
    | _ => s) s

/-! ### Host memory requests (R476 to R479) -/

/-- Whether a SHARED region whose readers name the host holds a line (R370). -/
def sharedFor (s : State) (h line : Nat) : Bool :=
  s.polders.any fun e => (regionsOf s e.1).any fun r =>
    r.2.tier = 3 && bits r.2.readers h h = 1 && decide (r.2.base ≤ line * 64) && decide (line * 64 < r.2.base + r.2.bytes)

/-- The reason of R476 that refuses a request, or 0: `own` for one that needs a window line. -/
def memReason (s : State) (h line : Nat) (own : Bool) : Nat :=
  let mine := inWindow s h line
  if !mine && (own || !sharedFor s h line) then 1
  else match (getWin s h).st with
    | .closed => 2
    | .lost => 3
    | _ => if memLost s (line * 64) then 4 else 0

/-- Answer a memory request: type, reason and data, with the load field (R381, R479). -/
def memAnswer (s : State) (r : HostReq) (type reason : Nat) (data : List Byte) : State :=
  bmlSend s r.host type (loadField s r.host r.metered) (r.addr * 64) r.tag reason 0 data

/-- Whether a transaction is open on a line: a recall or invalidation stands (R477). -/
def lineBusy (s : State) (line : Nat) : Bool := s.wins.any fun w => w.recalls.any (·.line = line)

/-- Whether a host holds a line OWNED, or SHARED. -/
def holdsOwned (s : State) (h line : Nat) : Bool := dirState (dirGet s line) = 2 && dirOwner (dirGet s line) = h
def holdsShared (s : State) (h line : Nat) : Bool := dirState (dirGet s line) = 1 && bits (dirSharers (dirGet s line)) h h = 1

/-- Find a line's errors as a host reads it (R363, R367, R375); true when it is poisoned. -/
def hostTouch (s : State) (line : Nat) : Bool × State :=
  let s := touchWindow s line
  (match lineOk s line with
    | .poisoned => true
    | .uncorrectable => true
    | _ => false, s)

/-- RD_S: a shared copy (R369, R370). A host that reads a line it owns keeps it OWNED. -/
def takeRdS (s : State) (r : HostReq) : State :=
  let (bad, s) := hostTouch s r.addr
  if bad then memAnswer s r 0x22 0 []
  else
    let e := dirGet s r.addr
    let data := rdBytes s (r.addr * 64) 64
    if dirState e = 2 then memAnswer s r 0x21 0 data
    else memAnswer (dirSet s r.addr (mkShared (Nat.lor (dirSharers e) (2 ^ r.host)))) r 0x20 0 data

/-- RD_O: ownership of a window line; the mirror bit is set before the grant (R369). -/
def takeRdO (s : State) (r : HostReq) : State :=
  let (bad, s) := hostTouch s r.addr
  let s := dirSet s r.addr (mkOwned r.host)
  if bad then memAnswer s r 0x23 0 [] else memAnswer s r 0x21 0 (rdBytes s (r.addr * 64) 64)

/-- WR_LINE: ownership followed at once by a write-back that drops the copy (R475). -/
def takeWrLine (s : State) (r : HostReq) : State := memAnswer (dirSet (wrBytes s (r.addr * 64) r.data) r.addr 0) r 0x24 0 []

/-- DROP: the host drops its SHARED copy (R369, R476). -/
def takeDrop (s : State) (r : HostReq) : State :=
  let e := dirGet s r.addr
  memAnswer (if holdsShared s r.host r.addr then dirSet s r.addr (mkShared (dirSharers e - 2 ^ r.host)) else s) r 0x24 0 []

/-- Serve a request of class MREQ: refused with a reason, or metered and served. -/
def serveReq (s : State) (r : HostReq) (t : Stamp) : State :=
  let reason := memReason s r.host r.addr (r.type = 0x02 || r.type = 0x03)
  if reason ≠ 0 then memAnswer s r 0x25 reason []
  else
    let s := if r.type = 0x04 then s else meterLine s r.host t
    if r.type = 0x01 then takeRdS s r else if r.type = 0x02 then takeRdO s r else if r.type = 0x03 then takeWrLine s r else takeDrop s r

/-- Whether a host's meter lacks the tokens of a line (R380). -/
def meterShort (s : State) (h : Nat) : Bool := hwRate s h ≠ 0 && decide ((getWin s h).tok < 64 * 2 ^ 20)

/-- Whether a request must wait: behind an open transaction or an earlier request on its line, or for tokens (R477, R380). -/
def reqWaits (s : State) (r : HostReq) (before : List HostReq) : Bool :=
  lineBusy s r.addr || before.any (fun x => x.addr = r.addr || (x.metered && r.type ≠ 0x04)) || (r.type ≠ 0x04 && meterShort s r.host)

/-- Put a request in its port's waiting requests; one that lacks tokens is marked. -/
def withMark (s : State) (r : HostReq) : HostReq := { r with metered := r.metered || (r.type ≠ 0x04 && meterShort s r.host) }

/-- Requests of one port that wait try again, in order. -/
def retryReqs (t : Stamp) : State → List HostReq → List HostReq → State × List HostReq
  | s, [], kept => (s, kept)
  | s, r :: rs, kept =>
    if reqWaits s r kept then retryReqs t s rs (kept ++ [withMark s r]) else retryReqs t (serveReq s r t) rs kept

/-- Requests of every port that wait try again. -/
def retryHosts (s : State) (t : Stamp) : State :=
  (List.range 4).foldl (fun s h =>
    let (s, kept) := retryReqs t (meterFill s h t) (getBml s h).waitq []
    modBml s h fun x => { x with waitq := kept }) s

/-- Whether a host's memory message is heard: its port is ACTIVE and open, and it does not belong to a window whose host is lost (R374,
R478, R489). -/
def memHeard (s : State) (h : Nat) : Bool × State :=
  if bmlState s h ≠ 2 then (false, s)
  else if getF s ⟨.BML_CFG, h, 0⟩ 0 0 = 0 then (false, badMsg s h)
  else ((getWin s h).st ≠ .recovering, unIdle s)

/-- A request of class MREQ arrives (R476 to R479). -/
def doMemReq (s : State) (h type addr tag : Nat) (data : List Byte) (t : Stamp) : State :=
  let (ok, s) := memHeard s h
  if !ok then s
  else
    let s := meterFill (wakeAt s 2 t) h t
    let r : HostReq := ⟨h, type, addr / 64, tag, data, false⟩
    if reqWaits s r (getBml s h).waitq then modBml s h fun x => { x with waitq := x.waitq ++ [withMark s r] } else serveReq s r t

/-- End a recall of a line at a host (R371, R477). -/
def endRecall (s : State) (h line : Nat) : State :=
  modWin s h fun w => { w with recalls := w.recalls.filter (·.line ≠ line) }

/-- WB_KEEP and WB_DROP (R369, R476, R478). -/
def doWriteBack (s : State) (h addr tag : Nat) (data : List Byte) (keep : Bool) : State :=
  let (ok, s) := memHeard s h
  if !ok then s
  else
    let line := addr / 64
    let r : HostReq := ⟨h, if keep then 0x08 else 0x09, line, tag, data, false⟩
    let reason := memReason s h line false
    if reason ≠ 0 then memAnswer s r 0x25 reason []
    else if !holdsOwned s h line then memAnswer s r 0x24 0 []
    else
      let s := dirSet (wrBytes s (line * 64) data) line (if keep then mkShared (2 ^ h) else 0)
      let acked := (getWin s h).recalls.any fun x => x.line = line && x.acked
      memAnswer (if acked then endRecall s h line else s) r 0x24 0 []

/-- SNP_ACK (R478): an invalidation is done, or the part waits for the write-back that crossed a recall. -/
def doSnpAck (s : State) (h addr : Nat) : State :=
  let (ok, s) := memHeard s h
  let line := addr / 64
  if !ok then s
  else match (getWin s h).recalls.find? (·.line = line) with
    | none => s
    | some x =>
      if x.kind = 0x2A then
        endRecall (if holdsShared s h line then dirSet s line (mkShared (dirSharers (dirGet s line) - 2 ^ h)) else s) h line
      else if holdsOwned s h line then
        modWin s h fun w => { w with recalls := w.recalls.map fun y => if y.line = line then { y with acked := true } else y }
      else endRecall s h line

/-- SNP_DATA (R369, R478): the recalled line's data lands, and the line is SHARED or HOME. -/
def doSnpData (s : State) (h addr : Nat) (data : List Byte) : State :=
  let (ok, s) := memHeard s h
  let line := addr / 64
  if !ok then s
  else match (getWin s h).recalls.find? (·.line = line) with
    | none => s
    | some x =>
      let s := if holdsOwned s h line && !memLost s (line * 64) then
          dirSet (wrBytes s (line * 64) data) line (if x.kind = 0x28 then mkShared (2 ^ h) else 0) else s
      endRecall s h line

/-! ### Ring pairs (R481 to R484) -/

def ringCfg (s : State) (n r : Nat) : Word := getReg s ⟨.BML_RING_CFG, n, r⟩
def ringOn (s : State) (n r : Nat) : Bool := fld (ringCfg s n r) 0 0 = 1
def cmdSize (s : State) (n r : Nat) : Nat := 2 ^ fld (ringCfg s n r) 51 47
def cplSize (s : State) (n r : Nat) : Nat := 2 ^ fld (ringCfg s n r) 46 42
def cmdCons (s : State) (n r : Nat) : Nat := getF s ⟨.BML_RING_STS, n, r⟩ 63 32
def cplProd (s : State) (n r : Nat) : Nat := getF s ⟨.BML_RING_STS, n, r⟩ 31 0

/-- a − b modulo 2^32. -/
def dist32 (a b : Nat) : Nat := (a + 2 ^ 32 - b % 2 ^ 32) % 2 ^ 32

/-- Both doorbells of a ring (R482): taken, or discarded and counted. -/
def doRingDoorbell (s : State) (n ring : Nat) (queue : Bool) (ix : Nat) : State :=
  let s := wakeAt (unIdle s) 2 s.now
  let g := getRing s n ring
  let old := if queue then g.cplCons else g.cmdProd
  let ahead := if queue then decide (dist32 ix (cplProd s n ring) ≠ 0 ∧ dist32 ix (cplProd s n ring) < 2 ^ 31)
    else decide (cmdSize s n ring < dist32 ix (cmdCons s n ring))
  if !ringOn s n ring || !g.wipe.isEmpty || (getBml s n).gone || decide (2 ^ 31 ≤ dist32 ix old) || ahead then bump s ⟨.BML_CNT0, n, 0⟩ 63 32 1
  else if queue then modRing s n ring fun g => { g with cplCons := ix, notify := true }
  else modRing s n ring fun g => { g with cmdProd := ix }

/-- The descriptor in the words of a command entry: eight words and the body. -/
def entryDesc (ws : List Word) : List Word := ws.take (8 + min 24 (fld (dWord ws 0) 23 16))

/-- COMMAND_ENTRY_READ (R483): the next entry of a ring, while its completion ring has room; a copy that the host owns is recalled first. -/
def doEntryRead (s : State) (n ring : Nat) (t : Stamp) : State :=
  let g := getRing s n ring
  let i := cmdCons s n ring
  let p := fld (ringCfg s n ring) 63 52
  if !ringOn s n ring ∨ (getBml s n).gone ∨ !toePath s n ∨ i = g.cmdProd ∨ cplSize s n ring ≤ dist32 i (g.cplCons + g.freed) then s
  else
    let a := (getReg s ⟨.BML_RING_CMD, n, ring⟩).toNat + 256 * (i % cmdSize s n ring)
    let take (s : State) : State := setF s ⟨.BML_RING_STS, n, ring⟩ 63 32 ((i + 1) % 2 ^ 32)
    match hostAccess s none a 256 false with
    | (.wait, s) => s
    | (.code c, s) => refuseIntake (take s) (.ring n ring) [] p c
    | (.ok, s) => intake (take s) (.ring n ring) (entryDesc (leWords 32 (rdBytes s a 256))) p t n ring i

/-- The port that writes a completion. -/
def srcPort (s : State) : Src → Option Nat
  | .ring n _ => some n
  | .gone n _ => some n
  | .conn c => some (connPort s c)
  | .member m => some (connPort s m.conn)
  | .none => none

/-- The first completion of a port that can be written: each ring and connection in its order, and a flash write durable first (R79, R402). -/
def nextPend (s : State) (n : Nat) : List Src → List Pending → Option Pending
  | _, [] => none
  | blocked, p :: ps =>
    if srcPort s p.src ≠ some n ∨ blocked.contains p.src then nextPend s n blocked ps
    else if p.hold.elim true (fun e => decide (e ≤ s.fss.durable)) then some p
    else nextPend s n (p.src :: blocked) ps

/-- The ring side of COMPLETION_WRITE (R484): the BML_WR weir, the slot's copy invalidated, the record, the producer index, one NOTIFY. -/
def writeRing (s : State) (n ring : Nat) (p : Pending) (drop : State → State) : State :=
  let i := cplProd s n ring
  let cfg := ringCfg s n ring
  let size := cplSize s n ring
  let a := (getReg s ⟨.BML_RING_CPL, n, ring⟩).toNat + 64 * (i % size)
  let step (s : State) : State := setF s ⟨.BML_RING_STS, n, ring⟩ 31 0 ((i + 1) % 2 ^ 32)
  match hostAccess s none a 64 true with
  | (.wait, s) => s
  | (.code _, s) => bump (step (drop s)) ⟨.BML_CNT3, n, 0⟩ 63 32 1
  | (.ok, s) =>
    let (ok, s) := weirAsk s (fld cfg 63 52) wBmlWr n 64 0 (.flow (flowTag 8 (64 * n + ring) i))
    if !ok then s
    else
      let phase : Word := if i / size % 2 = 0 then 1 else 0
      let s := step (wrWords (drop s) a (p.words.take 7 ++ [phase]))
      if fld cfg 41 41 = 1 ∧ (getRing s n ring).notify then
        bmlPush (modRing s n ring fun g => { g with notify := false }) n 0x3A 0 0 0 ring []
      else s

/-- COMPLETION_WRITE (R484, R78, R446, R487). The record of a REQUEST connection has phase 0, as its words stand: the part writes no ring for
it, and the receiver's ring is the receiver's (DESIGN CHOICE: R102 gives the phase of a ring alone). -/
def doCompletionWrite (s : State) (n : Nat) : State :=
  match nextPend s n [] s.pend with
  | none => s
  | some p =>
    let drop (s : State) : State := { s with pend := s.pend.erase p }
    match p.src with
    | .none => s
    | .gone n r => bump (modRing (drop s) n r fun g => { g with freed := g.freed + 1 }) ⟨.BML_CNT3, n, 0⟩ 63 32 1
    | .ring n r => writeRing s n r p drop
    | .member m => sendList (drop s) m p.words p.ranked
    | .conn c =>
      let k := getConn s c
      if k.st = .lost ∨ k.st = .closed then bumpAft (drop s) .AFT_CNT1 (connPort s c) 31 0 1
      else pushMsg (drop s) c .completion (some ((dWord p.words 0).toNat % 2 ^ 32)) (wordBytes p.words)

end Sys2Proof.Machine
end

