-- ==== Sys2Proof/Machine/Crypto.lean ====
section
/-! DEFINITION. The algorithms that images, owners and attestation name: SHA-256, HMAC, HKDF and ECDSA on P-256 (R497, R505 to R508). Their
tables are those of FIPS 180-4, RFC 2104, RFC 5869 and FIPS 186-5, which the manual names. -/

namespace Sys2Proof.Machine

/-! ### SHA-256 -/

def w32 (n : Nat) : Nat := n % 2 ^ 32
def rotr (x n : Nat) : Nat := Nat.lor (x >>> n) (w32 (x <<< (32 - n)))

def shaK : List Nat :=
  [0x428a2f98, 0x71374491, 0xb5c0fbcf, 0xe9b5dba5, 0x3956c25b, 0x59f111f1, 0x923f82a4, 0xab1c5ed5,
   0xd807aa98, 0x12835b01, 0x243185be, 0x550c7dc3, 0x72be5d74, 0x80deb1fe, 0x9bdc06a7, 0xc19bf174]
  ++ [0xe49b69c1, 0xefbe4786, 0x0fc19dc6, 0x240ca1cc, 0x2de92c6f, 0x4a7484aa, 0x5cb0a9dc, 0x76f988da,
   0x983e5152, 0xa831c66d, 0xb00327c8, 0xbf597fc7, 0xc6e00bf3, 0xd5a79147, 0x06ca6351, 0x14292967]
  ++ [0x27b70a85, 0x2e1b2138, 0x4d2c6dfc, 0x53380d13, 0x650a7354, 0x766a0abb, 0x81c2c92e, 0x92722c85,
   0xa2bfe8a1, 0xa81a664b, 0xc24b8b70, 0xc76c51a3, 0xd192e819, 0xd6990624, 0xf40e3585, 0x106aa070]
  ++ [0x19a4c116, 0x1e376c08, 0x2748774c, 0x34b0bcb5, 0x391c0cb3, 0x4ed8aa4a, 0x5b9cca4f, 0x682e6ff3,
   0x748f82ee, 0x78a5636f, 0x84c87814, 0x8cc70208, 0x90befffa, 0xa4506ceb, 0xbef9a3f7, 0xc67178f2]

/-- The eight working variables. -/
structure Sha where
  a : Nat
  b : Nat
  c : Nat
  d : Nat
  e : Nat
  f : Nat
  g : Nat
  h : Nat
  deriving DecidableEq, Repr

def shaInit : Sha :=
  { a := 0x6a09e667, b := 0xbb67ae85, c := 0x3c6ef372, d := 0xa54ff53a, e := 0x510e527f, f := 0x9b05688c, g := 0x1f83d9ab, h := 0x5be0cd19 }

def xor3 (a b c : Nat) : Nat := Nat.xor (Nat.xor a b) c

/-- One round with its constant and schedule word. -/
def shaRound (s : Sha) (kw : Nat × Nat) : Sha :=
  let s1 := xor3 (rotr s.e 6) (rotr s.e 11) (rotr s.e 25)
  let ch := Nat.xor (Nat.land s.e s.f) (Nat.land (0xFFFFFFFF - s.e) s.g)
  let t1 := w32 (s.h + s1 + ch + kw.1 + kw.2)
  let s0 := xor3 (rotr s.a 2) (rotr s.a 13) (rotr s.a 22)
  let maj := xor3 (Nat.land s.a s.b) (Nat.land s.a s.c) (Nat.land s.b s.c)
  { a := w32 (t1 + s0 + maj), b := s.a, c := s.b, d := s.c, e := w32 (s.d + t1), f := s.e, g := s.f, h := s.g }

/-- Extend a schedule of the last sixteen words, oldest first, by `n` words; the words in order. -/
def shaSched : Nat → List Nat → List Nat
  | 0, ws => ws
  | n + 1, ws =>
    match ws with
    | [] => []
    | w0 :: rest =>
      let x := rest.getD 0 0
      let y := rest.getD 13 0
      let s0 := xor3 (rotr x 7) (rotr x 18) (x >>> 3)
      let s1 := xor3 (rotr y 17) (rotr y 19) (y >>> 10)
      w0 :: shaSched n (rest ++ [w32 (w0 + s0 + rest.getD 8 0 + s1)])

/-- One block of sixteen words. -/
def shaBlock (s : Sha) (ws : List Nat) : Sha :=
  let r := (shaK.zip (shaSched 48 ws)).foldl shaRound s
  { a := w32 (s.a + r.a), b := w32 (s.b + r.b), c := w32 (s.c + r.c), d := w32 (s.d + r.d),
    e := w32 (s.e + r.e), f := w32 (s.f + r.f), g := w32 (s.g + r.g), h := w32 (s.h + r.h) }

/-- Big-endian 32-bit words of bytes. -/
def beWords : Nat → List Byte → List Nat
  | 0, _ => []
  | n + 1, bs => beNat (bs.take 4) :: beWords n (bs.drop 4)

def shaGo (s : Sha) : Nat → List Byte → Sha
  | 0, _ => s
  | n + 1, bs => shaGo (shaBlock s (beWords 16 bs)) n (bs.drop 64)

/-- A number as `n` big-endian bytes. -/
def beBytes (n v : Nat) : List Byte := (leBytes n v).reverse

/-- SHA-256 of bytes. -/
def sha256 (bs : List Byte) : List Byte :=
  let pad := (119 - bs.length % 64) % 64
  let m := bs ++ [0x80#8] ++ List.replicate pad 0 ++ beBytes 8 (8 * bs.length)
  let s := shaGo shaInit (m.length / 64) m
  [s.a, s.b, s.c, s.d, s.e, s.f, s.g, s.h].flatMap (beBytes 4)

/-! ### HMAC and HKDF -/

def hmacSha (key bs : List Byte) : List Byte :=
  let k := if 64 < key.length then sha256 key else key
  let k := k ++ List.replicate (64 - k.length) 0
  sha256 (k.map (· ^^^ 0x5C#8) ++ sha256 (k.map (· ^^^ 0x36#8) ++ bs))

/-- HKDF-SHA-256 with a zero salt and one block of output (R507). -/
def hkdf (secret info : List Byte) : List Byte := hmacSha (hmacSha (List.replicate 32 0) secret) (info ++ [1#8])

/-! ### P-256 -/

def p256 : Nat := 0xffffffff00000001000000000000000000000000ffffffffffffffffffffffff
def p256N : Nat := 0xffffffff00000000ffffffffffffffffbce6faada7179e84f3b9cac2fc632551
def p256B : Nat := 0x5ac635d8aa3a93e7b3ebbd55769886bc651d06b0cc53b0f63bce3c3e27d2604b
def p256G : Option (Nat × Nat) :=
  some (0x6b17d1f2e12c4247f8bce6e563a440f277037d812deb33a0f4a13945d898c296, 0x4fe342e2fe1a7f9b8ee7eb4a7c0f9e162bce33576b315ececbb6406837bf51f5)

/-- b^e mod m, by the bits of e. -/
def powMod (m b : Nat) : Nat → Nat → Nat
  | 0, _ => 1 % m
  | n + 1, e => let h := powMod m (b * b % m) n (e / 2); if e % 2 = 1 then h * b % m else h

/-- The inverse modulo a prime. -/
def invMod (m a : Nat) : Nat := powMod m (a % m) 256 (m - 2)

/-- Sum of two points; none is the point at infinity. -/
def ecAdd : Option (Nat × Nat) → Option (Nat × Nat) → Option (Nat × Nat)
  | none, q => q
  | p, none => p
  | some (x1, y1), some (x2, y2) =>
    if x1 = x2 ∧ (y1 + y2) % p256 = 0 then none
    else
      let l := if x1 = x2 ∧ y1 = y2 then (3 * x1 * x1 + (p256 - 3)) * invMod p256 (2 * y1) % p256
        else (y2 + p256 - y1) * invMod p256 (x2 + p256 - x1) % p256
      let x := (l * l + 2 * p256 - x1 - x2) % p256
      some (x, (l * (x1 + p256 - x) + p256 - y1) % p256)

/-- k times a point. -/
def ecMul (p : Option (Nat × Nat)) : Nat → Nat → Option (Nat × Nat)
  | 0, _ => none
  | n + 1, k => let h := ecMul (ecAdd p p) n (k / 2); if k % 2 = 1 then ecAdd h p else h

/-- Whether (x, y) is a point of the curve. -/
def onCurve (x y : Nat) : Bool :=
  decide (x < p256) && decide (y < p256) && decide (y * y % p256 = (x * x * x + (p256 - 3) * x + p256B) % p256)

/-- ECDSA verification of a digest under a public point, each value 32 big-endian bytes (R497). -/
def ecdsaVerify (digest x y r s : List Byte) : Bool :=
  let (x, y, r, s) := (beNat x, beNat y, beNat r, beNat s)
  if !onCurve x y || r = 0 || s = 0 || decide (p256N ≤ r) || decide (p256N ≤ s) then false
  else
    let w := invMod p256N s
    let u1 := beNat digest * w % p256N
    let u2 := r * w % p256N
    match ecAdd (ecMul p256G 256 u1) (ecMul (some (x, y)) 256 u2) with
    | none => false
    | some (px, _) => decide (px % p256N = r)

/-- The public point of a private scalar, x then y, big-endian. -/
def ecPublic (d : Nat) : List Byte :=
  match ecMul p256G 256 d with
  | some (x, y) => beBytes 32 x ++ beBytes 32 y
  | none => List.replicate 64 0

/-- An ECDSA signature, r then s, with a nonce. -/
def ecdsaSign (digest : List Byte) (d k : Nat) : List Byte :=
  match ecMul p256G 256 k with
  | none => List.replicate 64 0
  | some (x, _) =>
    let r := x % p256N
    let s := invMod p256N k * (beNat digest + r * d) % p256N
    beBytes 32 r ++ beBytes 32 s

/-- A private scalar from a secret and a label: the first counter byte whose output lies in 1 to n − 1 (R507). -/
def scalarFrom (secret info : List Byte) : Nat → Nat → Nat
  | 0, _ => 1
  | fuel + 1, i =>
    let k := beNat (hkdf secret (info ++ [BitVec.ofNat 8 i]))
    if k = 0 ∨ p256N ≤ k then scalarFrom secret info fuel (i + 1) else k

/-- The bytes of a label of ASCII characters. -/
def ascii (s : String) : List Byte := s.toList.map fun c => BitVec.ofNat 8 c.toNat

end Sys2Proof.Machine
end

