-- ==== Sys2Proof/Machine/ImageCheck.lean ====
section
/-! DEFINITION. Reading an image and the loader's checks of rows 1 to 8 of R509 (R494 to R503). -/

namespace Sys2Proof.Machine

/-! ### The image's parts -/

/-- The first of a list of checks that fails. -/
def firstErr (xs : List (Option ImgErr)) : Option ImgErr := xs.findSome? id

/-- A refusal when a condition holds. -/
def errIf (c : Bool) (e : ImgErr) : Option ImgErr := if c then some e else none

/-- `n` little-endian bytes at an offset of an image. -/
def imgN (bs : List Byte) (off n : Nat) : Nat := leNat ((bs.drop off).take n)
def imgW (bs : List Byte) (off : Nat) : Word := BitVec.ofNat 64 (imgN bs off 8)

def imgKind (bs : List Byte) : Nat := imgN bs 6 1
def imgSections (bs : List Byte) : Nat := imgN bs 7 1
def imgPolder (bs : List Byte) : Nat := imgN bs 8 2
def imgRaise (bs : List Byte) : Bool := imgN bs 10 1 % 2 = 1
def imgSvn (bs : List Byte) : Nat := imgN bs 12 4
def imgLength (bs : List Byte) : Nat := imgN bs 16 8

/-- An entry of the section table (R496). -/
structure Section where
  type    : Nat
  records : Nat
  off     : Nat
  bytes   : Nat
  deriving DecidableEq, Repr

def imgSection (bs : List Byte) (i : Nat) : Section :=
  let a := 64 + 32 * i
  ⟨imgN bs a 2, imgN bs (a + 4) 4, imgN bs (a + 8) 8, imgN bs (a + 16) 8⟩

def imgTable (bs : List Byte) : List Section := (List.range (imgSections bs)).map (imgSection bs)

/-- The section of a type. -/
def secOf (bs : List Byte) (type : Nat) : Option Section := (imgTable bs).find? (·.type = type)
def secBytes (bs : List Byte) (type : Nat) : List Byte := (secOf bs type).elim [] fun x => (bs.drop x.off).take x.bytes

/-- The records of a section of fixed-size records: offset in the section and words. -/
def secRecs (bs : List Byte) (type size : Nat) : List (Nat × List Word) :=
  (secOf bs type).elim [] fun x =>
    (List.range (min x.records (x.bytes / size))).map fun i => (size * i, leWords (size / 8) (((bs.drop x.off).drop (size * i)).take size))

/-- The image kinds that may hold a section (R498). -/
def secKinds (type : Nat) : List Nat :=
  if type = 1 then [0] else if type = 2 then [1, 2] else if type = 3 then [2] else if type = 4 then [1, 2] else if type = 5 then [2]
  else if type = 6 then [1, 2] else if 7 ≤ type ∧ type ≤ 10 then [2] else if type = 11 then [1, 2] else if type = 12 then [1] else []

/-- The image hash: SHA-256 of bytes 0 to length − 129 (R497). -/
def imgHash (bs : List Byte) : List Byte := sha256 (bs.take (imgLength bs - 128))
def imgSig (bs : List Byte) (i : Nat) : List Byte := (bs.drop (imgLength bs - 128 + 32 * i)).take 32

/-! ### Row 1: header, section table, kinds -/

/-- The checks of the header (R495); `len` bytes hold the image. -/
def checkHeader (bs : List Byte) (len : Nat) (kinds : List Nat) : Option ImgErr :=
  let bad (off : Nat) : ImgErr := { code := Code.IMG_FORMAT, off := off }
  firstErr [
    errIf (decide (len < 64)) (bad 0),
    errIf (bs.take 4 ≠ [0x45#8, 0x46#8, 0x5A#8, 0x4C#8]) { code := Code.BAD_MAGIC },
    errIf (imgN bs 4 2 ≠ 1) (bad 4),
    errIf (!kinds.contains (imgKind bs)) (bad 6),
    errIf (!between (imgSections bs) 1 16) (bad 7),
    errIf (decide (4095 < imgPolder bs) || (imgKind bs ≠ 2 && imgPolder bs ≠ 0)) (bad 8),
    errIf (imgLength bs % 64 ≠ 0 || !between (imgLength bs) 320 (2 ^ 40) || decide (len < imgLength bs)) (bad 16)]

/-- The checks of the section table (R496, R498). -/
def checkTable (bs : List Byte) : Option ImgErr :=
  let ts := imgTable bs
  let n := imgSections bs
  let one (i : Nat) : Option ImgErr :=
    let x := imgSection bs i
    let bad : ImgErr := { code := Code.IMG_FORMAT, off := 64 + 32 * i }
    let before := ts.take i
    errIf (!(secKinds x.type).contains (imgKind bs) || before.any (·.type = x.type) || x.off % 64 ≠ 0 || decide (x.off < 64 + 32 * n)
      || decide (imgLength bs - 128 < x.off + x.bytes)
      || before.any (fun y => decide (x.off < y.off + y.bytes ∧ y.off < x.off + x.bytes))) bad
  let need := if imgKind bs = 0 then [1] else [2]
  firstErr ((List.range n).map one ++ [errIf (need.any fun t => !(ts.any (·.type = t))) { code := Code.IMG_FORMAT, off := 64 }])

/-! ### Rows 2 to 4: key, signature, svn, polder -/

/-- The key hash of the signing key (R497). -/
def signerHash (bs : List Byte) : List Byte := sha256 (imgSig bs 0 ++ imgSig bs 1)

/-- The policy that lets a key sign a polder's image: first and last polder, svn_min; none where no key is accepted (R502, R509). -/
def keyPolicy (s : State) (bs : List Byte) : Option (Nat × Nat × Nat) :=
  let h := signerHash bs
  if h = s.img.owner ∧ h ≠ List.replicate 32 0 then
    some (match s.img.keys.find? (·.slot = 0) with
      | some k => (k.first, k.last, k.svn)
      | none => (1, 4095, 0))
  else (s.img.keys.find? fun k => k.slot ≠ 0 && k.hash = h).map fun k => (k.first, k.last, k.svn)

def sigOk (bs : List Byte) : Bool := ecdsaVerify (imgHash bs) (imgSig bs 0) (imgSig bs 1) (imgSig bs 2) (imgSig bs 3)

/-- The signature block's place as an offset in the image. -/
def sigErr (bs : List Byte) (code : Nat) : ImgErr := { code := code, off := imgLength bs - 128 }

/-- The polders that a host may name (HOST_POLDERS, R499); the reeve and the board controller name every one. -/
def mayName (s : State) (by_ p : Nat) : Bool :=
  decide (4 ≤ by_) || s.img.ranges.any fun x => x.1 = by_ && decide (x.2.1 ≤ p) && decide (p ≤ x.2.2)

/-- Rows 2 to 4 for a POLDER image. -/
def checkPolder (s : State) (bs : List Byte) (by_ : Nat) : Option ImgErr :=
  let p := imgPolder bs
  match keyPolicy s bs with
  | none => some (sigErr bs Code.BAD_SIGNATURE)
  | some (lo, hi, svn) => firstErr [
      errIf (!between p lo hi && p ≠ 0) (sigErr bs Code.KEY_RANGE),
      errIf (!sigOk bs) (sigErr bs Code.BAD_SIGNATURE),
      errIf (decide (imgSvn bs < svn)) { code := Code.ROLLBACK, off := 12 },
      errIf (p = 0) { code := Code.POLDER_ZERO, off := 8 },
      errIf (!mayName s by_ p) { code := Code.HOST_DENIED, off := 8 },
      errIf ((getPolder s p).st ≠ .absent) { code := Code.POLDER_BUSY, off := 8 }]

/-! ### Row 5: FLOORPLAN -/

/-- The floorplan's records (R499). -/
def floorRecs (bs : List Byte) : List (Nat × List Word) := secRecs bs 2 32
def recType (w : List Word) : Nat := fld (dWord w 0) 63 60

/-- The REG records: offset, address bits [31:0], value. -/
def regRecs (bs : List Byte) : List (Nat × Nat × Word) :=
  ((floorRecs bs).filter fun r => recType r.2 = 0).map fun r => (r.1, fld (dWord r.2 0) 31 0, dWord r.2 1)

/-- The value that an image's REG records give a register, or the stored one. -/
def imgReg (s : State) (bs : List Byte) (r : Reg) : Word :=
  (((regRecs bs).filter fun x => x.2.1 = regAddr r).getLast?).elim (getReg s r) (·.2.2)

/-- Whether a REG record of a polder's image names a register that R500 lets it name. -/
def regAllowed (bs : List Byte) (p : Nat) (r : Reg) (v : Word) : Bool :=
  let own (n : RegName) : Bool := (regRecs bs).any fun x => x.2.1 = regAddr ⟨n, r.i, r.j⟩ && fld x.2.2 63 52 = p
  match r.name with
  | .PLD_CFG | .PLD_CTX | .PLD_PRIV | .DIK_CFG | .SLU_CFG => r.i = p
  | .WEI_CFG | .WLK_SLOT_CFG | .TEN_CFG | .BML_RING_CFG => fld v 63 52 = p
  | .WEI_RATE => own .WEI_CFG
  | .MEM_BSU_WIN => fld v 11 0 = p
  | .BML_RING_CMD | .BML_RING_CPL => own .BML_RING_CFG
  | _ => false

/-- Whether a write of a value fits a register's access codes and ranges: 1 bits only in fields a write sets (R500). -/
def regWritable (n : RegName) (v : Word) : Bool := (v &&& ~~~(maskOf n [.RW, .RWL])) = 0 && inRanges n v

/-- One floorplan record of a POLDER image (R499, R500). -/
def checkFloorRec (bs : List Byte) (p : Nat) (r : Nat × List Word) : Option ImgErr :=
  let w := dWord r.2 0
  let bad (a : Nat) : ImgErr := { code := Code.FLOOR_INVALID, sec := 2, off := r.1, a := a }
  let t := recType r.2
  if t = 0 then
    match regFind (fld w 31 0) with
    | none => some (bad 0)
    | some g => errIf (!regAllowed bs p g (dWord r.2 1) || !regWritable g.name (dWord r.2 1)) (bad (if regAllowed bs p g (dWord r.2 1) then 64 else 0))
  else if t = 1 then errIf (decide (96 < fld w 6 0)) (bad 0)
  else if t = 2 then errIf (decide (fld w 11 0 < fld w 27 16) || decide (2048 < fld w 11 0)) (bad 0)
  else if t = 3 then errIf (!blockPopulated (fld w 31 16)) (bad 16)
  else some (bad 60)

/-- The windows of stacks that an image takes (R267 order 2): register and offset. -/
def imgWins (bs : List Byte) : List (Nat × Reg) :=
  (regRecs bs).filterMap fun x => (regFind x.2.1).bind fun g => if g.name = .MEM_BSU_WIN then some (x.1, g) else none

/-- The pool quotas of an image by die: quota and limit (R499). -/
def imgQuota (bs : List Byte) (die : Nat) : Nat × Nat :=
  match ((floorRecs bs).filter fun r => recType r.2 = 2 && fld (dWord r.2 0) 57 56 = die).getLast? with
  | some r => (fld (dWord r.2 0) 27 16, fld (dWord r.2 0) 11 0)
  | none => (0, 0)
/-- Its sequence slots by die. -/
def imgSeq (bs : List Byte) (die : Nat) : Nat :=
  (((floorRecs bs).filter fun r => recType r.2 = 1 && fld (dWord r.2 0) 57 56 = die).getLast?).elim 0 fun r => fld (dWord r.2 0) 6 0
/-- Its host grants: host and block. -/
def imgGrants (bs : List Byte) : List (Nat × Nat) :=
  ((floorRecs bs).filter fun r => recType r.2 = 3).map fun r => (fld (dWord r.2 0) 57 56, fld (dWord r.2 0) 31 16)

/-- Polders that are loaded: not ABSENT. -/
def loadedPolders (s : State) : List Nat := (s.polders.filter fun e => e.2.st ≠ .absent).map (·.1)

/-- A region record: region number, registered, landing key, descriptor words (R498). -/
structure ImgRegion where
  off  : Nat
  num  : Nat
  reg  : Bool
  key  : Nat
  desc : List Word
  deriving DecidableEq, Repr

def imgRegions (bs : List Byte) : List ImgRegion :=
  (secRecs bs 4 64).map fun r => ⟨r.1, fld (dWord r.2 0) 63 52, fld (dWord r.2 0) 32 32 = 1, fld (dWord r.2 0) 31 0, (r.2.drop 1).take 4⟩

def irTier (r : ImgRegion) : Nat := fld (dWord r.desc 0) 63 61
def irPinned (r : ImgRegion) : Bool := fld (dWord r.desc 0) 60 60 = 1
def irDie (r : ImgRegion) : Nat := fld (dWord r.desc 0) 59 58
def irHost (r : ImgRegion) : Nat := fld (dWord r.desc 0) 57 56
def irBase (r : ImgRegion) : Nat := (dWord r.desc 1).toNat
def irBytes (r : ImgRegion) : Nat := (dWord r.desc 2).toNat
def irBack (r : ImgRegion) : Nat := (dWord r.desc 3).toNat

/-- Pinned pool tiles that an image takes on a die. -/
def imgPinned (bs : List Byte) (die : Nat) : Nat :=
  ((imgRegions bs).filter fun r => irTier r = 1 && irPinned r && irDie r = die).foldl (fun n r => n + cdiv (irBytes r) 65536) 0

/-- Row 5 (R499, R500, R267 order 2, R360). -/
def checkFloor (s : State) (bs : List Byte) (p : Nat) : Option ImgErr :=
  firstErr ((floorRecs bs).map (checkFloorRec bs p)
    ++ (imgWins bs).map (fun x =>
        let owner := getF s x.2 11 0
        errIf (decide (nWindows s ≤ x.2.j) || (owner ≠ 0 && owner ≠ p)) { code := Code.BSU_WINDOWS, sec := 2, off := x.1, b := x.2.j })
    ++ (List.range 4).map (fun d =>
        let q := (imgQuota bs d).1
        let sum := (loadedPolders s).foldl (fun n x => n + (poolQuota s x d).1) 0
        errIf (decide (2048 < sum + q) || decide (q < imgPinned bs d)) { code := Code.POOL_SPACE, b := d }))

/-! ### Row 6: REGIONS (R353) -/

/-- The layout rows that a range of HBM touches: stack and row. -/
def rowsOf (a n : Nat) : List (Nat × Nat) :=
  if n = 0 then [] else
    (List.range ((a + n - 1) / rowBytes - a / rowBytes + 1)).map fun i =>
      let x := (a / rowBytes + i) * rowBytes
      (x / stackBytes, x % stackBytes / rowBytes)

/-- Whether a row is PLAIN, lies outside the system area, and is free or among `mine`. -/
def rowFree (s : State) (mine : List (Nat × Nat)) (r : Nat × Nat) : Bool :=
  decide (r.2 < 1008) && decide (r.1 < 20) && !rowHostwin s r.1 r.2 && (mine.contains r || getF s (rowReg r.1 r.2) 3 3 = 0)

/-- Ranges that two regions share. -/
def overlaps (a n b m : Nat) : Bool := decide (a < b + m) && decide (b < a + n)

/-- A region with its place: offset of its record, number, words of its descriptor. -/
structure Placed where
  num   : Nat
  reg   : Bool
  key   : Nat
  tier  : Nat
  pinned : Bool
  die   : Nat
  base  : Nat
  bytes : Nat
  back  : Nat
  word0 : Word
  deriving DecidableEq, Repr

/-- HBM ranges that placed regions take: their own, or their backing pages. -/
def Placed.hbm (x : Placed) : Option (Nat × Nat) :=
  if x.tier = 0 ∨ x.tier = 3 then some (x.base, x.bytes) else if x.tier = 1 ∧ !x.pinned then some (x.back, x.bytes) else none

/-- The rows that placed regions lie in. -/
def placedRows (xs : List Placed) : List (Nat × Nat) := xs.flatMap fun x => x.hbm.elim [] fun (a, n) => rowsOf a n

/-- Whether a range of HBM can be taken: within one stack's rows, free, and off the image's other regions. -/
def hbmFree (s : State) (xs : List Placed) (a n : Nat) : Bool :=
  decide (a + n ≤ hbmEnd) && (rowsOf a n).all (rowFree s (placedRows xs)) && !xs.any (fun x => x.hbm.elim false fun (b, m) => overlaps a n b m)

/-- The lowest place for `n` bytes of HBM: at the start of a layout row or after a region of the image (DESIGN CHOICE: R353 names none). -/
def findHbm (s : State) (xs : List Placed) (n : Nat) : Option Nat :=
  let starts := (List.range 20).flatMap fun st => (List.range 1008).map fun r => st * stackBytes + r * rowBytes
  let ends := xs.filterMap fun x => x.hbm.map fun (a, m) => a + m
  (ends ++ starts).find? fun a => hbmFree s xs a n

/-- Pool tiles of a die that pinned regions take. -/
def poolTaken (s : State) (die : Nat) (xs : List Placed) : List Nat :=
  (loadedPolders s).flatMap (fun p => pinnedTiles s p die)
    ++ xs.flatMap fun x => if x.tier = 1 ∧ x.pinned ∧ x.die = die then (List.range (x.bytes / 65536)).map (x.base / 65536 + ·) else []

/-- Whether a run of pool tiles is free of pinned regions. -/
def poolRunFree (s : State) (die : Nat) (xs : List Placed) (first n : Nat) : Bool :=
  decide (first + n ≤ 2048) && !(poolTaken s die xs).any (fun t => decide (first ≤ t) && decide (t < first + n))

/-- Place one region, or refuse it (R353). -/
def placeOne (s : State) (xs : List Placed) (r : ImgRegion) (mustPin : List Nat) : Except ImgErr Placed :=
  let bad (code a : Nat) : ImgErr := { code := code, sec := 4, off := r.off, a := a }
  let n := irBytes r
  let out (base back : Nat) : Placed := ⟨r.num, r.reg, r.key, irTier r, irPinned r, irDie r, base, n, back, dWord r.desc 0⟩
  if 3 < irTier r then .error (bad Code.REGION_INVALID 125)
  else if n = 0 ∨ n % 65536 ≠ 0 then .error (bad Code.REGION_INVALID 192)
  else if irBase r % 65536 ≠ 0 then .error (bad Code.REGION_INVALID 128)
  else if irTier r = 0 then
    if irBase r = 0 then match findHbm s xs n with
      | some a => .ok (out a 0)
      | none => .error (bad Code.REGION_SPACE 128)
    else if hbmEnd < irBase r + n ∨ inSystem (irBase r) then .error (bad Code.REGION_INVALID 128)
    else if hbmFree s xs (irBase r) n then .ok (out (irBase r) 0) else .error (bad Code.REGION_OVERLAP 128)
  else if irTier r = 1 then
    if mustPin.contains r.num ∧ !irPinned r then .error (bad Code.REGION_INVALID 124)
    else if irPinned r then
      let tiles := n / 65536
      if irBase r = 0 then match (List.range 2048).find? fun t => poolRunFree s (irDie r) xs t tiles with
        | some t => .ok (out (65536 * t) 0)
        | none => .error (bad Code.REGION_SPACE 128)
      else if poolRunFree s (irDie r) xs (irBase r / 65536) tiles then .ok (out (irBase r) 0)
      else .error (bad (if 2048 < irBase r / 65536 + tiles then Code.REGION_INVALID else Code.REGION_OVERLAP) 128)
    else if irBack r = 0 then match findHbm s xs n with
      | some a => .ok (out (irBase r) a)
      | none => .error (bad Code.REGION_SPACE 256)
    else if irBack r % 65536 ≠ 0 then .error (bad Code.REGION_INVALID 256)
    else if hbmFree s xs (irBack r) n then .ok (out (irBase r) (irBack r)) else .error (bad Code.REGION_OVERLAP 256)
  else if irTier r = 2 then
    let h := irHost r
    if hwBase s h ≤ irBase r ∧ irBase r + n ≤ hwBase s h + hwSize s h then
      if xs.any (fun x => x.tier = 2 && overlaps (irBase r) n x.base x.bytes) then .error (bad Code.REGION_OVERLAP 128) else .ok (out (irBase r) 0)
    else .error (bad Code.REGION_INVALID 128)
  else if n < 65536 + 131072 ∨ (n - 65536) % 131072 ≠ 0 then .error (bad Code.REGION_INVALID 192)
  else if hbmFree s xs (irBase r) n then .ok (out (irBase r) 0) else .error (bad Code.REGION_OVERLAP 128)

/-- Place the regions of an image in section order. -/
def placeAll (s : State) (mustPin : List Nat) : List ImgRegion → List Placed → Except ImgErr (List Placed)
  | [], xs => .ok xs
  | r :: rs, xs =>
    if xs.any (·.num = r.num) then .error { code := Code.REGION_INVALID, sec := 4, off := r.off, a := 52 }
    else match placeOne s xs r mustPin with
      | .ok x => placeAll s mustPin rs (xs ++ [x])
      | .error e => .error e

/-- The collections, models and tables of an image. -/
def imgColls (bs : List Byte) : List ImgColl := if (secOf bs 7).isSome then Config.imgCollections (secBytes bs 7) else []
def imgMods (bs : List Byte) : List ImgModel := if (secOf bs 8).isSome then Config.imgModels (secBytes bs 8) else []
def imgTabs (bs : List Byte) : List ImgTable := if (secOf bs 10).isSome then Config.imgTables (secBytes bs 10) else []

/-- Regions that must be pinned when of tier POOL: KV pools and delta pools (R353). -/
def mustPin (bs : List Byte) : List Nat :=
  (imgMods bs).map (fun m => fld (dWord m.desc 2) 43 32) ++ (imgColls bs).map (fun c => fld (dWord c.mutRec 4) 59 48)
    ++ (imgTabs bs).map (fun t => fld (dWord t.desc 4) 59 48)

def placedOf (s : State) (bs : List Byte) : Except ImgErr (List Placed) := placeAll s (mustPin bs) (imgRegions bs) []

/-- Whether ranges of windows or SHARED regions are held by another polder. -/
def rangeHeld (s : State) (x : Placed) : Bool :=
  (x.tier = 2 || x.tier = 3) && (loadedPolders s).any fun p => (regionsOf s p).any fun r => r.2.tier = x.tier && overlaps x.base x.bytes r.2.base r.2.bytes

/-- Row 6. -/
def checkRegions (s : State) (bs : List Byte) : Option ImgErr :=
  match placedOf s bs with
  | .error e => some e
  | .ok xs => firstErr (xs.zip (imgRegions bs) |>.map fun (x, r) => errIf (rangeHeld s x) { code := Code.REGION_OVERLAP, sec := 4, off := r.off, a := 128 })

/-! ### Row 7: NAMESPACES (R392) -/

/-- The namespace records: offset, descriptor words. -/
def nsRecs (bs : List Byte) : List (Nat × List Word) := secRecs bs 5 64
def nsNum (w : List Word) : Nat := fld (dWord w 0) 63 52
def nsCreate (w : List Word) : Bool := fld (dWord w 4) 0 0 = 1
def nsDestroy (w : List Word) : Bool := fld (dWord w 4) 1 1 = 1

/-- Usable units: those of good blocks, less the spare budget, gc_high blocks on every LUN and the system blocks (R392, R407). -/
def usableUnits (s : State) : Nat :=
  let cfg : Reg := ⟨.FSS_CFG, 0, 0⟩
  (List.range 32).foldl (fun n ch =>
    let c := getReg s ⟨.FSS_CH_CFG, ch, 0⟩
    let luns := fld c 57 54 * (fld c 53 51 + 1)
    let per := fld c 48 34 * 2 ^ fld c 50 49
    let pages := fld c 33 22 + 1
    let bad := (s.fss.blks.filter fun e => e.2.st = .retired && e.1 / 2 ^ 17 / 64 = ch).length
    n + (luns * per - bad - luns * getF s cfg 23 16 - 16) * pages) 0
  - getF s ⟨.FSS_WEAR, 0, 0⟩ 39 16 * (getF s ⟨.FSS_CH_CFG, 0, 0⟩ 33 22 + 1)

/-- Row 7. -/
def checkNss (s : State) (bs : List Byte) (p : Nat) : Option ImgErr :=
  let held := s.fss.nss.foldl (fun n e => n + e.2.units) 0
  let made := ((nsRecs bs).filter fun r => nsCreate r.2 && (getNs s (nsNum r.2)).isNone).foldl (fun n r => n + fld (dWord r.2 1) 34 0) 0
  firstErr ((nsRecs bs).map (fun r =>
      let w := r.2
      let bad (a : Nat) : ImgErr := { code := Code.NS_INVALID, sec := 5, off := r.1, a := a }
      firstErr [
        errIf (nsNum w = 0) (bad 52),
        errIf (fld (dWord w 0) 51 40 ≠ p) (bad 40),
        errIf (!between (fld (dWord w 1) 34 0) 1 (2 ^ 34)) (bad 64),
        match getNs s (nsNum w) with
        | some n => errIf (n.tag ≠ dWord w 2) (bad 128)
        | none => errIf (!nsCreate w) (bad 52),
        match getNs s (nsNum w) with
        | some n => errIf (n.bound && n.polder ≠ p) { code := Code.RESOURCE_BUSY, sec := 5, off := r.1, a := 52 }
        | none => none])
    ++ [errIf (made ≠ 0 && decide (usableUnits s < held + made)) { code := Code.NS_SPACE }])

/-! ### Row 8: CONNECTIONS (R427, R430, R454) -/

/-- The connection records: offset, number, descriptor words. -/
def connRecs (bs : List Byte) : List (Nat × Nat × List Word) :=
  (secRecs bs 6 72).map fun r => (r.1, (dWord r.2 0).toNat, r.2.drop 1)

/-- One connection's fields. -/
def connBad (s : State) (bs : List Byte) (p n : Nat) (w : List Word) : Option Nat :=
  let f (i hi lo : Nat) : Nat := fld (dWord w i) hi lo
  let kind := f 0 51 49
  let data := kind = 0
  let priv := imgReg s bs ⟨.PLD_PRIV, p, 0⟩
  if 2 ^ 18 ≤ n then some 0
  else if f 0 63 52 ≠ p then some 116
  else if 4 < kind then some 113
  else if f 0 42 41 = 3 then some 105
  else if !between (f 1 31 21) 1 1024 then some 149
  else if !between (f 1 20 10) 1 (f 1 31 21) then some 138
  else if (data && (!between (f 2 31 28) 4 12 || !between (f 2 27 24) 4 12)) || (!data && (f 2 31 28 ≠ 0 || f 2 27 24 ≠ 0)) then some 216
  else if data && f 3 47 0 % 64 ≠ 0 then some 256
  else if kind = 4 && p ≠ 0 && fld priv 3 3 = 0 then some 113
  else none

/-- Pinned connections of a port: those loaded and those of an image (R430). -/
def pinnedConns (s : State) (bs : List Byte) (port : Nat) : Nat :=
  (s.fab.conns.filter fun e => connPort s e.1 = port && fld (connW s e.1 0) 40 40 = 1).length
    + ((connRecs bs).filter fun r => fld (dWord r.2.2 0) 48 46 / 2 = port && fld (dWord r.2.2 0) 40 40 = 1).length

/-- Row 8. -/
def checkConns (s : State) (bs : List Byte) (p : Nat) : Option ImgErr :=
  firstErr ((connRecs bs).map (fun r =>
      (connBad s bs p r.2.1 r.2.2).map fun a => { code := Code.CONN_INVALID, sec := 6, off := r.1, a := a, b := r.2.1 })
    ++ (List.range 4).map fun n => errIf (decide (1024 < pinnedConns s bs n)) { code := Code.CONN_LIMIT, b := n })

end Sys2Proof.Machine
end

