-- ==== Sys2Proof/Machine/ImageRows.lean ====
section
/-! DEFINITION. The loader's checks of rows 9 to 14 of R509: the queue graph (R87, R201, R443, R501), collections (R163, R193, R267),
tables (R339), models and weights (R276, R316, R321), the schedule (R503) and free resources (R106, R493). -/

namespace Sys2Proof.Machine

/-- A refusal at a field of a record: section, offset, bit position. -/
def fieldErr (code sec off bit : Nat) (b : Nat := 0) : ImgErr := { code := code, sec := sec, off := off, a := bit, b := b }

/-- The first field of a record that breaks its condition: bit position and whether it is broken. -/
def firstBad (xs : List (Nat × Bool)) : Option Nat := (xs.find? (·.2)).map (·.1)

/-! ### Row 9: QUEUE_GRAPH -/

def graphRecs (bs : List Byte) : List (Nat × List Word) := secRecs bs 3 32
def graphKind (w : List Word) : Nat := fld (dWord w 0) 63 62

/-- Stage kinds by their value (R501). -/
def stageKinds : List StageKind :=
  [.encode, .walk, .scan, .shadow, .select, .fetch, .rerank, .prune, .flashWr, .apply, .bag, .fanout, .train, .lookup, .tableApply]

/-- A stage record read (R501). -/
def stageRec (w : List Word) : Option Stage :=
  (nth? stageKinds (fld (dWord w 0) 48 44)).map fun k =>
    { num := fld (dWord w 0) 61 56, succ := let x := fld (dWord w 0) 55 49; if x = 0x7F then none else some x, kind := k,
      object := fld (dWord w 0) 41 34, entries := fld (dWord w 0) 33 18,
      dies := (List.range 4).filter fun d => fld (dWord w 0) (14 + d) (14 + d) = 1,
      firstPart := fld (dWord w 1) 63 48, parts := fld (dWord w 1) 47 32 }

/-- An entry record read (R501). -/
def entryRec (w : List Word) : EntryPt :=
  { num := fld (dWord w 0) 61 58, first := fld (dWord w 0) 57 52, cost := fld (dWord w 0) 51 44, kinds := fld (dWord w 0) 43 33 }

/-- The stages of an image with their offsets, and its entries. -/
def imgStages (bs : List Byte) : List (Nat × Stage) :=
  (graphRecs bs).filterMap fun r => if graphKind r.2 = 0 then (stageRec r.2).map fun x => (r.1, x) else none
def imgEntries (bs : List Byte) : List (Nat × EntryPt) :=
  (graphRecs bs).filterMap fun r => if graphKind r.2 = 1 then some (r.1, entryRec r.2) else none
def imgStage (bs : List Byte) (n : Nat) : Option Stage := ((imgStages bs).find? (·.2.num = n)).map (·.2)

/-- What a stage kind works on: 0 a collection, 1 a model, 2 a table, 3 none named. -/
def objectOf : StageKind → Nat
  | .encode => 1
  | .rerank => 1
  | .train => 1
  | .tableApply => 2
  | .bag => 2
  | .select => 3
  | _ => 0

def icNum (c : ImgColl) : Nat := fld (dWord c.desc 0) 63 56
def imNum (m : ImgModel) : Nat := fld (dWord m.desc 0) 63 56
def itNum (t : ImgTable) : Nat := fld (dWord t.desc 0) 63 56

/-- Whether a number names an object of the image or one its polder holds (R501). -/
def objectKnown (s : State) (bs : List Byte) (p kind n : Nat) : Bool :=
  match kind with
  | 0 => (imgColls bs).any (icNum · = n) || (mapGet s.colls n).elim false (·.polder = p)
  | 1 => (imgMods bs).any (imNum · = n) || (mapGet s.models n).elim false (·.polder = p)
  | 2 => (imgTabs bs).any (itNum · = n) || (mapGet s.tables n).elim false (·.polder = p)
  | _ => true

/-- Partitions of a collection of the image. -/
def icParts (c : ImgColl) : Nat := fld (dWord c.desc 2) 63 48
def collParts (bs : List Byte) (n : Nat) : Nat := ((imgColls bs).find? (icNum · = n)).elim 0 icParts

def isScanKind (k : StageKind) : Bool := k = .walk || k = .scan || k = .shadow

/-- One record of the graph (R87, R501). -/
def checkGraphRec (s : State) (bs : List Byte) (p : Nat) (before : List (Nat × List Word)) (r : Nat × List Word) : Option ImgErr :=
  let w := dWord r.2 0
  let bad (a : Nat) : ImgErr := fieldErr Code.GRAPH_INVALID 3 r.1 a
  if graphKind r.2 = 0 then
    match stageRec r.2 with
    | none => some (bad 44)
    | some g => (firstBad [
        (56, before.any fun x => graphKind x.2 = 0 && fld (dWord x.2 0) 61 56 = g.num),
        (14, g.dies.isEmpty),
        (42, !g.dies.contains (fld w 43 42)),
        (18, g.entries = 0),
        (34, !objectKnown s bs p (objectOf g.kind) g.object),
        (49, g.succ.elim false fun n => (imgStage bs n).isNone),
        (64 + 48, isScanKind g.kind && decide (collParts bs g.object < g.firstPart + g.parts)),
        (64 + 48, g.kind = .walk && (g.succ.bind (imgStage bs)).elim false (·.kind = .prune)
          && (g.firstPart ≠ 0 || g.parts ≠ collParts bs g.object))]).map bad
  else if graphKind r.2 = 1 then
    let e := entryRec r.2
    (firstBad [
      (58, before.any fun x => graphKind x.2 = 1 && fld (dWord x.2 0) 61 58 = e.num),
      (52, (imgStage bs e.first).isNone),
      (44, e.cost = 0)]).map bad
  else some (bad 62)

/-- The stages on the path from a stage, as far as `fuel`. -/
def pathFrom (bs : List Byte) : Nat → Nat → List Nat
  | 0, _ => []
  | fuel + 1, n => match imgStage bs n with
    | some g => n :: g.succ.elim [] (pathFrom bs fuel)
    | none => []

/-- Records of a list with those before each. -/
def withBefore {α : Type} : List α → List α → List (List α × α)
  | _, [] => []
  | before, x :: xs => (before, x) :: withBefore (before ++ [x]) xs

/-- Segments of an image's collection. -/
def icSegLog (c : ImgColl) : Nat := fld (dWord c.desc 1) 39 35
def icCount (c : ImgColl) : Nat := fld (dWord c.desc 2) 34 0
def icSegs (c : ImgColl) : Nat := cdiv (icCount c) (2 ^ icSegLog c)
def icPartSegs (c : ImgColl) (part : Nat) : Nat := (c.segPart.filter (· = some part)).length

/-- Lists that a stage can deliver for one request (R201); a shadow stage passes on the walk's besides its own (R194). -/
def listsOf (bs : List Byte) (g : Stage) : Nat :=
  if g.kind = .walk then g.parts
  else if g.kind = .scan ∨ g.kind = .shadow then
    (if g.kind = .shadow then ((imgStages bs).filter fun x => x.2.succ = some g.num && x.2.kind = .walk).foldl (fun n x => max n x.2.parts) 0 else 0)
    + ((imgColls bs).find? (icNum · = g.object)).elim 0 fun c => (c.segPart.filter fun x => x.elim false fun n => decide (g.firstPart ≤ n ∧ n < g.firstPart + g.parts)).length
  else 1

/-- Row 9 (R87, R501, R443, R201). -/
def checkGraph (s : State) (bs : List Byte) (p : Nat) : Option ImgErr :=
  let recs := graphRecs bs
  let priv := imgReg s bs ⟨.PLD_PRIV, p, 0⟩
  let reached := (imgEntries bs).flatMap fun e => pathFrom bs 65 e.2.first
  firstErr ((withBefore [] recs).map (fun x => checkGraphRec s bs p x.1 x.2)
    ++ (imgStages bs).map (fun g => errIf (decide (64 < (pathFrom bs 65 g.2.num).length)) (fieldErr Code.GRAPH_INVALID 3 g.1 49))
    ++ (imgStages bs).map (fun g => errIf (!reached.contains g.2.num) (fieldErr Code.GRAPH_INVALID 3 g.1 56))
    ++ (imgStages bs).map (fun g => errIf (g.2.kind = .fanout && fld priv 1 1 = 0) (fieldErr Code.FANOUT_PRIV 3 g.1 44))
    ++ (imgStages bs).map (fun g =>
        errIf (g.2.kind = .select && (imgStages bs).any fun x => x.2.succ = some g.2.num && decide (256 < listsOf bs x.2))
          (fieldErr Code.SEL_LIMIT 3 g.1 56))
    ++ (imgStages bs).map fun g =>
        let sh := ((imgColls bs).find? (icNum · = g.2.object)).elim 0 fun c => fld (dWord c.desc 1) 63 40
        let mp := s.fab.maps.head?
        let group := (mp.bind fun m => m.entries.find? (·.shard = sh)).map (·.group)
        let n := mp.elim 0 fun m => (m.entries.filter fun e => some e.group = group).length
        errIf (g.2.kind = .fanout && decide (256 < n)) (fieldErr Code.SEL_LIMIT 3 g.1 56))

/-! ### Row 10: COLLECTIONS -/

/-- Field `hi:lo` of word `i` of a collection's descriptor, and of its mutation record. -/
def icF (c : ImgColl) (i hi lo : Nat) : Nat := fld (dWord c.desc i) hi lo
def icM (c : ImgColl) (i hi lo : Nat) : Nat := fld (dWord c.mutRec i) hi lo
def icFormat (c : ImgColl) : Nat := icF c 0 41 38
def icDim (c : ImgColl) : Nat := icF c 0 37 24
def icPqM (c : ImgColl) : Nat := icF c 0 23 16
def icDegree (c : ImgColl) : Nat := icF c 0 15 8
def icAttrBytes (c : ImgColl) : Nat := match icF c 0 7 5 with
  | 1 => 8
  | 2 => 16
  | 3 => 32
  | 4 => 64
  | _ => 0
def icIdBase (c : ImgColl) : Nat := icF c 1 33 0
def icDelta (c : ImgColl) : Nat := icM c 4 59 48
def icTableBytes (c : ImgColl) : Nat :=
  if icFormat c = 5 then 512 * icDim c else if 1 ≤ icFormat c ∧ icFormat c ≤ 3 then 2 * icDim c else 0
def icCodeBytes (c : ImgColl) : Nat :=
  let dim := icDim c
  match icFormat c with
  | 0 => 2 * dim
  | 1 => dim
  | 2 => dim
  | 3 => dim / 2
  | 4 => dim / 8
  | _ => icPqM c
def icStride (c : ImgColl) : Nat := strideOf (icCodeBytes c)

/-- The descriptor fields outside their ranges (R162). -/
def badDesc (c : ImgColl) (p : Nat) : Option Nat :=
  let f := icF c
  firstBad [
    (44, f 0 55 44 ≠ p), (42, f 0 43 42 = 3), (38, decide (5 < icFormat c)), (24, !between (icDim c) 16 8192 || icDim c % 16 ≠ 0),
    (16, if icFormat c = 5 then !between (icPqM c) 8 128 || icPqM c % 8 ≠ 0 || icDim c % icPqM c ≠ 0 else icPqM c ≠ 0),
    (8, !between (icDegree c) 4 64), (5, decide (4 < f 0 7 5)), (0, decide (16 < f 0 4 0) || (f 0 7 5 = 0 && f 0 4 0 ≠ 0)),
    (64 + 40, f 1 63 40 = 0xFFFFFF), (64 + 35, !between (icSegLog c) 16 24), (64 + 34, f 1 34 34 ≠ 0), (64, icIdBase c % 2 ^ icSegLog c ≠ 0),
    (128 + 48, icParts c = 0), (128 + 35, f 2 47 35 ≠ 0), (128, icCount c = 0 || decide (2 ^ 34 < icIdBase c + icCount c)),
    (192 + 60, decide (1 < f 3 63 60)), (192 + 48, f 3 63 60 = 0 && f 3 59 48 ≠ 0), (192 + 32, f 3 47 32 = 0), (192 + 27, !between (f 3 31 27) 1 16),
    (192, f 3 26 0 ≠ 0)]

/-- The mutation record's fields outside their ranges (R220). -/
def badMutRec (c : ImgColl) : Option Nat :=
  let f := icM c
  firstBad [
    (53, !between (f 0 63 53) (icDegree c) 1024), (48, !between (f 0 52 48) 1 16), (32, f 0 47 32 = 0), (0, f 0 29 0 ≠ 0),
    (64 + 32, !f32Finite (BitVec.ofNat 32 (f 1 63 32))), (64 + 16, f 1 31 16 = 0), (64, f 1 15 0 ≠ 0),
    (128 + 32, f 2 63 32 = 0), (128 + 16, f 2 31 16 = 0), (256 + 60, f 4 63 60 ≠ 0), (256, f 4 47 0 ≠ 0),
    (320, dWord c.mutRec 5 ≠ 0), (384, dWord c.mutRec 6 ≠ 0), (448, dWord c.mutRec 7 ≠ 0)]

/-- A schema that breaks R145 or R146: the bit position within it. -/
def badSchema (c : ImgColl) : Option Nat :=
  if c.schema.length ≠ icF c 0 4 0 then some 0 else
    firstBad (c.schema.zipIdx.flatMap fun (d, i) =>
      let width := bits d 29 24 + 1
      let off := bits d 23 15
      [(32 * i + 30, bits d 31 30 = 3), (32 * i + 15, decide (64 < off % 64 + width) || decide (8 * icAttrBytes c < off + width)),
       (32 * i, bits d 14 0 ≠ 0)])

/-- Order 1 of R163. -/
def collOrder1 (c : ImgColl) (p : Nat) : Option ImgErr :=
  let bad (off a : Nat) : ImgErr := fieldErr Code.COLL_INVALID 7 off a
  firstErr [(badDesc c p).map (bad c.offs.desc), (badMutRec c).map (bad c.offs.mutRec), (badSchema c).map (bad c.offs.schema),
    errIf (c.tables.length ≠ icTableBytes c) (bad c.offs.tables 0),
    (c.parts.zipIdx.find? (4 ≤ ·.1)).map fun x => bad ((nth? c.offs.parts x.2).getD 0) 0]

/-- Order 2: a number, id range or shard held already, or repeated in the image. -/
def collOrder2 (s : State) (before : List ImgColl) (c : ImgColl) : Option ImgErr :=
  let bad (a : Nat) : ImgErr := fieldErr Code.COLL_OVERLAP 7 c.offs.desc a (icNum c)
  firstErr [
    errIf ((mapGet s.colls (icNum c)).isSome || before.any (icNum · = icNum c)) (bad 56),
    errIf (s.colls.any (fun e => cShard s e.2 = icF c 1 63 40) || before.any (fun x => icF x 1 63 40 = icF c 1 63 40)) (bad (64 + 40)),
    errIf (s.colls.any (fun e => overlaps (cIdBase s e.2) (cIdCount s e.2) (icIdBase c) (icCount c))
      || before.any (fun x => overlaps (icIdBase x) (icCount x) (icIdBase c) (icCount c))) (bad 64)]

/-- The walker slots of an image's polder: offset, slot key, value. -/
def imgSlots (bs : List Byte) (p : Nat) : List (Nat × Nat × Word) :=
  (regRecs bs).filterMap fun x => (regFind x.2.1).bind fun g =>
    if g.name = .WLK_SLOT_CFG ∧ fld x.2.2 63 52 = p ∧ fld x.2.2 0 0 = 1 then some (x.1, g.i * 16 + g.j, x.2.2) else none

/-- Order 3: segments and partitions (R156). -/
def collOrder3 (bs : List Byte) (p : Nat) (c : ImgColl) : Option ImgErr :=
  let err (off a b : Nat) : ImgErr := fieldErr Code.COLL_PARTITION 7 off a b
  let bad (b : Nat) : ImgErr := err ((nth? c.offs.parts b).getD c.offs.desc) 0 b
  firstErr [
    errIf (c.segPart.length ≠ icSegs c || c.parts.length ≠ icParts c) (err c.offs.desc (128 + 48) 0),
    (c.segPart.zipIdx.find? fun e => e.1.elim true fun n => decide (icParts c ≤ n)).map fun e =>
      err ((nth? c.offs.segs e.2).getD c.offs.desc) (64 + 48) (e.1.getD 0),
    ((List.range (icParts c)).find? fun n => icPartSegs c n = 0).map bad,
    ((List.range (icParts c)).find? fun n => !(imgSlots bs p).any fun x => some (x.2.1 / 2048) = nth? c.parts n).map bad]

/-- Bytes of the system area that a collection's structures take. -/
def icSysBytes (c : ImgColl) : Nat :=
  128 + cdiv (4 * c.schema.length) 64 * 64 + cdiv c.tables.length 64 * 64 + cdiv (16 * icSegs c) 64 * 64 + cdiv (16 * icParts c) 64 * 64
    + (c.eps.map fun e => cdiv (64 + 8 * e.length) 64 * 64).foldl (· + ·) 0

/-- The 64 KiB pages of a collection when every page of its id range exists (R151). -/
def icPages (c : ImgColl) : Nat :=
  let per (n : Nat) : Nat := if n = 0 then 0 else cdiv (2 ^ icSegLog c) (65536 / n)
  icSegs c * (per (icStride c) + per (strideOf (5 * icDegree c)) + per (icAttrBytes c) + cdiv (2 ^ icSegLog c) 524288)

/-- Pages that the regions of tier HBM of an image hold. -/
def grantedPages (s : State) (bs : List Byte) : Nat := match placedOf s bs with
  | .ok xs => (xs.filter (·.tier = 0)).foldl (fun n x => n + x.bytes / 65536) 0
  | .error _ => 0

/-- Free bytes of the system area (R161). -/
def sysRoom (s : State) : Nat := sysBytes - s.sys.next + s.sys.free.foldl (fun n f => n + f.2) 0

/-- The placed region of a number. -/
def placedReg (s : State) (bs : List Byte) (r : Nat) : Option Placed := match placedOf s bs with
  | .ok xs => xs.find? (·.num = r)
  | .error _ => none

/-- The rows of HBM that a placed region lies in; none for a pool region. -/
def placedStacks (x : Placed) : List (Nat × Nat) := if x.tier = 0 then rowsOf x.base x.bytes else []

/-- Rows 1 to 4 of R163, condition by condition. The pages of row 4 are those of every id that the collection can hold (DESIGN CHOICE: R163 names
its pages, and an image carries none). -/
def checkColls (s : State) (bs : List Byte) (p : Nat) : Option ImgErr :=
  let cs := imgColls bs
  let used (before : List ImgColl) : Nat := before.foldl (fun n c => n + icSysBytes c) 0
  firstErr (cs.map (collOrder1 · p)
    ++ (withBefore [] cs).map (fun x => collOrder2 s x.1 x.2)
    ++ cs.map (collOrder3 bs p)
    ++ (withBefore [] cs).map fun x => errIf (decide (sysRoom s < used (x.1 ++ [x.2])) || (placedReg s bs (icDelta x.2)).elim true (·.tier ≠ 0)
          || decide (grantedPages s bs < (x.1 ++ [x.2]).foldl (fun n c => n + icPages c) 0))
        (fieldErr Code.COLL_SPACE 7 x.2.offs.desc 0))

/-- The slots of a walk stage. -/
def stageSlots (bs : List Byte) (p n : Nat) : List (Nat × Nat × Word) := (imgSlots bs p).filter fun x => slotStage x.2.2 = n

/-- The collection of a stage. -/
def stageColl (bs : List Byte) (g : Stage) : Option ImgColl := (imgColls bs).find? (icNum · = g.object)

/-- Whether a walk stage has a successor that R193 allows. -/
def walkSuccOk (bs : List Byte) (g : Stage) : Bool :=
  match g.succ.bind (imgStage bs) with
  | some x => x.kind = .select || x.kind = .prune || (x.kind = .shadow && (x.succ.bind (imgStage bs)).elim false (·.kind = .select))
  | none => false

/-- Row 10 continued: R193, condition by condition. -/
def checkWalks (bs : List Byte) (p : Nat) : Option ImgErr :=
  let walks := (imgStages bs).filter (·.2.kind = .walk)
  let slots (g : Stage) := stageSlots bs p g.num
  let err (code : Nat) (g : Nat × Stage) (b : Nat) : ImgErr := fieldErr code 3 g.1 0 b
  let wide (g : Stage) : Option Nat := ((List.range g.parts).map (g.firstPart + ·)).find? fun n => (stageColl bs g).elim false fun c => decide (1024 < icPartSegs c n)
  firstErr (
    walks.map (fun g => (slots g.2).findSome? fun x => (slots g.2).head?.bind fun y =>
        errIf (slotQueueLen x.2.2 ≠ slotQueueLen y.2.2 || slotMaxBeam x.2.2 ≠ slotMaxBeam y.2.2 || slotMaxFilter x.2.2 ≠ slotMaxFilter y.2.2) (err Code.WALK_NONDET g x.2.1))
    ++ walks.map (fun g => (((List.range g.2.parts).map (g.2.firstPart + ·)).find? fun n =>
        (stageColl bs g.2).elim false fun c => !(slots g.2).any fun x => some (x.2.1 / 2048) = nth? c.parts n).map (err Code.WALK_NONDET g))
    ++ walks.map (fun g => errIf (!walkSuccOk bs g.2) (err Code.WALK_NONDET g 0))
    ++ walks.map (fun g => (slots g.2).findSome? fun x => errIf ((stageColl bs g.2).elim false (fun c => decide (slotMaxBeam x.2.2 < icF c 3 31 27))
        || decide (slotQueueLen x.2.2 < slotMaxBeam x.2.2)) (err Code.WALK_LIMIT g x.2.1))
    ++ walks.map (fun g => (wide g.2).map (err Code.WALK_LIMIT g))
    ++ (imgEntries bs).map (fun e =>
        let path := (pathFrom bs 65 e.2.first).filterMap (imgStage bs)
        let enc := (path.find? (·.kind = .encode)).bind fun g => ((imgMods bs).find? (imNum · = g.object)).map fun m => fld (dWord m.desc 1) 33 20
        let dim := (path.find? fun g => g.kind = .walk || g.kind = .scan).bind fun g => (stageColl bs g).map icDim
        let at_ := (path.find? (·.kind = .walk)).bind fun g => walks.find? (·.2 = g)
        errIf (bits e.2.kinds 4 4 = 1 && enc ≠ dim) (fieldErr Code.WALK_LIMIT 3 (at_.elim e.1 (·.1)) 34))
    ++ walks.map fun g => (stageColl bs g.2).bind fun c => (((List.range g.2.parts).map (g.2.firstPart + ·)).find? fun n =>
        let ids := (nth? c.eps n).getD []
        ids.isEmpty || decide (64 < ids.length) || ids.any fun id => decide (id < icIdBase c) || decide (icIdBase c + icCount c ≤ id)
          || nth? c.segPart ((id - icIdBase c) / 2 ^ icSegLog c) ≠ some (some n)).map (err Code.WALK_ENTRY g))

/-- Stages whose work runs on BSUs. -/
def isBsuKind (k : StageKind) : Bool := k = .scan || k = .shadow || k = .prune || k = .apply

/-- Windows that an image's polder owns on a stack, ascending. -/
def ownWins (bs : List Byte) (st : Nat) : List Nat := ascending ((imgWins bs).filterMap fun x => if x.2.i = st then some x.2.j else none)

/-- The stacks of a collection's delta region. -/
def deltaStacks (s : State) (bs : List Byte) (c : ImgColl) : List Nat :=
  ascending ((placedReg s bs (icDelta c)).elim [] fun x => (placedStacks x).map (·.1))

/-- Row 10 continued: R267, condition by condition. -/
def checkBsu (s : State) (bs : List Byte) : Option ImgErr :=
  let stages := (imgStages bs).filter (isBsuKind ·.2.kind)
  let on (g : Stage) (f : ImgColl → Bool) : Bool := (stageColl bs g).elim false f
  let rows (c : ImgColl) : List (Nat × Nat) := (placedReg s bs (icDelta c)).elim [] placedStacks
  firstErr (
    stages.map (fun g => errIf (on g.2 fun c => (rows c).any (fun r => rowStriped s r.1 r.2) || (rows c).any fun r => r.1 / 5 ≠ ((rows c).headD (0, 0)).1 / 5)
      (fieldErr Code.BSU_PLACEMENT 3 g.1 34))
    ++ stages.map (fun g => ((stageColl bs g.2).bind fun c => (deltaStacks s bs c).find? fun st => (ownWins bs st).isEmpty).map
        fun st => fieldErr Code.BSU_WINDOWS 3 g.1 34 st)
    ++ stages.map fun g => errIf (on g.2 fun c =>
        (g.2.kind = .prune && (decide (524288 < icTableBytes c) || decide (262144 < icM c 0 63 53 * (12 + icStride c) + icStride c + 8)))
        || (g.2.kind = .scan && icFormat c = 5 && decide (524288 < 1024 * icPqM c))) (fieldErr Code.BSU_LIMIT 3 g.1 44))

/-! ### Row 11: TABLES (R339) -/

def itF (t : ImgTable) (i hi lo : Nat) : Nat := fld (dWord t.desc i) hi lo
def itRows (t : ImgTable) : Nat := itF t 1 63 32 + 1
def itRep (t : ImgTable) : Bool := itF t 0 40 40 = 1
def itShards (t : ImgTable) : Nat := if itRep t then 4 else itF t 0 23 14 + 1
def itStride (t : ImgTable) : Nat := strideOf (if itF t 0 43 43 = 1 then itF t 0 37 24 + 8 else 2 * itF t 0 37 24)
def itPages (t : ImgTable) (sh : Nat) : Nat :=
  cdiv (if itRep t then itRows t else cdiv (itRows t - sh) (itShards t)) (65536 / itStride t)

/-- A table's fields outside their ranges (R330). -/
def badTable (s : State) (before : List ImgTable) (t : ImgTable) (p : Nat) : Option Nat :=
  let f := itF t
  firstBad [
    (56, (mapGet s.tables (itNum t)).isSome || before.any (itNum · = itNum t)), (44, f 0 55 44 ≠ p), (41, f 0 41 41 = 1 && itRep t),
    (38, f 0 39 38 = 3 || (f 0 43 43 = 1 && f 0 39 38 ≠ 0)), (24, !between (f 0 37 24) 16 8192 || f 0 37 24 % 16 ≠ 0),
    (14, itRep t && f 0 23 14 ≠ 0), (0, f 0 13 0 ≠ 0), (64 + 16, f 1 31 16 = 0), (64, f 1 15 0 ≠ 0), (256 + 60, f 4 63 60 ≠ 0), (256, f 4 35 0 ≠ 0),
    (448, dWord t.desc 7 ≠ 0)]

/-- The features of an image's BAG operators: offset, feature, hidden of its model. -/
def imgFeatures (bs : List Byte) : List (Nat × Word × Nat × Word) :=
  (imgMods bs).flatMap fun m => m.ops.flatMap fun o => match o.2 with
    | .bag fs => fs.map fun f => (o.1, f, fld (dWord m.desc 1) 63 50, fs.headD 0)
    | _ => []

/-- One feature of a BAG operator (R334, R339): bit position of the failing field. -/
def badFeature (bs : List Byte) (f : Word) (hidden : Nat) : Option Nat :=
  let tab (n : Nat) : Option ImgTable := (imgTabs bs).find? (itNum · = n)
  let a := tab (fld f 63 56)
  let b := tab (fld f 55 48)
  let single := fld f 47 46 = 0
  let width (t : Option ImgTable) : Nat := t.elim 0 fun t => itF t 0 37 24
  let bsu (t : Option ImgTable) : Bool := t.elim false fun t => itF t 0 41 41 = 1
  firstBad [
    (56, a.isNone || width a ≠ hidden), (48, if single then fld f 55 48 ≠ 0xFF else b.isNone || width b ≠ hidden),
    (46, fld f 47 46 = 3 || (!single && (bsu a || bsu b))), (0, fld f 43 0 ≠ 0)]

/-- Whether every page of a list lies in one pseudo-channel of bank-local rows. -/
def onePc (s : State) (pages : List Nat) : Bool :=
  pages.all fun a => !rowStriped s (a / stackBytes) (a % stackBytes / rowBytes)
    && (let x := pcOf s a; let y := pcOf s (pages.headD a); x.1 = y.1 && x.2.2.1 = y.2.2.1)

/-- Whether a page lies in a region that the image grants. -/
def pageGranted (s : State) (bs : List Byte) (a : Nat) : Bool :=
  match placedOf s bs with
  | .ok xs => xs.any fun x => x.tier = 0 && decide (x.base ≤ a) && decide (a + 65536 ≤ x.base + x.bytes)
  | .error _ => false

/-- Row 11, condition by condition. -/
def checkTables (s : State) (bs : List Byte) (p : Nat) : Option ImgErr :=
  let ts := imgTabs bs
  let bsu (t : ImgTable) : Bool := itF t 0 41 41 = 1
  firstErr (
    (withBefore [] ts).map (fun x => (badTable s x.1 x.2 p).map (fieldErr Code.TABLE_INVALID 10 x.2.off))
    ++ (imgFeatures bs).map (fun x => (badFeature bs x.2.1 x.2.2.1).map (fieldErr Code.TABLE_INVALID 8 x.1))
    ++ ts.map (fun t => errIf (bsu t && (t.shards.any (!onePc s ·) || t.shards.any (fun g => g.any fun a => a / stackBytes / 5 ≠ (t.shards.flatten).headD 0 / stackBytes / 5)
        || !(imgStages bs).any (·.2.kind = .bag))) (fieldErr Code.BSU_PLACEMENT 10 t.off 41))
    ++ ts.map fun t =>
        let room (r n : Nat) : Bool := (placedReg s bs r).elim true fun x => decide (x.bytes < n)
        errIf (t.shards.length ≠ itShards t || t.shards.zipIdx.any (fun g => g.1.length ≠ itPages t g.2) || t.shards.any (·.any (!pageGranted s bs ·))
          || room (itF t 4 59 48) 65536 || (itF t 0 39 38 = 2 && room (itF t 4 47 36) (4 * itRows t))
          || decide (sysRoom s < 128 + 8 * itShards t + 8 * (t.shards.flatten).length)) (fieldErr Code.TABLE_SPACE 10 t.off 0))

/-! ### Row 12: MODELS and WEIGHTS -/

def imF (m : ImgModel) (i hi lo : Nat) : Nat := fld (dWord m.desc i) hi lo
def imHidden (m : ImgModel) : Nat := imF m 1 63 50
def imHeadDim (m : ImgModel) : Nat := if imF m 0 40 40 = 1 then 128 else 64
def imEncoder (m : ImgModel) : Bool := imF m 0 43 42 = 0

/-- The weights that operators name: offset of the operator, weights. -/
def opWeights : ModelOp → List Weights
  | .embed t p => t :: p.toList
  | .itemProj w => [w]
  | .linear _ w _ => [w]
  | .score _ w => [w]
  | _ => []

def isAttn : ModelOp → Bool
  | .attention _ _ _ _ _ => true
  | _ => false
def isPool : ModelOp → Bool
  | .pool _ => true
  | _ => false

/-- The operator values of R273; every other one is reserved. -/
def knownOp (v : Nat) : Bool := between v 1 12

/-- A limit of R275 or a field of R277 broken: bit position in the descriptor. -/
def badModel (s : State) (before : List ImgModel) (m : ImgModel) (p : Nat) : Option Nat :=
  let f := imF m
  let attn := (m.ops.filter fun o => isAttn o.2).length
  firstBad [
    (56, f 0 63 56 = 255 || (mapGet s.models (imNum m)).isSome || before.any (imNum · = imNum m)), (44, f 0 55 44 ≠ p), (42, decide (1 < f 0 43 42)),
    (33, !between (f 0 39 33) 1 64 || f 0 39 33 ≠ attn), (26, !between (f 0 32 26) 1 64 || imHidden m ≠ f 0 32 26 * imHeadDim m),
    (19, !between (f 0 25 19) 1 (f 0 32 26) || f 0 32 26 % f 0 25 19 ≠ 0), (17, f 0 18 17 = 3 || (!imEncoder m && f 0 18 17 ≠ 0)),
    (11, decide (16 < f 0 15 11) || m.adapters.length ≠ f 0 15 11 || m.adapters.any (fun a => !between (fld (dWord a 0) 59 53) 1 64)),
    (4, if imEncoder m then f 0 10 4 ≠ 0 else !between (f 0 10 4) 1 64), (0, f 0 3 0 ≠ 0), (64 + 50, !between (imHidden m) 64 8192),
    (64 + 34, !between (f 1 49 34) 1 32768), (64 + 20, !between (f 1 33 20) 16 8192 || f 1 33 20 % 16 ≠ 0), (64, f 1 19 0 = 0),
    (128 + 48, if imEncoder m && f 0 41 41 = 1 then decide (f 1 49 34 < f 2 63 48) else f 2 63 48 ≠ 0), (128, f 2 19 0 ≠ 0),
    (0, !between m.ops.length 1 4096)]

/-- Operators whose LINEAR sizes break R275. -/
def badLinear (m : ImgModel) : Option Nat :=
  (m.ops.find? fun o => match o.2 with
    | .linear _ w _ => !between w.k 64 32768 || !between w.n 64 32768 || w.k % 64 ≠ 0 || w.n % 64 ≠ 0
    | _ => false).map (·.1)

/-- How many rows an operator's output has: one per row of the pass, one in all, or one per candidate (R273). -/
inductive RowCount where
  | perRow | single | perItem
  deriving DecidableEq, Repr

/-- The shape of an operator's output, rows and width, given those before it; none where shapes do not agree (R273, R276). -/
def opShape (m : ImgModel) (ws : List (Option (RowCount × Nat))) : ModelOp → Option (RowCount × Nat) :=
  let h := imHidden m
  let x : Operand → Option (RowCount × Nat) := fun o => match o with
    | .input => some (.perRow, h)
    | .op n => (nth? ws n).join
  fun op => match op with
    | .embed t p => if t.k = imF m 1 19 0 ∧ t.n = h ∧ p.all (fun w => w.n = h && decide (imF m 1 49 34 ≤ w.k)) then some (.perRow, h) else none
    | .bag _ => if imEncoder m then some (.perRow, h) else none
    | .itemProj w => if !imEncoder m ∧ w.k = imF m 1 33 20 ∧ w.n = imF m 0 10 4 * h then some (.perRow, h) else none
    | .linear a w _ => (x a).bind fun y => if y.2 = w.k then some (y.1, w.n) else none
    | .attention a _ q k v => (x a).bind fun y =>
        let kv := imF m 0 25 19 * imHeadDim m
        if y.1 = .perRow ∧ q + h ≤ y.2 ∧ k + kv ≤ y.2 ∧ v + kv ≤ y.2 then some (.perRow, h) else none
    | .norm a rms g b _ => (x a).bind fun y => if g.length = y.2 ∧ (rms ∨ b.length = y.2) then some y else none
    | .act a _ => x a
    | .gate a b => if x a = x b then x a else none
    | .add a b => if x a = x b then x a else none
    | .pool a => (x a).bind fun y => if imEncoder m ∧ y.1 = .perRow then some (.single, y.2) else none
    | .l2norm a => (x a).bind fun y => if imEncoder m ∧ y.1 = .single then some y else none
    | .score a w => (x a).bind fun y => if !imEncoder m ∧ y = (.perRow, w.k) ∧ w.n = 1 then some (.perItem, 1) else none

/-- The shapes of a model's operators in order. -/
def opShapes (m : ImgModel) : List (Option (RowCount × Nat)) := m.ops.foldl (fun ws o => ws ++ [opShape m ws o.2]) []

/-- What a model delivers: one vector of vec_dim, or one logit per candidate (R280, R284). -/
def outShape (m : ImgModel) : RowCount × Nat := if imEncoder m then (.single, imF m 1 33 20) else (.perItem, 1)

/-- Order 3 of R276: shapes, kinds, mask, POOL; the offset of the operator, or of the descriptor and its field. The manual gives no layout of an
operator's record, so no field is named within it (DESIGN CHOICE). -/
def modelShape (m : ImgModel) : Option (Nat × Nat) :=
  match ((m.ops.zip (opShapes m)).find? (·.2.isNone)) with
  | some x => some (x.1.1, 0)
  | none =>
    if !imEncoder m && imF m 0 41 41 = 0 then some (m.off, 41)
    else if imEncoder m && (m.ops.filter fun o => isPool o.2).length ≠ 1 then some (m.off, 42)
    else if (opShapes m).getLast?.join ≠ some (outShape m) then some (((m.ops.getLast?).map (·.1)).getD m.off, 0)
    else none

/-- KV pages of one pass at max_tokens (R293, R297). -/
def imKvPages (m : ImgModel) : Nat := imF m 0 39 33 * imF m 0 25 19 * cdiv (imF m 1 49 34) (16384 / imHeadDim m)

/-- Bytes of an element of a weight format, by eighths. -/
def fmtBits : WFmt → Nat
  | .e4m3 => 8
  | .e2m1 => 4
  | .int4 => 4
  | .bf16 => 16

/-- Bytes of the weights that a tile of a group keeps resident (R285). -/
def residentBytes (m : ImgModel) (g : TileGroup) (gi : Nat) : Nat :=
  (m.ops.zipIdx).foldl (fun n o => if !g.resident.contains o.2 then n else (slicedWeights o.1.2).elim n fun w =>
    n + (⟨0, (sliceCols w.1.n g.tiles.length gi).1, (sliceCols w.1.n g.tiles.length gi).2⟩ : WSlice).bytes w.1) 0

/-- Bytes of rows_max activation rows of the widest input (R276). -/
def activationBytes (m : ImgModel) (g : TileGroup) : Nat :=
  2 * g.rowsMax * m.ops.foldl (fun n o => (slicedWeights o.2).elim n fun w => max n w.1.k) (imHidden m)

/-- Bytes of the statistics that a tile keeps: those of the query block it works on, and for a model that trains m and l of every row, head and
layer over the group (R287, R290; DESIGN CHOICE: R276 names them and gives no size). -/
def statBytes (m : ImgModel) (g : TileGroup) : Nat :=
  64 * (8 + 4 * imHeadDim m)
    + (if m.adapters.isEmpty then 0 else cdiv (8 * imF m 1 49 34 * imF m 0 32 26 * imF m 0 39 33) (max 1 g.tiles.length))

/-- Order 6 of R276: the tile with most to hold, and the regions. -/
def modelSpace (s : State) (bs : List Byte) (m : ImgModel) : Option (Nat × Nat) :=
  let fullTile (g : TileGroup) : Option Nat := (List.range g.tiles.length).find? fun gi =>
    decide (4194304 < residentBytes m g gi + activationBytes m g + 131072 + statBytes m g + g.hotBytes)
  let big := m.groups.findSome? fun g => (fullTile g).map fun gi => (nth? g.tiles gi).getD 0
  let ends := (m.copies.map fun c => c.2.1 + c.2.2).foldl max 64
  let room (r n : Nat) : Bool := (placedReg s bs r).elim true fun x => decide (x.bytes < n)
  match big with
  | some tile => some (0, tile)
  | none => if room (imF m 2 31 20) ends then some (128 + 20, 0) else if room (imF m 2 43 32) (imKvPages m * 65536) then some (128 + 32, 0) else none

/-- Bytes of a model's weight region as the image fills them. -/
def imWeight (bs : List Byte) (m : ImgModel) (off n : Nat) : List Byte :=
  ((m.copies.find? fun c => decide (c.2.1 ≤ off) && decide (off + n ≤ c.2.1 + c.2.2)).elim [] fun c => ((secBytes bs 9).drop (c.1 + (off - c.2.1))).take n)

/-- Whether a block scale of a weight is NaN, zero or negative (R316). -/
def badScale (bs : List Byte) (m : ImgModel) (w : Weights) : Bool :=
  (w.fmt = .e2m1 || w.fmt = .int4) && (List.range (cdiv w.k 64)).any fun c => (List.range w.n).any fun n =>
    let b := (imWeight bs m (w.off + Config.blockScalePlace (fmtNum w.fmt) w.k w.n c n) 1).headD 0
    b.toNat = 0 || decide (127 ≤ b.toNat)

/-- Row 12: R276, R316, R321, condition by condition. -/
def checkModels (s : State) (bs : List Byte) (p : Nat) : Option ImgErr :=
  let ms := imgMods bs
  let err (code : Nat) (m : ImgModel) (a : Nat) : ImgErr := fieldErr code 8 m.off a
  let delayed (m : ImgModel) : Bool := leNat (imWeight bs m 0 8) / 2 ^ 62 = 1
  firstErr (
    ms.map (fun m => (m.opVals.find? fun x => !knownOp x.2).map fun x => fieldErr Code.MODEL_OPERATOR 8 x.1 0)
    ++ (withBefore [] ms).map (fun x => (badModel s x.1 x.2 p).map (err Code.MODEL_LIMIT x.2))
    ++ ms.map (fun m => (badLinear m).map fun off => fieldErr Code.MODEL_LIMIT 8 off 0)
    ++ ms.map (fun m => (modelShape m).map fun x => fieldErr Code.MODEL_SHAPE 8 x.1 x.2)
    ++ ms.map (fun m => (m.groups.find? fun g => decide (3 < g.die) || !between g.tiles.length 1 64 || (m.groups.filter (·.die = g.die)).length ≠ 1
        || imF m 2 (44 + g.die) (44 + g.die) = 0).map fun g => fieldErr Code.MODEL_SPLIT 8 m.off (128 + 44) g.die)
    ++ ms.map (fun m => ((List.range 4).find? fun d => imF m 2 (44 + d) (44 + d) = 1 && !(m.groups.any (·.die = d))).map
        fun d => fieldErr Code.MODEL_SPLIT 8 m.off (128 + 44 + d) d)
    ++ ms.map (fun m => errIf (imEncoder m && imF m 0 15 11 ≠ 0) (fieldErr Code.MODEL_ADAPTER 8 m.off 11))
    ++ ms.map (fun m => (m.ops.find? fun o => match o.2 with
        | .linear _ _ ads => (imEncoder m && !ads.isEmpty) || ads.any fun a => decide (imF m 0 15 11 ≤ a)
        | _ => false).map fun o => fieldErr Code.MODEL_ADAPTER 8 o.1 0)
    ++ ms.map (fun m => (modelSpace s bs m).map fun x => fieldErr Code.MODEL_SPACE 8 m.off x.1 x.2)
    ++ ms.map (fun m => (m.ops.find? fun o => (opWeights o.2).any fun w => decide (w.sExp < -63) || decide (63 < w.sExp) || badScale bs m w).map
        fun o => fieldErr Code.NUM_SCALE 8 o.1 0)
    ++ ms.map fun m => errIf (delayed m && ((imgColls bs).any (fun c => icM c 0 30 30 = 1) || fld (imgReg s bs ⟨.PLD_PRIV, p, 0⟩) 1 1 = 1)) (err Code.NUM_NONDET m 0))

/-! ### Row 13: SCHEDULE (R503) -/

/-- The proof point of a POLDER image (R44, R503). -/
def imgProof (bs : List Byte) : Nat := if (secOf bs 11).isSome ∧ imgKind bs = 2 then imgN (secBytes bs 11) 0 1 % 4 else 3

/-- Its consolidation records: offset, collection, segment, period. -/
def imgConsol (bs : List Byte) : List (Nat × ConsolRec) :=
  let x := (secBytes bs 11).drop 64
  (List.range (x.length / 16)).map fun i => let w := imgW x (16 * i); (64 + 16 * i, ⟨fld w 63 56, fld w 55 32, fld w 15 0⟩)

/-- Row 13. -/
def checkSched (bs : List Byte) : Option ImgErr :=
  let err (off a : Nat) : ImgErr := fieldErr Code.SCHED_INVALID 11 off a
  if (secOf bs 11).isNone then none else
    firstErr (errIf (decide ((secBytes bs 11).length < 64) || ((secBytes bs 11).length - 64) % 16 ≠ 0) (err 0 0)
      :: errIf (imgN (secBytes bs 11) 0 8 / 4 ≠ 0) (err 0 2)
      :: (imgConsol bs).map fun r => match (imgColls bs).find? (icNum · = r.2.coll) with
          | none => some (err r.1 56)
          | some c => firstErr [errIf (decide (icSegs c ≤ r.2.seg)) (err r.1 32), errIf (r.2.period = 0) (err r.1 0)])

/-! ### Row 14: free resources (R106), rings and windows (R493) -/

/-- Whether a register that an image claims belongs to another polder now: bit position of the polder field, and the number concerned. -/
def regBusy (s : State) (p : Nat) (g : Reg) : Option (Nat × Nat) :=
  let old := getReg s g
  match g.name with
  | .WLK_SLOT_CFG => if fld old 63 52 ≠ 0 ∧ fld old 63 52 ≠ p then some (52, g.i * 16 + g.j) else none
  | .TEN_CFG => if fld old 63 52 ≠ 0 ∧ fld old 63 52 ≠ p then some (52, g.i * 64 + g.j) else none
  | .WEI_CFG => if fld old 63 52 ≠ 0 ∧ fld old 63 52 ≠ p then some (52, g.i) else none
  | .BML_RING_CFG => if fld old 63 52 ≠ 0 ∧ fld old 63 52 ≠ p then some (52, g.i * 64 + g.j) else none
  | .MEM_BSU_WIN => if fld old 11 0 ≠ 0 ∧ fld old 11 0 ≠ p then some (0, g.j) else none
  | _ => none

/-- The registers that an image's REG records name: offset, register, value. -/
def imgRegs (bs : List Byte) : List (Nat × Reg × Word) := (regRecs bs).filterMap fun x => (regFind x.2.1).map fun g => (x.1, g, x.2.2)

/-- The weirs of an image: offset, number, WEI_CFG value. -/
def imgWeirs (bs : List Byte) : List (Nat × Nat × Word) := (imgRegs bs).filterMap fun x => if x.2.1.name = .WEI_CFG then some (x.1, x.2.1.i, x.2.2) else none

/-- The ring pairs that an image enables: port and ring. -/
def imgRings (bs : List Byte) : List (Nat × Nat × Nat) :=
  (imgRegs bs).filterMap fun x => if x.2.1.name = .BML_RING_CFG ∧ fld x.2.2 0 0 = 1 then some (x.1, x.2.1.i, x.2.1.j) else none

/-- The crest dies of the stacks that an image's HBM regions lie in, where it also grants a range of a host window: between those its movers
carry shaped tiles (R121, R359; DESIGN CHOICE: no field of an image names its moves). -/
def moverDies (s : State) (bs : List Byte) : List Nat := match placedOf s bs with
  | .ok xs => if xs.any (·.tier = 2) then ascending (xs.flatMap fun x => (placedStacks x).map fun r => r.1 / 5) else []
  | .error _ => []

/-- The shaped flows that an image uses: kind and target (R121). -/
def imgFlows (s : State) (bs : List Byte) : List (Nat × Nat) :=
  (connRecs bs).map (fun r => (wFabricTx, fld (dWord r.2.2 0) 48 46))
    ++ (if (nsRecs bs).isEmpty then [] else (List.range 4).flatMap fun n => [(wFlashRd, n), (wFlashWr, n)])
    ++ (imgRings bs).map (fun r => (wBmlWr, r.2.1))
    ++ (if (imgEntries bs).any fun e => bits e.2.kinds 7 5 ≠ 0 || bits e.2.kinds 9 9 = 1 then [(wMutate, 0)] else [])
    ++ (moverDies s bs).map fun d => (wMover, d)

/-- The weir conditions of R124 and R106. -/
def checkWeirs (s : State) (bs : List Byte) : Option ImgErr :=
  let ws := imgWeirs bs
  let rateOff (n : Nat) : Nat := ((imgRegs bs).find? fun x => x.2.1 = ⟨.WEI_RATE, n, 0⟩).elim 0 (·.1)
  let frame (w : Word) : Nat := 1024 * 2 ^ fld w 42 41 + (if fld (rdW s (peerAddr s (fld w 48 46 / 2) (fld w 39 30) + 24)) 1 1 = 1 then 106 else 86)
  let mtu (w : Word) : Nat := ((connRecs bs).map fun r => if fld (dWord r.2.2 0) 48 46 = fld w 47 40 then frame (dWord r.2.2 0) else 0).foldl max 0
  firstErr (
    ws.map (fun x => errIf (decide (5 < fld x.2.2 51 48)) (fieldErr Code.WEIR_MISSING 2 x.1 (64 + 48) x.2.1))
    ++ ws.map (fun x =>
        let r := imgReg s bs ⟨.WEI_RATE, x.2.1, 0⟩
        firstErr [errIf (fld x.2.2 0 0 = 1 && fld r 63 32 = 0) (fieldErr Code.WEIR_MISSING 2 (rateOff x.2.1) (64 + 32) x.2.1),
          errIf (decide (fld r 31 0 < weirMin (fld x.2.2 51 48) (mtu x.2.2))) (fieldErr Code.WEIR_MISSING 2 (rateOff x.2.1) 64 x.2.1)])
    ++ (imgFlows s bs).map fun f => errIf (!ws.any fun x => fld x.2.2 51 48 = f.1 && (f.1 = wMutate || fld x.2.2 47 40 = f.2) && fld x.2.2 0 0 = 1)
        { code := Code.WEIR_MISSING, b := f.1 })

/-- Rings against windows (R77, R481, R493). -/
def checkRings (s : State) (bs : List Byte) : Option ImgErr :=
  firstErr ((imgRings bs).map fun r =>
    let c := imgReg s bs ⟨.BML_RING_CFG, r.2.1, r.2.2⟩
    let a := (imgReg s bs ⟨.BML_RING_CMD, r.2.1, r.2.2⟩).toNat
    let b := (imgReg s bs ⟨.BML_RING_CPL, r.2.1, r.2.2⟩).toNat
    let inWin (x n : Nat) : Bool := decide (hwBase s r.2.1 ≤ x) && decide (x + n ≤ hwBase s r.2.1 + hwSize s r.2.1)
    (firstBad [
      (64 + 47, !between (fld c 51 47) 6 16), (64 + 42, !between (fld c 46 42) 6 16), (64, a % 65536 ≠ 0 || b % 65536 ≠ 0),
      (64, !inWin a (256 * 2 ^ fld c 51 47) || !inWin b (64 * 2 ^ fld c 46 42))]).map (fieldErr Code.REGION_INVALID 2 r.1))

/-- Row 14, in the order of R106. -/
def checkFree (s : State) (bs : List Byte) (p : Nat) : Option ImgErr :=
  let share (d q : Nat) : Nat := getF s ⟨.PLD_CTX, q, 0⟩ (12 * d + 11) (12 * d)
  let mine (d : Nat) : Nat := fld (imgReg s bs ⟨.PLD_CTX, p, 0⟩) (12 * d + 11) (12 * d)
  let slots := getF s ⟨.SLU_GCFG, 0, 0⟩ 63 48
  let slu := imgReg s bs ⟨.SLU_CFG, p, 0⟩
  let pld := imgReg s bs ⟨.PLD_CFG, p, 0⟩
  let cfgOff := ((imgRegs bs).find? fun x => x.2.1 = ⟨.PLD_CFG, p, 0⟩).elim 0 (·.1)
  let sum (d : Nat) : Nat := (loadedPolders s).foldl (fun n q => n + share d q) (mine d)
  firstErr (
    (imgRegs bs).map (fun x => (regBusy s p x.2.1).map fun y => fieldErr Code.RESOURCE_BUSY 2 x.1 (64 + y.1) y.2)
    ++ (connRecs bs).map (fun r => errIf ((mapGet s.fab.conns r.2.1).isSome) (fieldErr Code.RESOURCE_BUSY 6 r.1 0 r.2.1))
    ++ (List.range 4).map (fun d => errIf (decide (2048 < sum d)) { code := Code.CTX_SHARE, a := sum d, b := d })
    ++ [errIf (decide (slots < reservations s + fld slu 63 48)) { code := Code.RESERVE_EXCEEDED, a := reservations s + fld slu 63 48, b := slots },
        errIf (fld pld 41 41 = 1 && fld slu 63 48 = 0) (fieldErr Code.CLASS_CONFIG 2 cfgOff (64 + 41) 0),
        errIf (fld pld 42 42 = 1 && fld slu 47 40 = 0) (fieldErr Code.CLASS_CONFIG 2 cfgOff (64 + 42) 1),
        checkWeirs s bs, checkRings s bs])

end Sys2Proof.Machine
end

