-- ==== Sys2Proof/Machine/Loader.lean ====
section
/-! DEFINITION. The loader: step bounds (R43, R189, R202, R225, R289), staging, activation and release of a polder (R108 to R111, R512,
R513, R559), and the operations of R511 with their refusals (R510), attestation (R508) and the boot flash (R504 to R506). -/

namespace Sys2Proof.Machine

/-! ### Row 15: step bounds (R43) -/

/-- The crest frequency of a proof point, in tenths of a GHz (R44). -/
def proofFreq (n : Nat) : Nat := if n = 0 then 21 else if n = 1 then 16 else if n = 2 then 12 else 8

/-- ns of a number of crest clocks at a proof point. -/
def clkNs (bs : List Byte) (n : Nat) : Nat := cdiv (10 * n) (proofFreq (imgProof bs))

/-- A bound in whole ns, rounded up once: `base` ns, `clk256` 256ths of a crest clock at the proof point, and `bytes` at `rho` GB/s. -/
def boundNs (bs : List Byte) (base clk256 bytes rho : Nat) : Nat :=
  let f := proofFreq (imgProof bs)
  base + cdiv (10 * clk256 * rho + 256 * f * bytes) (256 * f * rho)

/-- b_mem of a region's stacks from a die (R24, R189). -/
def bMem (stks : List Nat) (die : Nat) : Nat := (if stks.all (· / 5 = die) then Reach.stackOwn else .stackOther).ns

/-- b_mem and ρ of a region of an image from a die (R24, R272): a pinned POOL region lies in a crest pool, every other one in stacks. -/
def regionReach (s : State) (bs : List Byte) (r die : Nat) : Nat × Nat :=
  match placedReg s bs r with
  | none => (Reach.stackOther.ns, 64)
  | some x =>
    let own := if x.tier = 1 ∧ x.pinned then decide (x.die = die)
      else (rowsOf (x.hbm.elim x.base (·.1)) x.bytes).all fun y => decide (y.1 / 5 = die)
    let a : Reach := if x.tier = 1 ∧ x.pinned then (if own then .poolOwn else .sramOther) else if own then .stackOwn else .stackOther
    (a.ns, if own then 128 else 64)

/-- The bounds of a walk stage: each slot's batch and batch 0 over the partitions it walks; the costs in 256ths of a clock (R189). -/
def walkBounds (s : State) (bs : List Byte) (p : Nat) (g : Stage) : List Nat :=
  match stageColl bs g with
  | none => []
  | some c =>
    let table := icFormat c = 5
    let int := (icFormat c = 2 ∨ icFormat c = 3) ∧ icF c 0 43 42 ≠ 2
    let cScore := if table then 4 * icPqM c else if int then icDim c else 4 * icDim c
    let cSetup := if table then 1024 * icDim c else if int then 8 * icDim c else 4 * icDim c
    let pin := fld (imgReg s bs ⟨.PLD_CFG, p, 0⟩) 63 54
    (stageSlots bs p g.num).flatMap fun x =>
      let item := cScore + 256 * (2 + cdiv (slotMaxFilter x.2.2) 4)
      (List.range g.parts).flatMap fun i =>
        let part := g.firstPart + i
        let die := (nth? c.parts part).getD 0
        if die ≠ x.2.1 / 2048 then [] else
          let b := bMem (deltaStacks s bs c) die
          let nEntry := ((nth? c.eps part).getD []).length
          [boundNs bs (slotRounds x.2.2 * 4 * b) (slotRounds x.2.2 * 16 * slotMaxBeam x.2.2 * icDegree c * item) 0 1,
           boundNs bs ((pin + 4) * b) (256 * icPartSegs c part * (pin + 2) + 16 * (cSetup + nEntry * item)) 0 1]

/-- The most sources of a merge of a selection stage (R202): the lists of a stage before it, and the shard lists of a collective whose fan-out stage
leads to it, of which R201 admits 256. -/
def mergeSources (bs : List Byte) (g : Stage) : Nat :=
  let lists := ((imgStages bs).filter fun x => x.2.succ = some g.num).foldl (fun n x => max n (listsOf bs x.2)) 1
  if (imgStages bs).any fun x => x.2.kind = .fanout && (pathFrom bs 65 x.2.num).contains g.num then max lists 256 else lists

/-- The bound of the merge step of a selection stage (R202). -/
def mergeBound (bs : List Byte) (g : Stage) : Nat :=
  let src := mergeSources bs g
  2 * Reach.stackOwn.ns + clkNs bs (cdiv (src * 1024) 8 + 128 + 4 * src + 64)

/-- Bytes of an item record of an image's collection (R216). -/
def icItemBytes (c : ImgColl) : Nat := 64 + cdiv (2 * icDim c) 64 * 64 + cdiv (icStride c) 64 * 64 + cdiv (icAttrBytes c) 64 * 64

/-- The bound of a collection's apply step (R225); none where the polder's windows hold too few segments. -/
def applyBound (s : State) (bs : List Byte) (c : ImgColl) : Option Nat :=
  let nPrune := cdiv ((icDegree c + 1) * icDegree c * icDim c) (128 * 1400)
  let need := 2 + 4 * nPrune
  let last := periodNs s - bermNs s - us
  let start (st : Nat) : Option Nat :=
    let ws := (ownWins bs st).filter fun j => decide (2 * us * j + 2 * us ≤ last)
    nth? ws.reverse (need - 1)
  let starts := (deltaStacks s bs c).map start
  if starts.any (·.isNone) then none
  else
    let w := last - 2 * us * ((starts.filterMap id).foldl min (last / (2 * us)))
    let max_ := icM c 1 31 16
    some (440 + max_ * 440 + cdiv (max_ * icItemBytes c) 256 + w)

/-- c_blk of a format (R272). -/
def cBlk : WFmt → Nat
  | .e4m3 => 64
  | .bf16 => 128
  | _ => 32

/-- The bounds of a model's jobs on one group (R289), each b_mem and ρ those of the region that the job reads or writes. VECTOR works on rows in
tile SRAM; an EMBED job reads the token and position rows, or full vectors (DESIGN CHOICE for the bytes read, which R289 does not give;
the rows that a BAG job reads are not among them, since a bag's keys are not bounded). -/
def jobBounds (s : State) (bs : List Byte) (m : ImgModel) (g : TileGroup) : List Nat :=
  let (b, rho) := regionReach s bs (imF m 2 31 20) g.die
  let (bk, rhoK) := regionReach s bs (imF m 2 43 32) g.die
  let dh := imHeadDim m
  let n := max 1 g.tiles.length
  let attn (times : Nat) : Nat :=
    boundNs bs (times * 2 * bk) (times * g.kbJob * 256 * (256 * dh / 64 + 256)) (times * g.kbJob * 256 * dh) rhoK
  let linear (i : Nat) (w : Weights) : Nat :=
    let cols := cdiv (cdiv w.n 64) n * 64
    let streamed := if g.resident.contains i then 0 else w.k * cols * fmtBits w.fmt / 8
    let blocks := cdiv g.rowsMax 64 * cdiv w.k 64 * cdiv cols 64
    if w.fmt = .bf16 then boundNs bs (2 * b) (256 * blocks * 128) streamed rho
    else boundNs bs (4 * b) (256 * blocks * (cBlk w.fmt + 128)) (2 * streamed) rho
  let rows (b bytes : Nat) : Nat := boundNs bs (2 * b) (cdiv (256 * 8 * g.rowsMax * imHidden m) 64) (g.rowsMax * bytes) rho
  let rowBytes (w : Weights) : Nat := cdiv (w.n * fmtBits w.fmt) 8
  (m.ops.zipIdx).flatMap (fun o => match o.1.2 with
    | .linear _ w _ => [linear o.2 w]
    | .itemProj w => [linear o.2 w, rows b (2 * imF m 1 33 20)]
    | .score _ w => [linear o.2 { w with fmt := .bf16 }]
    | .attention _ _ _ _ _ => [attn 1, boundNs bs (2 * bk) 0 (g.rowsMax * imF m 0 25 19 * 4 * dh) rhoK] ++ (if m.adapters.isEmpty then [] else [attn 2])
    | .embed t p => [rows b (rowBytes t + p.elim 0 rowBytes)]
    | .bag _ => [rows b 0]
    | _ => [rows (cdiv (Reach.tileOwn.bound (proofFreq (imgProof bs))) 10) 0])
  ++ m.adapters.zipIdx.map fun a =>
      let rank := fld (dWord a.1 0) 59 53
      let (bo, rhoO) := regionReach s bs (fld (dWord a.1 0) 47 36) g.die
      let els := m.ops.foldl (fun t o => match o.2 with
        | .linear _ w ads => if ads.contains a.2 then t + rank * (w.k + w.n) else t
        | _ => t) 0
      boundNs bs (2 * bo) (64 * cdiv els n) (32 * cdiv els n) rhoO

/-- What a stage's own work takes at least where R24 gives it alone: the message of a handoff to another die and its answer, and what a toe die
reads or writes in a stack for flash. -/
def reachBounds (bs : List Byte) (g : Stage) : List Nat :=
  (if (g.succ.bind (imgStage bs)).elim false fun x => x.dies.any (!g.dies.contains ·) then [Reach.handAndHak.ns] else [])
    ++ (if g.kind = .fetch ∨ g.kind = .flashWr then [Reach.stackFromToe.ns] else [])

/-- Every bound of an image: section and offset of its stage, bound. -/
def imgBounds (s : State) (bs : List Byte) (p : Nat) : List (Nat × Nat × Nat) :=
  (imgStages bs).flatMap (fun g =>
    let own : List Nat := match g.2.kind with
      | .walk => walkBounds s bs p g.2
      | .select => [mergeBound bs g.2]
      | .apply => (stageColl bs g.2).elim [] fun c => (applyBound s bs c).toList
      | .encode | .rerank | .train => ((imgMods bs).find? (imNum · = g.2.object)).elim [] fun m => m.groups.flatMap (jobBounds s bs m)
      | _ => []
    (own ++ reachBounds bs g.2).map fun b => (3, g.1, b))
  ++ (Config.stepBounds bs).map fun x => (x.2.1, x.2.2, x.1)

/-- Row 15. -/
def checkBounds (s : State) (bs : List Byte) (p : Nat) : Option ImgErr :=
  let limit := periodNs s - bermNs s
  firstErr ((imgStages bs).map (fun g => if g.2.kind = .apply then (stageColl bs g.2).bind fun c =>
      errIf ((applyBound s bs c).isNone) (fieldErr Code.BSU_WINDOWS 3 g.1 34) else none)
    ++ (imgBounds s bs p).map fun x => errIf (decide (limit < x.2.2)) { code := Code.STEP_BOUND, sec := x.1, off := x.2.1, a := x.2.2, b := limit })

/-- The checks of R509 for a POLDER image, in order. -/
def checkImage (s : State) (bs : List Byte) (len arg by_ : Nat) : Option ImgErr :=
  let p := imgPolder bs
  checkHeader bs len [2] <|> checkTable bs <|> errIf (p ≠ arg) { code := Code.IMG_FORMAT, off := 8 } <|> checkPolder s bs by_ <|> checkFloor s bs p
    <|> checkRegions s bs <|> checkNss s bs p <|> checkConns s bs p <|> checkGraph s bs p
    <|> checkColls s bs p <|> checkWalks bs p <|> checkBsu s bs <|> checkTables s bs p <|> checkModels s bs p <|> checkSched bs
    <|> checkFree s bs p <|> checkBounds s bs p

/-! ### Staging (R512) -/

/-- A state with the blocks of the system area taken so far. -/
abbrev Building : Type := State × List (Nat × Nat)

/-- Take a block of the system area and fill it. -/
def buildBlock (x : Building) (bs : List Byte) : Building × Nat :=
  if bs.isEmpty then (x, 0) else
    let (s, a) := sysPut x.1 bs
    ((s, (a, bs.length) :: x.2), a)

/-- Build what each member of a list needs, in order. -/
def buildAll {α β : Type} (f : Building → α → Building × β) : Building → List α → Building × List β
  | x, [] => (x, [])
  | x, a :: as =>
    let (x, b) := f x a
    let (x, bs) := buildAll f x as
    (x, b :: bs)

/-- The structures of a collection (R157, R162, R163, R167, R220): no segment has a version. -/
def buildColl (p : Nat) (x : Building) (c : ImgColl) : Building × (Nat × Coll) :=
  let (x, tabs) := buildBlock x c.tables
  let (x, schema) := buildBlock x (c.schema.flatMap (leBytes 4))
  let (x, segs) := buildBlock x (c.segPart.flatMap fun n => leBytes 8 0 ++ leBytes 8 (n.getD 0 * 2 ^ 48))
  let (x, eps) := buildAll (fun x (ids : List Nat) =>
    buildBlock x (wordBytes ([0, 0, BitVec.ofNat 64 ids.length, 0, 0, 0, 0, 0] ++ ids.map (BitVec.ofNat 64)))) x c.eps
  let (x, parts) := buildBlock x ((c.parts.zip eps).flatMap fun e => leBytes 8 e.1 ++ leBytes 8 e.2)
  let desc := c.desc.take 4 ++ [tabs, schema, segs, parts].map (BitVec.ofNat 64)
  let (x, a) := buildBlock x (wordBytes (desc ++ c.mutRec))
  (x, icNum c, { Coll.none with polder := p, desc := a })

/-- Move an address that an image gives as an offset of the weight region. -/
def relocate (s : State) (a base : Nat) : State :=
  let v := rdN s a
  if v = 0 then s else wrW s a (BitVec.ofNat 64 (base + v))

/-- A model: weights copied, descriptor, operator list and adapter records built, version addresses placed (R277, R299, R319). The list is the
image's own (DESIGN CHOICE: R277 names its address and no rule its layout). -/
def buildModel (bs : List Byte) (p : Nat) (regs : List Placed) (x : Building) (m : ImgModel) : Building × (Nat × Model) :=
  let base := (regs.find? (·.num = imF m 2 31 20)).elim 0 fun r => if r.tier = 1 then (if r.pinned then poolAddr r.die + r.base else r.back) else r.base
  let s := m.copies.foldl (fun s c => wrBytes s (base + c.2.1) (((secBytes bs 9).drop c.1).take c.2.2)) x.1
  let top := cdiv ((m.copies.map fun c => c.2.1 + c.2.2).foldl max 64) 64 * 64
  let fixVer (s : State) (a : Nat) : State :=
    if rdN s a = 0 then s else
      let s := relocate s a base
      relocate s (rdN s a + 16) base
  let s := fixVer s (base + 8)
  let (x, ads) := buildBlock (s, x.2) (m.adapters.flatMap fun a => wordBytes (a.take 8))
  let s := (List.range m.adapters.length).foldl (fun s i => fixVer s (ads + 64 * i + 32)) x.1
  let (x, list) := buildBlock (s, x.2) m.opList
  let (x, d) := buildBlock x (wordBytes (m.desc.take 3 ++ [BitVec.ofNat 64 list, BitVec.ofNat 64 ads, 0, 0, 0]))
  (x, imNum m, { polder := p, desc := d, ops := m.ops.map (·.2), groups := m.groups, adapters := [], retained := [], obs := [], obsDie := [],
                 hist := [], amax := [], top := base + top })

/-- A table: page tables, shard directory, first version record, descriptor (R330, R332). -/
def buildTable (p : Nat) (x : Building) (t : ImgTable) : Building × (Nat × Table) :=
  let (x, pts) := buildAll (fun x (g : List Nat) => buildBlock x (wordBytes (g.map fun a => mkPte false a))) x t.shards
  let (x, dir) := buildBlock x (wordBytes (pts.map (BitVec.ofNat 64)))
  let (x, ver) := buildBlock x (wordBytes [0, 0, BitVec.ofNat 64 dir, 0, 0, 0, 0, 0])
  let (x, d) := buildBlock x (wordBytes (t.desc.take 5 ++ [BitVec.ofNat 64 ver, dWord t.desc 6, 0]))
  (x, itNum t, { polder := p, desc := d, groups := [], moves := [], retained := [], stepTick := none, readNow := [], readLast := [], written := [] })

/-- The region table and the landing table (R352, R438). -/
def buildRegions (x : Building) (regs : List Placed) : Building × Nat × Nat :=
  let blank (n : Nat) (x : Building) : Building × Nat := let (s, a) := sysAlloc x.1 n; ((s, (a, n) :: x.2), a)
  let (x, tab) := blank 131072 x
  let (x, land) := blank 32768 x
  let s := regs.foldl (fun s r =>
    let s := wrWords s (tab + 32 * r.num) [r.word0, BitVec.ofNat 64 r.base, BitVec.ofNat 64 r.bytes, BitVec.ofNat 64 r.back]
    if r.reg then wrW s (land + 8 * r.num) (BitVec.ofNat 64 (2 ^ 63 + r.key)) else s) x.1
  ((s, x.2), tab, land)

/-- A row is placed: in use (R353), and ECC_RECOMPUTE from its next guard on where the polder is granted BSU windows on the stack (R263). -/
def takeRow (bsu : Nat → Bool) (s : State) (x : Nat × Nat) : State :=
  let s := setF s (rowReg x.1 x.2) 3 3 1
  if bsu x.1 ∧ getF s (rowReg x.1 x.2) 2 2 = 0 ∧ !rowRecompute s x.1 x.2 then { s with eccPend := mapSet s.eccPend (x.1 * 1024 + x.2) true } else s

/-- A row is released: no longer in use, and ECC_OPAQUE from its next guard on. -/
def dropRow (s : State) (x : Nat × Nat) : State :=
  let s := setF s (rowReg x.1 x.2) 3 3 0
  let key := x.1 * 1024 + x.2
  if rowRecompute s x.1 x.2 then { s with eccPend := mapSet s.eccPend key false } else { s with eccPend := mapDel s.eccPend key }

/-- Fill a region's memory with zeros, but for a host window (R35, R512), and take its rows. -/
def fillRegion (bsu : Nat → Bool) (s : State) (r : Placed) : State :=
  let s := if r.tier = 1 ∧ r.pinned then zeroFill s (poolAddr r.die + r.base) r.bytes else s
  r.hbm.elim s fun (a, n) => (rowsOf a n).foldl (takeRow bsu) (zeroFill s a n)

/-- A namespace of the image: created or bound; every unit of one to be destroyed is discarded (R390, R401, R512). -/
def buildNs (p : Nat) (t : Stamp) (x : Building) (w : List Word) : Building × Unit :=
  let s := x.1
  let n := nsNum w
  let old := getNs s n
  let newest := old.elim 0 (·.newest)
  let (x, d) := buildBlock x (wordBytes (w.take 3 ++ [BitVec.ofNat 64 newest, 0, 0, 0, 0]))
  let f := fld (dWord w 0)
  let ns : FlashNs := match old with
    | some o => { o with desc := d, bound := true }
    | none => { polder := p, isHost := f 39 39 = 1, host := f 38 37, cold := f 36 36 = 1, units := fld (dWord w 1) 34 0, tag := dWord w 2,
                newest := 0, desc := d, bound := true }
  let s := modFss x.1 fun y => { y with nss := mapSet y.nss n ns }
  let gone := if nsDestroy w then (List.range ns.units).filter fun u => mapEntry s newest u ≠ 0 else []
  let s := gone.foldl (fun s u => modFss s fun y =>
    { y with seq := y.seq + 1, marks := y.marks ++ [⟨y.seq, n, u, false, boundaryFor s t, none⟩] }) s
  ((s, x.2), ())

/-- Stage a checked image. -/
def stageImage (s : State) (bs : List Byte) (t : Stamp) : Option (State × LoadedPolder) :=
  let p := imgPolder bs
  match placedOf s bs with
  | .error _ => none
  | .ok regs =>
    let (x, tab, land) := buildRegions (regs.foldl (fillRegion fun st => !(ownWins bs st).isEmpty) s, []) regs
    let (x, colls) := buildAll (buildColl p) x (imgColls bs)
    let (x, models) := buildAll (buildModel bs p regs) x (imgMods bs)
    let (x, tables) := buildAll (buildTable p) x (imgTabs bs)
    let (x, _) := buildAll (buildNs p t) x ((nsRecs bs).map (·.2))
    let s := (connRecs bs).foldl (fun s r => wrWords s (s.fab.connArr + 64 * r.2.1) (r.2.2.take 8)) x.1
    let byNum {α : Type} (xs : List (Nat × α)) : Map α := xs.foldl (fun m e => mapSet m e.1 e.2) []
    let pol : Polder := { st := .active, since := 0, stages := (imgStages bs).map (·.2), entries := (imgEntries bs).map (·.2), regTab := tab,
                          quotas := (List.range 4).map (imgQuota bs), seqSlots := (List.range 4).map (imgSeq bs), grants := imgGrants bs,
                          consol := (imgConsol bs).map (·.2), unload := none, sysMem := x.2, rows := placedRows regs }
    some (s, { pol := pol, regs := (regRecs bs).map (·.2), colls := byNum colls, tables := byNum tables, models := byNum models,
               conns := (connRecs bs).map (·.2.1), landing := land, rings := (imgRings bs).map (·.2), svn := imgSvn bs, hash := imgHash bs })

/-! ### Activation (R109) -/

/-- Counters that a polder's load clears (R109, R127, R195). -/
def loadCounters (p : Nat) : List Reg :=
  [RegName.PLD_CNT0, .PLD_CNT1, .DIK_CNT0, .DIK_CNT1, .SLU_CNT0, .SLU_CNT1, .SLU_CNT2].map fun n => ⟨n, p, 0⟩

/-- What the loader sets as it writes one register of the image: a full weir, a slot's counters, a fresh ring pair. -/
def seatReg (s : State) (g : Reg) (v : Word) : State :=
  match g.name with
  | .WEI_CFG => clearCnt s ⟨.WEI_CNT, g.i, 0⟩
  | .WLK_SLOT_CFG => [RegName.WLK_SLOT_EXP, .WLK_SLOT_SCORE, .WLK_SLOT_CNT, .WLK_SLOT_SHORT, .WLK_SLOT_ERR0, .WLK_SLOT_ERR1].foldl
      (fun s n => clearCnt s ⟨n, g.i, g.j⟩) s
  | .BML_RING_CFG => if fld v 0 0 = 1 then setReg (modRing s g.i g.j fun _ => Ring.fresh) ⟨.BML_RING_STS, g.i, g.j⟩ 0 else s
  | _ => s

/-- The registers of an image take their values (R109, R500); DIK_CFG and WEI_RATE start with full buckets. -/
def applyRegs (s : State) (regs : List (Nat × Word)) : State :=
  let s := regs.foldl (fun s x => match regFind x.1 with
    | some g => seatReg (setReg s g x.2) g x.2
    | none => s) s
  regs.foldl (fun s x => match regFind x.1 with
    | some g => match g.name with
      | .WEI_CFG => setWeir s g.i { Weir.empty with tok := weirCap s g.i, last := s.now }
      | _ => s
    | none => s) s

/-- Clear the lines of a list that no host holds; recall the others (R371). Answers those that stay to be cleared. -/
def wipeLines (s : State) (ls : List Nat) : State × List Nat :=
  ls.foldl (fun x l => if conflict x.1 true l then (recallLine x.1 none true l, x.2 ++ [l])
    else (wrBytes x.1 (64 * l) (List.replicate 64 0), x.2)) (s, [])

/-- Fill both rings of a pair with zeros (R481); a line that a host holds is recalled first. -/
def clearRing (s : State) (n r : Nat) : State :=
  let (s, left) := wipeLines s (linesOf (getReg s ⟨.BML_RING_CMD, n, r⟩).toNat (256 * cmdSize s n r)
    ++ linesOf (getReg s ⟨.BML_RING_CPL, n, r⟩).toNat (64 * cplSize s n r))
  modRing s n r fun x => { x with wipe := left }

/-- Ring pairs that wait for a host's copy go on being cleared. -/
def wipeRings (s : State) : State :=
  (List.range 4).foldl (fun s n => (getBml s n).rings.foldl (fun s e =>
    if e.2.wipe.isEmpty then s else
      let (s, left) := wipeLines s e.2.wipe
      modRing s n e.1 fun x => { x with wipe := left }) s) s

/-- IMG_STS with a code, a state, an operation, a polder and a requester (R519). -/
def imgSts (code state op polder by_ : Nat) : Word := BitVec.ofNat 64 (code * 2 ^ 48 + state * 2 ^ 45 + op * 2 ^ 42 + polder * 2 ^ 30 + by_ * 2 ^ 27)
def imgState (s : State) : Nat := getF s rImgSts 47 45

/-- A bound rounded up to a whole microsecond (R225). -/
def wholeUs (b : Nat) : Nat := cdiv b us * us

/-- What activation enters beside the registers: each collection's geometry and the bounds of the apply steps (R225, R242), and the resident weights of
each tile (R285). -/
def readyObjects (s : State) (bs : List Byte) (q : LoadedPolder) : State :=
  let s := (imgColls bs).foldl (fun s c => { s with colls := mapMod s.colls (icNum c) fun co =>
    { co with geom := some (geomOf s co), stepB := wholeUs ((applyBound s bs c).getD 0) } }) s
  let s := (imgTabs bs).foldl (fun s t => modTable s (itNum t) fun tb => { tb with stepB := wholeUs (Config.tableBound bs (itNum t)) }) s
  q.models.foldl (fun s e => e.2.groups.foldl (fun s g => g.tiles.foldl (fun s tile => (loadTile s e.2 g tile).getD s) s) s) s

/-- POLDER_ACTIVATE (R108, R109): before action 5 of its boundary. -/
def doActivate (s : State) : State :=
  match s.img.loading with
  | some l => match l.due, l.staged with
    | some due, some q =>
      if (imgState s ≠ 3 ∧ l.polder ≠ 0) ∨ s.tick.tick < due ∨ !s.tick.running ∨ !s.tick.begun then s else
        let p := l.polder
        let e := s.tick.tick
        let pol := { q.pol with since := e }
        let s := setPolder s p pol
        let s := (loadCounters p).foldl clearCnt s
        let s := applyRegs s q.regs
        let s := setF s ⟨.PLD_CFG, p, 0⟩ 40 39 (imgProof l.image)
        let s := setFloor (raiseTo (modPwr s fun x => { x with counts := mapDel x.counts p }) (imgProof l.image))
        let d : Dike := { tok := getF s ⟨.DIK_CFG, p, 0⟩ 31 16 * 2 ^ 32, last := s.now, defer := none }
        let s := setDike (setDeficit s p 0) p d
        let merge {α : Type} (m n : Map α) : Map α := n.foldl (fun m e => mapSet m e.1 e.2) m
        let s := { s with colls := merge s.colls q.colls, tables := merge s.tables q.tables, models := merge s.models q.models }
        let s := readyObjects s l.image q
        let s := refreshWriters (modFab s fun f => { f with landing := mapSet f.landing p q.landing })
        let s := openConns s q.conns
        let s := q.rings.foldl (fun s r => clearRing s r.1 r.2) s
        let s := setReg s ⟨.IMG_TICK, 0, 0⟩ (BitVec.ofNat 64 e)
        let s := if p = 0 then s else setF (setF s rImgSts 47 45 4) rImgSts 63 48 Code.OK
        let s := bump s ⟨.IMG_CNT, 0, 0⟩ 63 32 1
        { s with img := { s.img with loading := none, seals := mapSet s.img.seals p ⟨q.svn, e, q.hash⟩ } }
    | _, _ => s
  | none => s

/-! ### Unload (R110, R111) -/

/-- PLD_UNLOAD (R110): the write latches the boundary and the abort mark. -/
def doUnload (s : State) (p : Nat) (abort : Bool) (t : Stamp) : State :=
  let pol := getPolder s p
  if p = 0 ∨ pol.st ≠ .active ∨ pol.unload.isSome then s
  else setPolder s p { pol with unload := some (boundaryFor s t, abort) }

/-- DRAINING_START (R110): the latched boundary has come. -/
def doDraining (s : State) (p : Nat) : State :=
  let pol := getPolder s p
  match pol.unload with
  | some (u, _) => if pol.st = .active ∧ u ≤ s.tick.tick then setPolder s p { pol with st := .draining, since := s.tick.tick } else s
  | none => s

/-- Whether a completion of a polder's requests still waits to be written (R111): one that is ready, or that a request waiting at the sluice
or a CANCEL will have in action 5 (R99, R110). -/
def completionWaits (s : State) (p : Nat) : Bool :=
  s.pend.any (fun x => fld (dWord x.words 2) 63 48 = p) || s.reeve.any (fun x => fld (dWord x.words 2) 63 48 = p)
    || s.sluice.waiting.any (·.polder = p) || s.sluice.cancels.any (·.polder = p)

/-- Take a block's memory back, filled with zeros. -/
def releaseBlocks (s : State) (xs : List (Nat × Nat)) : State := xs.foldl (fun s b => sysFree s b.1 b.2) s

/-- The blocks that a polder's versions took since its staging, and those retained (R58). -/
def collBlocks (s : State) (co : Coll) : List (Nat × Nat) :=
  (List.range (cSegments s co)).flatMap (fun g => verBlocks s co g (cNewest s co g)) ++ co.retained.flatMap (·.sysMem)
    ++ co.groups.flatMap (fun g => g.segs.flatMap (fun x => verBlocks s co x.seg x.newVer) ++ g.eps.flatMap fun x => epBlock s x.2)

/-- Whether a consolidation of a polder's collections still pins an epoch (R229). -/
def consolRuns (s : State) (p : Nat) : Bool := s.colls.any fun e => e.2.polder = p && !(consolPins s e.1).isEmpty

/-- POLDER_ABSENT (R111, R513, R559): in action 4, everything of the polder is released. Its RW registers keep their values. -/
def doAbsent (s : State) (p : Nat) : State :=
  let pol := getPolder s p
  if pol.st ≠ .draining ∨ !(liveOf s p).isEmpty ∨ completionWaits s p ∨ consolRuns s p then s else
    let gone := (s.colls.filter (·.2.polder = p)).flatMap fun e => collBlocks s e.2
    let s := closeConns s p
    let s := resetOwned { s with weirs := s.weirs.filter fun e => fld (weiCfg s e.1) 63 52 ≠ p } p
    let s := { s with
      colls := s.colls.filter (·.2.polder ≠ p), tables := s.tables.filter (·.2.polder ≠ p), models := s.models.filter (·.2.polder ≠ p)
      dikes := mapDel s.dikes p
      pool := s.pool.filter (·.polder ≠ p)
      pubs := s.pubs.filter (·.polder ≠ p)
      movers := s.movers.map fun e => (e.1, e.2.filter (·.polder ≠ p)) }
    let s := modFss s fun f => { f with nss := f.nss.map fun e => if e.2.polder = p then (e.1, { e.2 with bound := false, desc := 0 }) else e
                                        lists := f.lists.map fun e => (e.1, e.2.filter (·.polder ≠ p)) }
    let s := modFab s fun f => { f with landing := mapDel f.landing p }
    let s := releaseBlocks s (gone.filter (fun b => !pol.sysMem.contains b) ++ pol.sysMem)
    let s := pol.rows.foldl dropRow s
    let s := { s with img := { s.img with seals := mapDel s.img.seals p } }
    setFloor (setPolder s p { Polder.none with since := s.tick.tick })

/-! ### Requesters (R511) -/

/-- A requester's number in IMG_STS. -/
def reqNum : Requester → Nat
  | .host h => h.val
  | .reeve => 4
  | .i3c => 5

/-- Whether a range lies in a requester's memory: a host's window, or HBM outside the system area. -/
def inRequester (s : State) (by_ a n : Nat) : Bool :=
  if by_ < 4 then decide (hwBase s by_ ≤ a) && decide (a + n ≤ hwBase s by_ + hwSize s by_)
  else decide (a + n ≤ hbmEnd) && (List.range 20).all fun st => !overlaps a n (st * stackBytes + 0x17A0000000) (stackBytes - 0x17A0000000)

abbrev imgUnit : Nat := 0x8500
abbrev rvUnit : Nat := 0x4600
/-- RV_BOOT.state: 0 BOOTING, 1 READY, 2 RECOVERY, 3 FAILED. -/
def bootState (s : State) : Nat := getF s ⟨.RV_BOOT, 0, 0⟩ 55 54

/-- A host may reach a block only when a polder's floorplan grants it (R30), and in RECOVERY the IMG and RV blocks (R515). -/
def blockOpen (s : State) (h unit : Nat) : Bool :=
  (bootState s = 2 && (unit = imgUnit || unit = rvUnit)) || s.polders.any fun e => e.2.st ≠ .absent && e.2.grants.contains (h, unit)
def mayUse (s : State) (unit : Nat) : Requester → Bool
  | .host h => blockOpen s h.val unit
  | _ => true


/-- IMG_CTL.cfg_error. -/
def imgBad (s : State) : State := setBit s ⟨.IMG_CTL, 0, 0⟩ 7
/-- A result without an error record. -/
def imgDone (s : State) : State := setF (setF s rImgSts 47 45 4) rImgSts 63 48 Code.OK

/-- The loader takes an operation (R511, R513): an entry into a power state is aborted (R525), and it is a wake event (R529). -/
def imgTake (s : State) (op polder by_ : Nat) : State :=
  setReg (wakeAt (stopEntry s by_) 5 s.now) rImgSts (imgSts 0 1 op polder by_)

def imgBusy (s : State) : Bool := imgState s = 1 || imgState s = 2 || imgState s = 3 || s.img.loading.isSome
def imgSrc (s : State) : Nat := (getReg s ⟨.IMG_SRC, 0, 0⟩).toNat
def imgLen (s : State) : Nat := getF s ⟨.IMG_LEN, 0, 0⟩ 40 0
def imgArgPolder (s : State) : Nat := getF s ⟨.IMG_ARG, 0, 0⟩ 63 52

/-- Read an image in the loader's name: its bytes, or a wait, or a code. -/
def imgRead (s : State) (a n : Nat) : Access2 × State × List Byte :=
  match hostAccess s (some imgWho) a n false with
  | (.ok, s') => (.ok, s', rdBytes s a n)
  | (x, s') => (x, s', [])

/-- The first reading of an image to be loaded, and its checks (R509, R512). -/
def advanceLoad (s : State) : State :=
  match s.img.loading with
  | some l =>
    if imgState s ≠ 1 then s else
      match imgRead s l.addr l.len with
      | (.wait, s, _) => s
      | (.code _, s, _) => imgRefuse s { code := Code.LOAD_FAULT }
      | (.ok, s, bs) => match checkImage s bs l.len l.polder l.by_ with
        | some e => imgRefuse s e
        | none =>
          let s := setF s rImgSts 47 45 2
          { s with img := { s.img with loading := some { l with image := bs.take (imgLength bs) } } }
  | none => s

/-- LOAD (R511, R512). -/
def doLoad (s : State) (by_ : Nat) : State :=
  if imgBusy s ∨ bootState s = 2 ∨ !s.tick.running ∨ !inRequester s by_ (imgSrc s) (imgLen s) then imgBad s
  else
    let p := imgArgPolder s
    let s := imgTake s 1 p by_
    advanceLoad { s with img := { s.img with loading := some ⟨p, by_, imgSrc s, imgLen s, [], none, none⟩ } }

/-- STAGING_END (R109, R512). -/
def doStagingEnd (s : State) (memFault : Bool) (t : Stamp) : State :=
  match s.img.loading with
  | some l =>
    if imgState s ≠ 2 then s
    else if memFault then imgRefuse s { code := Code.LOAD_FAULT }
    else match imgRead s l.addr l.image.length with
      | (.wait, s, _) => s
      | (.code _, s, _) => imgRefuse s { code := Code.LOAD_FAULT }
      | (.ok, s, bs) =>
        if imgHash bs ≠ imgHash l.image then imgRefuse s { code := Code.BAD_SIGNATURE }
        else match stageImage s l.image t with
          | none => imgRefuse s { code := Code.LOAD_FAULT }
          | some (s, q) =>
            let s := seekOp (setF s rImgSts 47 45 3) (min s.pwr.goal (imgProof l.image)) t
            { s with img := { s.img with loading := some { l with due := some (boundaryFor s t), staged := some q } } }
  | none => s

/-- UNLOAD (R511). -/
def doImgUnload (s : State) (by_ : Nat) (abort : Bool) (t : Stamp) : State :=
  let p := imgArgPolder s
  if imgBusy s ∨ bootState s = 2 ∨ p = 0 ∨ (getPolder s p).st ≠ .active then imgBad s
  else
    let s := imgTake s 2 p by_
    if !mayName s by_ p then imgRefuse s { code := Code.HOST_DENIED } else imgDone (doUnload s p abort t)

/-- PLAN (R235 to R237, R511): checked at once, and once more at the boundary that R236 names, where it is accepted. -/
def doPlan (s : State) (by_ : Nat) (t : Stamp) : State :=
  let p := imgArgPolder s
  let r := getF s ⟨.IMG_ARG, 0, 0⟩ 51 40
  let off := getF s ⟨.IMG_ARG, 0, 0⟩ 39 0
  if imgBusy s ∨ bootState s = 2 ∨ !s.tick.running then imgBad s
  else
    let s := imgTake s 3 p by_
    let a := (regionAddr s p r off 64).getD 0
    let refuse (s : State) (code : Nat) : State := imgRefuse (if a = 0 then s else planRefuse s a code) { code := code }
    if !mayName s by_ p then imgRefuse s { code := Code.HOST_DENIED }
    else
      let code := planCode s p r off false
      if code ≠ 0 then refuse s code
      else
        let due := boundaryFor s t
        let s := setF (planWait s a due) rImgSts 47 45 3
        { s with img := { s.img with planning := some ⟨(planHdr s a).coll, due, p, r, off⟩ } }

/-- PLAN_ACCEPT (R236, R237): at the boundary of a checked plan, the checks hold as they stand at that acceptance. -/
def doPlanAccept (s : State) : State :=
  match s.img.planning with
  | some x =>
    if s.tick.tick < x.due then s else
      let code := planCode s x.polder x.region x.off true
      let s := { s with img := { s.img with planning := none } }
      if code = 0 then imgDone (setReg (planRun s x.coll) ⟨.IMG_TICK, 0, 0⟩ (BitVec.ofNat 64 s.tick.tick))
      else
        let s := { s with colls := mapMod s.colls x.coll fun co => { co with plan := none } }
        imgRefuse (planRefuse s ((regionAddr s x.polder x.region x.off 64).getD 0) code) { code := code }
  | none => s

/-! ### Identity and the boot flash (R504 to R508) -/

/-- A byte of the boot flash: as shipped where nothing was written since. -/
def norByte (s : State) (a : Nat) : Byte := (s.img.nor.find? (·.1 = a)).elim (Config.bootFlash a) (·.2)
def norBytes (s : State) (a n : Nat) : List Byte := (List.range n).map fun i => norByte s (a + i)

/-- Write the boot flash: addresses kept rising. -/
def norPut (s : State) (a : Nat) (bs : List Byte) : State :=
  { s with img := { s.img with nor := bs.zipIdx.foldl (fun m e => mapSet m (a + e.2) e.1) s.img.nor } }

/-- The keys that derive from the device secret (R507). -/
def identityScalar : Nat := scalarFrom Config.deviceSecret (ascii "AK8 identity") 256 0
def floorKey : List Byte := hkdf Config.deviceSecret (ascii "AK8 floor")
def deviceId : List Byte := sha256 (ecPublic identityScalar)
def aliasScalar (s : State) : Nat := scalarFrom Config.deviceSecret (ascii "AK8 alias" ++ s.img.fwHash ++ s.img.owner) 256 0

/-- The address of a floor slot. -/
def floorSlot (i : Nat) : Nat := 0x2000 + 0x1000 * i

/-- Whether a floor slot is the valid one (R505). -/
def floorValid (s : State) (i : Nat) : Bool :=
  let bs := norBytes s (floorSlot i) 128
  bs.take 4 = ascii "EFZF" && leNat ((bs.drop 4).take 4) = s.img.monoCtr && hmacSha floorKey (bs.take 96) = bs.drop 96

/-- A floor record (R505). -/
def floorRecord (ctr fw boot : Nat) (owner : List Byte) : List Byte :=
  let bs := ascii "EFZF" ++ leBytes 4 ctr ++ leBytes 4 fw ++ leBytes 4 boot ++ owner ++ List.replicate 48 0
  bs ++ hmacSha floorKey bs

abbrev rRvFloor : Reg := ⟨.RV_FLOOR, 0, 0⟩
abbrev rRvSvn : Reg := ⟨.RV_SVN, 0, 0⟩

/-- Change the floor: the new record goes into the other slot, then the counter increments (R505). -/
def writeFloor (s : State) (fw boot : Nat) (owner : List Byte) : State :=
  let other := if floorValid s 0 then 1 else 0
  let ctr := s.img.monoCtr + 1
  let s := norPut s (floorSlot other) (floorRecord ctr fw boot owner)
  let s := setReg s rRvFloor (BitVec.ofNat 64 (ctr % 2 ^ 32 * 2 ^ 32 + fw))
  let s := setF s rRvSvn 63 32 boot
  { s with img := { s.img with monoCtr := ctr } }

/-- ATTEST (R508): the report and the device certificate, in a requester's memory. -/
def attestReport (s : State) (nonce : List Byte) (k1 k2 : Nat) : List Byte :=
  let ps := s.polders.filter fun e => e.2.st ≠ .absent
  let n := ps.length
  let alias_ := aliasScalar s
  let measured := s.img.fwHash ++ s.img.bootHash ++ s.img.owner
  let pub := ecPublic alias_
  let endorse := ecdsaSign (sha256 (pub ++ measured)) identityScalar k1
  let entry (e : Nat × Polder) : List Byte :=
    let q := mapGetD s.img.seals e.1 ⟨0, 0, List.replicate 32 0⟩
    leBytes 2 e.1 ++ leBytes 1 (if e.2.st = .active then 1 else 2) ++ [0] ++ leBytes 4 q.svn ++ leBytes 8 q.tick ++ q.hash
  let body := ascii "EFZA" ++ leBytes 2 1 ++ leBytes 2 n ++ leBytes 4 (400 + 48 * n) ++ leBytes 4 Config.certBytes ++ leBytes 8 s.tick.tick
    ++ leBytes 8 s.tick.epoch ++ nonce ++ deviceId ++ measured ++ leBytes 4 s.img.monoCtr ++ leBytes 4 s.img.fwSvn
    ++ leBytes 4 (getF s rRvSvn 31 0) ++ leBytes 4 0 ++ pub ++ endorse ++ ps.flatMap entry
  body ++ ecdsaSign (sha256 body) alias_ k2

/-- Bytes of the report and the certificate. -/
def attestLen (s : State) : Nat := 400 + 48 * (s.polders.filter fun e => e.2.st ≠ .absent).length + Config.certBytes

/-- The report is made once no host holds its lines. -/
def advanceAttest (s : State) : State :=
  let a := imgSrc s
  match hostAccess s (some imgWho) a 32 false with
  | (.wait, s) => s
  | (.code _, s) => imgRefuse s { code := Code.LOAD_FAULT }
  | (.ok, s) => match hostAccess s (some imgWho) (a + 64) (attestLen s) true with
    | (.wait, s) => s
    | (.code _, s) => imgRefuse s { code := Code.LOAD_FAULT }
    | (.ok, s) =>
      let (s, n) := drawFresh s
      imgDone (wrBytes s (a + 64) (attestReport s (rdBytes s a 32) (Config.signNonce (2 * n)) (Config.signNonce (2 * n + 1)) ++ norBytes s 0x1000 Config.certBytes))

/-- ATTEST (R508, R511). -/
def doAttest (s : State) (by_ : Nat) : State :=
  let a := imgSrc s
  if imgBusy s ∨ !inRequester s by_ a 32 ∨ !inRequester s by_ (a + 64) (imgLen s) ∨ imgLen s < attestLen s then imgBad s
  else advanceAttest (imgTake s 4 0 by_)

/-- Where a copy of the FIRMWARE (kind 0) or BOOT (kind 1) image lies in the boot flash (R504). -/
def copyAddr (kind copy : Nat) : Nat := if kind = 0 then 0x100000 + 0x400000 * copy else 0x1000000 + 0x1000000 * copy
def copyRoom (kind : Nat) : Nat := if kind = 0 then 0x400000 else 0x1000000

/-- Rows 1 to 3 of R509 for a FIRMWARE or BOOT image. -/
def checkCore (s : State) (bs : List Byte) (len : Nat) : Option ImgErr :=
  let kind := imgKind bs
  checkHeader bs len [0, 1] <|> checkTable bs
    <|> errIf (decide (copyRoom kind < imgLength bs)) { code := Code.IMG_FORMAT, off := 16 }
    <|> errIf (if kind = 0 then signerHash bs ≠ Config.kiwardHash else s.img.owner = List.replicate 32 0 || signerHash bs ≠ s.img.owner)
        (sigErr bs Code.BAD_SIGNATURE)
    <|> errIf (!sigOk bs) (sigErr bs Code.BAD_SIGNATURE)
    <|> errIf (decide (imgSvn bs < (if kind = 0 then getF s rRvFloor 31 0 else getF s rRvSvn 63 32))) { code := Code.ROLLBACK, off := 12 }

/-- The image of an UPDATE is read, checked and written into the copy of its kind that did not boot. -/
def advanceUpdate (s : State) : State :=
  match imgRead s (imgSrc s) (imgLen s) with
  | (.wait, s, _) => s
  | (.code _, s, _) => imgRefuse s { code := Code.LOAD_FAULT }
  | (.ok, s, bs) => match checkCore s bs (imgLen s) with
    | some e => imgRefuse s e
    | none =>
      let kind := imgKind bs
      let booted := if kind = 0 then s.img.fwCopy else s.img.bootCopy
      imgDone (norPut s (copyAddr kind (1 - booted)) (bs.take (imgLength bs)))

/-- UPDATE (R511). -/
def doUpdate (s : State) (by_ : Nat) : State :=
  if imgBusy s ∨ !inRequester s by_ (imgSrc s) (imgLen s) then imgBad s else advanceUpdate (imgTake s 5 0 by_)

/-- An operation that waits for a host's copy goes on. -/
def advanceImg (s : State) : State :=
  if imgState s ≠ 1 then s
  else match getF s rImgSts 44 42 with
    | 1 => advanceLoad s
    | 4 => advanceAttest s
    | 5 => advanceUpdate s
    | _ => s

/-- The owner record in RV_CLAIM_DATA (R520). -/
def claimBytes (s : State) : List Byte := (List.range 24).flatMap fun i => leBytes 8 (getReg s ⟨.RV_CLAIM_DATA, 0, i⟩).toNat

/-- OWNER_RECORD_COMMIT (R506): a claim over I3C while there is no owner, or a transfer. -/
def doClaim (s : State) (by_ : Requester) : State :=
  let bs := claimBytes s
  let key := (bs.drop 8).take 64
  let digest := sha256 (bs.take 72)
  let none_ := s.img.owner = List.replicate 32 0
  let cur := norBytes s 0x4000 192
  let signer := if none_ then key else (cur.drop 8).take 64
  let okSig := ecdsaVerify digest (signer.take 32) (signer.drop 32) ((bs.drop 72).take 32) ((bs.drop 104).take 32)
  let who := if none_ then by_ = .i3c else by_ = .i3c || (match by_ with
    | .host h => blockOpen s h.val rvUnit
    | _ => false)
  let newer := none_ || decide (leNat ((cur.drop 4).take 4) < leNat ((bs.drop 4).take 4))
  if bs.take 4 = ascii "EFZO" ∧ bs.drop 136 = List.replicate 56 0 ∧ okSig ∧ who ∧ newer then
    writeFloor (norPut s 0x4000 bs) (getF s rRvFloor 31 0) (getF s rRvSvn 63 32) (sha256 key)
  else setBit s ⟨.RV_CLAIM_CTL, 0, 0⟩ 1

end Sys2Proof.Machine
end

