-- ==== Sys2Proof/Machine/TickUnit.lean ====
section
/-! DEFINITION. The tick unit between boundaries: start and stop (R68, R72), the references of the timebase (R60 to R65, R420), the steps
that run (R42, R45). -/

namespace Sys2Proof.Machine

def modTick (s : State) (f : TickUnit → TickUnit) : State := { s with tick := f s.tick }

abbrev rTckCtl : Reg := rTck .TCK_CTL
abbrev rTckSts : Reg := rTck .TCK_STS
/-- TCK_BASE.base_ns (R73). -/
def tckBase (s : State) : Nat := (getReg s (rTck .TCK_BASE)).toNat

/-- The reference time of boundary `r` in PTP mode, on the part's own clock (R60): PTP time less what it is ahead by. -/
def ptpTime (s : State) (r : Nat) : Int := ((tckBase s + r * periodNs s : Nat) : Int) - s.tick.ptpOff.getD 0

/-- The first boundary number whose PTP time lies at or after a stamp. -/
def ptpFirst (s : State) (t : Int) : Nat :=
  let x := t + s.tick.ptpOff.getD 0 - (tckBase s : Int)
  if x ≤ 0 then 0 else cdiv x.toNat (periodNs s)

/-- A start that waits for PTP begins at the first boundary at least two periods ahead, or is refused (R68, R72). -/
def ptpBegin (s : State) (t : Stamp) : State :=
  let e := ptpFirst s ((t + 2 * periodNs s : Nat) : Int)
  if e ≤ s.tick.epoch then modTick (setBit s rTckSts 6) fun u => { u with running := false, align := .free }
  else modTick s fun u => { u with nextNum := e, nextAt := some (ptpTime s e).toNat }

/-- TICK_START (R68, R72). In PTP mode the number of the first boundary is not known yet; it is some number above the last epoch. -/
def doTickStart (s : State) (startTick : Nat) (t : Stamp) : State :=
  let s := setF s rTckCtl 63 16 startTick
  if s.tick.running then s
  else if !inRanges .TCK_CFG (tckCfg s) || (alignMode s ≠ 1 && decide (startTick ≤ s.tick.epoch)) then setBit s rTckSts 6
  else
    let s := modTick s fun u => { u with
      running := true, begun := false, nextNum := if alignMode s = 1 then u.epoch + 1 else startTick, nextAt := if alignMode s = 0 then some (t + periodNs s) else none, bermAt := none,
      frozen := false, late := [], lateTab := [], stopReq := false, align := if alignMode s = 0 then .free else .acquiring, bad := 0, good := 0,
      hasRef := false, edge := none, ref := none, ptpOff := none, ptpFresh := false, mismatch := false, unjudged := false, stretch := none, steps := [],
      waiting := [] }
    s

/-- TICK_STOP (R68): taken up at the next boundary. -/
def doTickStop (s : State) : State := if s.tick.running then modTick s fun u => { u with stopReq := true } else s

/-- The tick stops; epoch and tick keep their numbers (R68). -/
def haltTick (s : State) : State :=
  let s := freeAll s
  modTick s fun u => { u with
    running := false, begun := false, nextAt := none, bermAt := none, frozen := false, late := [], lateTab := [], stopReq := false,
    align := .free, bad := 0, good := 0, hasRef := false, ref := none, mismatch := false, unjudged := false, stretch := none, steps := [], waiting := [] }

/-! ### Alignment (R62 to R65) -/

/-- A boundary within tolerance of its reference. -/
def alignHit (s : State) (off : Int) : State :=
  let good := s.tick.good + 1
  let back := good ≥ 8 ∧ !s.tick.mismatch ∧ (s.tick.align = .unaligned ∨ (s.tick.align = .acquiring ∧ alignMode s = 2))
  modTick s fun u => { u with
    offset := off, hasRef := true, bad := 0, good := good, unjudged := false,
    align := if back ∨ (u.align = .acquiring ∧ alignMode s = 1) then .aligned else u.align }

/-- A boundary out of tolerance or without a reference. The third in a row loses alignment. -/
def alignMiss (s : State) : State :=
  let s := modTick s fun u => { u with good := 0, bad := if u.align = .acquiring then 0 else u.bad + 1, unjudged := false }
  if s.tick.align = .aligned ∧ 3 ≤ s.tick.bad then modTick (setBit s rTckSts 3) fun u => { u with align := .unaligned } else s

/-- An edge that may still judge the last boundary did not come. -/
def judgeLate (s : State) : State := if s.tick.unjudged then alignMiss s else s

/-- REALIGN (R64): the current tick is stretched to the first reference boundary at or after its planned end. -/
def doRealign (s : State) : State :=
  let u := s.tick
  match u.nextAt with
  | some p =>
    if u.align ≠ .unaligned ∨ u.mismatch ∨ !u.hasRef ∨ u.offset.natAbs ≤ alignTol s ∨ u.stretch.isSome then s
    else
      let r := if alignMode s = 1 then max (ptpFirst s (p : Int)) (u.tick + 1) else u.tick + 1
      let e := u.edge.getD p
      let tr := if alignMode s = 1 then (ptpTime s r).toNat else e + cdiv (p - e) (periodNs s) * periodNs s
      if u.base + 2 * periodNs s < tr then setBit s rTckSts 5
      else modTick s fun u => { u with nextNum := r, nextAt := some tr, stretch := some (tr - p, r - (u.tick + 1)) }
  | none => s

/-- What a realigned boundary records (R64): stretch_us is the total time added, rounded up once (R76). A number mismatch met while the tick
was stretched still holds the part UNALIGNED (R66). -/
def endStretch (s : State) : State :=
  match s.tick.stretch with
  | none => s
  | some (ns, n) =>
    let s := modTick s fun u => { u with added := u.added + ns }
    let s := bump (setRun s (rTck .TCK_CNT1) 63 32 (min (2 ^ 32 - 1) (cdiv s.tick.added us))) (rTck .TCK_CNT1) 31 0 n
    modTick (setBit s rTckSts 4) fun u => { u with stretch := none, align := if u.mismatch then .unaligned else .aligned, good := 0, bad := 0 }

/-- How far a PTP part steers a tick: at most 100 ppm of a period (R60). -/
def steer (s : State) (off : Int) : Int :=
  let m : Int := ((periodNs s / 10000 : Nat) : Int)
  max (-m) (min m off)

/-- A boundary of a PIN part is judged by its edge (R62). An edge within tolerance sets the next boundary, unless its berm has begun; with
a larger offset an UNALIGNED part plans a realignment (R64). -/
def judgeEdge (s : State) (b e : Stamp) : State :=
  let off : Int := (b : Int) - e
  if off.natAbs ≤ alignTol s then
    modTick (alignHit s off) fun u => { u with nextAt := if u.bermAt.isSome then u.nextAt else some (e + periodNs s) }
  else doRealign (modTick (alignMiss s) fun u => { u with offset := off, hasRef := true })

/-- The measurement at a boundary at `b`, and the plan of the next one (R60, R62, R64). At a boundary without a PTP update since the one
before, TCK_OFFSET is measured against the PTP time as last updated (DESIGN CHOICE). In PIN mode an edge that has not come yet may still
follow the boundary. -/
def measure (s : State) (b : Stamp) : State :=
  let s := endStretch (judgeLate s)
  let next (s : State) (at_ : Nat) : State := modTick s fun u => { u with nextNum := u.tick + 1, nextAt := some at_ }
  if alignMode s = 1 then
    let off : Int := (b : Int) - ptpTime s s.tick.tick
    let had := s.tick.ptpFresh
    let s := modTick s fun u => { u with offset := off, hasRef := had, ptpFresh := false }
    let s := if had && decide (off.natAbs ≤ alignTol s) then alignHit s off else alignMiss s
    doRealign (next s ((b : Int) + periodNs s - steer s off).toNat)
  else if alignMode s = 2 then
    let s := next s (b + periodNs s)
    match s.tick.ref with
    | some e => judgeEdge (modTick s fun u => { u with ref := none }) b e
    | none => modTick s fun u => { u with unjudged := true, hasRef := false }
  else next s (b + periodNs s)

/-- TICK_IN_EDGE (R60, R62, R68): the first edge after a start is the first boundary. Another edge is that of the nearest boundary: the last
one, where no edge has judged it yet, or the next one. -/
def doTickIn (s : State) (t : Stamp) : State :=
  if alignMode s ≠ 2 ∨ !s.tick.running then s
  else
    let s := modTick s fun u => { u with edge := some t }
    if !s.tick.begun then
      modTick s fun u => { u with ref := some t, nextAt := if u.nextAt.isNone then some t else u.nextAt }
    else if s.tick.unjudged ∧ 2 * (t - s.tick.base) ≤ periodNs s then judgeEdge s s.tick.base t
    else modTick s fun u => { u with ref := some t }

/-- PTP_EVENT_MESSAGE (R420): the port named by TCK_CFG.ptp_port steers its clock to the recovered time. A waiting start begins once the
clock lay within tolerance of it (R68). -/
def doPtp (s : State) (port ptpNs : Nat) (t : Stamp) : State :=
  if port ≠ fld (tckCfg s) 36 35 then s
  else
    let off : Int := (ptpNs : Int) - t
    let near := s.tick.ptpOff.elim false fun o => decide ((off - o).natAbs ≤ alignTol s)
    let s := modTick s fun u => { u with ptpOff := some off, ptpFresh := true }
    if s.tick.running ∧ alignMode s = 1 ∧ s.tick.nextAt.isNone ∧ near then ptpBegin s t else s

/-- ALIGN_LOST (R62): the boundary is judged without an edge. -/
def doAlignLost (s : State) : State := if s.tick.running then judgeLate s else s

/-- ALIGN_REGAINED (R64): the reference has held at 8 boundaries in a row. -/
def doAlignRegained (s : State) : State :=
  if s.tick.align = .unaligned ∧ 8 ≤ s.tick.good ∧ !s.tick.mismatch then modTick s fun u => { u with align := .aligned } else s

/-- ACQUIRING_EXIT (R65). -/
def doAcquiringExit (s : State) : State :=
  if s.tick.align = .acquiring ∧ s.tick.begun ∧ ((alignMode s = 2 ∧ 8 ≤ s.tick.good) ∨ (alignMode s = 1 ∧ 1 ≤ s.tick.good)) then
    modTick s fun u => { u with align := .aligned }
  else s

/-! ### Steps (R42, R45) -/

/-- Whether a unit's step still runs at a stamp. -/
def unitBusy (s : State) (unit : BitVec 16) (t : Stamp) : Bool := s.tick.steps.any fun x => x.unit = unit && decide (t < x.endAt)

/-- STEP_START (R42): the step starts where it fits and its unit is free, and waits for the next boundary otherwise. The manual does not say
when a step whose unit is busy may start; the model makes it wait for the next boundary, as it makes a step that does not fit, and not for the
end of the step that runs (DESIGN CHOICE). A step takes its bound, and longer by a free value where link retries hold it up (R45). -/
def doStepStart (s : State) (unit : BitVec 16) (bound : Nat) (t : Stamp) : State :=
  if !s.tick.running || !s.tick.begun then s
  else if fits s t bound && !unitBusy s unit t then
    let (s, n) := drawFresh s
    modTick s fun u => { u with steps := u.steps.filter (fun x => decide (t < x.endAt)) ++ [⟨unit, t + bound + Config.stepLate n, false⟩] }
  else modTick s fun u => { u with waiting := u.waiting ++ [⟨unit, bound⟩] }

/-- Steps still running at boundary `b`, the end of tick `tick` in which they started, are overruns, each counted once, and run on (R45). -/
def countOverruns (s : State) (b : Stamp) (tick : Nat) : State :=
  let still := s.tick.steps.filter fun x => decide (b < x.endAt)
  let s := modTick s fun u => { u with steps := still.map fun x => { x with overran := true } }
  match (still.filter fun x => !x.overran).getLast? with
  | none => s
  | some x => setReg (bump s (rTck .TCK_CNT0) 63 32 (still.filter fun x => !x.overran).length) (rTck .TCK_OVR_LAST) (BitVec.ofNat 64 (tick * 2 ^ 16 + x.unit.toNat))

/-- Action 6: the steps that waited start at the boundary (R42). -/
def startWaiting (s : State) (b : Stamp) : State :=
  let ws := s.tick.waiting
  ws.foldl (fun s w => doStepStart s w.unit w.bound b) (modTick s fun u => { u with waiting := [] })

/-- Whether a unit is clocked at the crest operating point: a unit of a crest die other than a BSU, whose clock is fixed (R29, R44). -/
def crestClocked (unit : BitVec 16) : Bool :=
  let u := unit.toNat / 0x100 % 16
  decide (unit.toNat < 0x4000) && !(decide (8 ≤ u) && decide (u ≤ 12))

/-- The crest units' steps run slower after an emergency reduction from `mhz` (R45, R533): what is left of each takes longer. -/
def slowSteps (s : State) (mhz : Nat) (t : Stamp) : State :=
  let slow (x : StepRun) : StepRun :=
    if crestClocked x.unit && decide (t < x.endAt) then { x with endAt := t + cdiv ((x.endAt - t) * mhz) 800 } else x
  modTick s fun u => { u with steps := u.steps.map slow }

end Sys2Proof.Machine
end

