-- ==== Sys2Proof/Machine/Power.lean ====
section
/-! DEFINITION. The power controller and the reeve's declarations: entries into SLEEP, DEEP and OFF (R523 to R529), operating points and limits
(R531 to R533), failures (R536, R375) and fatal causes (R537), the supplies and RESET_N (R549, R550, R553). -/

namespace Sys2Proof.Machine

/-! ### What survives -/

/-- What the NAND holds: its pages, blocks, namespaces, root record and programmed log records (R390, R405, R406). -/
def nandKeep (f : Fss) : Fss :=
  { Fss.reset with
    nss := f.nss.map fun e => (e.1, { e.2 with newest := 0, desc := 0, bound := false })
    blks := f.blks, pages := f.pages, ckpt := f.ckpt, log := f.log.filter (·.written) }

/-- The part after a reset (R34), with what no reset clears: time, boot flash and its counter, NAND, PWR_FATAL, the pins, what was sent, and
the commands that wait. -/
def afterReset (s : State) : State :=
  let r : State := { State.reset with
    now := s.now, fresh := s.fresh, out := s.out, pending := s.pending, fss := nandKeep s.fss
    img := { Loader.reset with nor := s.img.nor, monoCtr := s.img.monoCtr }
    pwr := { Power.reset with railsUp := s.pwr.railsUp, vinOk := s.pwr.vinOk, vauxOk := s.pwr.vauxOk, resetN := s.pwr.resetN,
                              autoon := s.pwr.autoon, i3cAddr := s.pwr.i3cAddr, alertN := s.pwr.alertN, jtag := s.pwr.jtag } }
  let r := modTick r fun u => { u with base := s.now }
  let r := { r with bml := r.bml.map fun x => { x with trainAt := some s.now } }
  setReg r ⟨.PWR_FATAL, 0, 0⟩ (getReg s ⟨.PWR_FATAL, 0, 0⟩)

/-- The part is OFF (R521): the core rails fall and only the wake logic runs, which keeps PWR_WAKE's enables (R529). -/
def goOff (s : State) : State :=
  let tick := s.tick.tick
  let en := getF s rPwrWake 6 0
  let r := modPwr (afterReset s) fun p => { p with railsUp := false, entered := s.now }
  let r := setF r rPwrWake 6 0 en
  setReg r rPwrState (BitVec.ofNat 64 (tick % 2 ^ 48 * 2 ^ 16 + 4))

/-! ### The checks of an entry (R524) -/

/-- Whether a polder's list is queued or running on a mover or in the flash subsystem. -/
def polderLists (s : State) (p : Nat) : Bool :=
  s.movers.any (fun e => e.2.any (·.polder = p)) || s.fss.lists.any fun e => e.2.any (·.polder = p)

/-- Whether a polder's collection is being replaced. -/
def replacing (s : State) (p : Nat) : Bool :=
  s.colls.any fun e => e.2.polder = p && e.2.plan.elim false fun x => x.st = .running

/-- Whether a host holds a line of its window, or a recall to it is open. -/
def linesHeld (s : State) (h : Nat) : Bool :=
  !(getWin s h).recalls.isEmpty || s.dir.any fun e => inWindow s h e.1
    && ((dirState e.2 = 2 && dirOwner e.2 = h) || (dirState e.2 = 1 && bits (dirSharers e.2) h h = 1))

/-- Whether the flash subsystem still has something to write: units not durable, copies, or the entry's checkpoint. -/
def flashOpen (s : State) : Bool :=
  decide (2 ≤ fssState s) && (!s.fss.wrs.isEmpty || !s.fss.marks.isEmpty || s.fss.log.any (!·.written) || !s.fss.gc.isEmpty)
def notDurable (s : State) (b : Nat) : Bool := flashOpen s || (decide (2 ≤ fssState s) && s.fss.ckpt.elim true fun c => decide (c.epoch < b))

/-- The first failing check: reason, kind of refuser and number. `part` leaves out LIVE, LISTS and REPLACING (R523). -/
def firstRefuser (s : State) (target b : Nat) (part : Bool) : Option (Nat × Nat × Nat) :=
  let ps := s.polders.filter fun e => e.2.st ≠ .absent
  let pol (reason : Nat) (f : Nat → Bool) : Option (Nat × Nat × Nat) := (ps.find? fun e => f e.1).map fun e => (reason, 1, e.1)
  let deep := decide (3 ≤ target)
  let handled := s.dies.any (fun d => d.lost && decide (s.tick.tick < d.lostDue)) || s.wins.any (·.st = .recovering)
    || s.noMirror.any fun st => getF s ⟨.MEM_CTL_STS, st, 0⟩ 1 0 ≠ 3 && !dieLost s (st / 5)
  (if imgBusy s then some (1, 5, 0) else none)
    <|> (if handled then some (2, 5, 0) else none)
    <|> (if part then none else pol 3 fun p => !(liveOf s p).isEmpty)
    <|> (if part then none else pol 4 (polderLists s))
    <|> (if part then none else pol 5 (replacing s))
    <|> (if target = 2 then pol 6 fun p => decide (0 < fld (sluCfg s p) 63 48) else none)
    <|> (if target = 2 then pol 7 fun p => s.colls.any fun e => e.2.polder = p && mReplicated s e.2 else none)
    <|> (if deep then (ps.find? fun e => e.1 ≠ 0).map fun e => (8, 1, e.1) else none)
    <|> (if deep then ((List.range 4).find? (linesHeld s)).map fun h => (9, 2, h) else none)
    <|> (if deep ∧ notDurable s b then some (10, 3, 0) else none)
    <|> (if deep then (s.fab.conns.find? fun e => e.2.st ≠ .closed && e.2.una ≠ e.2.next).map fun e => (11, 4, e.1) else none)

/-- The entry's checkpoint, once nothing else is open (R524, R528). -/
def entryCkpt (s : State) (e : Entering) : State :=
  if 3 ≤ e.target ∧ !flashOpen s ∧ notDurable s e.b then modFss (writeCkpt s) fun f =>
    { f with ckpt := f.ckpt.map fun c => { c with epoch := max c.epoch e.b } }
  else s

/-! ### Entering -/

/-- DEEP (R527): the tick stops, windows close, ports go to OFF, and flash stops with its map kept. -/
def enterDeep (s : State) : State :=
  let s := haltTick s
  let s := (List.range 4).foldl (fun s h =>
    if (getWin s h).st = .open_ then windowNotice (modWin s h fun w => { w with st := .closed }) h .closed else s) s
  let s := (List.range 4).foldl (fun s n =>
    let v := getReg s (rPortCfg n)
    withMembers (fun s => doPortMode s n (setFld v 37 36 0)) (modPort s n fun x => { x with kept := v })) s
  setPower (setFssState s 0) 3

/-- The target state is entered (R521, R523, R526). -/
def enterState (s : State) (target : Nat) : State :=
  let s := bumpLive s ⟨.PWR_CNT3, 0, 0⟩ 63 32 1
  let s := modPwr s fun p => { p with entered := s.now, wake := none, entry := none }
  if target = 2 then switchOp (seekOp (setPower s 2) 3 s.now) s.now
  else if target = 3 then enterDeep s
  else goOff s

/-- Whether the sluice admits nothing: an entry holds it, or the part sleeps (R521, R523). -/
def sluiceShut (s : State) : Bool := getF s rPwrState 3 3 = 1 || decide (2 ≤ pwrState s)

/-- Boundaries of a drain (PWR_CTL.drain_ticks). -/
def drainTicks (s : State) : Nat := getF s ⟨.PWR_CTL, 0, 0⟩ 23 16

/-- After action 4 of a drain's boundary: the target is entered when every check passes, and refused when the last boundary fails (R523). -/
def drainStep (s : State) : State :=
  match s.pwr.entry with
  | none => s
  | some e =>
    if e.abort ∨ s.tick.tick < e.b then s else
      let s := entryCkpt s e
      match firstRefuser s e.target e.b false with
      | none => enterState s e.target
      | some r =>
        if e.b + drainTicks s ≤ s.tick.tick then refuseEntry s s.tick.tick r.1 r.2.1 r.2.2 false
        else modPwr (setF s rPwrState 3 3 1) fun p => { p with entry := some { e with refuser := some r } }

/-- Before action 3 of an ABORT entry's boundary: whether it goes on, or is refused (R523). -/
def abortCheck (s : State) : State × Bool :=
  match s.pwr.entry with
  | none => (s, false)
  | some e =>
    if !e.abort ∨ s.tick.tick < e.b then (s, false) else
      let s := entryCkpt s e
      match firstRefuser s e.target e.b true with
      | none => (s, true)
      | some r => (refuseEntry s s.tick.tick r.1 r.2.1 r.2.2 false, false)

/-- Repeat. -/
def times (n : Nat) (f : State → State) (s : State) : State := (List.range n).foldl (fun s _ => f s) s

/-- In action 3 of an ABORT entry: every LIVE request, list and running replacement ends with POWER_ABORTED (R523). -/
def endForPower (s : State) : State :=
  let live := (s.ctxs.filter fun e => e.2.st = .live).map (·.1)
  let s := live.foldl (fun s c => endCtx s c Code.POWER_ABORTED pwrUnit) s
  let s := bumpLive s ⟨.PWR_CNT3, 0, 0⟩ 31 0 live.length
  let s := s.movers.foldl (fun s e => times e.2.length (fun s => endMovList s e.1 Code.POWER_ABORTED) s) s
  let s := s.fss.lists.foldl (fun s e => e.2.foldl (fun s l => endFlList s e.1 l Code.POWER_ABORTED) s) s
  (s.colls.filter fun e => e.2.plan.elim false fun x => x.st = .running).foldl (fun s e => endPlan s e.1 Code.POWER_ABORTED) s

/-- A write to PWR_CTL.enter (R523). While no tick runs no boundary comes, and the entry is checked at once. -/
def doEnter (s : State) (target : Nat) (t : Stamp) : State :=
  if s.pwr.entry.isSome ∨ target < 2 ∨ 4 < target ∨ target ≤ pwrState s then setBit s ⟨.PWR_CTL, 0, 0⟩ 10
  else
    let abort := getF s ⟨.PWR_CTL, 0, 0⟩ 3 3 = 1
    let b := if s.tick.running then boundaryFor s t else s.tick.tick
    let e : Entering := { target := target, abort := abort, b := b, refuser := none }
    let s := modPwr (setF s rPwrState 6 4 target) fun p => { p with entry := some e }
    if s.tick.running then s
    else if abort then
      let (s, go) := abortCheck s
      if go then enterState (endForPower s) target else s
    else drainStep s

/-- STATE_ENTRY (R523): a drain whose checks all pass at this boundary. -/
def doStateEntry (s : State) : State :=
  match s.pwr.entry with
  | some e => if e.abort ∨ s.tick.tick < e.b then s else
      let s := entryCkpt s e
      if (firstRefuser s e.target e.b false).isNone then enterState s e.target else s
  | none => s

/-- DRAIN_REFUSAL (R523): a drain whose last boundary has a failing check. -/
def doDrainRefusal (s : State) : State :=
  match s.pwr.entry with
  | some e => if e.abort ∨ s.tick.tick < e.b + drainTicks s then s else
      match firstRefuser s e.target e.b false with
      | some r => refuseEntry s s.tick.tick r.1 r.2.1 r.2.2 false
      | none => s
  | none => s

/-! ### Leaving (R526, R527) -/

/-- The source that woke the part is recorded (R529, R544). -/
def noteWake (s : State) : State :=
  match s.pwr.wake with
  | some (src, _) => modPwr (setF s rPwrWake 14 8 (if src < 7 then 2 ^ src else 0)) fun p => { p with wake := none }
  | none => s

/-- SLEEP_EXIT (R526): at the first boundary at least 10 µs after the wake stamp. -/
def doSleepExit (s : State) : State :=
  match s.pwr.wake with
  | some (_, t) =>
    if pwrState s = 2 ∧ s.tick.running ∧ t + 10 * us ≤ s.tick.base then
      let s := noteWake s
      setPower (raiseTo (seekOp s (opWanted s) s.now) (opWanted s)) 0
    else s
  | none => s

/-- DEEP_EXIT (R527): within 20 ms of the wake stamp. -/
def doDeepExit (s : State) (t : Stamp) : State :=
  if pwrState s ≠ 3 ∨ s.pwr.wake.isNone then s
  else
    let s := setPower (noteWake s) 0
    let s := if getF s ⟨.FSS_CFG, 0, 0⟩ 0 0 = 1 ∧ s.fss.ckpt.isSome then setFssState s (if spareBlocks s ≤ retiredBlocks s then 3 else 2) else s
    let s := (List.range 4).foldl (fun s n => let v := (getPort s n).kept; if fld v 37 36 = 0 then s else doPortMode s n v) s
    let s := seekOp s (opWanted s) t
    match s.img.sched with
    | some (cfg, _) => doTickStart (setReg s (rTck .TCK_CFG) cfg) (s.tick.epoch + 1) t
    | none => s

/-- WAKE (R525, R529): a write of 1 to PWR_CTL.wake. -/
def doWake (s : State) (by_ : Requester) (t : Stamp) : State :=
  let s := stopEntry s (match by_ with
    | .host h => h.val
    | _ => 4)
  if by_ = .i3c then wakeAt s 1 t else s

/-- WAKE_TIMER (R529). -/
def doWakeTimer (s : State) (t : Stamp) : State :=
  let ms := getF s rPwrWake 63 32
  if ms ≠ 0 ∧ s.pwr.entered + ms * 1000 * us ≤ t then wakeAt s 6 t else s

/-! ### Operating points and limits (R532, R533) -/

/-- OPERATING_POINT_TARGET (R532). -/
def doOpTarget (s : State) (target : Nat) (t : Stamp) : State :=
  if opFloor s < target then floorRefusal s
  else
    let old := opWanted s
    let s := setF s rPwrOp 1 0 target
    if pwrState s ≠ 0 ∧ pwrState s ≠ 1 then s
    else if s.pwr.goal = old then seekOp s (opWanted s) t
    else seekOp s (max s.pwr.goal (opWanted s)) t

/-- FREQUENCY_SWITCH (R531): at the start of a berm, or while no step can run. -/
def doFreqSwitch (s : State) (t : Stamp) : State :=
  if !s.tick.running || !s.tick.begun || inBerm s t then switchOp s t else s

/-- ALERT_N follows what acts (R533). -/
def alert (s : State) : State :=
  let level := !(s.pwr.hot || s.pwr.emergAt.isSome)
  if level = s.pwr.alertN then s
  else modPwr { s with out := s.out ++ [.pin "ALERT_N" level s.now] } fun p => { p with alertN := level }

/-- A number that may be negative, as a field. -/
def sense (n : Nat) (x : Int) : Nat := ofSigned n x

/-- Completion writes are attempted before the rails fall (R537). -/
def flushPend (s : State) : State :=
  times s.pend.length (fun s => (List.range 4).foldl doCompletionWrite s) s

/-- A fatal cause (R537). -/
def doFatal (s : State) (cause : Nat) : State :=
  if pwrState s = 4 then s
  else
    let live := (s.ctxs.filter fun e => e.2.st = .live).map (·.1)
    let s := if cause = 1 ∨ cause = 2 then
        bumpLive (live.foldl (fun s c => endCtx s c Code.THERMAL_ABORTED pwrUnit) s) ⟨.PWR_CNT5, 0, 0⟩ 31 0 live.length
      else s
    let s := pumpAll (flushPend s)
    let tick := s.tick.tick
    let s := setReg (goOff s) ⟨.PWR_FATAL, 0, 0⟩ (BitVec.ofNat 64 (tick % 2 ^ 48 * 2 ^ 16 + cause))
    if cause ≤ 2 then modPwr { s with out := s.out ++ [.pin "ALERT_N" false s.now] } fun p => { p with alertN := false } else s

def fatalNum : FatalCause → Nat
  | .thermal => 1
  | .current => 2
  | .supply => 3
  | .reeveWatchdog => 4
  | .packageUnit => 5
  | .t0Lost => 6
  | .noCrest => 7

def maxInt (xs : List Int) : Int := xs.foldl max (xs.headD 0)

/-- Emergency reduction: the crest clock is 0.8 GHz within 1 µs, at any time and whatever the floor (R533). -/
def emergency (s : State) (t : Stamp) : State :=
  let mhz := opMhz (opNow s)
  let s := bumpLive s ⟨.PWR_CNT5, 0, 0⟩ 63 32 1
  let v := vcore s t
  let s := setF (setF (setF s rPwrOp 63 48 v) rPwrOp 9 8 3) rPwrOp 6 6 1
  slowSteps (modPwr s fun p => { p with emergAt := some t, rampAt := none }) mhz t

/-- SENSOR_SAMPLE (R533): the readings, and the limits they pass. -/
def doSample (s : State) (m : Sensors) (t : Stamp) : State :=
  let tj := maxInt m.tj
  let ts := maxInt m.ts
  let cap := getF s ⟨.PWR_CAP, 0, 0⟩ 63 52
  let ltj : Int := getF s ⟨.PWR_CAP, 0, 0⟩ 51 44
  let lts : Int := getF s ⟨.PWR_CAP, 0, 0⟩ 43 36
  let temps := m.tj ++ m.ts
  let hot := decide (ltj < tj) || decide (lts < ts) || decide (cap < m.pmean100)
  let cool := decide (tj + 5 ≤ ltj) && decide (ts + 5 ≤ lts) && decide (10 * m.pmean100 < 9 * cap)
  let o70 := if 70 < m.iin then some (s.pwr.over70.getD t) else none
  let o85 := if 85 < m.iin then some (s.pwr.over85.getD t) else none
  let emerg := decide (105 < tj) || decide (95 < ts) || o70.elim false (fun x => decide (x + 20 * us ≤ t))
  let s := setReg s ⟨.PWR_SENSE, 0, 0⟩ (BitVec.ofNat 64
    (m.vin % 2 ^ 16 * 2 ^ 48 + m.pin % 2 ^ 16 * 2 ^ 32 + sense 8 tj * 2 ^ 24 + sense 8 ts * 2 ^ 16))
  let s := modPwr s fun p => { p with
    temps := temps, peaks := (p.peaks.zip temps).map fun x => max x.1 x.2, hot := hot, coolAt := if cool then some (p.coolAt.getD t) else none
    over70 := o70, over85 := o85, emergOn := emerg }
  if 115 < tj ∨ 105 < ts then doFatal s 1
  else if o85.elim false (fun x => decide (x + 5 * us ≤ t)) then doFatal s 2
  else alert (if emerg && s.pwr.emergAt.isNone then emergency s t else s)

/-- EMERGENCY_RETURN (R533): after at least 1 ms, once the condition has cleared; the clock returns by R531. -/
def doEmergReturn (s : State) (t : Stamp) : State :=
  match s.pwr.emergAt with
  | some a => if s.pwr.emergOn ∨ t < a + 1000 * us then s else
      alert (modPwr (setF s rPwrOp 6 6 0) fun p => { p with emergAt := none, rampAt := some (t, vcore s t) })
  | none => s

/-- THROTTLE_STEP (R533): one step down per ms while a limit is passed, never below the floor; one step up per ms after 100 ms of margin. -/
def doThrottle (s : State) (t : Stamp) : State :=
  if s.pwr.stepAt.elim false (fun a => decide (t < a + 1000 * us)) ∨ (pwrState s ≠ 0 ∧ pwrState s ≠ 1) then s
  else if s.pwr.hot then
    let s := modPwr s fun p => { p with stepAt := some t }
    if opFloor s ≤ s.pwr.goal then floorRefusal s
    else bumpLive (seekOp s (s.pwr.goal + 1) t) ⟨.PWR_CNT4, 0, 0⟩ 63 32 1
  else if s.pwr.coolAt.elim false (fun a => decide (a + 100000 * us ≤ t)) ∧ opWanted s < s.pwr.goal then
    seekOp (modPwr s fun p => { p with stepAt := some t }) (s.pwr.goal - 1) t
  else s

/-! ### Declared failures (R536, R365, R375, R97) -/

/-- Window lines of a pseudo-channel that is lost (R375): poisoned where their mirror can be read, and the window LOST otherwise. -/
def losePcWindows (s : State) (st p : Nat) : State :=
  (List.range 4).foldl (fun s h =>
    let lines := ((List.range (hwSize s h / 64)).map (hwBase s h / 64 + ·)).filter fun l =>
      let x := pcOf s (l * 64)
      x.1 = st && x.2.2.1 = p
    if lines.isEmpty then s
    else if mirrorOk s st then
      let s := bump s ⟨.MEM_HW_CNT1, h, 0⟩ 63 32 lines.length
      (lineRuns lines).foldl (fun s r => poisonNotice s h r.1 r.2) s
    else windowNotice (modWin s h fun w => { w with st := .lost }) h .lost) s

/-- A stack is declared failed: its window memory is lost, and so are the mirrors it held (R375). -/
def loseStack (s : State) (st : Nat) : State :=
  if getF s ⟨.MEM_CTL_STS, st, 0⟩ 1 0 = 3 then s
  else
    let s := loseWindowMem s st (st * stackBytes / 64) (stackBytes / 64)
    let s := setF s ⟨.MEM_CTL_STS, st, 0⟩ 1 0 3
    loseMirrors (setBit s ⟨.PWR_LOST, 0, 0⟩ (8 + st)) st

/-- A pseudo-channel is declared failed; the fourth of a stack fails the stack. -/
def losePc (s : State) (st p : Nat) : State :=
  if getF s ⟨.MEM_PC_FAIL, st, 0⟩ p p = 1 ∨ getF s ⟨.MEM_CTL_STS, st, 0⟩ 1 0 = 3 then s
  else
    let s := losePcWindows s st p
    let s := setBit s ⟨.MEM_PC_FAIL, st, 0⟩ p
    let n := ((List.range 64).filter fun i => getF s ⟨.MEM_PC_FAIL, st, 0⟩ i i = 1).length
    if 4 ≤ n then loseStack s st else s

/-- A crest die is declared lost (R95, R375); the last one is a fatal cause. -/
def loseCrest (s : State) (d : Nat) : State :=
  if dieLost s d then s
  else
    let s := (List.range 5).foldl (fun s i => loseWindowMem s (5 * d + i) ((5 * d + i) * stackBytes / 64) (stackBytes / 64)) s
    let s := doLossNotice (setBit s ⟨.PWR_LOST, 0, 0⟩ d) d
    let s := (List.range 5).foldl (fun s i => loseMirrors s (5 * d + i)) s
    let s := { s with movers := mapDel s.movers d, ahead := s.ahead.filter (·.die ≠ d), hotAsk := s.hotAsk.filter (·.die ≠ d)
                      passes := s.passes.filter (·.1 / 96 ≠ d), trains := s.trains.filter (·.1 / 96 ≠ d), hots := s.hots.filter (·.1 / 64 ≠ d)
                      pool := s.pool.filter (·.die ≠ d) }
    if (List.range 4).all (dieLost s) then doFatal s 7 else s

/-- A toe die other than T0 is declared lost (R97, R404): its port, its BML port and its lists are gone. -/
def loseToe (s : State) (n : Nat) : State :=
  if s.toeLost.contains n ∨ n = 0 then s
  else
    let s := { setBit s ⟨.PWR_LOST, 0, 0⟩ (4 + n) with toeLost := s.toeLost ++ [n] }
    let s := (List.range 4).foldl (fun s d => failLink s d (4 + n)) s
    let s := withMembers (fun s => losePort s n) s
    let s := bmlDown s n s.now
    let s := modBml s n fun x => { x with trainAt := none }
    { flashToeLost s n with movers := mapDel s.movers (4 + n) }

/-- FAILURE_DECLARATION (R536): it aborts an entry (R525). -/
def doDeclare (s : State) (u : FailUnit) : State :=
  let s := stopEntry s 4
  match u with
  | .pseudoChannel st p => losePc s st.val p.val
  | .stack st => loseStack s st.val
  | .crest d => loseCrest s d.val
  | .toe n => if n.val = 0 then doFatal s 6 else loseToe s n.val

/-- LINK_FAILED (R33, R536): the reeve declares the die that the table names. -/
def doLinkFailed (s : State) (a b : Nat) : State :=
  if !linkEnds a b then s
  else
    let s := stopEntry (failLink s a b) 4
    let lo := min a b
    let hi := max a b
    if hi = 4 then loseCrest s lo else if 4 < hi then loseToe s (hi - 4) else loseCrest s hi

/-- A link that has not trained within 1 ms of reset is FAILED, and the boot ends (R36, R514). -/
def doLinkTimeout (s : State) (a b : Nat) : State :=
  if !linkEnds a b ∨ 2 ≤ linkState s a b then s
  else
    let s := failLink s a b
    if bootState s = 0 then setReg s ⟨.RV_BOOT, 0, 0⟩ (BitVec.ofNat 64 (8 * 2 ^ 56 + 3 * 2 ^ 54 + 4 * 2 ^ 50)) else s

/-! ### Supplies, RESET_N and JTAG (R549, R550, R553, R554) -/

/-- PART_RESET (R553): a low of 10 µs resets the part; in OFF it only holds boot at step 2. -/
def doPartReset (s : State) (t0 t : Stamp) : State :=
  if t < t0 + 10 * us then s
  else if pwrState s = 4 then modPwr s fun p => { p with resetN := false }
  else modPwr (afterReset s) fun p => { p with resetN := false }

/-- RESET_N_RISE (R553): the boot resumes, and the links train (R34). -/
def doResetRise (s : State) : State :=
  let s := modPwr s fun p => { p with resetN := true }
  let s := if s.pwr.railsUp then trainLinks s else s
  if s.pwr.jtag = .extest ∨ s.pwr.jtag = .clamp ∨ s.pwr.jtag = .highz then modPwr s fun p => { p with jtag := .bypass } else s

/-- VAUX_RISE (R549): the wake logic runs, the straps are sampled and PWR_FATAL reads 0. -/
def doVauxRise (s : State) (autoon : Bool) (addr : Nat) : State :=
  if s.pwr.vauxOk then s
  else modPwr (setReg s ⟨.PWR_FATAL, 0, 0⟩ 0) fun p => { p with vauxOk := true, autoon := autoon, i3cAddr := addr }

/-- VIN_ENTERS_RANGE (R549, R550): a recorded wake event, or AUTOON, now acts. -/
def doVinOk (s : State) (t : Stamp) : State :=
  let s := modPwr s fun p => { p with vinOk := true }
  if pwrState s ≠ 4 then s
  else match s.pwr.woken with
    | some src => modPwr s fun p => { p with wake := some (src, t), woken := none }
    | none => if s.pwr.autoon ∧ s.pwr.vauxOk then modPwr s fun p => { p with wake := some (7, t) } else s

/-- VIN_FAULT (R550): out of range for 100 µs. In OFF a boot that had begun ends. -/
def doVinFault (s : State) (t0 t : Stamp) : State :=
  if t < t0 + 100 * us then s
  else
    let s := modPwr s fun p => { p with vinOk := false, wake := none }
    doFatal s 3

/-- VIN_COLLAPSE (R550): the converters stop at once. -/
def doVinCollapse (s : State) : State :=
  let s := modPwr s fun p => { p with vinOk := false, wake := none }
  if pwrState s = 4 then s
  else
    let tick := s.tick.tick
    setReg (goOff s) ⟨.PWR_FATAL, 0, 0⟩ (BitVec.ofNat 64 (tick % 2 ^ 48 * 2 ^ 16 + 3))

/-- VAUX_LOSS (R550). -/
def doVauxLoss (s : State) (t0 t : Stamp) : State :=
  if t < t0 + 10 * us then s
  else
    let s := if pwrState s = 4 then s else goOff s
    modPwr (setReg (resetReg s rPwrWake) ⟨.PWR_FATAL, 0, 0⟩ 0) fun p => { p with vauxOk := false, wake := none, woken := none }

/-- JTAG_INSTRUCTION (R554): EXTEST, CLAMP and HIGHZ act as BYPASS unless RESET_N is low and the rails are up. -/
def doJtag (s : State) (op : JtagOp) : State :=
  let pins := op = .extest || op = .clamp || op = .highz
  modPwr s fun p => { p with jtag := if pins && !(p.railsUp && !p.resetN) then .bypass else op }

end Sys2Proof.Machine
end

