-- ==== Sys2Proof/Machine/Boot.lean ====
section
/-! DEFINITION. The boot of the part (R514, R515): the floor and owner records (R505, R506), both copies of FIRMWARE and BOOT, links (R31, R36),
stacks, windows (R366) and the floorplan of the BOOT image (R499), flash, and the tick. -/

namespace Sys2Proof.Machine

/-! ### The floorplan of a BOOT image (R499) -/

/-- One floorplan record: a bit position at which it breaks R499 or R500. -/
def badBootRec (before : List (Nat × List Word)) (r : Nat × List Word) : Option Nat :=
  let w := dWord r.2 0
  let t := recType r.2
  let base := (dWord r.2 1).toNat
  let n := (dWord r.2 2).toNat
  if t = 0 then match regFind (fld w 31 0) with
    | none => some 0
    | some g => if maskOf g.name [.RW, .RWL] = 0 then some 0 else if regWritable g.name (dWord r.2 1) then none else some 64
  else if t = 1 then (if 96 < fld w 6 0 then some 0 else none)
  else if t = 2 then (if fld w 11 0 < fld w 27 16 ∨ 2048 < fld w 11 0 then some 0 else none)
  else if t = 3 then (if blockPopulated (fld w 31 16) then none else some 16)
  else if t = 5 then
    if !between (fld w 3 0) 6 10 then some 0
    else if base % rowBytes ≠ 0 then some 64
    else if n = 0 ∨ hbmEnd < base + n * rowBytes ∨ (rowsOf base (n * rowBytes)).any (fun x => decide (1008 ≤ x.2)) then some 128
    else if before.any (fun b => recType b.2 = 5 && (fld (dWord b.2 0) 57 56 = fld w 57 56
        || overlaps base (n * rowBytes) (dWord b.2 1).toNat ((dWord b.2 2).toNat * rowBytes))) then some 56
    else none
  else if t = 6 then (if base % 65536 ≠ 0 ∨ hbmEnd < base + n ∨ (rowsOf base n).any (fun x => decide (1008 ≤ x.2)) then some 64 else none)
  else if t = 4 then (if fld w 11 0 < fld w 27 16 then some 0 else none)
  else if t = 9 then (if fld w 49 46 = 0 then some 46 else none)
  else if t = 10 then (if 65534 < fld w 15 0 then some 0 else none)
  else if 12 ≤ t then some 60
  else none

/-- The windows of a BOOT image: host, base, rows, ring_log2. -/
def bootWins (bs : List Byte) : List (Nat × Nat × Nat × Nat) :=
  ((floorRecs bs).filter fun r => recType r.2 = 5).map fun r => (fld (dWord r.2 0) 57 56, (dWord r.2 1).toNat, (dWord r.2 2).toNat, fld (dWord r.2 0) 3 0)

/-- Place a host's window (R366): its rows are HOSTWIN and in use, filled with zeros, every line HOME. -/
def placeWindow (s : State) (x : Nat × Nat × Nat × Nat) : State :=
  let bytes := x.2.2.1 * rowBytes
  let s := setReg s ⟨.MEM_HW_BASE, x.1, 0⟩ (BitVec.ofNat 64 x.2.1)
  let s := setReg s ⟨.MEM_HW_SIZE, x.1, 0⟩ (BitVec.ofNat 64 bytes)
  let s := setF s ⟨.MEM_HW_CFG, x.1, 0⟩ 53 50 x.2.2.2
  let s := (rowsOf x.2.1 bytes).foldl (fun s r => setF (setF s (rowReg r.1 r.2) 3 3 1) (rowReg r.1 r.2) 2 2 1) s
  zeroFill s x.2.1 bytes

/-- The rows of the map area belong to polder 0 (R393). -/
def placeMap (s : State) (bs : List Byte) : State :=
  match (floorRecs bs).find? fun r => recType r.2 = 6 with
  | none => s
  | some r =>
    let base := (dWord r.2 1).toNat
    let n := (dWord r.2 2).toNat
    let s := (rowsOf base n).foldl (fun s r => setF s (rowReg r.1 r.2) 3 3 1) s
    { s with fss := { s.fss with mapBase := base, mapBytes := n } }

/-- Step 9: every stack trains; the system area is striped and in use; the arrays of connections and peers are placed in it (R161, R425, R427). -/
def placeSystem (s : State) : State :=
  let s := (List.range 20).foldl (fun s st =>
    let s := setF s ⟨.MEM_CTL_STS, st, 0⟩ 1 0 2
    (List.range 16).foldl (fun s i => setReg s (rowReg st (1008 + i)) 9) s) s
  let (s, c) := sysAlloc s (262144 * 64)
  let (s, p) := sysAlloc s (4 * (1024 * 32 + 64))
  { s with fab := { s.fab with connArr := c, peerArr := p } }

/-- PEER and LOCAL_ADDR records, the node and the NAND retry tables (R388, R425). -/
def placeRecs (s : State) (bs : List Byte) : State :=
  (floorRecs bs).foldl (fun s r =>
    let w := dWord r.2 0
    let t := recType r.2
    let words := (r.2.drop 1).take 3 ++ [BitVec.ofNat 64 (fld w 2 0)]
    if t = 7 then wrWords s (peerAddr s (fld w 57 56) (fld w 49 40)) words
    else if t = 8 then wrWords s (peerAddr s (fld w 57 56) 1024 + 32 * fld w 2 2) words
    else if t = 9 then { s with img := { s.img with
      nandRetry := mapSet s.img.nandRetry (fld w 57 53 * 128 + fld w 52 50 * 16 + fld w 49 46) (dWord r.2 1) } }
    else if t = 10 then setF s ⟨.AFT_COLL_CFG, 0, 0⟩ 63 48 (fld w 15 0)
    else if t = 4 then { s with img := { s.img with ranges := s.img.ranges ++ [(fld w 57 56, fld w 27 16, fld w 11 0)] } }
    else if t = 11 then { s with img := { s.img with format := true } }
    else s) s

/-- The key entries of a BOOT image (R502). -/
def imgKeys (bs : List Byte) : List KeyEntry :=
  let x := secBytes bs 12
  (List.range (x.length / 96)).map fun i =>
    let e := (x.drop (96 * i)).take 96
    { slot := imgN e 0 1, first := imgN e 2 2, last := imgN e 4 2, svn := imgN e 8 4, hash := sha256 ((e.drop 32).take 64) }

/-- Row 13 for a BOOT image: one record, TCK_CFG in range. -/
def checkBootSched (bs : List Byte) : Option ImgErr :=
  if (secOf bs 11).isNone then none
  else firstErr [errIf ((secBytes bs 11).length ≠ 64) (fieldErr Code.SCHED_INVALID 11 0 0),
                 errIf (!regWritable .TCK_CFG (imgW (secBytes bs 11) 0)) (fieldErr Code.SCHED_INVALID 11 0 0),
                 errIf (2 ^ 48 ≤ imgN (secBytes bs 11) 8 8) (fieldErr Code.SCHED_INVALID 11 0 64)]

/-- A BOOT image that would give polder 0 to a tenant: a key entry or a host range that holds it (R6). Slot 0 is the owner's own key. -/
def bootZero (bs : List Byte) : Option ImgErr :=
  let err (sec off a : Nat) : ImgErr := fieldErr Code.POLDER_ZERO sec off a
  firstErr ((floorRecs bs).map (fun r => errIf (recType r.2 = 4 && fld (dWord r.2 0) 27 16 = 0) (err 2 r.1 16))
    ++ (imgKeys bs).zipIdx.map fun x => errIf (x.1.slot ≠ 0 && x.1.first = 0) (err 12 (96 * x.2) 16))

/-- The checks of R509 for a BOOT image: rows 1 to 3, then the sections that it can hold. -/
def checkBoot (s : State) (bs : List Byte) : Option ImgErr :=
  let s' := placeMap ((bootWins bs).foldl placeWindow s) bs
  checkCore s bs (copyRoom 1) <|> bootZero bs
    <|> firstErr ((withBefore [] (floorRecs bs)).map fun x => (badBootRec x.1 x.2).map (fieldErr Code.FLOOR_INVALID 2 x.2.1))
    <|> errIf ((List.range 4).any fun d => decide (2048 < (imgQuota bs d).1) || decide ((imgQuota bs d).1 < imgPinned bs d)) { code := Code.POOL_SPACE }
    <|> checkRegions s' bs <|> checkConns s' bs 0 <|> checkBootSched bs

/-! ### The registers of step 10 -/

/-- One REG record of a BOOT image takes effect; link registers were written in step 8, FSS_CFG.enable waits for step 11. -/
def bootReg (s : State) (g : Reg) (v : Word) : State :=
  match g.name with
  | .MEM_LINK_CFG | .MEM_LINK_CRD => s
  | .AFT_PORT_CFG => doPortMode s g.i v
  | .FSS_CFG => setReg s g (setFld v 0 0 0)
  | .PWR_OP => doOpTarget s (fld v 1 0) s.now
  | .WEI_CFG => let s := setReg s g v; setWeir s g.i { Weir.empty with tok := weirCap s g.i, last := s.now }
  | .WEI_RATE => let s := setReg s g v; setWeir s g.i { Weir.empty with tok := weirCap s g.i, last := s.now }
  | n => seatReg (setReg s g (written n [.RW, .RWL] (getReg s g) v)) g v

/-- Step 10: registers, port modes, and all classes of the BML ports. -/
def bootRegs (s : State) (recs : List (Nat × Word)) : State :=
  let s := recs.foldl (fun s x => (regFind x.1).elim s fun g => bootReg s g x.2) s
  (List.range 4).foldl (fun s n => setF s ⟨.BML_CFG, n, 0⟩ 0 0 1) s

/-! ### The steps -/

/-- RV_BOOT (R519). -/
abbrev rRvBoot : Reg := ⟨.RV_BOOT, 0, 0⟩
def setBoot (s : State) (step state fail ms : Nat) : State :=
  setReg s rRvBoot (BitVec.ofNat 64 (step * 2 ^ 56 + state * 2 ^ 54 + fail * 2 ^ 50 + getF s rRvBoot 49 49 * 2 ^ 49 + ms % 2 ^ 32))

/-- The floor record that governs (R505). -/
def bootFloor (s : State) : Option (List Byte) := ((List.range 2).find? (floorValid s)).map fun i => norBytes s (floorSlot i) 128

/-- The copy of an image that a boot takes: the valid one with the higher svn, A on a tie (R514). -/
def pickCopy (s : State) (check : List Byte → Option ImgErr) (kind : Nat) : Option (Nat × List Byte) :=
  let copy (i : Nat) : List Byte := norBytes s (copyAddr kind i) (copyRoom kind)
  let a := copy 0
  let b := copy 1
  match (check a).isNone, (check b).isNone with
  | true, true => if imgSvn a < imgSvn b then some (1, b) else some (0, a)
  | true, false => some (0, a)
  | false, true => some (1, b)
  | false, false => none

/-- Whether the owner record matches the owner hash (R506). -/
def ownerOk (s : State) : Bool :=
  let bs := norBytes s 0x4000 192
  s.img.owner ≠ List.replicate 32 0 && bs.take 4 = ascii "EFZO" && sha256 ((bs.drop 8).take 64) = s.img.owner

/-- The built-in windows of RECOVERY (R515). -/
def recoveryWins : List (Nat × Nat × Nat × Nat) := (List.range 4).map fun n => (n, 5 * n * stackBytes, 1, 6)

/-- What a boot learns of the links and stacks (R514): the links that did not reach ACTIVE within 1 ms of reset among them (R36). -/
structure BootEnv where
  badLinks : List (Nat × Nat)
  stacksUp : Bool
  flash  : Bool
  ms     : Nat

/-- Steps 8 to 10 (R514, R515): the links, the stacks, and the registers. Nothing when the boot ended in FAILED. -/
def bootBody (s : State) (e : BootEnv) (wins : List (Nat × Nat × Nat × Nat)) (bs : List Byte) : Option State × State :=
  let recs := (regRecs bs).map (·.2)
  if allEnds.any (fun x => linkState s x.1 x.2 ≠ 2) then (none, setBoot s 8 3 4 e.ms)
  else
    let s := openLinks s recs
    if !e.stacksUp then (none, setBoot s 9 3 5 e.ms)
    else
      let s := placeMap (wins.foldl placeWindow (placeSystem s)) bs
      let s := bootRegs (placeRecs s bs) recs
      (some s, s)

/-- RECOVERY (R515). -/
def bootRecovery (s : State) (e : BootEnv) : State :=
  match bootBody s e recoveryWins [] with
  | (some s, _) => setBoot s 10 2 0 e.ms
  | (none, s) => s

/-- Step 11: flash recovers its map, is formatted where the image permits it and no root record is found, or stays OFF (R408, R411, R514). -/
def bootFlash (s : State) (e : BootEnv) : State :=
  let v := setFld (getReg s ⟨.FSS_CFG, 0, 0⟩) 0 0 1
  let s := if !e.flash ∨ spareBlocks s = 0 then s
    else doFlashEnable (if s.fss.ckpt.isNone && s.img.format then formatFlash s else s) v
  setF s rRvBoot 49 49 (if fssState s = 0 then 1 else 0)

/-- Steps 12 and 13: the tick starts, and polder 0 waits for its first boundary (R68, R514). -/
def bootTick (s : State) (e : BootEnv) (bs : List Byte) : State :=
  let sched := if (secOf bs 11).isSome then some (imgW (secBytes bs 11) 0, imgN (secBytes bs 11) 8 8) else none
  let s := (sched.elim s fun x => setReg s (rTck .TCK_CFG) x.1)
  let s := doTickStart s (sched.elim 0 (·.2)) s.now
  let s := { s with img := { s.img with sched := sched } }
  match stageImage s bs s.now with
  | none => s
  | some (s, q) =>
    let q := { q with regs := [] }
    setBoot { s with img := { s.img with loading := some ⟨0, 4, 0, 0, bs, some 0, some q⟩ } } (if s.tick.running then 13 else 12) 0 0 e.ms

/-- Steps 3 to 13 (R514). -/
def bootSteps (s : State) (pufOk : Bool) (e : BootEnv) : State :=
  if !pufOk then setBoot s 3 3 1 e.ms
  else
    let id := leWords 4 deviceId
    let s := (List.range 4).foldl (fun s i => setReg s ⟨.RV_ID, 0, i⟩ (dWord id i)) s
    match bootFloor s with
    | none => setBoot s 4 3 2 e.ms
    | some f =>
      let s := setReg s rRvFloor (BitVec.ofNat 64 (s.img.monoCtr % 2 ^ 32 * 2 ^ 32 + leNat ((f.drop 8).take 4)))
      let s := setReg s rRvSvn (BitVec.ofNat 64 (leNat ((f.drop 12).take 4) * 2 ^ 32))
      let s := { s with img := { s.img with owner := (f.drop 16).take 32 } }
      match pickCopy s (fun bs => if imgKind bs = 0 then checkCore s bs (copyRoom 0) else some { code := Code.IMG_FORMAT, off := 6 }) 0 with
      | none => setBoot s 5 3 3 e.ms
      | some (i, bs) =>
        let s := { s with img := { s.img with fwCopy := i, fwHash := imgHash bs, fwSvn := imgSvn bs } }
        if !ownerOk s then bootRecovery s e
        else
          let check (bs : List Byte) : Option ImgErr := if imgKind bs = 1 then checkBoot s bs else some { code := Code.IMG_FORMAT, off := 6 }
          match pickCopy s check 1 with
          | none =>
            let x := (check (norBytes s (copyAddr 1 0) (copyRoom 1))).getD { code := Code.IMG_FORMAT }
            let s := setReg s ⟨.IMG_ERR0, 0, 0⟩ (BitVec.ofNat 64 (x.code * 2 ^ 48 + x.sec * 2 ^ 40 + x.off % 2 ^ 40))
            bootRecovery (setReg s ⟨.IMG_ERR1, 0, 0⟩ (BitVec.ofNat 64 (x.a % 2 ^ 32 * 2 ^ 32 + x.b % 2 ^ 32))) e
          | some (i, bs) =>
            let bs := bs.take (imgLength bs)
            let s := { s with img := { s.img with bootCopy := i, bootHash := imgHash bs, keys := imgKeys bs } }
            let s := setF s rRvSvn 31 0 (imgSvn bs)
            match bootBody s e (bootWins bs) bs with
            | (none, s) => s
            | (some s, _) => bootTick (bootFlash s e) e bs

/-- PART_BOOT (R34, R514): the links have trained or failed; from a wake in OFF once the supplies allow it, or from step 3 after a part reset. RESET_N low holds it at step 2. -/
def doBoot (s : State) (pufOk : Bool) (e : BootEnv) : State :=
  let s := if pwrState s = 4 then
      match s.pwr.wake with
      | some (src, _) => if s.pwr.vinOk ∧ s.pwr.vauxOk ∧ s.pwr.resetN then
          setF (modPwr (afterReset s) fun p => { p with railsUp := true }) rPwrWake 14 8 (if src < 7 then 2 ^ src else 0) else s
      | none => s
    else s
  if alive s ∧ getReg s rRvBoot = 0 then bootSteps (linksTrained s e.badLinks) pufOk e else s

/-- Step 13, once polder 0 is ACTIVE: READY, the floors of images that raise them, and an I3C interrupt (R505, R514). -/
def becomeReady (s : State) : State :=
  if bootState s ≠ 0 ∨ (getPolder s 0).st ≠ .active ∨ s.img.loading.isSome then s
  else
    let raised (kind copy old : Nat) : Nat :=
      let h := norBytes s (copyAddr kind copy) 64
      if imgRaise h then max old (imgSvn h) else old
    let fw := getF s rRvFloor 31 0
    let boot := getF s rRvSvn 63 32
    let fw' := raised 0 s.img.fwCopy fw
    let boot' := raised 1 s.img.bootCopy boot
    let owner := (bootFloor s).elim s.img.owner fun f => (f.drop 16).take 32
    let s := if fw' = fw ∧ boot' = boot then s else writeFloor s fw' boot' owner
    let s := setF (setF s rRvBoot 55 54 1) rRvBoot 63 56 13
    { s with out := s.out ++ [.i3cInterrupt] }

end Sys2Proof.Machine
end

