-- ==== Sys2Proof/Machine/Tick.lean ====
section
/-! DEFINITION. The boundary of a tick (R46, R47): the berm notice, the freeze of the next epoch's content, and the six actions, with the parts
of other chapters that fall at a boundary. -/

namespace Sys2Proof.Machine

/-! ### Before the boundary -/

/-- BERM_NOTICE (R46): the sluice's view of the contexts is fixed (R118), plans note what was appended (R239), and a lower crest frequency may
be switched to (R531). -/
def doBerm (s : State) : State :=
  match s.tick.nextAt with
  | some b =>
    if !s.tick.running ∨ !s.tick.begun ∨ s.tick.bermAt.isSome then s
    else
      let s := at_ s (b - bermNs s)
      let live := (s.ctxs.filter fun e => e.2.st = .live).map (·.1)
      let s := modTick s fun u => { u with bermAt := some s.now }
      switchOp (seePlans { s with sluice := { s.sluice with bermLive := live } }) s.now
  | none => s

/-- Of the pairs given, one for each object that there is, objects rising. -/
def oneEach {α : Type} (m : Map α) (xs : List (Nat × Nat)) : List (Nat × Nat) :=
  ((ascending (xs.map (·.1))).filter fun c => (mapGet m c).isSome).filterMap fun c => xs.find? (·.1 = c)

/-- EPOCH_FREEZE (R46, R47): a group whose reports are incomplete, and every later one of its collection or table, moves to the boundary after
the next. A pair gives the object and how many of its due groups come before that one. -/
def doFreeze (s : State) (late lateTables : List (Nat × Nat)) : State :=
  match s.tick.nextAt with
  | some b =>
    if !s.tick.running ∨ !s.tick.begun ∨ s.tick.frozen then s
    else
      let s := at_ (doBerm s) (b - us)
      let late := oneEach s.colls late
      let tabs := oneEach s.tables lateTables
      let s := modTick s fun u => { u with frozen := true, late := late, lateTab := tabs }
      let s := late.foldl freezeColl s
      tabs.foldl (fun s x => deferTab s.tick.nextNum s x.1 x.2) s
  | none => s

/-! ### The parts of a boundary -/

/-- Every dike refills, stamped with the boundary, and deferred settings take effect (R113, R114, R459). -/
def refillAll (s : State) (b : Stamp) : State :=
  let s := s.dikes.foldl (fun s e => dikeFill s e.1 b) s
  (List.range 4).foldl applyPortCfg (applyRates s)

/-- What was counted in the tick that ended: bytes of the host meters (R381), rows read of the tables (R349). -/
def turnCounts (s : State) : State :=
  { s with
    wins := s.wins.map fun w => { w with bytesPrev := w.bytes, bytes := 0 }
    tables := s.tables.map fun e => (e.1, { e.2 with readLast := e.2.readNow, readNow := [] }) }

/-- STOP_JUDGEMENT (R68), after action 4: the stop is taken, or refused. -/
def judgeStop (s : State) : State :=
  if !s.tick.stopReq then s
  else if s.polders.all (fun e => e.1 = 0 || e.2.st = .absent) && s.img.loading.isNone && s.img.planning.isNone then haltTick s
  else modTick (setBit s rTckSts 7) fun u => { u with stopReq := false }

/-- The part enters IDLE when nothing is at work (R522). -/
def idleEnter (s : State) : State :=
  if pwrState s = 0 && getF s ⟨.PWR_CTL, 0, 0⟩ 8 8 = 1 && !s.ctxs.any (fun e => e.2.st = .live) && s.sluice.waiting.isEmpty
      && s.movers.all (fun e => e.2.isEmpty) && s.fss.lists.all (fun e => e.2.isEmpty) && s.tick.steps.isEmpty then setPower s 1
  else s

/-- TICK_OUT at a boundary (R61). -/
def tickOut (s : State) (b : Stamp) : State :=
  if fld (tckCfg s) 34 34 = 1 then { s with out := s.out ++ [.pin "TICK_OUT" true b, .pin "TICK_OUT" false (b + us)] } else s

/-- Cancels that are due complete in action 5 (R99). -/
def finishCancels (s : State) : State :=
  (s.sluice.cancels.filter fun x => decide (x.elig ≤ s.tick.epoch)).foldl finishCancel s

/-- SLUICE_GRANT (R118): the grants of the current boundary, once. A sluice that is shut grants nothing, and SLU_GSTS shows that (R133). -/
def doGrant (s : State) : State :=
  if !s.tick.running ∨ !s.tick.begun ∨ s.sluice.granted = s.tick.tick then s
  else
    let s := { s with sluice := { s.sluice with granted := s.tick.tick } }
    if sluiceShut s then setUsed s 0 0 0 else sluiceGrant s

/-- Polders that are loaded, by state. -/
def poldersIn (s : State) (st : PolderState) : List Nat := (s.polders.filter (·.2.st = st)).map (·.1)

/-- Action 3 (R46, R56, R86, R93 to R100, R449): the causes that end requests, then the RETIRED slots and the reeve's completions. -/
def action3 (s : State) (power : Bool) : State :=
  let s := peersAll (runAborts (endByCauses (noteCancels s)))
  let s := if power then endForPower s else s
  reeveAll (freeRetired s)

/-- Action 4 (R46, R58, R111, R361, R373): reclamation, then polders that are done with and windows that change. -/
def action4 (s : State) : State :=
  let s := ageEvict (dropMaps (freeRetained s s.tick.epoch) s.tick.epoch)
  windowsAll ((poldersIn s .draining).foldl doAbsent s)

/-- Actions 5 and 6 (R46, R42, R110, R118, R120, R441). -/
def action56 (s : State) (b : Stamp) : State :=
  let s := judgeMembers ((poldersIn s .draining).foldl refuseDraining (finishCancels s))
  let s := doGrant s
  let s := (ascending (s.sluice.waiting.map (·.polder))).foldl waitLimits s
  idleEnter ((List.range 4).foldl doGateSwap (startWaiting s b))

/-- TICK_BOUNDARY (R46): the boundary that the tick unit has planned. -/
def doBoundary (s : State) : State :=
  match s.tick.nextAt with
  | none => s
  | some b =>
    if !s.tick.running then s
    else
      let s := doFreeze (doBerm s) [] []
      let s := at_ s b
      let old := s.tick.tick
      let begun := s.tick.begun
      let e := s.tick.nextNum
      let s := modTick s fun u => { u with
        tick := e, base := b, begun := true, nextNum := e + 1, nextAt := some (b + periodNs s), bermAt := none, frozen := false, late := [], lateTab := [] }
      let s := (poldersIn s .active).foldl doDraining s
      let s := takeReports (latchCounters s)
      let s := if begun then countOverruns s b old else s
      let s := tickOut (turnCounts (refillAll (measure s b) b)) b
      let s := publishShardMap (publishAll (modTick s fun u => { u with epoch := e }) e) e
      let (s, power) := abortCheck s
      let target := (s.pwr.entry.elim 0 (·.target))
      let s := action4 (action3 s power)
      let s := if power then enterState s target else drainStep s
      let s := judgeStop (writePlans (doPlanAccept s))
      if !s.tick.running then s
      else action56 (doSleepExit (becomeReady (doActivate s))) b

/-- STOP_JUDGEMENT (R68): the boundary at which a requested stop is judged. -/
def doStopJudgement (s : State) : State := if s.tick.stopReq then doBoundary s else s

/-! ### Parts that the table lists as rows of their own -/

/-- POLDER_ACTIVATE (R109). -/
def doActivateNow (s : State) : State := becomeReady (doActivate s)

/-- WAIT_LIMIT (R120), at the boundary's action 5. -/
def doWaitLimit (s : State) (p : Nat) : State := if s.tick.begun then waitLimits s p else s

/-- RETAINED_VERSION_FREE (R58): one collection's versions. -/
def doVersionFree (s : State) (coll : Nat) : State := doRetainedFree s coll

end Sys2Proof.Machine
end

