-- ==== Sys2Proof/Machine/Bus.lean ====
section
/-! DEFINITION. Register access (R9, R10, R27, R30, R480, R516): what a read of each register returns, what a write of each does, who may
reach it, and the record of unpopulated accesses. -/

namespace Sys2Proof.Machine

/-! ### Reading -/

/-- TCK_STS.align_state (R75). -/
def alignNum : AlignState → Nat
  | .free => 0
  | .aligned => 1
  | .unaligned => 2
  | .acquiring => 3

/-- PLD_STATE.state (R108). -/
def polderNum : PolderState → Nat
  | .absent => 0
  | .active => 1
  | .draining => 2

/-- WLK_SLOT_STS.state (R198). -/
def slotNum : SlotState → Nat
  | .setup => 1
  | .ready => 2
  | .running => 3
  | .offering => 4

/-- AFT_CONN_STS.state (R429). -/
def connNum : ConnState → Nat
  | .closed => 0
  | .connecting => 1
  | .established => 2
  | .lost => 3

/-- Live pins on a collection and the oldest (R74). -/
def pinVal (s : State) (coll : Nat) : Word :=
  let ps := pinsOf s coll ++ consolPins s coll
  BitVec.ofNat 64 (min ps.length 8192 * 2 ^ 48 + ps.foldl min (2 ^ 48 - 1))

/-- MEM_BSU_STS.queued: commands queued over a stack's BSUs (R269). -/
def bsuQueued (s : State) (st : Nat) : Nat :=
  min 0xFFFF ((List.range 64).foldl (fun n p => n + (getBsu s st p).queue.length) 0)

/-- Free blocks on a toe die's channels (R415). -/
def dieFreeBlocks (s : State) (n : Nat) : Nat :=
  ((goodLuns s).filter fun l => lunCh l / 8 = n).foldl (fun a l => a + freeBlocks s l) 0

/-- The status of a connection selected at a port: 0 for a connection of another port (R460). -/
def connStatus (s : State) (n c : Nat) : Word × Word :=
  let k := getConn s c
  if k.st = .closed ∨ connPort s c ≠ n then (0, 0)
  else (BitVec.ofNat 64 (connNum k.st * 2 ^ 62 + k.incarn % 256 * 2 ^ 54 + k.w * 2 ^ 43 + b2n ((getPort s n).cache.contains c) * 2 ^ 42
          + k.reason * 2 ^ 39),
        BitVec.ofNat 64 (k.next % 2 ^ 24 * 2 ^ 24 + k.epsn % 2 ^ 24))

/-- AFT_PEER_STS of a peer of a port (R460). -/
def peerStatus (s : State) (n i : Nat) : Word :=
  if !peerValid s n i then 0
  else let p := getPeer s n i
    BitVec.ofNat 64 (p.st * 2 ^ 62 + peerNode s n i * 2 ^ 46 + p.losses % 2 ^ 32)

/-- Peers of a port that are UP. -/
def peersUp (s : State) (n : Nat) : Nat :=
  (s.fab.peers.filter fun e => e.1 / 1024 = n && e.2.st = 2 && peerValid s n (e.1 % 1024)).length

/-- AFT_MAP_STS (R461). -/
def mapStatus (s : State) : Word :=
  let st := match s.fab.prep with
    | some p => if p.doubt then 3 else 2
    | none => if (mapNow s).isSome then 1 else 0
  BitVec.ofNat 64 (mapVersion s % 2 ^ 48 * 2 ^ 16 + st * 2 ^ 14)

/-- MOVEs open towards a die's stacks (R350). -/
def movesOpen (s : State) (die : Nat) : Nat :=
  min 255 ((s.tables.flatMap (·.2.moves)).filter fun m => m.target / stackBytes / 5 = die).length

/-- The pass selected at TEN_SEQ_SEL, or an empty slot (R310). -/
def seqVal (s : State) (die slot : Nat) : Word :=
  match getPass s (passKey die slot), mapGet s.trains (passKey die slot) with
  | some p, _ => BitVec.ofNat 64 (p.ctx * 2 ^ 51 + p.gen % 256 * 2 ^ 43 + p.model * 2 ^ 35 + p.rows * 2 ^ 18 + p.layer * 2 ^ 11)
  | none, some t => BitVec.ofNat 64 (t.ctx * 2 ^ 51 + t.gen % 256 * 2 ^ 43 + stageModel s t.ctx * 2 ^ 35)
  | none, none => BitVec.ofNat 64 (0xFF * 2 ^ 35)

/-- Sequence slots of a die in use, and the KV pages that their passes hold (R310). -/
def seqSts (s : State) (die : Nat) : Word :=
  let live := ((List.range 96).filter fun i => !slotFree s (passKey die i)).length
  let kv := (s.passes.filter (·.2.die = die)).foldl (fun n e => n + e.2.kv.length) 0
  BitVec.ofNat 64 (live * 2 ^ 57 + kv * 2 ^ 32)

/-- The selected adapter of a model: the epoch of its newest version, steps published and steps not finite (R310). -/
def adpVals (s : State) (die : Nat) : Word × Word :=
  let sel := getReg s ⟨.TEN_ADP_SEL, die, 0⟩
  let (n, f) := mapGetD s.adpShown (16 * fld sel 15 8 + fld sel 3 0) (0, 0)
  let counts := BitVec.ofNat 64 (n * 2 ^ 32 + f)
  match getModel s (fld sel 15 8) with
  | none => (0, counts)
  | some m =>
    let a := fld sel 3 0
    let v := if (groupOn m die).isSome ∧ a < mAdapters s m then adpNewest s m a else 0
    (if v = 0 then 0 else BitVec.ofNat 64 (fld (rdW s v) 47 0),
     counts)

/-- The readouts of the scale point selected at NUM_SCL_SEL (R329). -/
def sclVals (s : State) (die : Nat) : Word × Word × Word :=
  let sel := getReg s ⟨.NUM_SCL_SEL, die, 0⟩
  let mn := fld sel 7 0
  let j := fld sel 20 8
  let counts := BitVec.ofNat 64 (mapGetD s.sclShown (sclKey mn die j) 0 * 2 ^ 32 + mapGetD s.sclShown (sclVerKey mn) 0)
  match getModel s mn with
  | none => (0, 0, counts)
  | some m =>
    let r := (numW s m 1).toNat
    let k := die * 4096 + j
    (if r = 0 ∨ numPoints s m ≤ j then 0 else BitVec.ofNat 64 ((rdB s (rdN s (r + 16) + j)).toNat * 2 ^ 56 + fld (rdW s r) 47 0),
     BitVec.ofNat 64 ((mapGetD m.amax j 0).toNat * 2 ^ 32 + (mapGetD m.obsDie k 0).toNat),
     counts)

/-- Tiles of pinned POOL regions of a die. -/
def pinnedCount (s : State) (die : Nat) : Nat := s.polders.foldl (fun n e => n + (pinnedTiles s e.1 die).length) 0

/-- What a read of a register returns: the stored value, or what the unit holds where the field map calls the value live. Fields of code WO
read 0 (R9). -/
def readReg (s : State) (g : Reg) : Word :=
  let v := getReg s g &&& ~~~(maskOf g.name [.WO])
  let w (n : Nat) : Word := BitVec.ofNat 64 n
  match g.name with
  | .MEM_LINK_STS => setFld (setFld v 63 32 (mapGetD s.retries (8 * g.i + g.j) 0)) 31 16 (poolInUse s g.i g.j)
  | .TCK_NOW => w s.tick.tick
  | .TCK_EPOCH => w s.tick.epoch
  | .TCK_PIN_VAL => pinVal s (getF s (rTck .TCK_PIN_SEL) 7 0)
  | .TCK_STS => setFld v 2 0 (if s.tick.running then 2 * alignNum s.tick.align + 1 else 0)
  | .TCK_OFFSET => w (ofSigned 64 s.tick.offset)
  | .PLD_STATE => let p := getPolder s g.i; w (p.since % 2 ^ 48 * 2 ^ 16 + (liveOf s g.i).length * 4 + polderNum p.st)
  | .DIK_TOK => w ((getDike (dikeFill s g.i s.now) g.i).tok)
  | .SLU_STS => w ((waitingOf s g.i 0).length * 2 ^ 50 + (waitingOf s g.i 1).length * 2 ^ 36 + (waitingOf s g.i 2).length * 2 ^ 22
      + min (getDeficit s g.i) (2 ^ 22 - 1))
  | .WEI_TOK => w ((getWeir (weirFill s g.i s.now) g.i).tok)
  | .WLK_STS => w ((List.range 16).foldl (fun n i => n + (if (getWalk s (slotKey g.i i)).isSome then 2 ^ (16 + i) else 0)
      + (if slotEnable (slotCfg s (slotKey g.i i)) then 2 ^ i else 0)) 0)
  | .WLK_SLOT_STS => (getWalk s (slotKey g.i g.j)).elim 0 fun x =>
      w (x.ctx * 2 ^ 51 + x.gen % 256 * 2 ^ 43 + x.part * 2 ^ 22 + x.expand * 2 ^ 6 + slotNum x.st)
  | .SEL_STS => w (jobsOn s g.i)
  | .MEM_BSU_STS => w ((if s.tick.running then nWindows s else 0) * 2 ^ 48 + bsuQueued s g.i * 2 ^ 32)
  | .BSU_STS => bsuSts s g.i g.j
  | .TEN_SEQ_STS => seqSts s g.i
  | .TEN_SEQ_VAL => seqVal s g.i (getF s ⟨.TEN_SEQ_SEL, g.i, 0⟩ 6 0)
  | .TEN_ADP_VAL0 => (adpVals s g.i).1
  | .TEN_ADP_VAL1 => (adpVals s g.i).2
  | .NUM_SCL_VAL => (sclVals s g.i).1
  | .NUM_SCL_AMAX => (sclVals s g.i).2.1
  | .NUM_SCL_CNT => (sclVals s g.i).2.2
  | .EMB_STS => w (cdiv (aheadUsed s g.i) 1024 * 2 ^ 48 + movesOpen s g.i * 2 ^ 40)
  | .EMB_LOAD_VAL => let sel := getReg s ⟨.EMB_LOAD_SEL, g.i, 0⟩
      (getTable s (fld sel 12 5)).elim 0 fun t => w (mapGetD t.readLast (fld sel 4 0) 0 * 2 ^ 32 + mapGetD t.written (fld sel 4 0) 0)
  | .EMB_HOT_VAL => (mapGet s.hots (g.i * 64 + g.j)).elim (w (0xFF * 2 ^ 56)) fun h =>
      w (h.table * 2 ^ 56 + h.rows.length * 2 ^ 41 + h.fetched.length * 2 ^ 26)
  | .MEM_POOL_STS => w (poolFree s g.i * 2 ^ 52 + pinnedCount s g.i * 2 ^ 40 + (s.pool.filter fun x => x.die = g.i && x.dirty).length * 2 ^ 28)
  | .MEM_POOL_VAL => let p := getF s ⟨.MEM_POOL_SEL, g.i, 0⟩ 11 0
      w ((poolQuota s p g.i).1 * 2 ^ 52 + (poolQuota s p g.i).2 * 2 ^ 40 + poolHeld s p g.i * 2 ^ 28)
  | .MEM_MOV_STS => w ((movers s g.i).length * 2 ^ 57)
  | .MEM_HW_STS => w ((s.dir.filter fun e => dirState e.2 = 2 && dirOwner e.2 = g.i).length * 2 ^ 32 + winNum (getWin s g.i).st)
  | .FSS_STS => setFld (setFld v 63 40 (dieFreeBlocks s g.i)) 15 8 (lifePct s)
  | .FSS_CFG | .FSS_CKPT | .FSS_WEAR | .AFT_COLL_CFG | .AFT_COLL_CNT => if g.i = 0 then v else 0
  | .AFT_PORT_STS => let x := getPort s g.i
      setFld (setFld (setFld v 42 32 (peersUp s g.i)) 31 20 x.cache.length) 19 11 x.parked.length
  | .AFT_CONN_STS => (connStatus s g.i (getF s ⟨.AFT_CONN_SEL, g.i, 0⟩ 17 0)).1
  | .AFT_CONN_PSN => (connStatus s g.i (getF s ⟨.AFT_CONN_SEL, g.i, 0⟩ 17 0)).2
  | .AFT_PEER_STS => peerStatus s g.i (getF s ⟨.AFT_PEER_SEL, g.i, 0⟩ 9 0)
  | .AFT_MAP_STS => if g.i = 0 then mapStatus s else 0
  | .BML_HB_STS => setFld v 31 16 (min (hbMissed s g.i s.now) 0xFFFF)
  | .PWR_OP => setFld v 63 48 (vcore s s.now)
  | .PWR_TEMP_VAL => let i := getF s ⟨.PWR_TEMP_SEL, 0, 0⟩ 4 0
      w (ofSigned 8 ((nth? s.pwr.temps i).getD 0) * 2 ^ 56 + ofSigned 8 ((nth? s.pwr.peaks i).getD 0) * 2 ^ 48)
  | .PWR_PLD_VAL => let c := mapGetD s.pwr.counts (getF s ⟨.PWR_PLD_SEL, 0, 0⟩ 11 0) (0, 0)
      w (c.1 * 2 ^ 32 + c.2)
  | _ => v

/-! ### Who may reach a register -/

/-- Whether a host whose image grants it the block may write a register (R127, R195, R268, R308, R349, R383, R385, R415, R416, R458, R490,
R543). -/
def hostWrites (n : RegName) : Bool :=
  match n with
  | .PLD_STATE | .PLD_CFG | .PLD_CTX | .PLD_PRIV | .PLD_CTL | .DIK_CFG | .SLU_CFG | .SLU_GCFG | .SLU_GSTS | .WEI_CFG | .WEI_RATE => false
  | .WLK_SLOT_CFG | .MEM_BSU_CFG | .MEM_ROW | .MEM_BSU_WIN | .TEN_CFG | .EMB_CFG | .MEM_POOL_CFG | .MEM_HW_CFG | .MEM_HW_RATE => false
  | .FSS_CFG | .FSS_CKPT | .FSS_WEAR | .FSS_CH_CFG | .AFT_PORT_CFG | .AFT_PFC_CFG | .AFT_GATE_CTL | .AFT_GATE_WIN | .AFT_COLL_CFG => false
  | .BML_CFG | .BML_CRD | .BML_HB_CFG | .BML_LINK_STS | .BML_RING_CFG | .BML_RING_CMD | .BML_RING_CPL => false
  | .PWR_CAP => false
  | _ => true

/-- Whether a register's RWL fields are sealed: its owner's image is loaded (R9). -/
def sealed_ (s : State) (g : Reg) : Bool := (ownerOf s g).elim false fun p => (getPolder s p).st ≠ .absent

/-- The bits [31:16] of a requester's block, as RV_BADSRC.source holds them (R516). -/
def badSource : Requester → Nat
  | .host h => (4 + h.val) * 0x1000 + 0x200
  | .reeve => rvUnit
  | .i3c => 0xFFFF

/-- UNMAPPED_ACCESS (R516): the address, the count and the requester are recorded. -/
def noteUnmapped (s : State) (by_ : Requester) (addr : Word) (isWrite : Bool) : State :=
  let s := setReg s ⟨.RV_BADADDR, 0, 0⟩ addr
  let src : Reg := ⟨.RV_BADSRC, 0, 0⟩
  let s := bumpLive s src 63 32 1
  setF (setF s src 31 16 (badSource by_)) src 15 15 (b2n isWrite)

/-- The blocks that the board management controller reaches over I3C (R520, R543, R514). -/
def i3cReach (unit : Nat) : Bool := unit = rvUnit || unit = imgUnit || unit = 0x8600

/-- What an access finds: a register, a refusal under R480, or nothing there. -/
inductive Target where
  | reg (g : Reg)
  | refused (h : Nat)
  | unmapped
  deriving DecidableEq, Repr

/-- Where an access by a requester goes (R27, R30, R480). -/
def target (s : State) (by_ : Requester) (a : Nat) : Target :=
  if !mayUse s (a / 0x10000) by_ then
    match by_ with
    | .host h => .refused h.val
    | _ => .unmapped
  else if by_ = .i3c ∧ !i3cReach (a / 0x10000) then .unmapped
  else match regFind a with
    | some g => .reg g
    | none => .unmapped

/-- A read of a register address: the value, and the state with its record. -/
def busRead (s : State) (by_ : Requester) (a : Nat) : State × Word :=
  match target s by_ a with
  | .reg g => (s, readReg s g)
  | .refused h => (bump s ⟨.BML_CNT0, h, 0⟩ 31 0 1, 0)
  | .unmapped => (noteUnmapped s by_ (BitVec.ofNat 64 (csrBase + a)) false, 0)

/-! ### Writing -/

/-- The largest AFT frame of the connections that a FABRIC_TX weir serves (R124). -/
def weirMtu (s : State) (w : Nat) : Nat :=
  let cfg := weiCfg s w
  ((s.fab.conns.filter fun e => connPolder s e.1 = fld cfg 63 52 && connTarget s e.1 = fld cfg 47 40).map fun e => wireBytes s e.1 true true (connMtu s e.1)).foldl max 0

/-- A write that only stores: RW fields, RWL fields while they are not sealed, W1C bits (R9). A value out of range is discarded. -/
def storeReg (s : State) (g : Reg) (v : Word) : State :=
  let new_ := written g.name (if sealed_ s g then [.RW] else [.RW, .RWL]) (getReg s g) v
  if inRanges g.name new_ then setReg s g new_ else s

/-- A write of a layout row (R263, R269): code and layout only while the row is not in use; the code not over ECC_RECOMPUTE, nor
ECC_RECOMPUTE over HOSTWIN; a change of ecc waits for a guard. -/
def writeRow (s : State) (g : Reg) (v : Word) : State :=
  let old := getReg s g
  let inUse := fld old 3 3 = 1
  let key := g.i * 1024 + g.j
  let recompute := fld old 1 1 = 1 || mapGet s.eccPend key = some true
  let code := if inUse ∨ recompute then fld old 2 2 else fld v 2 2
  let layout := if inUse then fld old 0 0 else fld v 0 0
  let s := setReg s g (BitVec.ofNat 64 (fld v 3 3 * 8 + code * 4 + fld old 1 1 * 2 + layout))
  if fld v 1 1 = 1 ∧ code = 1 then s
  else if fld v 1 1 = fld old 1 1 then { s with eccPend := mapDel s.eccPend key }
  else { s with eccPend := mapSet s.eccPend key (decide (fld v 1 1 = 1)) }

/-- A write of DIK_CFG (R114): held for the next boundary. -/
def writeDike (s : State) (p : Nat) (v : Word) : State :=
  let v := setFld v 15 0 0
  if !inRanges .DIK_CFG v then s else setDike s p { getDike s p with defer := some v }

/-- A write of TCK_CTL (R68, R72). -/
def writeTckCtl (s : State) (v : Word) (t : Stamp) : State :=
  let s := setF s rTckCtl 63 16 (fld v 63 16)
  let s := if fld v 0 0 = 1 then doTickStart s (fld v 63 16) t else s
  if fld v 1 1 = 1 then doTickStop s else s

/-- A write of IMG_CTL (R511). -/
def writeImgCtl (s : State) (by_ : Requester) (v : Word) (t : Stamp) : State :=
  let s := if fld v 7 7 = 1 then setF s ⟨.IMG_CTL, 0, 0⟩ 7 7 0 else s
  let b := reqNum by_
  match fld v 2 0 with
  | 1 => doLoad s b
  | 2 => doImgUnload s b (fld v 3 3 = 1) t
  | 3 => doPlan s b t
  | 4 => doAttest s b
  | 5 => doUpdate s b
  | _ => s

/-- A write of PWR_CTL (R523, R525, R544). -/
def writePwrCtl (s : State) (by_ : Requester) (v : Word) (t : Stamp) : State :=
  let r : Reg := ⟨.PWR_CTL, 0, 0⟩
  if fld v 23 16 = 0 then s
  else
    let s := setReg s r (written .PWR_CTL [.RW] (getReg s r) v)
    let s := if fld v 9 9 = 1 then doWake s by_ t else s
    if fld v 2 0 = 0 then s else doEnter s (fld v 2 0) t

/-- A write of BML_CRD or BML_HB_CFG (R471, R486, R491). -/
def writeBml (s : State) (name : RegName) (n : Nat) (v : Word) : State :=
  let r : Reg := ⟨name, n, 0⟩
  let new_ := written name [.RW] (getReg s r) v
  if inRanges name new_ then setReg s r new_ else setBit s ⟨.BML_CFG, n, 0⟩ 2

/-- What a write of a register does. -/
def writeReg (s : State) (by_ : Requester) (g : Reg) (v : Word) (t : Stamp) : State :=
  let host : Option Nat := match by_ with
    | .host h => some h.val
    | _ => none
  let w1c (b : Nat) : State := if fld v b b = 1 then setF s g b b 0 else s
  match g.name with
  | .MEM_LINK_CFG => doLinkCfg s g.i g.j v
  | .MEM_LINK_CRD => if getF s ⟨.MEM_LINK_CFG, g.i, g.j⟩ 16 16 = 1 then s else setReg s g v
  | .TCK_CFG => if s.tick.running then s else setReg s g (written g.name [.RW] (getReg s g) v)
  | .TCK_BASE => if s.tick.running then s else setReg s g v
  | .TCK_CTL => writeTckCtl s v t
  | .PLD_CTL => if fld v 0 0 = 1 then doUnload s g.i (fld v 1 1 = 1) t else s
  | .DIK_CFG => writeDike s g.i v
  | .SLU_GCFG => doGcfgWrite s v
  | .WEI_CFG =>
    let s := storeReg s g v
    if (mapGet s.weirs g.i).isSome then s else setWeir s g.i { Weir.empty with last := s.now }
  | .WEI_RATE => doWeiRateWrite s g.i (weirMtu s g.i) v
  | .MEM_ROW => writeRow s g v
  | .EMB_HOT_CTL =>
    let s := setF (w1c 7) g 5 0 (fld v 5 0)
    if fld v 6 6 = 1 then doHotLoad s g.i (fld v 5 0) else s
  | .MEM_MOV_CTL => let s := w1c 7; if fld v 6 6 = 1 then doMovDoorbell s g.i host else s
  | .FSS_LIST_CTL => let s := w1c 7; if fld v 6 6 = 1 then doFlashDoorbell s g.i host else s
  | .FSS_CFG => if g.i = 0 then (if inRanges .FSS_CFG v then doFlashEnable s v else s) else s
  | .FSS_CKPT => if g.i = 0 then storeReg s g v else s
  | .FSS_WEAR => if g.i ≠ 0 then s else if getF s ⟨.FSS_CFG, 0, 0⟩ 0 0 = 1 ∧ fld v 39 16 = 0 then s
    else let s := storeReg s g v; if fssState s = 2 ∧ spareBlocks s ≤ retiredBlocks s then setFssState s 3 else s
  | .FSS_CH_CFG => if getF s ⟨.FSS_CFG, 0, 0⟩ 0 0 = 1 then s else storeReg s g v
  | .AFT_PORT_CFG => doPortMode s g.i v
  | .AFT_PFC_CFG => doPfcCfg s g.i v
  | .AFT_GATE_CTL => if fld v 1 1 = 1 then setF s g 1 1 1 else s
  | .AFT_CONN_CTL => if fld v 0 0 = 1 then doReopen s g.i else s
  | .AFT_DB => doDoorbell s g.i host v
  | .AFT_COLL_CFG => if g.i = 0 then storeReg s g v else s
  | .BML_CFG => let s := w1c 2; setF (setF s g 1 1 (fld v 1 1)) g 0 0 (max (getF s g 0 0) (fld v 0 0))
  | .BML_CRD => writeBml s .BML_CRD g.i v
  | .BML_HB_CFG => writeBml s .BML_HB_CFG g.i v
  | .BML_DB => doRingDoorbell s g.i (fld v 63 58) (decide (fld v 57 57 = 1)) (fld v 31 0)
  | .IMG_CTL => writeImgCtl s by_ v t
  | .RV_CLAIM_CTL => let s := w1c 1; if fld v 0 0 = 1 then doClaim s by_ else s
  | .PWR_CTL => writePwrCtl s by_ v t
  | .PWR_OP => doOpTarget s (fld v 1 0) t
  | _ => storeReg s g v

/-- A write to a register address: the register's effect, or the record of an access that found none. -/
def busWrite (s : State) (by_ : Requester) (a : Nat) (v : Word) (t : Stamp) : State :=
  match target s by_ a with
  | .reg g => match by_ with
    | .host _ => if hostWrites g.name then writeReg s by_ g v t else s
    | _ => writeReg s by_ g v t
  | .refused h => bump s ⟨.BML_CNT0, h, 0⟩ 31 0 1
  | .unmapped => noteUnmapped s by_ (BitVec.ofNat 64 (csrBase + a)) true

/-- A host writes a register of a block that its image grants; without the grant the access is refused (R480). -/
def asRequester (s : State) (by_ : Requester) (unit : Nat) (k : State) : State :=
  match by_ with
  | .host h => if blockOpen s h.val unit then k else bump s ⟨.BML_CNT0, h.val, 0⟩ 31 0 1
  | .i3c => if i3cReach unit then k else noteUnmapped s by_ (BitVec.ofNat 64 (csrBase + unit * 0x10000)) true
  | .reeve => k

end Sys2Proof.Machine
end

