-- ==== Sys2Proof/Machine/BmlRx.lean ====
section
/-! DEFINITION. The transaction layer of a received flit (R474 to R480, R486), and what goes on after a command: the waits that a command can
end. -/

namespace Sys2Proof.Machine

/-- Notices that wait are written on every window (R376). -/
def flushAll (s : State) : State :=
  (List.range 4).foldl (fun s h => flushNotices s h (getWin s h).notices.length) s

/-- What waited for a host's answer, a weir, durability or a credit goes on: host requests, notices, fabric landings and pool jobs, flash
lists, ring clearing, the loader, and messages to hosts. In RECOVERY no boundary comes, and windows change at once (R515). -/
def settle (s : State) : State :=
  let s := flushAll (retryHosts s s.now)
  let s := settleLists (retryPool (retryFabric s s.now))
  let s := advanceImg (wipeRings s)
  let s := if bootState s = 2 then flushAll (windowsAll s) else s
  pumpAll s

/-- CSR_RD (R480): the register's value, or 0, in one data slot. -/
def doCsrRd (s : State) (h : Port) (addr tag : Nat) : State :=
  let (s, v) := busRead s (.host h) addr
  bmlPush s h.val 0x30 0 addr tag 0 (leBytes 8 v.toNat ++ List.replicate 8 0)

/-- Whether a port takes a CSRQ message (R489). -/
def csrHeard (s : State) (h : Nat) : Bool × State :=
  if bmlState s h ≠ 2 then (false, s) else if getF s ⟨.BML_CFG, h, 0⟩ 0 0 = 0 then (false, badMsg s h) else (true, s)

/-- A CSRQ message arrives. -/
def doCsr (s : State) (h : Port) (addr tag : Nat) (write : Option Word) (t : Stamp) : State :=
  let (ok, s) := csrHeard s h.val
  if !ok then s
  else match write with
    | none => doCsrRd s h addr tag
    | some v => busWrite s (.host h) addr v t

/-- One message of a host (R475). -/
def takeMsg (n : Nat) (t : Stamp) (s : State) (m : BmlMsg) : State :=
  if m.type = 0x01 ∨ m.type = 0x02 ∨ m.type = 0x03 ∨ m.type = 0x04 then doMemReq s n m.type m.addr m.tag m.data t
  else if m.type = 0x08 then doWriteBack s n m.addr m.tag m.data true
  else if m.type = 0x09 then doWriteBack s n m.addr m.tag m.data false
  else if m.type = 0x10 then doSnpAck s n m.addr
  else if m.type = 0x11 then doSnpData s n m.addr m.data
  else if m.type = 0x18 then doCsr s (BitVec.ofNat 2 n).toFin (m.addr % 2 ^ 32) m.tag none t
  else if m.type = 0x19 then doCsr s (BitVec.ofNat 2 n).toFin (m.addr % 2 ^ 32) m.tag (some (BitVec.ofNat 64 (leNat (m.data.take 8)))) t
  else if m.type = 0x39 then doHbAck s n m.arg
  else s

/-- Flits sent on a port so far. -/
def flitsOut (s : State) (n : Nat) : Nat :=
  (s.out.filter fun o => match o with
    | .flit p _ => p = n
    | _ => false).length

/-- An IDLE flit that carries an ack or credits, where nothing else went (R467). -/
def idleBack (s : State) (n before : Nat) : State :=
  if bmlState s n = 2 ∧ flitsOut s n = before then sendFlit s n 1 0 [] else s

/-- DATA_FLIT (R468): the flit is taken in order, its messages act in order, and the port answers. -/
def doDataFlit (s : State) (n : Nat) (bytes : List Byte) (t : Stamp) : State :=
  let before := flitsOut s n
  let had := (getBml s n).rxNext
  let (s, ms) := takeData s n bytes
  let s := settle (ms.foldl (takeMsg n t) s)
  if (getBml s n).rxNext = had then s else idleBack s n before

end Sys2Proof.Machine
end

