-- ==== Sys2Proof/Machine/Run.lean ====
section
/-! DEFINITION. What the meanings of commands share: when the part and its crest dies act, and the register rows. -/

namespace Sys2Proof.Machine

/-- What happens on the part while its rails are up and RESET_N is high; nothing does otherwise (R34, R521, R553). -/
def onPart (s : State) (f : State → State) : State := if alive s then f s else s

/-- What tensor tiles, walkers, selection units, BSUs and crest movers do: nothing in SLEEP, DEEP and OFF (R521). -/
def onCrest (s : State) (f : State → State) : State := if alive s && decide (pwrState s < 2) then f s else s

/-- The host that makes an access. -/
def hostOf : Requester → Option Nat
  | .host h => some h.val
  | _ => none

/-- Bits [31:16] of a walker's block (R29). -/
def walkerUnit (walker : Nat) : Nat := unitNo (walker / 128) 1 (walker % 128)

/-- Images of the group that a step of a replicated collection stages go to the replicas (R233). -/
def withImages (f : State → State) (coll : Nat) (s : State) : State :=
  sendImages (f s) coll (getColl s coll).groups.length

/-- DEFERRED_RATE_APPLY (R114, R459): at a boundary, after action 1. -/
def doRates (s : State) : State := if s.tick.begun then (List.range 4).foldl applyPortCfg (applyRates s) else s

/-- A doorbell of a host: a write of its port's BML_DB (R482). -/
def hostDoorbell (s : State) (n : Port) (ring : Nat) (queue : Bool) (ix : Nat) : State :=
  let (ok, s) := csrHeard s n.val
  if ok then asRequester s (.host n) (unitNo (4 + n.val) 2 0) (doRingDoorbell s n.val ring queue ix) else s

/-- Registers whose writing starts something beyond the register. -/
def actsOn (n : RegName) : Bool :=
  match n with
  | .EMB_HOT_CTL | .MEM_MOV_CTL | .FSS_LIST_CTL | .FSS_CFG | .AFT_PORT_CFG | .AFT_CONN_CTL | .AFT_DB | .BML_CFG | .BML_DB | .IMG_CTL | .RV_CLAIM_CTL => true
  | .PLD_CTL | .TCK_CTL | .PWR_CTL | .MEM_HW_RATE => true
  | _ => false

/-- REGISTER_WRITE (R9, R27, R480, R516). -/
def doRegisterWrite (s : State) (by_ : Requester) (a : Nat) (v : Word) (t : Stamp) : State :=
  match target s by_ a with
  | .reg g => if actsOn g.name then settle (withMembers (fun s => busWrite s by_ a v t) s) else busWrite s by_ a v t
  | _ => busWrite s by_ a v t

/-- UNMAPPED_ACCESS (R27, R516): an address that is neither memory nor a populated register. A host's access to a block that its image does
not grant is refused instead (R480). -/
def doUnmapped (s : State) (by_ : Requester) (addr : Word) (isWrite : Bool) : State :=
  match place addr.toNat with
  | .unmapped => noteUnmapped s by_ addr isWrite
  | .csr a => match target s by_ a with
    | .reg _ => s
    | .refused h => bump s ⟨.BML_CNT0, h, 0⟩ 31 0 1
    | .unmapped => noteUnmapped s by_ addr isWrite
  | _ => s

end Sys2Proof.Machine
end

