-- ==== Sys2Proof/Machine/ExecBml.lean ====
section
/-! DEFINITION. The meanings of the commands of the Byldomund Link (R463 to R491). -/

namespace Sys2Proof.Machine

/-- BML_TRAINING (R463). -/
def execBmlTraining (n : Port) (tr : BmlTrain) (t : Stamp) (s : State) : Ans :=
  .next (onPart (at_ s t) fun s => settle (doTraining s n.val tr t))

/-- TRAINING_RETRY (R463). -/
def execTrainingRetry (n : Port) (t : Stamp) (s : State) : Ans :=
  .next (onPart (at_ s t) fun s => doTrainingRetry s n.val t)

/-- RETRAIN (R465). -/
def execRetrain (n : Port) (t : Stamp) (s : State) : Ans :=
  .next (onPart (at_ s t) fun s => doRetrain s n.val t)

/-- RETRAIN_TIMEOUT (R465). -/
def execRetrainTimeout (n : Port) (t : Stamp) (s : State) : Ans :=
  .next (onPart (at_ s t) fun s => settle (doRetrainTimeout s n.val t))

/-- DATA_FLIT (R468). -/
def execDataFlit (n : Port) (bytes : List Byte) (t : Stamp) (s : State) : Ans :=
  .next (onPart (at_ s t) fun s => doDataFlit s n.val bytes t)

/-- IDLE_FLIT (R467). -/
def execIdleFlit (n : Port) (bytes : List Byte) (s : State) : Ans :=
  .next (onPart s fun s => settle (doIdleFlit s n.val bytes))

/-- NAK_FLIT (R469). -/
def execNakFlit (n : Port) (bytes : List Byte) (t : Stamp) (s : State) : Ans :=
  .next (onPart (at_ s t) fun s => settle (doNakFlit s n.val bytes t))

/-- INIT_FLIT (R464). -/
def execInitFlit (n : Port) (bytes : List Byte) (t : Stamp) (s : State) : Ans :=
  .next (onPart (at_ s t) fun s => doInitFlit s n.val bytes t)

/-- NAK_REPEAT (R468). -/
def execNakRepeat (n : Port) (t : Stamp) (s : State) : Ans :=
  .next (onPart (at_ s t) fun s => doNakRepeat s n.val t)

/-- RD_S (R369). -/
def execRdS (h : Port) (addr : BitVec 48) (tag : BitVec 16) (t : Stamp) (s : State) : Ans :=
  .next (onPart (at_ s t) fun s => settle (doMemReq s h.val 0x01 addr.toNat tag.toNat [] t))

/-- RD_O (R369). -/
def execRdO (h : Port) (addr : BitVec 48) (tag : BitVec 16) (t : Stamp) (s : State) : Ans :=
  .next (onPart (at_ s t) fun s => settle (doMemReq s h.val 0x02 addr.toNat tag.toNat [] t))

/-- WR_LINE (R475). -/
def execWrLine (h : Port) (addr : BitVec 48) (tag : BitVec 16) (data : List Byte) (t : Stamp) (s : State) : Ans :=
  .next (onPart (at_ s t) fun s => settle (doMemReq s h.val 0x03 addr.toNat tag.toNat data t))

/-- DROP (R369). -/
def execDrop (h : Port) (addr : BitVec 48) (tag : BitVec 16) (t : Stamp) (s : State) : Ans :=
  .next (onPart (at_ s t) fun s => settle (doMemReq s h.val 0x04 addr.toNat tag.toNat [] t))

/-- WB_KEEP (R369). -/
def execWbKeep (h : Port) (addr : BitVec 48) (tag : BitVec 16) (data : List Byte) (t : Stamp) (s : State) : Ans :=
  .next (onPart (at_ s t) fun s => settle (doWriteBack s h.val addr.toNat tag.toNat data true))

/-- WB_DROP (R369). -/
def execWbDrop (h : Port) (addr : BitVec 48) (tag : BitVec 16) (data : List Byte) (t : Stamp) (s : State) : Ans :=
  .next (onPart (at_ s t) fun s => settle (doWriteBack s h.val addr.toNat tag.toNat data false))

/-- SNP_ACK (R478). -/
def execSnpAck (h : Port) (addr : BitVec 48) (t : Stamp) (s : State) : Ans :=
  .next (onPart (at_ s t) fun s => settle (doSnpAck s h.val addr.toNat))

/-- SNP_DATA (R369). -/
def execSnpData (h : Port) (addr : BitVec 48) (data : List Byte) (t : Stamp) (s : State) : Ans :=
  .next (onPart (at_ s t) fun s => settle (doSnpData s h.val addr.toNat data))

/-- CSR_RD (R480). -/
def execCsrRd (h : Port) (addr : BitVec 32) (tag : BitVec 16) (s : State) : Ans :=
  .next (onPart s fun s => settle (doCsr s h addr.toNat tag.toNat none s.now))

/-- CSR_WR (R480). -/
def execCsrWr (h : Port) (addr : BitVec 32) (v : Word) (t : Stamp) (s : State) : Ans :=
  .next (onPart (at_ s t) fun s => settle (doCsr s h addr.toNat 0 (some v) t))

/-- HB (R486). -/
def execHb (n : Port) (t : Stamp) (s : State) : Ans :=
  .next (onPart (at_ s t) fun s => settle (doHb s n.val t))

/-- HB_ACK (R486). -/
def execHbAck (n : Port) (seq : BitVec 32) (t : Stamp) (s : State) : Ans :=
  .next (onPart (at_ s t) fun s => settle (doHbAck s n.val seq.toNat))

/-- HOST_ATTACH (R489). -/
def execHostAttach (n : Port) (s : State) : Ans :=
  .next (onPart s fun s => settle (doAttach s n.val))

/-- COMMAND_PRODUCER_DOORBELL (R482). -/
def execCommandProducerDoorbell (n : Port) (ring : Fin 64) (index : BitVec 32) (t : Stamp) (s : State) : Ans :=
  .next (onPart (at_ s t) fun s => settle (hostDoorbell s n ring.val false index.toNat))

/-- COMPLETION_CONSUMER_DOORBELL (R482). -/
def execCompletionConsumerDoorbell (n : Port) (ring : Fin 64) (index : BitVec 32) (t : Stamp) (s : State) : Ans :=
  .next (onPart (at_ s t) fun s => settle (hostDoorbell s n ring.val true index.toNat))

/-- BML_CRD_WRITE (R471, R491). -/
def execBmlCrdWrite (n : Port) (v : Word) (s : State) : Ans :=
  .next (onPart s fun s => writeBml s .BML_CRD n.val v)

/-- BML_HB_CFG_WRITE (R486, R491). -/
def execBmlHbCfgWrite (n : Port) (v : Word) (s : State) : Ans :=
  .next (onPart s fun s => writeBml s .BML_HB_CFG n.val v)

end Sys2Proof.Machine
end

