-- ==== Sys2Proof/Machine/ExecBsu.lean ====
section
/-! DEFINITION. The meanings of the commands of bank-side units (R243 to R263) and of patrol scrub (R364). -/

namespace Sys2Proof.Machine

/-- BSU_SEGMENT (R246). -/
def execBsuSegment (st : Stack) (p : Pc) (win : Nat) (t : Stamp) (s : State) : Ans :=
  .next (onCrest (at_ s t) fun s => doSegment s st.val p.val win t)

/-- SCAN (R252). -/
def execScan (st : Stack) (p : Pc) (r : BsuRec) (seg : Nat) (s : State) : Ans :=
  .next (onCrest s fun s => doScan s .scan st.val p.val seg r.toList)

/-- SHADOW (R250). -/
def execShadow (st : Stack) (p : Pc) (r : BsuRec) (seg : Nat) (s : State) : Ans :=
  .next (onCrest s fun s => doScan s .shadow st.val p.val seg r.toList)

/-- FILTER (R250). -/
def execFilter (st : Stack) (p : Pc) (r : BsuRec) (seg : Nat) (s : State) : Ans :=
  .next (onCrest s fun s => doScan s .filter st.val p.val seg r.toList)

/-- POOL (R338). -/
def execPool (st : Stack) (p : Pc) (r : BsuRec) (c : CtxId) (s : State) : Ans :=
  .next (onCrest s fun s => doPool s st.val p.val r.toList c.val)

/-- PRUNE (R251). -/
def execPrune (st : Stack) (p : Pc) (r : BsuRec) (c : CtxId) (item : Nat) (s : State) : Ans :=
  .next (onCrest s fun s => submit s st.val p.val (pruneCmd s r.toList c.val item))

/-- EDGESCAN (R250). -/
def execEdgescan (st : Stack) (p : Pc) (r : BsuRec) (cons seg base : Nat) (s : State) : Ans :=
  .next (onCrest s fun s => submit s st.val p.val (edgeCmd s st.val p.val r.toList cons seg base))

/-- COPY (R262). -/
def execCopy (st : Stack) (p : Pc) (r : BsuRec) (pages : List Word) (s : State) : Ans :=
  .next (onCrest s fun s => submit s st.val p.val (copyCmd r.toList pages))

/-- FILL (R250). -/
def execFill (st : Stack) (p : Pc) (r : BsuRec) (s : State) : Ans :=
  .next (onCrest s fun s => submit s st.val p.val (fillCmd r.toList))

/-- SCAN_SEGMENT_LIST (R254). -/
def execScanSegmentList (c : CtxId) (seg : Nat) (isShadow : Bool) (s : State) : Ans :=
  .next (onCrest s fun s => doSegmentList s c.val seg isShadow)

/-- SCRUB (R260). -/
def execScrub (st : Stack) (p : Pc) (t : Stamp) (s : State) : Ans :=
  .next (onPart (at_ s t) fun s => doScrub s st.val p.val t)

/-- PATROL_SCRUB (R364). -/
def execPatrolScrub (st : Stack) (line : Nat) (t : Stamp) (s : State) : Ans :=
  .next (onPart (at_ s t) fun s => doPatrol s st.val line t)

/-- REFRESH (R245). -/
def execRefresh (st : Stack) (p : Pc) (t : Stamp) (s : State) : Ans :=
  .next (onPart (at_ s t) fun s => doRefresh s st.val p.val t)

/-- ECC_MODE_CHANGE (R263). -/
def execEccModeChange (st : Stack) (row : Fin 1024) (s : State) : Ans :=
  .next (onPart s fun s => doEccChange s st.val row.val)

end Sys2Proof.Machine
end

