-- ==== Sys2Proof/Machine/ExecCollect.lean ====
section
/-! DEFINITION. The meanings of the commands of collectives, the shard map, replication and pooled resources (R443 to R455). -/

namespace Sys2Proof.Machine

/-- FANOUT (R443). -/
def execFanout (c : CtxId) (t : Stamp) (s : State) : Ans :=
  .next (onPart (at_ s t) fun s => settle (doFanout s c.val))

/-- SUB (R446). -/
def execSub (m : FabMsg) (t : Stamp) (s : State) : Ans :=
  .next (onPart (at_ s t) fun s => settle (doSub s m t))

/-- LIST (R448). -/
def execList (m : FabMsg) (t : Stamp) (s : State) : Ans :=
  .next (onPart (at_ s t) fun s => settle (doListMsg s m))

/-- COLLECTIVE_ABORT (R449). -/
def execCollectiveAbort (m : FabMsg) (s : State) : Ans :=
  .next (onPart s fun s => settle (doCollAbort s m))

/-- PREPARE (R451). -/
def execPrepare (m : FabMsg) (s : State) : Ans :=
  .next (onPart s fun s => settle (doPrepare s m))

/-- PREPARED (R451). -/
def execPrepared (m : FabMsg) (s : State) : Ans :=
  .next (onPart s fun s => settle (doPrepared s m true))

/-- REFUSE (R451). -/
def execRefuse (m : FabMsg) (s : State) : Ans :=
  .next (onPart s fun s => settle (doPrepared s m false))

/-- MAP_COMMIT_DECISION (R451). -/
def execMapCommitDecision (s : State) : Ans :=
  .next (onPart s fun s => settle (doMapDecision s))

/-- COMMIT (R451). -/
def execCommit (m : FabMsg) (t : Stamp) (s : State) : Ans :=
  .next (onPart (at_ s t) fun s => settle (doCommit s m t))

/-- MAP_ABORT (R451). -/
def execMapAbort (m : FabMsg) (s : State) : Ans :=
  .next (onPart s fun s => settle (doMapAbort s m))

/-- IN_DOUBT (R452). -/
def execInDoubt (s : State) : Ans :=
  .next (onPart s doInDoubt)

/-- STATUS_SEND (R452). -/
def execStatusSend (s : State) : Ans :=
  .next (onPart s fun s => settle (doStatusSend s))

/-- STATUS (R452). -/
def execStatus (m : FabMsg) (s : State) : Ans :=
  .next (onPart s fun s => settle (doStatus s m))

/-- OUTCOME (R452). -/
def execOutcome (m : FabMsg) (s : State) : Ans :=
  .next (onPart s fun s => settle (doOutcome s m))

/-- REPL_STAGE (R453). -/
def execReplStage (m : FabMsg) (coll : CollNo) (s : State) : Ans :=
  .next (onPart s fun s => settle (doReplStage s m coll.val))

/-- REPL_STAGED (R233). -/
def execReplStaged (m : FabMsg) (coll : CollNo) (s : State) : Ans :=
  .next (onPart s fun s => settle (doReplStaged s m coll.val))

/-- REPL_COMMIT (R234). -/
def execReplCommit (m : FabMsg) (coll : CollNo) (t : Stamp) (s : State) : Ans :=
  .next (onPart (at_ s t) fun s => settle (doReplCommit s m coll.val t))

/-- REPL_DEFER (R233). -/
def execReplDefer (m : FabMsg) (coll : CollNo) (s : State) : Ans :=
  .next (onPart s fun s => settle (doReplDefer s m coll.val))

/-- POOL_READ (R454). -/
def execPoolRead (m : FabMsg) (okSteps : List (Option Nat)) (t : Stamp) (s : State) : Ans :=
  .next (onPart (at_ s t) fun s => settle (doPool2 s m false okSteps t))

/-- POOL_WRITE (R454). -/
def execPoolWrite (m : FabMsg) (t : Stamp) (s : State) : Ans :=
  .next (onPart (at_ s t) fun s => settle (doPool2 s m true [] t))

/-- POOL_DONE (R445). -/
def execPoolDone (m : FabMsg) (t : Stamp) (s : State) : Ans :=
  .next (onPart (at_ s t) fun s => doPoolDone s m)

/-- RELAY (R455). -/
def execRelay (c : ConnNo) (bytes : List Byte) (t : Stamp) (s : State) : Ans :=
  .next (onPart (at_ s t) fun s => settle (doRelay s c.val bytes))

end Sys2Proof.Machine
end

