-- ==== Sys2Proof/Machine/ExecFabric.lean ====
section
/-! DEFINITION. The meanings of the commands of the fabric transport (R417 to R442). -/

namespace Sys2Proof.Machine

/-- PORT_MODE (R417): the reeve writes AFT_PORT_CFG; a connection that is lost ends its collectives' parts (R449). -/
def execPortMode (n : Port) (v : Word) (s : State) : Ans :=
  .next (onPart s fun s => settle (withMembers (fun s => doPortMode s n.val v) s))

/-- LANE_TRAINED (R417). -/
def execLaneTrained (n : Port) (lane : Fin 8) (s : State) : Ans :=
  .next (onPart s fun s => doLane s n.val lane.val)

/-- HALF_TRAINING_TIMEOUT (R417). -/
def execHalfTrainingTimeout (n : Port) (half : Fin 2) (s : State) : Ans :=
  .next (onPart s fun s => doHalfTimeout s n.val half.val)

/-- ETHERNET_FRAME (R418). -/
def execEthernetFrame (n : Port) (isAft : Bool) (vlan : Option (BitVec 12)) (pcp : Fin 8) (bytes : Nat) (fcsOk icrcOk : Bool) (t : Stamp)
    (s : State) : Ans :=
  .next (onPart (at_ s t) fun s => doFrame s n.val isAft (vlan.map (·.toNat)) pcp.val bytes fcsOk icrcOk)

/-- PFC_FRAME (R419). -/
def execPfcFrame (n : Port) (half : Fin 2) (quanta : List (Fin 8 × BitVec 16)) (t : Stamp) (s : State) : Ans :=
  .next (onPart (at_ s t) fun s => doPfc s n.val half.val (quanta.map fun q => (q.1.val, q.2.toNat)) t)

/-- PFC_CONFIG_WRITE (R419). -/
def execPfcConfigWrite (n : Port) (v : Word) (s : State) : Ans :=
  .next (onPart s fun s => doPfcCfg s n.val v)

/-- SEND_FIRST (R434). -/
def execSendFirst (p : Packet) (t : Stamp) (s : State) : Ans :=
  .next (onPart (at_ s t) fun s => settle (arrive s p.conn.val (.send .first p) t))

/-- SEND_MIDDLE (R434). -/
def execSendMiddle (p : Packet) (t : Stamp) (s : State) : Ans :=
  .next (onPart (at_ s t) fun s => settle (arrive s p.conn.val (.send .middle p) t))

/-- SEND_LAST (R434). -/
def execSendLast (p : Packet) (t : Stamp) (s : State) : Ans :=
  .next (onPart (at_ s t) fun s => settle (arrive s p.conn.val (.send .last p) t))

/-- SEND_LAST_WITH_IMMEDIATE (R434). -/
def execSendLastWithImmediate (p : Packet) (t : Stamp) (s : State) : Ans :=
  .next (onPart (at_ s t) fun s => settle (arrive s p.conn.val (.send .lastImm p) t))

/-- SEND_ONLY (R434). -/
def execSendOnly (p : Packet) (t : Stamp) (s : State) : Ans :=
  .next (onPart (at_ s t) fun s => settle (arrive s p.conn.val (.send .only p) t))

/-- SEND_ONLY_WITH_IMMEDIATE (R434). -/
def execSendOnlyWithImmediate (p : Packet) (t : Stamp) (s : State) : Ans :=
  .next (onPart (at_ s t) fun s => settle (arrive s p.conn.val (.send .onlyImm p) t))

/-- KEEPALIVE (R426, R66). -/
def execKeepalive (n : Port) (peer : Fin 1024) (tick : BitVec 48) (t : Stamp) (s : State) : Ans :=
  .next (onPart (at_ s t) fun s => doKeepalive s n.val peer.val tick.toNat t)

/-- KEEPALIVE_SEND (R426). -/
def execKeepaliveSend (n : Port) (s : State) : Ans :=
  .next (onPart s fun s => doKeepaliveSend s n.val)

/-- PEER_LOST (R426). -/
def execPeerLost (n : Port) (peer : Fin 1024) (s : State) : Ans :=
  .next (onPart s fun s => settle (doPeerLost s n.val peer.val))

/-- ACK (R432). -/
def execAck (p : AckPacket) (t : Stamp) (s : State) : Ans :=
  .next (onPart (at_ s t) fun s => settle (arrive s p.conn.val (.ack 0 0 p) t))

/-- RNR_NAK (R433). -/
def execRnrNak (p : AckPacket) (wait : Fin 32) (t : Stamp) (s : State) : Ans :=
  .next (onPart (at_ s t) fun s => settle (arrive s p.conn.val (.ack 1 wait.val p) t))

/-- NAK_SEQUENCE (R432). -/
def execNakSequence (p : AckPacket) (t : Stamp) (s : State) : Ans :=
  .next (onPart (at_ s t) fun s => settle (arrive s p.conn.val (.ack 2 0 p) t))

/-- NAK_INVALID (R429). -/
def execNakInvalid (p : AckPacket) (s : State) : Ans :=
  .next (onPart s fun s => settle (withMembers (fun s => arrive s p.conn.val (.ack 3 0 p) s.now) s))

/-- NAK_ACCESS (R438). -/
def execNakAccess (p : AckPacket) (s : State) : Ans :=
  .next (onPart s fun s => settle (arrive s p.conn.val (.ack 4 0 p) s.now))

/-- RETRANSMIT_TIMEOUT (R432). -/
def execRetransmitTimeout (c : ConnNo) (t : Stamp) (s : State) : Ans :=
  .next (onPart (at_ s t) fun s => settle (withMembers (fun s => doTimeout s c.val t) s))

/-- RNR_WAIT_END (R433). -/
def execRnrWaitEnd (c : ConnNo) (t : Stamp) (s : State) : Ans :=
  .next (onPart (at_ s t) fun s => doRnrEnd s c.val t)

/-- ACK_DELAY (R434). -/
def execAckDelay (c : ConnNo) (t : Stamp) (s : State) : Ans :=
  .next (onPart (at_ s t) fun s => doAckDelay s c.val t)

/-- CONNECTING_ACK (R429). -/
def execConnectingAck (c : ConnNo) (s : State) : Ans :=
  .next (onPart s fun s => doConnectingAck s c.val)

/-- CONTEXT_FETCH (R430). -/
def execContextFetch (c : ConnNo) (t : Stamp) (s : State) : Ans :=
  .next (onPart (at_ s t) fun s => settle (withMembers (fun s => doFetch s c.val t) s))

/-- AFT_DB (R435): a write of AFT_DB. -/
def execAftDb (n : Port) (by_ : Requester) (v : Word) (s : State) : Ans :=
  .next (onPart s fun s => asRequester s by_ (unitNo (4 + n.val) 1 0) (settle (doDoorbell s n.val (hostOf by_) v)))

/-- SEND (R436). -/
def execSend (c : ConnNo) (t : Stamp) (s : State) : Ans :=
  .next (onPart (at_ s t) fun s => settle (doEntry s c.val 0))

/-- SEND_IMM (R436). -/
def execSendImm (c : ConnNo) (t : Stamp) (s : State) : Ans :=
  .next (onPart (at_ s t) fun s => settle (doEntry s c.val 1))

/-- NOP (R436). -/
def execNop (c : ConnNo) (t : Stamp) (s : State) : Ans :=
  .next (onPart (at_ s t) fun s => settle (doEntry s c.val 2))

/-- CHAIN_START (R439). -/
def execChainStart (c : ConnNo) (s : State) : Ans :=
  .next (onPart s fun s => settle (doChainStart s c.val))

/-- EGRESS_START (R441). -/
def execEgressStart (n : Port) (half : Fin 2) (t : Stamp) (s : State) : Ans :=
  .next (onPart (at_ s t) fun s => settle (doEgress s n.val half.val t))

/-- GATE_SWAP (R441). -/
def execGateSwap (n : Port) (s : State) : Ans :=
  .next (onPart s fun s => if s.tick.begun then doGateSwap s n.val else s)

/-- REOPEN (R429): a write of AFT_CONN_CTL.reopen. -/
def execReopen (n : Port) (s : State) : Ans :=
  .next (onPart s fun s => doReopen s n.val)

/-- REOPEN_EFFECT (R429). -/
def execReopenEffect (c : ConnNo) (s : State) : Ans :=
  .next (onPart s fun s => if s.tick.begun then doReopenEffect s c.val else s)

end Sys2Proof.Machine
end

