-- ==== Sys2Proof/Machine/ExecFlash.lean ====
section
/-! DEFINITION. The meanings of the commands of the flash subsystem (R388 to R413). -/

namespace Sys2Proof.Machine

/-- FLASH_READ (R388). -/
def execFlashRead (ns : Fin 4096) (unit : Nat) (c : Option CtxId) (okStep : Option Nat) (t : Stamp) (s : State) : Ans :=
  .next (onPart (at_ s t) fun s => settle (doFlashRead s ns.val unit (c.map (·.val)) okStep))

/-- FLASH_LATE (R389). -/
def execFlashLate (io : Nat) (t : Stamp) (s : State) : Ans :=
  .next (onPart (at_ s t) fun s => settle (doFlashLate s io t))

/-- UNIT_WRITE (R397). -/
def execUnitWrite (ns : Fin 4096) (unit offset : Nat) (data : List Byte) (c : Option CtxId) (t : Stamp) (s : State) : Ans :=
  .next (onPart (at_ s t) fun s => settle (doUnitWrite s ns.val unit offset data (c.map (·.val))))

/-- WORD_LINE_PADDING (R399). -/
def execWordLinePadding (s : State) : Ans :=
  .next (onPart s doPadding)

/-- PROGRAM_END (R399). -/
def execProgramEnd (seq : Nat) (t : Stamp) (s : State) : Ans :=
  .next (onPart (at_ s t) fun s => settle (doProgramEnd s seq t))

/-- MAP_COMMIT (R400). -/
def execMapCommit (s : State) : Ans :=
  .next (onPart s doMapCommit)

/-- COMMIT_LOG (R406). -/
def execCommitLog (t : Stamp) (s : State) : Ans :=
  .next (onPart (at_ s t) fun s => settle (doCommitLog s))

/-- GARBAGE_COLLECTION (R403). -/
def execGarbageCollection (lun : Nat) (badPages : List Nat) (t : Stamp) (s : State) : Ans :=
  .next (onPart (at_ s t) fun s => doGc s lun badPages t)

/-- BLOCK_REFRESH (R403). -/
def execBlockRefresh (block : Nat) (badPages : List Nat) (t : Stamp) (s : State) : Ans :=
  .next (onPart (at_ s t) fun s => doBlockRefresh s block badPages t)

/-- BLOCK_ERASE (R403). -/
def execBlockErase (block : Nat) (s : State) : Ans :=
  .next (onPart s fun s => doBlockErase s block)

/-- PROGRAM_FAILURE (R404). -/
def execProgramFailure (block : Nat) (t : Stamp) (s : State) : Ans :=
  .next (onPart (at_ s t) fun s => doProgramFailure s block)

/-- ERASE_FAILURE (R404). -/
def execEraseFailure (block : Nat) (s : State) : Ans :=
  .next (onPart s fun s => doEraseFailure s block)

/-- LUN_FAILED (R404). -/
def execLunFailed (lun : Nat) (s : State) : Ans :=
  .next (onPart s fun s => doLunFailed s lun)

/-- CHANNEL_FAILED (R404). -/
def execChannelFailed (ch : Fin 32) (s : State) : Ans :=
  .next (onPart s fun s => doChannelFailed s ch.val)

/-- CHECKPOINT (R405). -/
def execCheckpoint (s : State) : Ans :=
  .next (onPart s doCheckpoint)

/-- FLASH_LIST_DOORBELL (R412): a write of FSS_LIST_CTL.go. -/
def execFlashListDoorbell (n : Port) (by_ : Requester) (s : State) : Ans :=
  .next (onPart s fun s => asRequester s by_ (unitNo (4 + n.val) 0 0) (doFlashDoorbell s n.val (hostOf by_)))

/-- READ (R413). -/
def execRead (n : Port) (okSteps : List (Option Nat)) (t : Stamp) (s : State) : Ans :=
  .next (onPart (at_ s t) fun s => settle (doListRead s n.val okSteps))

/-- WRITE (R413). -/
def execWrite (n : Port) (t : Stamp) (s : State) : Ans :=
  .next (onPart (at_ s t) fun s => settle (doListWrite s n.val))

/-- DISCARD (R401). -/
def execDiscard (n : Port) (t : Stamp) (s : State) : Ans :=
  .next (onPart (at_ s t) fun s => settle (doListDiscard s n.val t))

/-- FLASH_ENABLE (R411): the reeve writes FSS_CFG on T0. -/
def execFlashEnable (v : Word) (s : State) : Ans :=
  .next (onPart s fun s => settle (writeReg s .reeve ⟨.FSS_CFG, 0, 0⟩ v s.now))

end Sys2Proof.Machine
end

