-- ==== Sys2Proof/Machine/ExecImage.lean ====
section
/-! DEFINITION. The meanings of the commands of images, boot, links and register access (R9, R31 to R36, R480, R506 to R516, R536). -/

namespace Sys2Proof.Machine

/-- LOAD (R512). -/
def execLoad (by_ : Requester) (t : Stamp) (s : State) : Ans :=
  .next (onPart (at_ s t) fun s => asRequester s by_ imgUnit (settle (doLoad s (reqNum by_))))

/-- STAGING_END (R512). -/
def execStagingEnd (memFault : Bool) (t : Stamp) (s : State) : Ans :=
  .next (onPart (at_ s t) fun s => settle (doStagingEnd s memFault t))

/-- UNLOAD (R511). -/
def execUnload (by_ : Requester) (abort : Bool) (t : Stamp) (s : State) : Ans :=
  .next (onPart (at_ s t) fun s => asRequester s by_ imgUnit (settle (doImgUnload s (reqNum by_) abort t)))

/-- PLAN (R511). -/
def execPlan (by_ : Requester) (t : Stamp) (s : State) : Ans :=
  .next (onPart (at_ s t) fun s => asRequester s by_ imgUnit (settle (doPlan s (reqNum by_) t)))

/-- ATTEST (R508). -/
def execAttest (by_ : Requester) (s : State) : Ans :=
  .next (onPart s fun s => asRequester s by_ imgUnit (settle (doAttest s (reqNum by_))))

/-- UPDATE (R511). -/
def execUpdate (by_ : Requester) (s : State) : Ans :=
  .next (onPart s fun s => asRequester s by_ imgUnit (settle (doUpdate s (reqNum by_))))

/-- OWNER_RECORD_COMMIT (R506): a write of RV_CLAIM_CTL.commit. -/
def execOwnerRecordCommit (by_ : Requester) (s : State) : Ans :=
  .next (onPart s fun s => asRequester s by_ rvUnit (doClaim s by_))

/-- PART_BOOT (R514): OFF ends and the boot runs, with the outcome of its physical steps as given. -/
def execPartBoot (pufOk : Bool) (badLinks : List (Fin 8 × Fin 8)) (stacksOk flashOk : Bool) (ms : BitVec 32) (s : State) : Ans :=
  .next (doBoot s pufOk { badLinks := badLinks.map fun x => (x.1.val, x.2.val), stacksUp := stacksOk, flash := flashOk, ms := ms.toNat })

/-- LINK_TRAIN_TIMEOUT (R36). -/
def execLinkTrainTimeout (a b : Fin 8) (s : State) : Ans :=
  .next (onPart s fun s => settle (withMembers (fun s => doLinkTimeout s a.val b.val) s))

/-- LINK_FAILED (R33). -/
def execLinkFailed (a b : Fin 8) (s : State) : Ans :=
  .next (onPart s fun s => settle (withMembers (fun s => doLinkFailed s a.val b.val) s))

/-- CLASSES_OPEN (R31): the reeve writes MEM_LINK_CFG. -/
def execClassesOpen (a b : Fin 8) (v : Word) (s : State) : Ans :=
  .next (onPart s fun s => doLinkCfg s a.val b.val v)

/-- FAILURE_DECLARATION (R536). -/
def execFailureDeclaration (u : FailUnit) (s : State) : Ans :=
  .next (onPart s fun s => settle (withMembers (fun s => doDeclare s u) s))

/-- PSEUDO_CHANNEL_TIMEOUT (R536). -/
def execPseudoChannelTimeout (st : Stack) (p : Pc) (s : State) : Ans :=
  .next (onPart s fun s => settle (doDeclare s (.pseudoChannel st p)))

/-- UNMAPPED_ACCESS (R516): an access that finds neither memory nor a register is recorded. -/
def execUnmappedAccess (by_ : Requester) (addr : Word) (isWrite : Bool) (s : State) : Ans :=
  .next (onPart s fun s => doUnmapped s by_ addr isWrite)

/-- REGISTER_WRITE (R9). -/
def execRegisterWrite (by_ : Requester) (addr : BitVec 32) (v : Word) (t : Stamp) (s : State) : Ans :=
  .next (onPart (at_ s t) fun s => doRegisterWrite s by_ addr.toNat v t)

end Sys2Proof.Machine
end

