-- ==== Sys2Proof/Machine/ExecMem.lean ====
section
/-! DEFINITION. The meanings of the commands of the memory tiers and host windows (R354 to R380). -/

namespace Sys2Proof.Machine

/-- MOVER_LIST_DOORBELL (R354): a write of MEM_MOV_CTL.go. -/
def execMoverListDoorbell (die : Crest) (by_ : Requester) (s : State) : Ans :=
  .next (onPart s fun s => asRequester s by_ (movUnit die.val) (doMovDoorbell s die.val (hostOf by_)))

/-- MOVER_COPY (R357). -/
def execMoverCopy (die : Crest) (t : Stamp) (s : State) : Ans :=
  .next (onCrest (at_ s t) fun s => settle (doMoverCopy s die.val))

/-- PUBLISH (R378). -/
def execPublish (die : Crest) (t : Stamp) (s : State) : Ans :=
  .next (onCrest (at_ s t) fun s => settle (doPublish s die.val))

/-- MOVER_TILE (R359). -/
def execMoverTile (die : Crest) (poolErr : Bool) (t : Stamp) (s : State) : Ans :=
  .next (onCrest (at_ s t) fun s => settle (doMoverTile s die.val poolErr t))

/-- AGE_EVICTION (R361): the tiles that are too old at the current boundary. -/
def execAgeEviction (s : State) : Ans :=
  .next (onPart s fun s => if s.tick.begun then ageEvict s else s)

/-- PUBLICATION_FLIP (R379). -/
def execPublicationFlip (p : PolderNo) (region : Fin 4096) (s : State) : Ans :=
  .next (onPart s fun s => settle (doFlip s p.val region.val))

/-- RECALL_TIMEOUT (R371). -/
def execRecallTimeout (line : Nat) (t : Stamp) (s : State) : Ans :=
  .next (onPart (at_ s t) fun s => settle (doRecallTimeout s line t))

/-- HOST_LOST (R487). -/
def execHostLost (h : Port) (t : Stamp) (s : State) : Ans :=
  .next (onPart (at_ s t) fun s => settle (doHostLost s h.val t))

/-- WINDOW_CLOSE (R373, R374). -/
def execWindowClose (h : Port) (s : State) : Ans :=
  .next (onPart s fun s => if atBoundary s then settle (doWindowClose s h.val) else s)

/-- WINDOW_OPEN (R373). -/
def execWindowOpen (h : Port) (s : State) : Ans :=
  .next (onPart s fun s => if atBoundary s then settle (doWindowOpen s h.val (attachedTo s h.val)) else s)

/-- MIRROR_REBUILD (R375). -/
def execMirrorRebuild (st : Stack) (s : State) : Ans :=
  .next (onPart s fun s => doMirrorRebuild s st.val)

/-- HOST_METER_REFILL (R380): each host's meter gains its tokens, and requests that waited for them go on. -/
def execHostMeterRefill (t : Stamp) (s : State) : Ans :=
  .next (onPart (at_ s t) settle)

end Sys2Proof.Machine
end

