-- ==== Sys2Proof/Machine/ExecMutate.lean ====
section
/-! DEFINITION. The meanings of the commands of mutation (R225 to R240). -/

namespace Sys2Proof.Machine

/-- APPLY_STEP (R225): a replicated group's images go to the replicas (R233). -/
def execApplyStep (coll : CollNo) (t : Stamp) (s : State) : Ans :=
  .next (onCrest (at_ s t) fun s => settle (withImages (fun s => doApplyStep s coll.val) coll.val s))

/-- CONSOLIDATION (R229). -/
def execConsolidation (coll : CollNo) (seg : Nat) (s : State) : Ans :=
  .next (onCrest s fun s => doConsolidation s coll.val seg)

/-- REPLICA_APPLY_STEP (R233). -/
def execReplicaApplyStep (coll : CollNo) (t : Stamp) (s : State) : Ans :=
  .next (onCrest (at_ s t) fun s => settle (doReplicaApply s coll.val t))

/-- REPL_COMMIT_DECISION (R233). -/
def execReplCommitDecision (coll : CollNo) (s : State) : Ans :=
  .next (onPart s fun s => settle (doReplDecision s coll.val))

/-- PLAN_ACCEPT (R236). -/
def execPlanAccept (s : State) : Ans :=
  .next (onPart s doPlanAccept)

/-- ATOMIC_SWAP (R238). -/
def execAtomicSwap (coll : CollNo) (s : State) : Ans :=
  .next (onPart s fun s => settle (withImages (fun s => doAtomicSwap s coll.val) coll.val s))

/-- ROLLING_SWAP (R239). -/
def execRollingSwap (coll : CollNo) (s : State) : Ans :=
  .next (onPart s fun s => settle (withImages (fun s => doRollingSwap s coll.val) coll.val s))

end Sys2Proof.Machine
end

