-- ==== Sys2Proof/Machine/ExecPolder.lean ====
section
/-! DEFINITION. The meanings of the commands of polders, the sluice and the weirs (R108 to R133). -/

namespace Sys2Proof.Machine

/-- POLDER_ACTIVATE (R109). -/
def execPolderActivate (s : State) : Ans :=
  .next (onPart s fun s => settle (doActivateNow s))

/-- PLD_UNLOAD (R110, R130): the reeve writes PLD_CTL.unload. -/
def execPldUnload (p : PolderNo) (abort : Bool) (t : Stamp) (s : State) : Ans :=
  .next (onPart (at_ s t) fun s => doUnload s p.val abort t)

/-- DRAINING_START (R110). -/
def execDrainingStart (p : PolderNo) (s : State) : Ans :=
  .next (onPart s fun s => doDraining s p.val)

/-- POLDER_ABSENT (R111). -/
def execPolderAbsent (p : PolderNo) (s : State) : Ans :=
  .next (onPart s fun s => settle (doAbsent s p.val))

/-- DEFERRED_RATE_APPLY (R114). -/
def execDeferredRateApply (s : State) : Ans :=
  .next (onPart s doRates)

/-- SLU_GCFG_WRITE (R133). -/
def execSluGcfgWrite (v : Word) (s : State) : Ans :=
  .next (onPart s fun s => doGcfgWrite s v)

/-- WEI_RATE_WRITE (R124). -/
def execWeiRateWrite (w : Fin 16384) (v : Word) (s : State) : Ans :=
  .next (onPart s fun s => doWeiRateWrite s w.val (weirMtu s w.val) v)

/-- WEIR_TOKEN_ADD (R122). -/
def execWeirTokenAdd (t : Stamp) (s : State) : Ans :=
  .next (onPart (at_ s t) fun s => addTokens s t)

/-- WEIR_PASS (R122, R123). -/
def execWeirPass (w : Fin 16384) (t : Stamp) (s : State) : Ans :=
  .next (onPart (at_ s t) fun s => settle (doWeirPass s w.val t))

end Sys2Proof.Machine
end

