-- ==== Sys2Proof/Machine/ExecPower.lean ====
section
/-! DEFINITION. The meanings of the commands of power, the supplies and the pins (R523 to R554). -/

namespace Sys2Proof.Machine

/-- ENTER_SLEEP (R523): a write of PWR_CTL.enter. -/
def execEnterSleep (by_ : Requester) (t : Stamp) (s : State) : Ans :=
  .next (onPart (at_ s t) fun s => asRequester s by_ pwrUnit (settle (doEnter s 2 t)))

/-- ENTER_DEEP (R523). -/
def execEnterDeep (by_ : Requester) (t : Stamp) (s : State) : Ans :=
  .next (onPart (at_ s t) fun s => asRequester s by_ pwrUnit (settle (doEnter s 3 t)))

/-- ENTER_OFF (R523). -/
def execEnterOff (by_ : Requester) (t : Stamp) (s : State) : Ans :=
  .next (onPart (at_ s t) fun s => asRequester s by_ pwrUnit (settle (doEnter s 4 t)))

/-- STATE_ENTRY (R523). -/
def execStateEntry (s : State) : Ans :=
  .next (onPart s fun s => settle (doStateEntry s))

/-- DRAIN_REFUSAL (R523). -/
def execDrainRefusal (s : State) : Ans :=
  .next (onPart s doDrainRefusal)

/-- WAKE (R525). -/
def execWake (by_ : Requester) (t : Stamp) (s : State) : Ans :=
  .next (if pwrState s = 4 then (if by_ = .i3c then wakeAt (at_ s t) 1 t else at_ s t) else onPart (at_ s t) fun s => asRequester s by_ pwrUnit (settle (doWake s by_ t)))

/-- WAKE_EVENT (R526). -/
def execWakeEvent (src : Fin 7) (t : Stamp) (s : State) : Ans :=
  .next (wakeAt (at_ s t) src.val t)

/-- SLEEP_EXIT (R526). -/
def execSleepExit (s : State) : Ans :=
  .next (onPart s doSleepExit)

/-- DEEP_EXIT (R527). -/
def execDeepExit (t : Stamp) (s : State) : Ans :=
  .next (onPart (at_ s t) fun s => settle (doDeepExit s t))

/-- WAKE_TIMER (R529). -/
def execWakeTimer (t : Stamp) (s : State) : Ans :=
  .next (onPart (at_ s t) fun s => doWakeTimer s t)

/-- WAKE_N (R529): a low of at least 1 µs. -/
def execWakeN (t0 t : Stamp) (s : State) : Ans :=
  .next (if t0 + us ≤ t then wakeAt (at_ s t) 0 t else at_ s t)

/-- OPERATING_POINT_TARGET (R532): a write of PWR_OP.target. -/
def execOperatingPointTarget (by_ : Requester) (target : Fin 4) (s : State) : Ans :=
  .next (onPart s fun s => asRequester s by_ pwrUnit (doOpTarget s target.val s.now))

/-- FREQUENCY_SWITCH (R531). -/
def execFrequencySwitch (t : Stamp) (s : State) : Ans :=
  .next (onPart (at_ s t) fun s => doFreqSwitch s t)

/-- SENSOR_SAMPLE (R533): the controller runs while the rails are up, RESET_N low or not (R553). -/
def execSensorSample (m : Sensors) (t : Stamp) (s : State) : Ans :=
  .next (if s.pwr.railsUp then doSample (at_ s t) m t else at_ s t)

/-- EMERGENCY_RETURN (R533). -/
def execEmergencyReturn (t : Stamp) (s : State) : Ans :=
  .next (onPart (at_ s t) fun s => doEmergReturn s t)

/-- THROTTLE_STEP (R533). -/
def execThrottleStep (t : Stamp) (s : State) : Ans :=
  .next (onPart (at_ s t) fun s => doThrottle s t)

/-- FATAL (R537): in any state but OFF, RESET_N low or not (R553). -/
def execFatal (cause : FatalCause) (t : Stamp) (s : State) : Ans :=
  .next (doFatal (at_ s t) (fatalNum cause))

/-- WATCHDOG_EXPIRY (R535): the reeve's watchdog is a fatal cause. -/
def execWatchdogExpiry (t : Stamp) (s : State) : Ans :=
  .next (doFatal (at_ s t) 4)

/-- PART_RESET (R553). -/
def execPartReset (t0 t : Stamp) (s : State) : Ans :=
  .next (doPartReset (at_ s t) t0 t)

/-- RESET_N_RISE (R553). -/
def execResetNRise (s : State) : Ans :=
  .next (doResetRise s)

/-- VAUX_RISE (R549). -/
def execVauxRise (autoon : Bool) (i3cAddr : Fin 4) (s : State) : Ans :=
  .next (doVauxRise s autoon i3cAddr.val)

/-- VIN_FAULT (R550). -/
def execVinFault (t0 t : Stamp) (s : State) : Ans :=
  .next (doVinFault (at_ s t) t0 t)

/-- VIN_COLLAPSE (R550). -/
def execVinCollapse (s : State) : Ans :=
  .next (doVinCollapse s)

/-- VAUX_LOSS (R550). -/
def execVauxLoss (t0 t : Stamp) (s : State) : Ans :=
  .next (doVauxLoss (at_ s t) t0 t)

/-- VIN_ENTERS_RANGE (R549). -/
def execVinEntersRange (s : State) : Ans :=
  .next (doVinOk s s.now)

/-- JTAG_INSTRUCTION (R554). -/
def execJtagInstruction (op : JtagOp) (s : State) : Ans :=
  .next (doJtag s op)

end Sys2Proof.Machine
end

