-- ==== Sys2Proof/Machine/ExecRequest.lean ====
section
/-! DEFINITION. The meanings of the commands of requests, contexts and completions (R77 to R103). -/

namespace Sys2Proof.Machine

/-- COMMAND_ENTRY_READ (R483). -/
def execCommandEntryRead (port : Port) (ring : Fin 64) (t : Stamp) (s : State) : Ans :=
  .next (onPart (at_ s t) fun s => settle (doEntryRead s port.val ring.val t))

/-- AFT_DESCRIPTOR (R78). -/
def execAftDescriptor (conn : ConnNo) (t : Stamp) (s : State) : Ans :=
  .next (onPart (at_ s t) fun s => settle (doAftDescriptor s conn.val t))

/-- SLUICE_GRANT (R118): the grants of the current boundary. -/
def execSluiceGrant (s : State) : Ans :=
  .next (onPart s doGrant)

/-- WAIT_LIMIT (R120). -/
def execWaitLimit (p : PolderNo) (s : State) : Ans :=
  .next (onPart s fun s => doWaitLimit s p.val)

/-- CANCEL (R99). -/
def execCancel (p : PolderNo) (target : Word) (s : State) : Ans :=
  .next (onPart s fun s => doCancel s p.val target)

/-- DEADLINE (R98). -/
def execDeadline (c : CtxId) (s : State) : Ans :=
  .next (onPart s fun s => doDeadline s c.val)

/-- HANDOFF (R90). -/
def execHandoff (c : CtxId) (dst : Crest) (t : Stamp) (s : State) : Ans :=
  .next (onPart (at_ s t) fun s => doHandoff s c.val dst.val t)

/-- HND (R90). -/
def execHnd (src dst : Crest) (t : Stamp) (s : State) : Ans :=
  .next (onPart (at_ s t) fun s => doHnd s src.val dst.val t)

/-- HAK (R90). -/
def execHak (src dst : Crest) (t : Stamp) (s : State) : Ans :=
  .next (onPart (at_ s t) fun s => doHak s src.val dst.val t)

/-- HAK_TIMEOUT (R90). -/
def execHakTimeout (die : Crest) (c : CtxId) (t : Stamp) (s : State) : Ans :=
  .next (onPart (at_ s t) fun s => doHakTimeout s die.val c.val t)

/-- ABORT (R92). -/
def execAbort (src dst : Crest) (s : State) : Ans :=
  .next (onPart s fun s => doAbort s src.val dst.val)

/-- SUB_REQUEST (R560). -/
def execSubRequest (c : CtxId) (dst : Crest) (part : Nat) (t : Stamp) (s : State) : Ans :=
  .next (onCrest (at_ s t) fun s => doSubRequest s c.val dst.val part t)

/-- PARTIAL_RESULT_RETURN (R561). -/
def execPartialResultReturn (die : Crest) (c : CtxId) (h : BitVec 16) (t : Stamp) (s : State) : Ans :=
  .next (onCrest (at_ s t) fun s => doReturn s die.val c.val h.toNat t)

/-- PARTIAL_RESULT_RESEND (R561). -/
def execPartialResultResend (die : Crest) (c : CtxId) (h : BitVec 16) (t : Stamp) (s : State) : Ans :=
  .next (onCrest (at_ s t) fun s => doResend s die.val c.val h.toNat t)

/-- LOSS_NOTICE (R95). -/
def execLossNotice (d : Crest) (s : State) : Ans :=
  .next (onPart s fun s => settle (doLossNotice s d.val))

/-- DIE_LOST_FINDING (R95). -/
def execDieLostFinding (src home : Crest) (s : State) : Ans :=
  .next (onPart s fun s => doFinding s src.val home.val)

/-- REEVE_DIE_LOST_COMPLETION (R95). -/
def execReeveDieLostCompletion (d : Crest) (s : State) : Ans :=
  .next (onPart s fun s => doReeveLost s d.val)

/-- REEVE_COMPLETION (R100). -/
def execReeveCompletion (c : CtxId) (s : State) : Ans :=
  .next (onPart s fun s => doReeveCompletion s c.val)

/-- CONTAINED_ERROR (R534). -/
def execContainedError (u : ErrUnit) (c : CtxId) (idReadable : Bool) (s : State) : Ans :=
  .next (onPart s fun s => doContained s u c.val idReadable)

/-- STAGE_PASS (R88). -/
def execStagePass (c : CtxId) (t : Stamp) (s : State) : Ans :=
  .next (onCrest (at_ s t) fun s => settle (doStagePass s c.val))

/-- RETIREMENT (R86). -/
def execRetirement (c : CtxId) (t : Stamp) (s : State) : Ans :=
  .next (onPart (at_ s t) fun s => settle (doRetire s c.val))

/-- COMPLETION_WRITE (R484). -/
def execCompletionWrite (port : Port) (t : Stamp) (s : State) : Ans :=
  .next (onPart (at_ s t) fun s => settle (doCompletionWrite s port.val))

end Sys2Proof.Machine
end

