-- ==== Sys2Proof/Machine/ExecTable.lean ====
section
/-! DEFINITION. The meanings of the commands of embedding tables (R340 to R348). -/

namespace Sys2Proof.Machine

/-- HOT_LOAD (R340): a write of EMB_HOT_CTL.load. -/
def execHotLoad (die : Crest) (tile : Fin 64) (by_ : Requester) (s : State) : Ans :=
  .next (onPart s fun s => asRequester s by_ (unitNo die.val 4 0) (settle (doHotLoad (setF s ⟨.EMB_HOT_CTL, die.val, 0⟩ 5 0 tile.val) die.val tile.val)))

/-- HOT_LIST_SWITCH (R340). -/
def execHotListSwitch (die : Crest) (tile : Fin 64) (s : State) : Ans :=
  .next (onPart s fun s => if s.tick.begun then doHotSwitch s die.val tile.val s.tick.epoch else s)

/-- HOT_ROW_FETCH (R341). -/
def execHotRowFetch (die : Crest) (tile : Fin 64) (row : BitVec 32) (s : State) : Ans :=
  .next (onCrest s fun s => doHotFetch s die.val tile.val row.toNat)

/-- PREFETCH (R342). -/
def execPrefetch (die : Crest) (slot : Fin 96) (table : CollNo) (row : BitVec 32) (s : State) : Ans :=
  .next (onCrest s fun s => doPrefetch s die.val slot.val table.val row.toNat)

/-- TABLE_APPLY_STEP (R344). -/
def execTableApplyStep (table : CollNo) (t : Stamp) (s : State) : Ans :=
  .next (onCrest (at_ s t) fun s => settle (doTableApply s table.val))

/-- MOVE_COPY (R348). -/
def execMoveCopy (table : CollNo) (t : Stamp) (s : State) : Ans :=
  .next (onCrest (at_ s t) fun s => doMoveCopy s table.val)

end Sys2Proof.Machine
end

