-- ==== Sys2Proof/Machine/ExecTensor.lean ====
section
/-! DEFINITION. The meanings of the commands of tensor tiles (R278 to R306). -/

namespace Sys2Proof.Machine

/-- PASS_START (R278). -/
def execPassStart (c : CtxId) (die : Crest) (slot : Fin 96) (s : State) : Ans :=
  .next (onCrest s fun s => settle (doPassStart s c.val die.val slot.val))

/-- LINEAR_SLICE (R318). -/
def execLinearSlice (die : Crest) (tile : Fin 64) (op : Nat) (slots : List (Fin 96)) (err : TileErr) (t : Stamp) (s : State) : Ans :=
  .next (onCrest (at_ s t) fun s => settle (doLinear s die.val tile.val op (slots.map (·.val)) err t))

/-- VECTOR (R286). -/
def execVector (die : Crest) (tile : Fin 64) (op : Nat) (slots : List (Fin 96)) (err : TileErr) (t : Stamp) (s : State) : Ans :=
  .next (onCrest (at_ s t) fun s => settle (doVector s die.val tile.val op (slots.map (·.val)) err t))

/-- EMBED (R337). -/
def execEmbed (die : Crest) (tile : Fin 64) (op : Nat) (slot : Fin 96) (err : TileErr) (t : Stamp) (s : State) : Ans :=
  .next (onCrest (at_ s t) fun s => settle (doEmbed s die.val tile.val op slot.val err t))

/-- APPEND (R296). -/
def execAppend (die : Crest) (tile : Fin 64) (op : Nat) (slot : Fin 96) (err : TileErr) (t : Stamp) (s : State) : Ans :=
  .next (onCrest (at_ s t) fun s => settle (doAppend s die.val tile.val op slot.val err t))

/-- ATTN (R290). -/
def execAttn (die : Crest) (tile : Fin 64) (op : Nat) (slot : Fin 96) (head qb : Nat) (err : TileErr) (t : Stamp) (s : State) : Ans :=
  .next (onCrest (at_ s t) fun s => settle (doAttn s die.val tile.val op slot.val head qb err t))

/-- ATTN_BACK (R302). -/
def execAttnBack (die : Crest) (tile : Fin 64) (op : Nat) (slot : Fin 96) (head qb : Nat) (err : TileErr) (t : Stamp) (s : State) : Ans :=
  .next (onCrest (at_ s t) fun s => settle (doAttnBack s die.val tile.val op slot.val head qb err t))

/-- OPTIM (R303). -/
def execOptim (die : Crest) (tile : Fin 64) (slot : Fin 96) (adapter : Fin 16) (err : TileErr) (t : Stamp) (s : State) : Ans :=
  .next (onCrest (at_ s t) fun s => settle (doOptim s die.val tile.val slot.val adapter.val err t))

/-- WEIGHT_RELOAD (R306). -/
def execWeightReload (die : Crest) (tile : Fin 64) (s : State) : Ans :=
  .next (onCrest s fun s => doWeightReload s die.val tile.val)

end Sys2Proof.Machine
end

