-- ==== Sys2Proof/Machine/ExecTick.lean ====
section
/-! DEFINITION. The meanings of the tick unit's commands (R42 to R68). -/

namespace Sys2Proof.Machine

/-- TICK_BOUNDARY (R46): the planned boundary, with everything that falls at it. -/
def execTickBoundary (s : State) : Ans :=
  .next (onPart s fun s => settle (doBoundary s))

/-- BERM_NOTICE (R46). -/
def execBermNotice (s : State) : Ans :=
  .next (onPart s doBerm)

/-- EPOCH_FREEZE (R46, R47). -/
def execEpochFreeze (late lateTables : List (Nat × Nat)) (s : State) : Ans :=
  .next (onPart s fun s => doFreeze s late lateTables)

/-- STEP_START (R42): the step starts where it fits, and waits for the next tick otherwise. -/
def execStepStart (unit : BitVec 16) (bound : Nat) (t : Stamp) (s : State) : Ans :=
  .next (onPart (at_ s t) fun s => doStepStart s unit bound t)

/-- STALE_PIN (R56). -/
def execStalePin (c : CtxId) (s : State) : Ans :=
  .next (onPart s fun s => doStalePin s c.val)

/-- RETAINED_VERSION_FREE (R58). -/
def execRetainedVersionFree (coll : CollNo) (s : State) : Ans :=
  .next (onPart s fun s => doVersionFree s coll.val)

/-- TICK_START (R68, R72). -/
def execTickStart (startTick : BitVec 48) (t : Stamp) (s : State) : Ans :=
  .next (onPart (at_ s t) fun s => doTickStart s startTick.toNat t)

/-- TICK_STOP (R68). -/
def execTickStop (s : State) : Ans :=
  .next (onPart s doTickStop)

/-- STOP_JUDGEMENT (R68): the boundary at which a stop that was asked for is judged. -/
def execStopJudgement (s : State) : Ans :=
  .next (onPart s fun s => settle (doStopJudgement s))

/-- TICK_IN_EDGE (R60, R62). -/
def execTickInEdge (t : Stamp) (s : State) : Ans :=
  .next (onPart (at_ s t) fun s => doTickIn s t)

/-- PTP_EVENT_MESSAGE (R420). -/
def execPtpEventMessage (port : Port) (ptpNs : Nat) (t : Stamp) (s : State) : Ans :=
  .next (onPart (at_ s t) fun s => doPtp s port.val ptpNs t)

/-- ALIGN_LOST (R62). -/
def execAlignLost (s : State) : Ans :=
  .next (onPart s doAlignLost)

/-- REALIGN (R64). -/
def execRealign (s : State) : Ans :=
  .next (onPart s doRealign)

/-- ALIGN_REGAINED (R64). -/
def execAlignRegained (s : State) : Ans :=
  .next (onPart s doAlignRegained)

/-- ACQUIRING_EXIT (R65). -/
def execAcquiringExit (s : State) : Ans :=
  .next (onPart s doAcquiringExit)

end Sys2Proof.Machine
end

