-- ==== Sys2Proof/Machine/ExecWalk.lean ====
section
/-! DEFINITION. The meanings of the commands of the graph walk and of selection (R165 to R213). -/

namespace Sys2Proof.Machine

/-- WALK_START (R165). -/
def execWalkStart (c : CtxId) (part : Nat) (walker : Fin 512) (slot : Fin 16) (s : State) : Ans :=
  .next (onCrest s fun s => settle (doWalkStart s c.val part walker.val slot.val))

/-- BATCH_0 (R188). -/
def execBatch0 (walker : Fin 512) (slot : Fin 16) (t : Stamp) (s : State) : Ans :=
  .next (onCrest (at_ s t) fun s => if mayRun s (walkerUnit walker.val) t then doBatch0 s (slotKey walker.val slot.val) else s)

/-- EXPANSION_BATCH (R188). -/
def execExpansionBatch (walker : Fin 512) (slot : Fin 16) (t : Stamp) (s : State) : Ans :=
  .next (onCrest (at_ s t) fun s => if mayRun s (walkerUnit walker.val) t then doExpand s (slotKey walker.val slot.val) else s)

/-- MERGE (R205): a step of the die's selection unit (R202). -/
def execMerge (die : Crest) (c : CtxId) (t : Stamp) (s : State) : Ans :=
  .next (onCrest (at_ s t) fun s => if mayRun s (unitNo die.val 2 0) t then settle (doMerge s die.val c.val) else s)

end Sys2Proof.Machine
end

