-- ==== Sys2Proof/Machine/Dispatch.lean ====
section
/-! DEFINITION. One arm for each command. -/

namespace Sys2Proof.Machine

def exec (i : Instr) (s : State) : Host.Outcome State Fault Refusal :=
  match i with
  | .tickBoundary => Sys2Proof.Machine.execTickBoundary s
  | .bermNotice => Sys2Proof.Machine.execBermNotice s
  | .epochFreeze late lateTables => Sys2Proof.Machine.execEpochFreeze late lateTables s
  | .stepStart unit bound t => Sys2Proof.Machine.execStepStart unit bound t s
  | .stalePin c => Sys2Proof.Machine.execStalePin c s
  | .retainedVersionFree coll => Sys2Proof.Machine.execRetainedVersionFree coll s
  | .tickStart startTick t => Sys2Proof.Machine.execTickStart startTick t s
  | .tickStop => Sys2Proof.Machine.execTickStop s
  | .stopJudgement => Sys2Proof.Machine.execStopJudgement s
  | .tickInEdge t => Sys2Proof.Machine.execTickInEdge t s
  | .ptpEventMessage port ptpNs t => Sys2Proof.Machine.execPtpEventMessage port ptpNs t s
  | .alignLost => Sys2Proof.Machine.execAlignLost s
  | .realign => Sys2Proof.Machine.execRealign s
  | .alignRegained => Sys2Proof.Machine.execAlignRegained s
  | .acquiringExit => Sys2Proof.Machine.execAcquiringExit s
  | .commandEntryRead port ring t => Sys2Proof.Machine.execCommandEntryRead port ring t s
  | .aftDescriptor conn t => Sys2Proof.Machine.execAftDescriptor conn t s
  | .sluiceGrant => Sys2Proof.Machine.execSluiceGrant s
  | .waitLimit p => Sys2Proof.Machine.execWaitLimit p s
  | .cancel p target => Sys2Proof.Machine.execCancel p target s
  | .deadline c => Sys2Proof.Machine.execDeadline c s
  | .handoff c dst t => Sys2Proof.Machine.execHandoff c dst t s
  | .hnd src dst t => Sys2Proof.Machine.execHnd src dst t s
  | .hak src dst t => Sys2Proof.Machine.execHak src dst t s
  | .hakTimeout die c t => Sys2Proof.Machine.execHakTimeout die c t s
  | .abort src dst => Sys2Proof.Machine.execAbort src dst s
  | .subRequest c dst part t => Sys2Proof.Machine.execSubRequest c dst part t s
  | .partialResultReturn die c h t => Sys2Proof.Machine.execPartialResultReturn die c h t s
  | .partialResultResend die c h t => Sys2Proof.Machine.execPartialResultResend die c h t s
  | .lossNotice d => Sys2Proof.Machine.execLossNotice d s
  | .dieLostFinding src home => Sys2Proof.Machine.execDieLostFinding src home s
  | .reeveDieLostCompletion d => Sys2Proof.Machine.execReeveDieLostCompletion d s
  | .reeveCompletion c => Sys2Proof.Machine.execReeveCompletion c s
  | .containedError u c idReadable => Sys2Proof.Machine.execContainedError u c idReadable s
  | .stagePass c t => Sys2Proof.Machine.execStagePass c t s
  | .retirement c t => Sys2Proof.Machine.execRetirement c t s
  | .completionWrite port t => Sys2Proof.Machine.execCompletionWrite port t s
  | .polderActivate => Sys2Proof.Machine.execPolderActivate s
  | .pldUnload p abort t => Sys2Proof.Machine.execPldUnload p abort t s
  | .drainingStart p => Sys2Proof.Machine.execDrainingStart p s
  | .polderAbsent p => Sys2Proof.Machine.execPolderAbsent p s
  | .deferredRateApply => Sys2Proof.Machine.execDeferredRateApply s
  | .sluGcfgWrite v => Sys2Proof.Machine.execSluGcfgWrite v s
  | .weiRateWrite w v => Sys2Proof.Machine.execWeiRateWrite w v s
  | .weirTokenAdd t => Sys2Proof.Machine.execWeirTokenAdd t s
  | .weirPass w t => Sys2Proof.Machine.execWeirPass w t s
  | .walkStart c part walker slot => Sys2Proof.Machine.execWalkStart c part walker slot s
  | .batch0 walker slot t => Sys2Proof.Machine.execBatch0 walker slot t s
  | .expansionBatch walker slot t => Sys2Proof.Machine.execExpansionBatch walker slot t s
  | .merge die c t => Sys2Proof.Machine.execMerge die c t s
  | .applyStep coll t => Sys2Proof.Machine.execApplyStep coll t s
  | .consolidation coll seg => Sys2Proof.Machine.execConsolidation coll seg s
  | .replicaApplyStep coll t => Sys2Proof.Machine.execReplicaApplyStep coll t s
  | .replCommitDecision coll => Sys2Proof.Machine.execReplCommitDecision coll s
  | .planAccept => Sys2Proof.Machine.execPlanAccept s
  | .atomicSwap coll => Sys2Proof.Machine.execAtomicSwap coll s
  | .rollingSwap coll => Sys2Proof.Machine.execRollingSwap coll s
  | .bsuSegment st p win t => Sys2Proof.Machine.execBsuSegment st p win t s
  | .scan st p r seg => Sys2Proof.Machine.execScan st p r seg s
  | .shadow st p r seg => Sys2Proof.Machine.execShadow st p r seg s
  | .filter st p r seg => Sys2Proof.Machine.execFilter st p r seg s
  | .pool st p r c => Sys2Proof.Machine.execPool st p r c s
  | .prune st p r c item => Sys2Proof.Machine.execPrune st p r c item s
  | .edgescan st p r cons seg base => Sys2Proof.Machine.execEdgescan st p r cons seg base s
  | .copy st p r pages => Sys2Proof.Machine.execCopy st p r pages s
  | .fill st p r => Sys2Proof.Machine.execFill st p r s
  | .scanSegmentList c seg isShadow => Sys2Proof.Machine.execScanSegmentList c seg isShadow s
  | .scrub st p t => Sys2Proof.Machine.execScrub st p t s
  | .patrolScrub st line t => Sys2Proof.Machine.execPatrolScrub st line t s
  | .refresh st p t => Sys2Proof.Machine.execRefresh st p t s
  | .eccModeChange st row => Sys2Proof.Machine.execEccModeChange st row s
  | .passStart c die slot => Sys2Proof.Machine.execPassStart c die slot s
  | .linearSlice die tile op slots err t => Sys2Proof.Machine.execLinearSlice die tile op slots err t s
  | .vector die tile op slots err t => Sys2Proof.Machine.execVector die tile op slots err t s
  | .embed die tile op slot err t => Sys2Proof.Machine.execEmbed die tile op slot err t s
  | .append die tile op slot err t => Sys2Proof.Machine.execAppend die tile op slot err t s
  | .attn die tile op slot head qb err t => Sys2Proof.Machine.execAttn die tile op slot head qb err t s
  | .attnBack die tile op slot head qb err t => Sys2Proof.Machine.execAttnBack die tile op slot head qb err t s
  | .optim die tile slot adapter err t => Sys2Proof.Machine.execOptim die tile slot adapter err t s
  | .weightReload die tile => Sys2Proof.Machine.execWeightReload die tile s
  | .hotLoad die tile by_ => Sys2Proof.Machine.execHotLoad die tile by_ s
  | .hotListSwitch die tile => Sys2Proof.Machine.execHotListSwitch die tile s
  | .hotRowFetch die tile row => Sys2Proof.Machine.execHotRowFetch die tile row s
  | .prefetch die slot table row => Sys2Proof.Machine.execPrefetch die slot table row s
  | .tableApplyStep table t => Sys2Proof.Machine.execTableApplyStep table t s
  | .moveCopy table t => Sys2Proof.Machine.execMoveCopy table t s
  | .moverListDoorbell die by_ => Sys2Proof.Machine.execMoverListDoorbell die by_ s
  | .moverCopy die t => Sys2Proof.Machine.execMoverCopy die t s
  | .publish die t => Sys2Proof.Machine.execPublish die t s
  | .moverTile die poolErr t => Sys2Proof.Machine.execMoverTile die poolErr t s
  | .ageEviction => Sys2Proof.Machine.execAgeEviction s
  | .publicationFlip p region => Sys2Proof.Machine.execPublicationFlip p region s
  | .recallTimeout line t => Sys2Proof.Machine.execRecallTimeout line t s
  | .hostLost h t => Sys2Proof.Machine.execHostLost h t s
  | .windowClose h => Sys2Proof.Machine.execWindowClose h s
  | .windowOpen h => Sys2Proof.Machine.execWindowOpen h s
  | .mirrorRebuild st => Sys2Proof.Machine.execMirrorRebuild st s
  | .flashRead ns unit c okStep t => Sys2Proof.Machine.execFlashRead ns unit c okStep t s
  | .flashLate io t => Sys2Proof.Machine.execFlashLate io t s
  | .unitWrite ns unit offset data c t => Sys2Proof.Machine.execUnitWrite ns unit offset data c t s
  | .wordLinePadding => Sys2Proof.Machine.execWordLinePadding s
  | .programEnd seq t => Sys2Proof.Machine.execProgramEnd seq t s
  | .mapCommit => Sys2Proof.Machine.execMapCommit s
  | .commitLog t => Sys2Proof.Machine.execCommitLog t s
  | .garbageCollection lun badPages t => Sys2Proof.Machine.execGarbageCollection lun badPages t s
  | .blockRefresh block badPages t => Sys2Proof.Machine.execBlockRefresh block badPages t s
  | .blockErase block => Sys2Proof.Machine.execBlockErase block s
  | .programFailure block t => Sys2Proof.Machine.execProgramFailure block t s
  | .eraseFailure block => Sys2Proof.Machine.execEraseFailure block s
  | .lunFailed lun => Sys2Proof.Machine.execLunFailed lun s
  | .channelFailed ch => Sys2Proof.Machine.execChannelFailed ch s
  | .checkpoint => Sys2Proof.Machine.execCheckpoint s
  | .flashListDoorbell n by_ => Sys2Proof.Machine.execFlashListDoorbell n by_ s
  | .read n okSteps t => Sys2Proof.Machine.execRead n okSteps t s
  | .write n t => Sys2Proof.Machine.execWrite n t s
  | .discard n t => Sys2Proof.Machine.execDiscard n t s
  | .flashEnable v => Sys2Proof.Machine.execFlashEnable v s
  | .portMode n v => Sys2Proof.Machine.execPortMode n v s
  | .laneTrained n lane => Sys2Proof.Machine.execLaneTrained n lane s
  | .halfTrainingTimeout n half => Sys2Proof.Machine.execHalfTrainingTimeout n half s
  | .ethernetFrame n isAft vlan pcp bytes fcsOk icrcOk t => Sys2Proof.Machine.execEthernetFrame n isAft vlan pcp bytes fcsOk icrcOk t s
  | .pfcFrame n half quanta t => Sys2Proof.Machine.execPfcFrame n half quanta t s
  | .pfcConfigWrite n v => Sys2Proof.Machine.execPfcConfigWrite n v s
  | .sendFirst p t => Sys2Proof.Machine.execSendFirst p t s
  | .sendMiddle p t => Sys2Proof.Machine.execSendMiddle p t s
  | .sendLast p t => Sys2Proof.Machine.execSendLast p t s
  | .sendLastWithImmediate p t => Sys2Proof.Machine.execSendLastWithImmediate p t s
  | .sendOnly p t => Sys2Proof.Machine.execSendOnly p t s
  | .sendOnlyWithImmediate p t => Sys2Proof.Machine.execSendOnlyWithImmediate p t s
  | .keepalive n peer tick t => Sys2Proof.Machine.execKeepalive n peer tick t s
  | .keepaliveSend n => Sys2Proof.Machine.execKeepaliveSend n s
  | .peerLost n peer => Sys2Proof.Machine.execPeerLost n peer s
  | .ack p t => Sys2Proof.Machine.execAck p t s
  | .rnrNak p wait t => Sys2Proof.Machine.execRnrNak p wait t s
  | .nakSequence p t => Sys2Proof.Machine.execNakSequence p t s
  | .nakInvalid p => Sys2Proof.Machine.execNakInvalid p s
  | .nakAccess p => Sys2Proof.Machine.execNakAccess p s
  | .retransmitTimeout c t => Sys2Proof.Machine.execRetransmitTimeout c t s
  | .rnrWaitEnd c t => Sys2Proof.Machine.execRnrWaitEnd c t s
  | .ackDelay c t => Sys2Proof.Machine.execAckDelay c t s
  | .connectingAck c => Sys2Proof.Machine.execConnectingAck c s
  | .contextFetch c t => Sys2Proof.Machine.execContextFetch c t s
  | .aftDb n by_ v => Sys2Proof.Machine.execAftDb n by_ v s
  | .send c t => Sys2Proof.Machine.execSend c t s
  | .sendImm c t => Sys2Proof.Machine.execSendImm c t s
  | .nop c t => Sys2Proof.Machine.execNop c t s
  | .chainStart c => Sys2Proof.Machine.execChainStart c s
  | .egressStart n half t => Sys2Proof.Machine.execEgressStart n half t s
  | .gateSwap n => Sys2Proof.Machine.execGateSwap n s
  | .reopen n => Sys2Proof.Machine.execReopen n s
  | .reopenEffect c => Sys2Proof.Machine.execReopenEffect c s
  | .fanout c t => Sys2Proof.Machine.execFanout c t s
  | .sub m t => Sys2Proof.Machine.execSub m t s
  | .list m t => Sys2Proof.Machine.execList m t s
  | .collectiveAbort m => Sys2Proof.Machine.execCollectiveAbort m s
  | .prepare m => Sys2Proof.Machine.execPrepare m s
  | .prepared m => Sys2Proof.Machine.execPrepared m s
  | .refuse m => Sys2Proof.Machine.execRefuse m s
  | .mapCommitDecision => Sys2Proof.Machine.execMapCommitDecision s
  | .commit m t => Sys2Proof.Machine.execCommit m t s
  | .mapAbort m => Sys2Proof.Machine.execMapAbort m s
  | .inDoubt => Sys2Proof.Machine.execInDoubt s
  | .statusSend => Sys2Proof.Machine.execStatusSend s
  | .status m => Sys2Proof.Machine.execStatus m s
  | .outcome m => Sys2Proof.Machine.execOutcome m s
  | .replStage m coll => Sys2Proof.Machine.execReplStage m coll s
  | .replStaged m coll => Sys2Proof.Machine.execReplStaged m coll s
  | .replCommit m coll t => Sys2Proof.Machine.execReplCommit m coll t s
  | .replDefer m coll => Sys2Proof.Machine.execReplDefer m coll s
  | .poolRead m okSteps t => Sys2Proof.Machine.execPoolRead m okSteps t s
  | .poolWrite m t => Sys2Proof.Machine.execPoolWrite m t s
  | .poolDone m t => Sys2Proof.Machine.execPoolDone m t s
  | .relay c bytes t => Sys2Proof.Machine.execRelay c bytes t s
  | .bmlTraining n tr t => Sys2Proof.Machine.execBmlTraining n tr t s
  | .trainingRetry n t => Sys2Proof.Machine.execTrainingRetry n t s
  | .retrain n t => Sys2Proof.Machine.execRetrain n t s
  | .retrainTimeout n t => Sys2Proof.Machine.execRetrainTimeout n t s
  | .dataFlit n bytes t => Sys2Proof.Machine.execDataFlit n bytes t s
  | .idleFlit n bytes => Sys2Proof.Machine.execIdleFlit n bytes s
  | .nakFlit n bytes t => Sys2Proof.Machine.execNakFlit n bytes t s
  | .initFlit n bytes t => Sys2Proof.Machine.execInitFlit n bytes t s
  | .nakRepeat n t => Sys2Proof.Machine.execNakRepeat n t s
  | .rdS h addr tag t => Sys2Proof.Machine.execRdS h addr tag t s
  | .rdO h addr tag t => Sys2Proof.Machine.execRdO h addr tag t s
  | .wrLine h addr tag data t => Sys2Proof.Machine.execWrLine h addr tag data t s
  | .drop h addr tag t => Sys2Proof.Machine.execDrop h addr tag t s
  | .wbKeep h addr tag data t => Sys2Proof.Machine.execWbKeep h addr tag data t s
  | .wbDrop h addr tag data t => Sys2Proof.Machine.execWbDrop h addr tag data t s
  | .snpAck h addr t => Sys2Proof.Machine.execSnpAck h addr t s
  | .snpData h addr data t => Sys2Proof.Machine.execSnpData h addr data t s
  | .csrRd h addr tag => Sys2Proof.Machine.execCsrRd h addr tag s
  | .csrWr h addr v t => Sys2Proof.Machine.execCsrWr h addr v t s
  | .hb n t => Sys2Proof.Machine.execHb n t s
  | .hbAck n seq t => Sys2Proof.Machine.execHbAck n seq t s
  | .hostAttach n => Sys2Proof.Machine.execHostAttach n s
  | .commandProducerDoorbell n ring index t => Sys2Proof.Machine.execCommandProducerDoorbell n ring index t s
  | .completionConsumerDoorbell n ring index t => Sys2Proof.Machine.execCompletionConsumerDoorbell n ring index t s
  | .load by_ t => Sys2Proof.Machine.execLoad by_ t s
  | .stagingEnd memFault t => Sys2Proof.Machine.execStagingEnd memFault t s
  | .unload by_ abort t => Sys2Proof.Machine.execUnload by_ abort t s
  | .plan by_ t => Sys2Proof.Machine.execPlan by_ t s
  | .attest by_ => Sys2Proof.Machine.execAttest by_ s
  | .update by_ => Sys2Proof.Machine.execUpdate by_ s
  | .ownerRecordCommit by_ => Sys2Proof.Machine.execOwnerRecordCommit by_ s
  | .partBoot pufOk badLinks stacksOk flashOk ms => Sys2Proof.Machine.execPartBoot pufOk badLinks stacksOk flashOk ms s
  | .linkTrainTimeout a b => Sys2Proof.Machine.execLinkTrainTimeout a b s
  | .linkFailed a b => Sys2Proof.Machine.execLinkFailed a b s
  | .classesOpen a b v => Sys2Proof.Machine.execClassesOpen a b v s
  | .failureDeclaration u => Sys2Proof.Machine.execFailureDeclaration u s
  | .pseudoChannelTimeout st p => Sys2Proof.Machine.execPseudoChannelTimeout st p s
  | .unmappedAccess by_ addr isWrite => Sys2Proof.Machine.execUnmappedAccess by_ addr isWrite s
  | .registerWrite by_ addr v t => Sys2Proof.Machine.execRegisterWrite by_ addr v t s
  | .enterSleep by_ t => Sys2Proof.Machine.execEnterSleep by_ t s
  | .enterDeep by_ t => Sys2Proof.Machine.execEnterDeep by_ t s
  | .enterOff by_ t => Sys2Proof.Machine.execEnterOff by_ t s
  | .stateEntry => Sys2Proof.Machine.execStateEntry s
  | .drainRefusal => Sys2Proof.Machine.execDrainRefusal s
  | .wake by_ t => Sys2Proof.Machine.execWake by_ t s
  | .wakeEvent src t => Sys2Proof.Machine.execWakeEvent src t s
  | .sleepExit => Sys2Proof.Machine.execSleepExit s
  | .deepExit t => Sys2Proof.Machine.execDeepExit t s
  | .wakeTimer t => Sys2Proof.Machine.execWakeTimer t s
  | .wakeN t0 t => Sys2Proof.Machine.execWakeN t0 t s
  | .operatingPointTarget by_ target => Sys2Proof.Machine.execOperatingPointTarget by_ target s
  | .frequencySwitch t => Sys2Proof.Machine.execFrequencySwitch t s
  | .sensorSample m t => Sys2Proof.Machine.execSensorSample m t s
  | .emergencyReturn t => Sys2Proof.Machine.execEmergencyReturn t s
  | .throttleStep t => Sys2Proof.Machine.execThrottleStep t s
  | .fatal cause t => Sys2Proof.Machine.execFatal cause t s
  | .watchdogExpiry t => Sys2Proof.Machine.execWatchdogExpiry t s
  | .partReset t0 t => Sys2Proof.Machine.execPartReset t0 t s
  | .resetNRise => Sys2Proof.Machine.execResetNRise s
  | .vauxRise autoon i3cAddr => Sys2Proof.Machine.execVauxRise autoon i3cAddr s
  | .vinFault t0 t => Sys2Proof.Machine.execVinFault t0 t s
  | .vinCollapse => Sys2Proof.Machine.execVinCollapse s
  | .vauxLoss t0 t => Sys2Proof.Machine.execVauxLoss t0 t s
  | .vinEntersRange => Sys2Proof.Machine.execVinEntersRange s
  | .hostMeterRefill t => Sys2Proof.Machine.execHostMeterRefill t s
  | .bmlCrdWrite n v => Sys2Proof.Machine.execBmlCrdWrite n v s
  | .bmlHbCfgWrite n v => Sys2Proof.Machine.execBmlHbCfgWrite n v s
  | .jtagInstruction op => Sys2Proof.Machine.execJtagInstruction op s

end Sys2Proof.Machine
end

