-- ==== Sys2Proof/Machine/Step.lean ====
section
/-! DEFINITION. One step of the block: it takes the oldest waiting command. -/

namespace Sys2Proof.Machine

/-- The command at the front of the queue has its effect; with none waiting, the block idles (DESIGN CHOICE: time moves only with the stamps
of commands, and the tick's own events are rows of the table). -/
def step (s : State) : Ans :=
  match s.pending with
  | [] => .next s
  | c :: rest => exec c { s with pending := rest }

/-- The state with the command that a word spells in front of its queue: none, since no row of the table has bits. -/
def State.withFetchWord (s : State) (nbits w : Nat) : State :=
  match decodeTableWord nbits w with
  | some c => { s with pending := c :: s.pending }
  | none => s

end Sys2Proof.Machine
end

