-- ==== Sys2Proof/WellFormed.lean ====
section
/-! DEFINITION. Which commands are well formed: operands that the type of a command leaves wider than the manual does. A meaning is total all
the same; what the part does with a value that it can receive and the manual refuses is that meaning's. -/

namespace Sys2Proof

/-- Strictly rising numbers: a set without order or repeats. -/
def rising : List Nat → Bool
  | a :: b :: l => decide (a < b) && rising (b :: l)
  | _ => true

/-- A step of the retry ladder: 1 to n + 2 with n at most 15 (R388). -/
def ladder (k : Nat) : Bool := decide (1 ≤ k) && decide (k ≤ 17)

/-- Blocks are numbered by LUN, plane and block of the plane; 32 channels, 64 LUNs each (R386). -/
def lunLimit : Nat := 2048
def blockLimit : Nat := lunLimit * 131072

/-- A message of the fabric: attempt 0 to 3, an epoch of 48 bits (R444). -/
def fabWf (m : FabMsg) : Bool := decide (m.attempt < 4) && decide (m.epoch < 2 ^ 48)

/-- A packet carries at most 4,096 bytes, and as many as its length says at most (R421, R422). -/
def packetWf (p : Packet) : Bool := decide (p.payload.length ≤ 4096)

/-- What a training exchange settles: a reserve for each class (R464). -/
def trainWf (tr : BmlTrain) : Bool := tr.farRes.length == 8

/-- The check. -/
def Instr.wf (i : Instr) : Bool :=
  match i with
  | .tickBoundary => true
  | .bermNotice => true
  | .epochFreeze late lateTables => rising (late.map (·.1)) && rising (lateTables.map (·.1)) && late.all (·.1 < 256) && lateTables.all (·.1 < 256)
  | .stepStart _ bound _ => 0 < bound
  | .stalePin _ => true
  | .retainedVersionFree _ => true
  | .tickStart _ _ => true
  | .tickStop => true
  | .stopJudgement => true
  | .tickInEdge _ => true
  | .ptpEventMessage _ _ _ => true
  | .alignLost => true
  | .realign => true
  | .alignRegained => true
  | .acquiringExit => true
  | .commandEntryRead _ _ _ => true
  | .aftDescriptor _ _ => true
  | .sluiceGrant => true
  | .waitLimit _ => true
  | .cancel _ _ => true
  | .deadline _ => true
  | .handoff _ _ _ => true
  | .hnd _ _ _ => true
  | .hak _ _ _ => true
  | .hakTimeout _ _ _ => true
  | .abort _ _ => true
  | .subRequest _ _ part _ => part < 65535
  | .partialResultReturn _ _ _ _ => true
  | .partialResultResend _ _ _ _ => true
  | .lossNotice _ => true
  | .dieLostFinding _ _ => true
  | .reeveDieLostCompletion _ => true
  | .reeveCompletion _ => true
  | .containedError _ _ _ => true
  | .stagePass _ _ => true
  | .retirement _ _ => true
  | .completionWrite _ _ => true
  | .polderActivate => true
  | .pldUnload _ _ _ => true
  | .drainingStart _ => true
  | .polderAbsent _ => true
  | .deferredRateApply => true
  | .sluGcfgWrite _ => true
  | .weiRateWrite _ _ => true
  | .weirTokenAdd _ => true
  | .weirPass _ _ => true
  | .walkStart _ part _ _ => part < 65535
  | .batch0 _ _ _ => true
  | .expansionBatch _ _ _ => true
  | .merge _ _ _ => true
  | .applyStep _ _ => true
  | .consolidation _ _ => true
  | .replicaApplyStep _ _ => true
  | .replCommitDecision _ => true
  | .planAccept => true
  | .atomicSwap _ => true
  | .rollingSwap _ => true
  | .bsuSegment _ _ _ _ => true
  | .scan _ _ _ seg => seg < 2 ^ 18
  | .shadow _ _ _ seg => seg < 2 ^ 18
  | .filter _ _ _ seg => seg < 2 ^ 18
  | .pool _ _ _ _ => true
  | .prune _ _ _ _ item => item < 4096
  | .edgescan _ _ _ cons seg _ => cons < 2 ^ 18 && seg < 2 ^ 18
  | .copy _ _ _ pages => 0 < pages.length && pages.length ≤ 4096
  | .fill _ _ _ => true
  | .scanSegmentList _ seg _ => seg < 2 ^ 18
  | .scrub _ _ _ => true
  | .patrolScrub _ line _ => line < 1610612736
  | .refresh _ _ _ => true
  | .eccModeChange _ _ => true
  | .passStart _ _ _ => true
  | .linearSlice _ _ _ _ _ _ => true
  | .vector _ _ _ _ _ _ => true
  | .embed _ _ _ _ _ _ => true
  | .append _ _ _ _ _ _ => true
  | .attn _ _ _ _ _ _ _ _ => true
  | .attnBack _ _ _ _ _ _ _ _ => true
  | .optim _ _ _ _ _ _ => true
  | .weightReload _ _ => true
  | .hotLoad _ _ _ => true
  | .hotListSwitch _ _ => true
  | .hotRowFetch _ _ _ => true
  | .prefetch _ _ _ _ => true
  | .tableApplyStep _ _ => true
  | .moveCopy _ _ => true
  | .moverListDoorbell _ _ => true
  | .moverCopy _ _ => true
  | .publish _ _ => true
  | .moverTile _ _ _ => true
  | .ageEviction => true
  | .publicationFlip _ _ => true
  | .recallTimeout line _ => line < 2 ^ 42
  | .hostLost _ _ => true
  | .windowClose _ => true
  | .windowOpen _ => true
  | .mirrorRebuild _ => true
  | .flashRead _ _ _ okStep _ => okStep.all ladder
  | .flashLate _ _ => true
  | .unitWrite _ _ offset data _ _ => 0 < data.length && offset + data.length ≤ 16384
  | .wordLinePadding => true
  | .programEnd _ _ => true
  | .mapCommit => true
  | .commitLog _ => true
  | .garbageCollection lun badPages _ => lun < lunLimit && rising badPages
  | .blockRefresh block badPages _ => block < blockLimit && rising badPages
  | .blockErase block => block < blockLimit
  | .programFailure block _ => block < blockLimit
  | .eraseFailure block => block < blockLimit
  | .lunFailed lun => lun < lunLimit
  | .channelFailed _ => true
  | .checkpoint => true
  | .flashListDoorbell _ _ => true
  | .read _ okSteps _ => okSteps.all fun o => o.all ladder
  | .write _ _ => true
  | .discard _ _ => true
  | .flashEnable _ => true
  | .portMode _ _ => true
  | .laneTrained _ _ => true
  | .halfTrainingTimeout _ _ => true
  | .ethernetFrame _ _ _ _ bytes _ _ _ => 64 ≤ bytes
  | .pfcFrame _ _ quanta _ => rising (quanta.map fun q => q.1.val)
  | .pfcConfigWrite _ _ => true
  | .sendFirst p _ => packetWf p
  | .sendMiddle p _ => packetWf p
  | .sendLast p _ => packetWf p
  | .sendLastWithImmediate p _ => packetWf p
  | .sendOnly p _ => packetWf p
  | .sendOnlyWithImmediate p _ => packetWf p
  | .keepalive _ _ _ _ => true
  | .keepaliveSend _ => true
  | .peerLost _ _ => true
  | .ack _ _ => true
  | .rnrNak _ _ _ => true
  | .nakSequence _ _ => true
  | .nakInvalid _ => true
  | .nakAccess _ => true
  | .retransmitTimeout _ _ => true
  | .rnrWaitEnd _ _ => true
  | .ackDelay _ _ => true
  | .connectingAck _ => true
  | .contextFetch _ _ => true
  | .aftDb _ _ _ => true
  | .send _ _ => true
  | .sendImm _ _ => true
  | .nop _ _ => true
  | .chainStart _ => true
  | .egressStart _ _ _ => true
  | .gateSwap _ => true
  | .reopen _ => true
  | .reopenEffect _ => true
  | .fanout _ _ => true
  | .sub m _ => fabWf m
  | .list m _ => fabWf m
  | .collectiveAbort m => fabWf m
  | .prepare m => fabWf m
  | .prepared m => fabWf m
  | .refuse m => fabWf m
  | .mapCommitDecision => true
  | .commit m _ => fabWf m
  | .mapAbort m => fabWf m
  | .inDoubt => true
  | .statusSend => true
  | .status m => fabWf m
  | .outcome m => fabWf m
  | .replStage m _ => fabWf m
  | .replStaged m _ => fabWf m
  | .replCommit m _ _ => fabWf m
  | .replDefer m _ => fabWf m
  | .poolRead m okSteps _ => fabWf m && okSteps.all fun o => o.all ladder
  | .poolWrite m _ => fabWf m
  | .poolDone m _ => fabWf m
  | .relay _ _ _ => true
  | .bmlTraining _ tr _ => trainWf tr
  | .trainingRetry _ _ => true
  | .retrain _ _ => true
  | .retrainTimeout _ _ => true
  | .dataFlit _ bytes _ => bytes.length == 256
  | .idleFlit _ bytes => bytes.length == 256
  | .nakFlit _ bytes _ => bytes.length == 256
  | .initFlit _ bytes _ => bytes.length == 256
  | .nakRepeat _ _ => true
  | .rdS _ addr _ _ => addr.toNat % 64 == 0
  | .rdO _ addr _ _ => addr.toNat % 64 == 0
  | .wrLine _ addr _ data _ => data.length == 64 && addr.toNat % 64 == 0
  | .drop _ addr _ _ => addr.toNat % 64 == 0
  | .wbKeep _ addr _ data _ => data.length == 64 && addr.toNat % 64 == 0
  | .wbDrop _ addr _ data _ => data.length == 64 && addr.toNat % 64 == 0
  | .snpAck _ addr _ => addr.toNat % 64 == 0
  | .snpData _ addr data _ => data.length == 64 && addr.toNat % 64 == 0
  | .csrRd _ _ _ => true
  | .csrWr _ _ _ _ => true
  | .hb _ _ => true
  | .hbAck _ _ _ => true
  | .hostAttach _ => true
  | .commandProducerDoorbell _ _ _ _ => true
  | .completionConsumerDoorbell _ _ _ _ => true
  | .load _ _ => true
  | .stagingEnd _ _ => true
  | .unload _ _ _ => true
  | .plan _ _ => true
  | .attest _ => true
  | .update _ => true
  | .ownerRecordCommit _ => true
  | .partBoot _ _ _ _ _ => true
  | .linkTrainTimeout _ _ => true
  | .linkFailed _ _ => true
  | .classesOpen _ _ _ => true
  | .failureDeclaration _ => true
  | .pseudoChannelTimeout _ _ => true
  | .unmappedAccess _ _ _ => true
  | .registerWrite _ _ _ _ => true
  | .enterSleep _ _ => true
  | .enterDeep _ _ => true
  | .enterOff _ _ => true
  | .stateEntry => true
  | .drainRefusal => true
  | .wake _ _ => true
  | .wakeEvent _ _ => true
  | .sleepExit => true
  | .deepExit _ => true
  | .wakeTimer _ => true
  | .wakeN t0 t => t0 ≤ t
  | .operatingPointTarget _ _ => true
  | .frequencySwitch _ => true
  | .sensorSample m _ => m.tj.length == 8 && m.ts.length == 20
  | .emergencyReturn _ => true
  | .throttleStep _ => true
  | .fatal _ _ => true
  | .watchdogExpiry _ => true
  | .partReset t0 t => t0 ≤ t
  | .resetNRise => true
  | .vauxRise _ _ => true
  | .vinFault t0 t => t0 ≤ t
  | .vinCollapse => true
  | .vauxLoss t0 t => t0 ≤ t
  | .vinEntersRange => true
  | .hostMeterRefill _ => true
  | .bmlCrdWrite _ _ => true
  | .bmlHbCfgWrite _ _ => true
  | .jtagInstruction _ => true

end Sys2Proof
end

