-- ==== Sys2Proof/Safety.lean ====
section
/-! DEFINITION. The terms in which claims speak of a run: the canonical memory, the part that can act, and the events a dead part takes. -/

namespace Sys2Proof.Machine

/-- The commands a part without rails, or held in reset, takes: the supplies, the pins, the boot, and the readings that end the part. -/
def supplyEvent (c : Instr) : Bool :=
  match c with
  | .partBoot .. | .wakeEvent .. | .wakeN .. | .wake .. | .sensorSample .. | .fatal .. | .watchdogExpiry .. | .partReset .. | .resetNRise
  | .vauxRise .. | .vinFault .. | .vinCollapse | .vauxLoss .. | .vinEntersRange | .jtagInstruction .. => true
  | _ => false

/-- A boot, the one command that brings a part out of OFF. -/
def isBoot (c : Instr) : Bool :=
  match c with
  | .partBoot .. => true
  | _ => false

/-- The part is OFF with its rails down, and no boot is among the waiting commands. -/
def Off (s : State) : Prop := pwrState s = 4 ∧ s.pwr.railsUp = false ∧ ∀ c ∈ s.pending, isBoot c = false

/-- The work of walkers, selection units, BSUs, tensor tiles and embedding units. -/
def crestWork (c : Instr) : Bool :=
  match c with
  | .walkStart .. | .batch0 .. | .expansionBatch .. | .merge .. | .bsuSegment .. | .scanSegmentList .. | .passStart .. | .linearSlice ..
  | .vector .. | .embed .. | .append .. | .attn .. | .attnBack .. | .optim .. | .weightReload .. | .hotRowFetch .. | .prefetch ..
  | .moverCopy .. | .moverTile .. => true
  | _ => false

/-- The next state `u` after die `d` ended LIVE context `c` of `s` with a code found by a unit: RETIRED under its generation, its one record
queued, owned by that die no more; memory and registers are as before. -/
def Ended (s u : State) (c code unit d : Nat) : Prop :=
  (getCtx u c).st = .retired ∧ (getCtx u c).gen = (getCtx s c).gen
    ∧ u.pend = s.pend ++ [⟨(getCtx s c).src, (ctxRecord s c code unit).words, (getCtx s c).work.wroteFl, false, none⟩]
    ∧ (∀ o ∈ (getDie u d).owns, ¬(o.ctx = c ∧ o.gen = (getCtx s c).gen))
    ∧ u.mem = s.mem ∧ u.csr = s.csr

/-- The messages on the crest links after those of `s`, in their order (R21). -/
def Sent (s u : State) (ms : List (Nat × Nat × LinkMsg)) : Prop :=
  u.flight.map (fun f => (f.src, f.dst, f.msg)) = s.flight.map (fun f => (f.src, f.dst, f.msg)) ++ ms

/-- The ABORTs by which the home die ends a generation of a context on every other living die it has a link to (R92). -/
def abortsOf (s : State) (home c g : Nat) (code : Option Nat) : List (Nat × Nat × LinkMsg) :=
  ((List.range 4).filter fun d => d ≠ home && !dieLost s d && !dieLost s home && !linkFailed s home d).map
    fun d => (home, d, .abort c g none code)

end Sys2Proof.Machine
end

