-- ==== Sys2Proof/Certificates/Slice0/Obligations.lean ====
section
/-! DEFINITION. The statements for the provers: for every command, what it does where it takes effect; the rules of the whole block; the state
after reset. -/

open Sys2Proof Sys2Proof.Machine

/-- A step takes the oldest waiting command and answers with that command's effect on the rest; with none waiting the block idles (the
model's choice, log entry 1). -/
def Obligations.StepTakesFront : Prop :=
  (∀ (s : State) (c : Instr), step { s with pending := c :: s.pending } = exec c s)
  ∧ (∀ s : State, s.pending = [] → step s = .next s)

/-- Every command completes: from every state, whatever its operands, its effect is a next state. No command of the table faults or is refused. -/
def Obligations.EveryCommandCompletes : Prop :=
  ∀ (c : Instr) (s : State), ∃ u, exec c s = .next u

/-- TICK_START and TICK_STOP (R68, R72): where a start or a stop takes effect, where it is refused, and where it is ignored. -/
def Obligations.TickStartStop : Prop :=
  (∀ (s : State) (n : BitVec 48) (t : Stamp),
    alive s = true → s.tick.running = false → inRanges .TCK_CFG (tckCfg s) = true → alignMode s = 0 → s.tick.epoch < n.toNat →
    ∃ u, exec (.tickStart n t) s = .next u ∧ u.tick.running = true ∧ u.tick.begun = false ∧ u.tick.align = .free
      ∧ u.tick.nextNum = n.toNat ∧ u.tick.nextAt = some (t + periodNs s) ∧ u.tick.tick = s.tick.tick ∧ u.tick.epoch = s.tick.epoch
      ∧ u.mem = s.mem ∧ ∀ r, regAddr r ≠ regAddr rTckCtl → getReg u r = getReg s r)
  ∧ (∀ (s : State) (n : BitVec 48) (t : Stamp),
    alive s = true → s.tick.running = false → inRanges .TCK_CFG (tckCfg s) = true → alignMode s = 2 → s.tick.epoch < n.toNat →
    ∃ u, exec (.tickStart n t) s = .next u ∧ u.tick.running = true ∧ u.tick.begun = false ∧ u.tick.align = .acquiring
      ∧ u.tick.nextNum = n.toNat ∧ u.tick.nextAt = none ∧ u.tick.tick = s.tick.tick ∧ u.tick.epoch = s.tick.epoch
      ∧ u.mem = s.mem ∧ ∀ r, regAddr r ≠ regAddr rTckCtl → getReg u r = getReg s r)
  ∧ (∀ (s : State) (n : BitVec 48) (t : Stamp),
    alive s = true → s.tick.running = false → inRanges .TCK_CFG (tckCfg s) = true → alignMode s = 1 →
    ∃ u, exec (.tickStart n t) s = .next u ∧ u.tick.running = true ∧ u.tick.begun = false ∧ u.tick.align = .acquiring
      ∧ u.tick.nextAt = none ∧ u.tick.tick = s.tick.tick ∧ u.tick.epoch = s.tick.epoch
      ∧ u.mem = s.mem ∧ ∀ r, regAddr r ≠ regAddr rTckCtl → getReg u r = getReg s r)
  ∧ (∀ s : State, alive s = true → s.tick.running = true →
    exec .tickStop s = .next { s with tick := { s.tick with stopReq := true } })
  ∧ (∀ s : State, alive s = true → s.tick.running = false → exec .tickStop s = .next s)
  ∧ (∀ (s : State) (n : BitVec 48) (t : Stamp), alive s = true → s.tick.running = true →
    exec (.tickStart n t) s = .next (setF (at_ s t) rTckCtl 63 16 n.toNat))
  ∧ (∀ (s : State) (n : BitVec 48) (t : Stamp),
    alive s = true → s.tick.running = false → (inRanges .TCK_CFG (tckCfg s) = false ∨ (alignMode s ≠ 1 ∧ n.toNat ≤ s.tick.epoch)) →
    exec (.tickStart n t) s = .next (setBit (setF (at_ s t) rTckCtl 63 16 n.toNat) rTckSts 6))
  ∧ (∀ s : State, s.tick.stopReq = true → s.polders.all (fun e => e.1 = 0 || e.2.st = .absent) = true → s.img.loading = none → s.img.planning = none →
    judgeStop s = haltTick s ∧ (haltTick s).tick.running = false)
  ∧ (∀ s : State, s.tick.stopReq = true →
    s.polders.all (fun e => e.1 = 0 || e.2.st = .absent) = false ∨ s.img.loading.isSome = true ∨ s.img.planning.isSome = true →
    judgeStop s = modTick (setBit s rTckSts 7) fun u => { u with stopReq := false })

/-- TICK_BOUNDARY and STOP_JUDGEMENT run the actions of a boundary in R46's order. -/
def Obligations.BoundaryOrder : Prop :=
  ∀ (s : State) (b : Stamp),
    alive s = true → s.tick.running = true → s.tick.begun = true → s.tick.bermAt.isSome = true → s.tick.frozen = true → s.tick.nextAt = some b →
    let r := at_ s b
    let s0 := modTick r fun u => { u with
      tick := s.tick.nextNum, base := b, begun := true, nextNum := s.tick.nextNum + 1, nextAt := some (b + periodNs s),
      bermAt := none, frozen := false, late := [], lateTab := [] }
    let s1 := countOverruns (takeReports (latchCounters ((poldersIn s0 .active).foldl doDraining s0))) b s.tick.tick
    let s2 := modTick (tickOut (turnCounts (refillAll (measure s1 b) b)) b) fun u => { u with epoch := s.tick.nextNum }
    let s3 := abortCheck (publishShardMap (publishAll s2 s.tick.nextNum) s.tick.nextNum)
    let s4 := action4 (action3 s3.1 s3.2)
    let s5 := if s3.2 then enterState s4 (s3.1.pwr.entry.elim 0 (·.target)) else drainStep s4
    let s6 := judgeStop (writePlans (doPlanAccept s5))
    let s7 := if s6.tick.running then action56 (doSleepExit (becomeReady (doActivate s6))) b else s6
    exec .tickBoundary s = .next (settle s7) ∧ (s.tick.stopReq = true → exec .stopJudgement s = .next (settle s7))

/-- BERM_NOTICE and EPOCH_FREEZE (R46, R47). -/
def Obligations.BermAndFreeze : Prop :=
  (∀ (s r : State) (b : Stamp),
    alive s = true → s.tick.running = true → s.tick.begun = true → s.tick.bermAt = none → s.tick.nextAt = some b → r = at_ s (b - bermNs s) →
    exec .bermNotice s = .next (switchOp (seePlans
      { r with tick := { r.tick with bermAt := some r.now }
               sluice := { r.sluice with bermLive := (r.ctxs.filter fun e => e.2.st = .live).map (·.1) } }) r.now))
  ∧ (∀ (s r : State) (b : Stamp) (late tabs : List (Nat × Nat)),
    alive s = true → s.tick.running = true → s.tick.begun = true → s.tick.bermAt.isSome = true → s.tick.frozen = false → s.tick.nextAt = some b →
    r = at_ s (b - us) →
    let late' := oneEach r.colls late
    let tabs' := oneEach r.tables tabs
    let f := late'.foldl (fun s x => moveGroups s x.1 s.tick.nextNum x.2) { r with tick := { r.tick with frozen := true, late := late', lateTab := tabs' } }
    exec (.epochFreeze late tabs) s = .next (tabs'.foldl (fun s x => deferTab s.tick.nextNum s x.1 x.2) f))

/-- STEP_START (R42): by how much a step overruns its bound is a free value (R45). -/
def Obligations.StepStart : Prop :=
  ∀ (s : State) (unit : BitVec 16) (bound : Nat) (t n : Stamp),
    alive s = true → s.tick.running = true → s.tick.begun = true → s.tick.nextAt = some n → unitBusy s unit t = false →
    exec (.stepStart unit bound t) s = .next (
      let r := at_ s t
      if t + bound ≤ n - bermNs s then
        { r with fresh := r.fresh + 1, tick := { r.tick with
            steps := r.tick.steps.filter (fun x => decide (t < x.endAt)) ++ [⟨unit, t + bound + Config.stepLate r.fresh, false⟩] } }
      else { r with tick := { r.tick with waiting := r.tick.waiting ++ [⟨unit, bound⟩] } })

/-- The rows of the timebase's references where they act (R60 to R65, R420). -/
def Obligations.Alignment : Prop :=
  (∀ (s : State) (t : Stamp), alive s = true → alignMode s = 2 → s.tick.running = true → s.tick.begun = false → s.tick.nextAt = none →
    exec (.tickInEdge t) s = .next { at_ s t with tick := { s.tick with edge := some t, ref := some t, nextAt := some t } })
  ∧ (∀ s : State, alive s = true → s.tick.running = true → s.tick.unjudged = true → s.tick.align = .aligned → 2 ≤ s.tick.bad →
    exec .alignLost s = .next (modTick (setBit s rTckSts 3) fun u => { u with good := 0, bad := u.bad + 1, unjudged := false, align := .unaligned }))
  ∧ (∀ s : State, alive s = true → s.tick.running = true → s.tick.unjudged = true → s.tick.align = .aligned → s.tick.bad < 2 →
    exec .alignLost s = .next { s with tick := { s.tick with good := 0, bad := s.tick.bad + 1, unjudged := false } })
  ∧ (∀ s : State, alive s = true → s.tick.align = .unaligned → 8 ≤ s.tick.good → s.tick.mismatch = false →
    exec .alignRegained s = .next { s with tick := { s.tick with align := .aligned } })
  ∧ (∀ s : State, alive s = true → s.tick.align = .acquiring → s.tick.begun = true → alignMode s = 2 → 8 ≤ s.tick.good →
    exec .acquiringExit s = .next { s with tick := { s.tick with align := .aligned } })
  ∧ (∀ s : State, alive s = true → s.tick.align = .acquiring → s.tick.begun = true → alignMode s = 1 → 1 ≤ s.tick.good →
    exec .acquiringExit s = .next { s with tick := { s.tick with align := .aligned } })
  ∧ (∀ (s : State) (p e : Stamp), alive s = true → alignMode s = 2 → s.tick.nextAt = some p → s.tick.align = .unaligned → s.tick.mismatch = false →
    s.tick.hasRef = true → alignTol s < s.tick.offset.natAbs → s.tick.stretch = none → s.tick.edge = some e →
    exec .realign s = .next (
      let tr := e + cdiv (p - e) (periodNs s) * periodNs s
      if s.tick.base + 2 * periodNs s < tr then setBit s rTckSts 5
      else { s with tick := { s.tick with nextNum := s.tick.tick + 1, nextAt := some tr, stretch := some (tr - p, 0) } }))
  ∧ (∀ (s : State) (port : Port) (ns : Nat) (t : Stamp), alive s = true → port.val = fld (tckCfg s) 36 35 → s.tick.nextAt.isSome = true →
    exec (.ptpEventMessage port ns t) s = .next { at_ s t with tick := { s.tick with ptpOff := some ((ns : Int) - t), ptpFresh := true } })

/-- COMMAND_ENTRY_READ and AFT_DESCRIPTOR take a descriptor to the dike; what the dike does with it (R80, R112). -/
def Obligations.IntakeToDike : Prop :=
  (∀ (s r r1 : State) (n : Port) (ring : Fin 64) (t : Stamp),
    r = at_ s t → alive r = true → ringOn r n.val ring.val = true → (getBml r n.val).gone = false → toePath r n.val = true →
    let i := cmdCons r n.val ring.val
    let g := getRing r n.val ring.val
    let a := (getReg r ⟨.BML_RING_CMD, n.val, ring.val⟩).toNat + 256 * (i % cmdSize r n.val ring.val)
    i ≠ g.cmdProd → dist32 i (g.cplCons + g.freed) < cplSize r n.val ring.val → hostAccess r none a 256 false = (.ok, r1) →
    let p := fld (ringCfg r n.val ring.val) 63 52
    let taken := setF r1 ⟨.BML_RING_STS, n.val, ring.val⟩ 63 32 ((i + 1) % 2 ^ 32)
    exec (.commandEntryRead n ring t) s = .next (settle (intake taken (.ring n.val ring.val) (entryDesc (leWords 32 (rdBytes r1 a 256))) p t n.val ring.val i)))
  ∧ (∀ (s r : State) (c : ConnNo) (t : Stamp) (bs : List Byte),
    r = at_ s t → alive r = true → connHears r c.val 1 = true → inFront r c.val = some bs → toePath r (connPort r c.val) = true →
    let d := leWords (cdiv bs.length 8) bs
    let u := takeInbox r c.val
    exec (.aftDescriptor c t) s = .next (settle (
      if bs.length = 64 + 8 * dBody d then intake u (.conn c.val) d (connPolder r c.val) t (connPort r c.val) c.val 0
      else refuseIntake u (.conn c.val) d (connPolder r c.val) Code.BAD_DESCRIPTOR)))
  ∧ (∀ (s : State) (src : Src) (d : List Word) (p : Nat) (t : Stamp) (toe line ix : Nat),
    (getPolder s p).st ≠ .absent → intakeCode s src d p ≠ 0 →
    intake s src d p t toe line ix = refuseIntake s src d p (intakeCode s src d p))
  ∧ (∀ (s r : State) (src : Src) (d : List Word) (p : Nat) (t : Stamp) (toe line ix : Nat),
    (getPolder s p).st ≠ .absent → intakeCode s src d p = 0 → r = dikeFill (unIdle s) p t →
    let cls := getReg r ⟨.PLD_CFG, p, 0⟩
    let permitted := if dClass d = 0 then fld cls 41 41 = 1 else if dClass d = 1 then fld cls 42 42 = 1 else fld cls 43 43 = 1
    ((getPolder r p).st = .draining →
      intake s src d p t toe line ix = dikeReport (bump r ⟨.SLU_CNT2, p, 0⟩ 63 32 1) src d p Code.POLDER_UNLOADED)
    ∧ ((getPolder r p).st ≠ .draining → dKind d ≠ kCancel → ¬permitted →
      intake s src d p t toe line ix = dikeReport (bump r ⟨.DIK_CNT1, p, 0⟩ 31 0 1) src d p Code.CLASS_DENIED)
    ∧ ((getPolder r p).st ≠ .draining → (dKind d = kCancel ∨ permitted) →
      intake s src d p t toe line ix =
        if getF r ⟨.DIK_CFG, p, 0⟩ 63 32 = 0 ∨ (getDike r p).tok < 2 ^ 32 then dikeReport (bump r ⟨.DIK_CNT0, p, 0⟩ 31 0 1) src d p Code.DIKE_DROP
        else sluiceArrive (wakeAt (bump (setDike r p { getDike r p with tok := (getDike r p).tok - 2 ^ 32 }) ⟨.DIK_CNT0, p, 0⟩ 63 32 1) 3 t)
          src d p t toe line ix))

/-- STALE_PIN, DEADLINE, CANCEL and REEVE_COMPLETION (R56, R98 to R100). A home die that owns the context ends it and sends ABORT; one that
does not leaves the completion to the owner or, by the next boundary, to the reeve. -/
def Obligations.BoundaryAborts : Prop :=
  (∀ (s : State) (c : CtxId), alive s = true → (getCtx s c.val).st = .live → (getCtx s c.val).src ≠ .none →
    dieLost s (homeDie c.val) = false → homeEnded s c.val (getCtx s c.val).gen = false →
    (getCtx s c.val).pin + getF s ⟨.PLD_CFG, (getCtx s c.val).polder, 0⟩ 63 54 ≤ s.tick.epoch → (getCtx s c.val).admitted < s.tick.epoch →
    ((getDie s (homeDie c.val)).owns.any fun o => o.ctx = c.val && o.gen = (getCtx s c.val).gen) = true →
    ∃ u, exec (.stalePin c) s = .next u ∧ Ended s u c.val Code.STALE_PIN (ctxUnit (homeDie c.val)) (homeDie c.val)
      ∧ Sent s u (abortsOf s (homeDie c.val) c.val (getCtx s c.val).gen none))
  ∧ (∀ (s : State) (c : CtxId), alive s = true → (getCtx s c.val).st = .live →
    dieLost s (homeDie c.val) = false → homeEnded s c.val (getCtx s c.val).gen = false →
    (getCtx s c.val).pin + getF s ⟨.PLD_CFG, (getCtx s c.val).polder, 0⟩ 63 54 ≤ s.tick.epoch → (getCtx s c.val).admitted < s.tick.epoch →
    ((getDie s (homeDie c.val)).owns.any fun o => o.ctx = c.val && o.gen = (getCtx s c.val).gen) = false →
    ownersOf s c.val (getCtx s c.val).gen ≠ [] →
    ∃ u, exec (.stalePin c) s = .next u ∧ (getCtx u c.val).st = .live ∧ u.pend = s.pend ∧ u.mem = s.mem ∧ u.csr = s.csr
      ∧ u.reeve = s.reeve ++ [⟨c.val, (getCtx s c.val).gen, (getCtx s c.val).src, Code.STALE_PIN,
          (ctxRecord s c.val Code.STALE_PIN (ctxUnit (homeDie c.val))).words, s.tick.nextNum⟩]
      ∧ Sent s u (abortsOf s (homeDie c.val) c.val (getCtx s c.val).gen (some Code.STALE_PIN)))
  ∧ (∀ (s : State) (c : CtxId) (b : Nat), alive s = true → (getCtx s c.val).st = .live → (getCtx s c.val).src ≠ .none →
    dieLost s (homeDie c.val) = false → homeEnded s c.val (getCtx s c.val).gen = false →
    s.tick.epoch < (getCtx s c.val).pin + getF s ⟨.PLD_CFG, (getCtx s c.val).polder, 0⟩ 63 54 →
    (getCtx s c.val).deadline = some b → b ≤ s.tick.epoch →
    ((getDie s (homeDie c.val)).owns.any fun o => o.ctx = c.val && o.gen = (getCtx s c.val).gen) = true →
    ∃ u, exec (.deadline c) s = .next u ∧ Ended s u c.val Code.DEADLINE (ctxUnit (homeDie c.val)) (homeDie c.val)
      ∧ Sent s u (abortsOf s (homeDie c.val) c.val (getCtx s c.val).gen none))
  ∧ (∀ (s : State) (p : PolderNo) (target : Word) (x : CancelReq), alive s = true →
    (s.sluice.cancels.find? fun x => x.polder = p.val && x.target = target && decide (x.elig ≤ s.tick.epoch)) = some x →
    let hits := liveMatches s x
    let r := hits.foldl (fun s c => abortHome s c Code.CANCELLED) s
    let y := { x with hits := x.hits || !hits.isEmpty }
    exec (.cancel p target) s
      = .next (finishCancel { r with sluice := { r.sluice with cancels := r.sluice.cancels.map fun z => if z = x then y else z } } y))
  ∧ (∀ (s : State) (c : CtxId) (r : ReeveDue), alive s = true → (s.reeve.filter fun r => r.ctx = c.val && decide (r.due ≤ s.tick.tick)) = [r] →
    r.src ≠ .none →
    ∃ u, exec (.reeveCompletion c) s = .next u ∧ u.reeve = s.reeve.erase r ∧ u.pend = s.pend ++ [⟨r.src, r.words, none, false, none⟩]
      ∧ u.mem = s.mem ∧ u.csr = s.csr
      ∧ ((getCtx s c.val).gen = r.gen ∧ (getCtx s c.val).st = .live → (getCtx u c.val).st = .retired))

/-- SLUICE_GRANT and WAIT_LIMIT (R118, R120). -/
def Obligations.SluiceRows : Prop :=
  (∀ s : State, alive s = true → sluiceShut s = false → s.tick.running = true → s.tick.begun = true → s.sluice.granted ≠ s.tick.tick →
    exec .sluiceGrant s = .next (sluiceGrant { s with sluice := { s.sluice with granted := s.tick.tick } }))
  ∧ (∀ s : State, alive s = true → sluiceShut s = true → s.tick.running = true → s.tick.begun = true → s.sluice.granted ≠ s.tick.tick →
    exec .sluiceGrant s = .next (setUsed { s with sluice := { s.sluice with granted := s.tick.tick } } 0 0 0))
  ∧ (∀ (s : State) (p : PolderNo), alive s = true → s.tick.begun = true →
    exec (.waitLimit p) s = .next (
      (s.sluice.waiting.filter fun w => w.polder = p.val && decide (w.elig + waitLimit s p.val w.cls ≤ s.tick.epoch)).foldl
        (fun s w => bump (refuseWaiting s w Code.WAIT_LIMIT (waitLimit s p.val w.cls)) ⟨.SLU_CNT1, p.val, 0⟩ 31 0 1) s))

/-- HANDOFF, HND, HAK, HAK_TIMEOUT and ABORT (R90 to R92): what the sender, the receiver and a die that learns of an end do. -/
def Obligations.HandoffRows : Prop :=
  (∀ (s r : State) (c : CtxId) (dst : Crest) (t : Stamp) (d : Nat) (nx : Stage), r = at_ s t → alive r = true →
    activeOwner r c.val = some d → succStage r c.val = some nx → isLive r c.val = true → stageReady r c.val = true → awaitsOf r c.val = [] →
    firstRefusal r c.val = none → handTarget r c.val d nx = some dst.val →
    let k := getCtx r c.val
    let h := (k.hseq + 1) % 65536
    exec (.handoff c dst t) s = .next (sendMsg
      (modDie (modCtx (carryLists (takeSearches r c.val d) c.val) c.val fun k => { k with hseq := h }) d fun x => { x with owns := x.owns.map fun o =>
        if o.ctx = c.val ∧ o.gen = k.gen then { o with handing := some ⟨dst.val, h, 1, t, false⟩ } else o }) d dst.val (.hnd c.val k.gen h nx.num)))
  ∧ (∀ (s r r1 : State) (src dst : Crest) (t : Stamp) (c g h n : Nat) (st : Stage), r = at_ s t → alive r = true →
    takeFlight r src.val dst.val .hnd = some (.hnd c g h n, r1) → linkFailed r1 dst.val src.val = false → (getCtx r1 c).gen = g →
    isDup (getDie r1 dst.val) c g h = false → stageOf (getPolder r1 (getCtx r1 c).polder) n = some st → isLive r1 c = true →
    exec (.hnd src dst t) s = .next (sendMsg
      (enterStage (modDie r1 dst.val fun d => { d with last := mapSet d.last c h, owns := d.owns ++ [⟨c, g, none⟩] }) c dst.val st)
      dst.val src.val (.hak c g h)))
  ∧ (∀ (s r r1 : State) (src dst : Crest) (t : Stamp) (c g h n : Nat), r = at_ s t → alive r = true →
    takeFlight r src.val dst.val .hnd = some (.hnd c g h n, r1) → linkFailed r1 dst.val src.val = false → (getCtx r1 c).gen = g →
    isDup (getDie r1 dst.val) c g h = true → exec (.hnd src dst t) s = .next (sendMsg r1 dst.val src.val (.hak c g h)))
  ∧ (∀ (s r r1 : State) (src dst : Crest) (t : Stamp) (c g h : Nat), r = at_ s t → alive r = true →
    takeFlight r src.val dst.val .hak = some (.hak c g h, r1) → (getCtx r1 c).gen = g →
    ((getDie r1 dst.val).owns.any fun o => o.ctx = c && o.gen = g && o.handing.elim false (fun x => x.dst = src.val && x.h = h)) = true →
    exec (.hak src dst t) s = .next (modDie r1 dst.val fun d =>
      { d with owns := d.owns.filter (fun o => !(o.ctx = c && o.gen = g)), handedTo := d.handedTo ++ [(c, g, src.val)] }))
  ∧ (∀ (s r : State) (die : Crest) (c : CtxId) (t : Stamp) (o : Own) (x : Handing), r = at_ s t → alive r = true →
    ((getDie r die.val).owns.find? fun o => o.ctx = c.val && o.gen = (getCtx r c.val).gen && o.handing.isSome) = some o → o.handing = some x →
    x.sentAt + hakWait ≤ t → linkFailed r die.val x.dst = false →
    exec (.hakTimeout die c t) s = .next (
      if x.sends < 4 then
        sendMsg (modDie r die.val fun d => { d with owns := d.owns.map fun y =>
          if y = o then { o with handing := some { x with sends := x.sends + 1, sentAt := t } } else y })
          die.val x.dst (.hnd c.val (getCtx r c.val).gen x.h (((succStage r c.val).map (·.num)).getD 0))
      else endOnDie (sendMsg r die.val x.dst (.abort c.val (getCtx r c.val).gen (some x.h) none)) die.val c.val Code.HANDOFF_TIMEOUT))
  ∧ (∀ (s r : State) (src dst : Crest) (c g n : Nat), alive s = true → dst.val < s.dies.length →
    takeFlight s src.val dst.val .ctl = some (.abort c g none (some n), r) → (getCtx r c).gen = g → (getCtx r c).st = .live →
    (getCtx r c).src ≠ .none → n ≠ 0 → served n = false → ((getDie r dst.val).owns.any fun o => o.ctx = c && o.gen = g) = true →
    ∃ u, exec (.abort src dst) s = .next u ∧ Ended r u c n (ctxUnit dst.val) dst.val ∧ (⟨c, g, none⟩ : Dead) ∈ (getDie u dst.val).dead)
  ∧ (∀ (s r : State) (src dst : Crest) (c g : Nat), alive s = true → dst.val < s.dies.length →
    takeFlight s src.val dst.val .ctl = some (.abort c g none none, r) → (getCtx r c).gen = g →
    ∃ u, exec (.abort src dst) s = .next u ∧ (⟨c, g, none⟩ : Dead) ∈ (getDie u dst.val).dead ∧ u.ctxs = s.ctxs ∧ u.mem = s.mem
      ∧ (∀ o ∈ (getDie u dst.val).owns, ¬(o.ctx = c ∧ o.gen = g)))
  ∧ (∀ (s r : State) (src dst : Crest) (c g : Nat) (h code : Option Nat), alive s = true →
    takeFlight s src.val dst.val .ctl = some (.abort c g h code, r) → (getCtx r c).gen ≠ g → exec (.abort src dst) s = .next r)

/-- SUB_REQUEST, PARTIAL_RESULT_RETURN and PARTIAL_RESULT_RESEND (R560, R561). -/
def Obligations.SubRequestRows : Prop :=
  (∀ (s r : State) (c : CtxId) (dst : Crest) (part : Nat) (t : Stamp) (d : Nat) (st : Stage), r = at_ s t → alive r = true → pwrState r < 2 →
    activeOwner r c.val = some d → getStage r c.val = some st → isLive r c.val = true → st.kind = .walk ∨ st.kind = .scan ∨ st.kind = .shadow →
    dst.val ≠ d → dieLost r dst.val = false → cWalkDie r (getColl r st.object) part = dst.val → part ∈ wantParts r c.val st →
    ((getDie r d).awaits.any fun a => a.ctx = c.val && a.gen = (getCtx r c.val).gen && a.part = part) = false →
    (covered (if st.kind = .shadow then (getCtx r c.val).work.shadows else (getCtx r c.val).work.lists)
        (if st.kind = .walk then [part] else cPartSegs r (getColl r st.object) part) = false ∨ isMutation (dKind (getCtx r c.val).desc) = true) →
    let h := ((getCtx r c.val).hseq + 1) % 65536
    let g := (getCtx r c.val).gen
    exec (.subRequest c dst part t) s = .next (sendMsg
      (modDie (modCtx r c.val fun k => { k with hseq := h }) d fun x => { x with awaits := x.awaits ++ [⟨c.val, g, dst.val, h, part, 1, t, none⟩] })
      d dst.val (.sub c.val g h part d)))
  ∧ (∀ (s r r1 : State) (src dst : Crest) (t : Stamp) (c g h part owner : Nat), r = at_ s t → alive r = true →
    takeFlight r src.val dst.val .hnd = some (.sub c g h part owner, r1) → linkFailed r1 dst.val src.val = false → (getCtx r1 c).gen = g →
    isDup (getDie r1 dst.val) c g h = false →
    exec (.hnd src dst t) s = .next (sendMsg
      (modDie r1 dst.val fun d => { d with last := mapSet d.last c h, subs := d.subs ++ [⟨c, g, h, owner, part, [], [], false, 0, t⟩] })
      dst.val src.val (.hak c g h)))
  ∧ (∀ (s r : State) (die : Crest) (c : CtxId) (h : BitVec 16) (t : Stamp) (x : Sub) (ls sh : List PList), r = at_ s t → alive r = true → pwrState r < 2 →
    ((getDie r die.val).subs.find? fun x => x.ctx = c.val && x.h = h.toNat && x.sends = 0) = some x → subResult r die.val x = some (ls, sh) →
    exec (.partialResultReturn die c h t) s = .next (
      if linkFailed r die.val x.owner then dropSub r die.val c.val x.gen h.toNat true
      else sendMsg
        (modDie r die.val fun d => { d with subs := d.subs.map fun y =>
          if y = x then { x with list := ls, shadow := sh, ready := true, sends := 1, sentAt := t } else y })
        die.val x.owner (.result c.val x.gen h.toNat ls sh)))
  ∧ (∀ (s r : State) (die : Crest) (c : CtxId) (h : BitVec 16) (t : Stamp) (x : Sub), r = at_ s t → alive r = true → pwrState r < 2 →
    ((getDie r die.val).subs.find? fun x => x.ctx = c.val && x.h = h.toNat && decide (0 < x.sends)) = some x → x.sentAt + hakWait ≤ t →
    exec (.partialResultResend die c h t) s = .next (
      if linkFailed r die.val x.owner ∨ 4 ≤ x.sends then dropSub r die.val c.val x.gen h.toNat true
      else sendMsg (modDie r die.val fun d => { d with subs := d.subs.map fun y => if y = x then { x with sends := x.sends + 1, sentAt := t } else y })
        die.val x.owner (.result c.val x.gen h.toNat x.list x.shadow)))

/-- LOSS_NOTICE, DIE_LOST_FINDING and REEVE_DIE_LOST_COMPLETION (R95). -/
def Obligations.DieLoss : Prop :=
  (∀ (s : State) (d : Crest), alive s = true → dieLost s d.val = false →
    let owned := (s.ctxs.filter fun e => e.2.st = .live && homeDie e.1 ≠ d.val && lastOwner s d.val e.1 e.2.gen).map (·.1)
    let s1 := modDie s d.val fun x => { x with lost := true, lostDue := s.tick.nextNum + 1 }
    let s2 := (List.range 8).foldl (fun s x => if x = d.val then s else failLink s x d.val) s1
    let s3 := { s2 with walks := s2.walks.filter (fun e => e.1 / 2048 ≠ d.val), jobs := s2.jobs.filter (·.die ≠ d.val) }
    let s4 := (List.range 4).foldl (fun s x => if dieLost s x then s else surviveLoss s d.val x) s3
    exec (.lossNotice d) s = .next (settle (owned.foldl
      (fun s c => if dieLost s (homeDie c) then s else endFromHome s (homeDie c) c Code.DIE_LOST) s4)))
  ∧ (∀ (s r : State) (src home : Crest) (c g : Nat), alive s = true → takeFlight s src.val home.val .ctl = some (.finding c g, r) →
    (getCtx r c).gen = g → homeDie c = home.val → (getCtx r c).st = .live → (getCtx r c).src ≠ .none →
    ∃ u, exec (.dieLostFinding src home) s = .next u ∧ Ended r u c Code.DIE_LOST (ctxUnit home.val) home.val
      ∧ Sent r u (abortsOf r home.val c g none))
  ∧ (∀ (s : State) (d : Crest) (c : Nat), alive s = true → dieLost s d.val = true → (getDie s d.val).lostDue ≤ s.tick.tick →
    ((s.ctxs.filter fun e => e.2.st = .live && homeDie e.1 = d.val).map (·.1)) = [c] → (getCtx s c).st = .live → (getCtx s c).src ≠ .none →
    ∃ u, exec (.reeveDieLostCompletion d) s = .next u ∧ ∀ x : Crest, Ended s u c Code.DIE_LOST (ctxUnit d.val) x.val)

/-- CONTAINED_ERROR (R534): the unit discards what it holds for the request, and only that; its die reports the request, or claims it no
longer where the id is lost. -/
def Obligations.ContainedErrors : Prop :=
  (∀ (s : State) (c : CtxId) (w : Fin 512) (sl : Fin 16), alive s = true → (getCtx s c.val).st = .live →
    exec (.containedError (.walkerSlot w sl) c true) s = .next { s with
      walks := s.walks.filter fun e => !(e.1 = slotKey w.val sl.val && e.2.ctx = c.val && e.2.gen = (getCtx s c.val).gen)
      orphans := s.orphans ++ [(c.val, (getCtx s c.val).gen)] })
  ∧ (∀ (s : State) (c : CtxId) (d : Crest), alive s = true → (getCtx s c.val).st = .live →
    exec (.containedError (.selectionJob d) c true) s = .next { s with
      jobs := s.jobs.filter fun j => !(j.ctx = c.val && j.gen = (getCtx s c.val).gen && j.die = d.val)
      orphans := s.orphans ++ [(c.val, (getCtx s c.val).gen)] })
  ∧ (∀ (s : State) (c : CtxId) (d : Crest), alive s = true → (getCtx s c.val).st = .live →
    ∃ u, exec (.containedError (.contextSlot d) c true) s = .next { u with orphans := s.orphans ++ [(c.val, (getCtx s c.val).gen)] }
      ∧ exec (.containedError (.contextSlot d) c false) s = .next u
      ∧ u = modDie s d.val fun x => { x with owns := x.owns.filter fun o => !(o.ctx = c.val && o.gen = (getCtx s c.val).gen) })
  ∧ (∀ (s : State) (c : CtxId) (d : Crest), alive s = true → (getCtx s c.val).st = .live →
    exec (.containedError (.selectionJob d) c false) s = .next { modDie s d.val (fun x =>
        { x with owns := x.owns.filter fun o => !(o.ctx = c.val && o.gen = (getCtx s c.val).gen) }) with
      jobs := s.jobs.filter fun j => !(j.ctx = c.val && j.gen = (getCtx s c.val).gen && j.die = d.val) })
  ∧ (∀ (s : State) (c : CtxId) (w : Fin 512) (sl : Fin 16) (x : Walk) (h : Nat), alive s = true → (getCtx s c.val).st = .live →
    getWalk s (slotKey w.val sl.val) = some x → x.ctx = c.val → x.gen = (getCtx s c.val).gen → x.sub = some h →
    exec (.containedError (.walkerSlot w sl) c false) s = .next { modDie s (w.val / 128) (fun x =>
        { x with subs := x.subs.filter fun y => !(y.ctx = c.val && y.gen = (getCtx s c.val).gen && y.h = h) }) with
      walks := s.walks.filter fun e => !(e.1 = slotKey w.val sl.val && e.2.ctx = c.val && e.2.gen = (getCtx s c.val).gen) })

/-- STAGE_PASS, RETIREMENT and COMPLETION_WRITE (R84, R86, R88, R484). -/
def Obligations.StagesAndRetirement : Prop :=
  (∀ (s r : State) (c : CtxId) (t : Stamp) (d : Nat) (nx : Stage), r = at_ s t → alive r = true → pwrState r < 2 →
    activeOwner r c.val = some d → succStage r c.val = some nx → isLive r c.val = true → stageReady r c.val = true → awaitsOf r c.val = [] →
    firstRefusal r c.val = none → hasCredit r (getCtx r c.val).polder nx d = true → (nx.kind = .select → jobRoom r d = true) →
    exec (.stagePass c t) s = .next (settle (enterStage (takeSearches r c.val d) c.val d nx)))
  ∧ (∀ (s r : State) (c : CtxId) (t : Stamp) (d : Nat) (st : Stage), r = at_ s t → alive r = true → activeOwner r c.val = some d →
    getStage r c.val = some st → isLive r c.val = true → (getCtx r c.val).work.refuse = none → st.kind ≠ .lookup → st.succ = none →
    stageReady r c.val = true → awaitsOf r c.val = [] → (getCtx r c.val).work.output = [] →
    exec (.retirement c t) s = .next (settle (dropWeirs
      (modDie (retire (takeSearches (takeLists r c.val) c.val d) c.val Code.OK 0) d (dropDie c.val (getCtx r c.val).gen)) c.val (getCtx r c.val).gen)))
  ∧ (∀ (s r : State) (n : Port) (t : Stamp) (p : Pending) (c : Nat), r = at_ s t → alive r = true → nextPend r n.val [] r.pend = some p → p.src = .conn c →
    (getConn r c).st = .established →
    exec (.completionWrite n t) s = .next (settle (pushMsg { r with pend := r.pend.erase p } c .completion
      (some ((dWord p.words 0).toNat % 2 ^ 32)) (wordBytes p.words))))
  ∧ (∀ (s r r1 r2 : State) (n : Port) (t : Stamp) (p : Pending) (m q : Nat), r = at_ s t → alive r = true → nextPend r n.val [] r.pend = some p →
    p.src = .ring m q →
    let i := cplProd r m q
    let size := cplSize r m q
    let a := (getReg r ⟨.BML_RING_CPL, m, q⟩).toNat + 64 * (i % size)
    let cfg := ringCfg r m q
    hostAccess r none a 64 true = (.ok, r1) → weirAsk r1 (fld cfg 63 52) wBmlWr m 64 0 (.flow (flowTag 8 (64 * m + q) i)) = (true, r2) →
    let w := setF (wrWords { r2 with pend := r2.pend.erase p } a (p.words.take 7 ++ [if i / size % 2 = 0 then 1 else 0]))
      ⟨.BML_RING_STS, m, q⟩ 31 0 ((i + 1) % 2 ^ 32)
    exec (.completionWrite n t) s = .next (settle (
      if fld cfg 41 41 = 1 ∧ (getRing w m q).notify then bmlPush (modRing w m q fun g => { g with notify := false }) m 0x3A 0 0 0 q [] else w)))

/-- PLD_UNLOAD, DRAINING_START, POLDER_ABSENT and POLDER_ACTIVATE (R109 to R111). -/
def Obligations.PolderLife : Prop :=
  (∀ (s : State) (p : PolderNo) (abort : Bool) (t : Stamp), alive s = true → p.val ≠ 0 → (getPolder s p.val).st = .active →
    (getPolder s p.val).unload = none →
    exec (.pldUnload p abort t) s
      = .next (setPolder (at_ s t) p.val { getPolder s p.val with unload := some (boundaryFor s t, abort) }))
  ∧ (∀ (s : State) (p : PolderNo) (u : Nat) (abort : Bool), alive s = true → (getPolder s p.val).st = .active →
    (getPolder s p.val).unload = some (u, abort) → u ≤ s.tick.tick →
    exec (.drainingStart p) s = .next (setPolder s p.val { getPolder s p.val with st := .draining, since := s.tick.tick }))
  ∧ (∀ (s : State) (p : PolderNo), alive s = true → (getPolder s p.val).st = .draining → liveOf s p.val = [] → completionWaits s p.val = false →
    consolRuns s p.val = false →
    ∃ r, exec (.polderAbsent p) s = .next (settle r) ∧ getPolder r p.val = { Polder.none with since := s.tick.tick }
      ∧ (∀ e ∈ r.colls, e.2.polder ≠ p.val) ∧ (∀ e ∈ r.tables, e.2.polder ≠ p.val) ∧ (∀ e ∈ r.models, e.2.polder ≠ p.val)
      ∧ (∀ e ∈ r.pubs, e.polder ≠ p.val))
  ∧ (∀ (s : State) (l : Loading) (q : LoadedPolder) (due : Nat), alive s = true → bootState s ≠ 0 → s.img.loading = some l → l.due = some due →
    l.staged = some q → imgState s = 3 → due ≤ s.tick.tick → s.tick.running = true → s.tick.begun = true →
    exec .polderActivate s = .next (settle (becomeReady (doActivate s)))
    ∧ (doActivate s).img.loading = none ∧ mapGet (doActivate s).img.seals l.polder = some ⟨q.svn, s.tick.tick, q.hash⟩)

/-- DEFERRED_RATE_APPLY, SLU_GCFG_WRITE, WEI_RATE_WRITE, WEIR_TOKEN_ADD and WEIR_PASS (R114, R122 to R124, R133). -/
def Obligations.RatesAndWeirs : Prop :=
  (∀ s : State, alive s = true → s.tick.begun = true →
    exec .deferredRateApply s = .next ((List.range 4).foldl applyPortCfg (applyRates s)))
  ∧ (∀ (s : State) (v : Word), alive s = true →
    exec (.sluGcfgWrite v) s = .next (
      if fld v 63 48 = 0 ∨ fld v 63 48 < reservations s ∨ fld v 47 40 = 0 then setBit s ⟨.SLU_GSTS, 0, 0⟩ 0
      else { s with sluice := { s.sluice with defer := some (setFld v 39 0 0) } }))
  ∧ (∀ (s : State) (w : Fin 16384) (v : Word), alive s = true →
    exec (.weiRateWrite w v) s = .next (
      if (fld v 63 32 = 0 ∧ fld (weiCfg s w.val) 0 0 = 1) ∨ fld v 31 0 < weirMin (fld (weiCfg s w.val) 51 48) (weirMtu s w.val)
      then setBit s ⟨.WEI_CFG, w.val, 0⟩ 1
      else setWeir s w.val { getWeir s w.val with defer := some v }))
  ∧ (∀ (s : State) (t : Stamp), alive s = true → exec (.weirTokenAdd t) s = .next (s.weirs.foldl (fun s e => weirFill s e.1 t) (at_ s t)))
  ∧ (∀ (s r : State) (w : Fin 16384) (t : Stamp) (u : WeirUnit) (us : List WeirUnit) (id : Nat), alive s = true → r = weirFill (at_ s t) w.val t →
    (getWeir r w.val).queue = u :: us → u.wheel ≤ t → u.cost * 2 ^ 20 ≤ (getWeir r w.val).tok → fits r t u.dur = true → u.tag = .flow id →
    exec (.weirPass w t) s = .next (settle (setWeir r w.val
      { getWeir r w.val with tok := (getWeir r w.val).tok - u.cost * 2 ^ 20, queue := us, passed := (getWeir r w.val).passed ++ [.flow id] })))
  ∧ (∀ (s r : State) (w : Fin 16384) (t : Stamp) (u : WeirUnit) (us : List WeirUnit) (c g : Nat), alive s = true → r = weirFill (at_ s t) w.val t →
    (getWeir r w.val).queue = u :: us → u.wheel ≤ t → u.cost * 2 ^ 20 ≤ (getWeir r w.val).tok → fits r t u.dur = true → u.tag = .mutate c g →
    isLive r c = true → (getCtx r c).gen = g →
    exec (.weirPass w t) s = .next (settle (mutatePassed (setWeir r w.val
      { getWeir r w.val with tok := (getWeir r w.val).tok - u.cost * 2 ^ 20, queue := us }) c)))

/-- The tokens of a weir stay within its burst (R122), and a dike's refill to a stamp (R113). -/
def Obligations.Tokens : Prop :=
  (∀ (s : State) (w : Nat) (t : Stamp), (getWeir (weirFill s w t) w).tok ≤ weirCap s w
    ∧ ((getWeir s w).tok ≤ weirCap s w → (getWeir s w).tok ≤ (getWeir (weirFill s w t) w).tok))
  ∧ (∀ (s : State) (p : Nat) (t : Stamp),
    let v := getDike s p
    let cfg := getReg s ⟨.DIK_CFG, p, 0⟩
    getDike (dikeFill s p t) p = { v with
      tok := min (v.tok + fld cfg 63 32 * (t - v.last) * 2 ^ 32 / 1000000000) (fld cfg 31 16 * 2 ^ 32)
      last := max v.last t })

/-- WALK_START, BATCH_0, EXPANSION_BATCH and MERGE (R165, R188, R205). -/
def Obligations.WalkRows : Prop :=
  (∀ (s s1 : State) (c : CtxId) (part : Nat) (walker : Fin 512) (slot : Fin 16) (st : Stage), alive s = true → pwrState s < 2 →
    let k := getCtx s c.val
    let key := slotKey walker.val slot.val
    let die := cWalkDie s (getColl s (dColl k.desc)) part
    let n := 2 * cDim s (getColl s (dColl k.desc))
    getStage s c.val = some st → isLive s c.val = true → st.kind = .walk → st.firstPart ≤ part → part < st.firstPart + st.parts →
    slotTakes s key k.polder k.stage die = true → activeOwner s c.val = some die → isMutation (dKind k.desc) = false →
    (s.walks.any fun e => e.2.ctx = c.val && e.2.gen = k.gen && e.2.part = part && e.2.item.isNone) = false → (k.work.lists.any (·.src = part)) = false →
    (dKind k.desc ≠ kSearch → dKind k.desc ≠ kScan →
      exec (.walkStart c part walker slot) s = .next (settle (setWalk s key (newWalk s c.val part none none k.work.query))))
    ∧ (dKind k.desc = kSearch ∨ dKind k.desc = kScan → hostAccess s (some c.val) (operandOf s k) n false = (.ok, s1) →
      ∃ r, (r = s1 ∨ r = poolUse s1 (dPolder k.desc) (dOpRegion k.desc) (dOpOffset k.desc + (operandOf s k - operandAddr s k.desc)) n false)
        ∧ exec (.walkStart c part walker slot) s
          = .next (settle (setWalk r key (newWalk r c.val part none none (bf16s (rdBytes r (operandOf s k) n)))))))
  ∧ (∀ (s r : State) (walker : Fin 512) (slot : Fin 16) (t : Stamp) (w : Walk), r = at_ s t → alive r = true → pwrState r < 2 →
    mayRun r (walkerUnit walker.val) t = true →
    let key := slotKey walker.val slot.val
    let co := getColl r w.coll
    getWalk r key = some w → w.st = .setup →
    let vers := (cPartSegs r co w.part).map fun g => (g, cResolve r co g w.pin)
    exec (.batch0 walker slot t) s = .next (endBatch r key w
      (endTest (seedAll r co (slotQueueLen (slotCfg r key)) { w := { w with vers := vers } } (epIds r (cResolveEp r co w.part w.pin))))))
  ∧ (∀ (s r : State) (walker : Fin 512) (slot : Fin 16) (t : Stamp) (w : Walk), r = at_ s t → alive r = true → pwrState r < 2 →
    mayRun r (walkerUnit walker.val) t = true →
    let key := slotKey walker.val slot.val
    getWalk r key = some w → w.st = .ready →
    exec (.expansionBatch walker slot t) s = .next (endBatch r key w
      (walkRounds r (getColl r w.coll) (slotQueueLen (slotCfg r key)) (slotRounds (slotCfg r key)) { w := w })))
  ∧ (∀ (s r : State) (die : Crest) (c : CtxId) (t : Stamp) (j : Job), r = at_ s t → alive r = true → pwrState r < 2 →
    mayRun r (unitNo die.val 2 0) t = true →
    (r.jobs.find? fun j => j.ctx = c.val && j.gen = (getCtx r c.val).gen && j.die = die.val) = some j → activeOwner r c.val = some die.val →
    exec (.merge die c t) s = .next (settle (mergeJob r c.val die.val j)))

/-- What the end of a batch stores (R188, R199). -/
def Obligations.BatchOutcome : Prop :=
  (∀ (s : State) (key : Nat) (w : Walk) (a : WalkAcc), a.w.err = 0 →
    getWalk (endBatch s key w a) key = some { a.w with st := if a.w.reason = .none then .ready else .offering }
      ∧ (endBatch s key w a).mem = s.mem ∧ (endBatch s key w a).ctxs = s.ctxs ∧ (endBatch s key w a).csr = s.csr)
  ∧ (∀ (s : State) (key : Nat) (w : Walk) (a : WalkAcc), a.w.err ≠ 0 →
    ∃ r, endBatch s key w a = failCtx r a.w.ctx a.w.err ∧ r.ctxs = s.ctxs ∧ r.mem = s.mem ∧ r.walks = s.walks)

/-- APPLY_STEP, CONSOLIDATION, REPLICA_APPLY_STEP and REPL_COMMIT_DECISION (R225, R229, R233). Where the step stands in its tick is R225's; that
it ends at its bound, and the number of a group without requests, are the model's choices (doApplyStep, groupRange). -/
def Obligations.MutationRows : Prop :=
  (∀ (s r : State) (coll : CollNo) (t b : Stamp), r = at_ s t → alive r = true → pwrState r < 2 →
    let co := getColl r coll.val
    let start := b - bermNs r - co.stepB - us
    (mapGet r.colls coll.val).isSome = true → co.writer = true → mReplicated r co = false → r.tick.running = true → r.tick.begun = true →
    r.tick.nextAt = some b → co.stepTick ≠ some r.tick.tick → r.now ≤ start →
    let r1 := at_ r start
    let commit := commitFor r1 (start + co.stepB)
    let a := applyWork r1 coll.val commit
    let u := setColl a.st coll.val { getColl a.st coll.val with
      stepTick := some r.tick.tick
      consol := (getColl a.st coll.val).consol.filter fun x => !(a.cons.contains x.mseq) }
    exec (.applyStep coll t) s = .next (settle (sendImages
      (if a.b.segs.isEmpty && a.b.eps.isEmpty && a.taken.isEmpty then u
       else
        let g := groupRange u coll.val a.lo a.hi
        stageGroup g.1 coll.val a.b g.2.1 g.2.2 (start + co.stepB) commit a.taken)
      coll.val co.groups.length)))
  ∧ (∀ (s s' : State) (coll : CollNo) (seg m : Nat), alive s = true → pwrState s < 2 →
    let co := getColl s coll.val
    let dead := deadSet s co seg (cResolve s co seg s.tick.epoch)
    (mapGet s.colls coll.val).isSome = true → seg < cSegments s co → co.writer = true → (co.consol.any (·.seg = seg)) = false →
    0 < mConsolRatio s co → mConsolRatio s co * cSegSize s co seg ≤ dead.length * 65536 → takeMseq s co = (s', m) →
    exec (.consolidation coll seg) s = .next (setColl s' coll.val { getColl s' coll.val with
      consol := (getColl s' coll.val).consol ++ [{ seg := seg, mseq := m, pin := s.tick.epoch, dead := dead }] }))
  ∧ (∀ (s r : State) (coll : CollNo) (t : Stamp), r = at_ s t → alive r = true → pwrState r < 2 → (mapGet r.colls coll.val).isSome = true →
    (getColl r coll.val).writer = false → r.tick.running = true → r.tick.begun = true →
    let due := (getColl r coll.val).images.filter fun i => decide (i.epoch ≤ r.tick.tick + 1)
    exec (.replicaApplyStep coll t) s = .next (settle (due.foldl (fun s i =>
      let (items, eps) := Config.replDecode i.body
      match stageImages s coll.val i.lo i.hi i.epoch items eps t with
      | some s =>
        let s := setColl s coll.val { getColl s coll.val with images := (getColl s coll.val).images.erase i }
        sendFab s i.conn mReplStaged i.epoch 0 (BitVec.ofNat 64 i.hi) []
      | none => s) r)))
  ∧ (∀ (s : State) (coll : CollNo), alive s = true →
    let co := getColl s coll.val
    let n := s.tick.nextNum
    let due := dueGroups s coll.val n
    let nodes := replicasOf s co
    let ready := due.takeWhile fun g => nodes.all g.staged.contains
    co.writer = true → mReplicated s co = true → due ≠ [] → (due.all fun g => g.named = some n) = false →
    let r := if ready.length < due.length then moveGroups s coll.val n ready.length else s
    exec (.replCommitDecision coll) s = .next (settle (ready.foldl (tellCommit nodes n) (setColl r coll.val { getColl r coll.val with
      groups := (getColl r coll.val).groups.map fun g => if g.commit ≤ n then { g with commit := n, named := some n } else g }))))

/-- PLAN_ACCEPT, ATOMIC_SWAP and ROLLING_SWAP (R236 to R240). -/
def Obligations.ReplacementRows : Prop :=
  (∀ (s : State) (x : Planning), alive s = true → s.img.planning = some x → x.due ≤ s.tick.tick → planCode s x.polder x.region x.off true = 0 →
    let r := planRun { s with img := { s.img with planning := none } } x.coll
    exec .planAccept s = .next (imgDone (setReg r ⟨.IMG_TICK, 0, 0⟩ (BitVec.ofNat 64 s.tick.tick))))
  ∧ (∀ (s : State) (x : Planning), alive s = true → s.img.planning = some x → x.due ≤ s.tick.tick → planCode s x.polder x.region x.off true ≠ 0 →
    ∃ u, exec .planAccept s = .next u ∧ u.img.planning = none ∧ getF u rImgSts 47 45 = 5
      ∧ getF u rImgSts 63 48 = planCode s x.polder x.region x.off true % 2 ^ 16)
  ∧ (∀ (s : State) (coll : CollNo) (p : Plan), alive s = true → (getColl s coll.val).plan = some p → p.atomic = true → p.st = .running →
    p.swapAt = s.tick.epoch → p.swaps = [] →
    let co := getColl s coll.val
    let chk := checkEntries s co p (versionPages s co.polder) (List.range p.segs) (List.range p.segs) []
    exec (.atomicSwap coll) s = .next (settle (sendImages
      (if chk.2 then endPlan s coll.val Code.REPLACE_PAGES else swapEntries s coll.val s.tick.epoch chk.1 true) coll.val co.groups.length)))
  ∧ (∀ (s : State) (coll : CollNo) (p : Plan), alive s = true → (getColl s coll.val).plan = some p → p.atomic = false → p.st = .running →
    p.r0 < s.tick.epoch → p.rollAt ≠ s.tick.epoch →
    let co := getColl s coll.val
    let done := p.swaps.length
    let n := min (min p.perTick (p.window - (p.swaps.filter (·.freed.isNone)).length)) (min (p.seen - done) (p.segs - done))
    let all := (List.range n).map (done + ·)
    let chk := checkEntries s co p (versionPages s co.polder) all all []
    let u := setColl s coll.val { co with plan := some { p with rollAt := s.tick.epoch } }
    let r := if chk.1.isEmpty then u else swapEntries u coll.val s.tick.epoch chk.1 (p.segs ≤ done + chk.1.length)
    exec (.rollingSwap coll) s = .next (settle (sendImages (if chk.2 then endPlan r coll.val Code.REPLACE_PAGES else r) coll.val co.groups.length)))

/-- SCAN, SHADOW and FILTER join the BSU's queue as the controller forms them (R248, R250, R252, R256); what a segment of one adds to its lists
(R246, R252, R253) or pass bits. -/
def Obligations.BsuScans : Prop :=
  (∀ (s r : State) (st : Stack) (p : Pc) (rec : BsuRec) (seg : Nat) (e : BsuOp × Instr) (c : BsuCmd),
    e ∈ [(BsuOp.scan, Instr.scan st p rec seg), (.shadow, .shadow st p rec seg), (.filter, .filter st p rec seg)] →
    alive s = true → pwrState s < 2 →
    let h := rec.toList
    let batch := batchOf s (getColl s (recColl h)) seg (min (recQueries h) (getF s ⟨.MEM_BSU_CFG, st.val, 0⟩ 15 8)) e.1
      (scanJobs s st.val p.val (recPolder h) (recColl h) seg e.1)
    r = (if e.1 = .filter then s else batch.foldl loadQuery s) → scanCmd r e.1 st.val p.val seg h batch = some c → bsuOn r st.val = true →
    reservedOp (recOpcode h) = false → pagesCode r st.val e.1 (c.pages.map pagePc) = 0 →
    exec e.2 s = .next (setBsu r st.val p.val { getBsu r st.val p.val with queue := (getBsu r st.val p.val).queue ++ [c] })
      ∧ c.op = e.1 ∧ c.head = h ∧ c.seg = seg ∧ c.done = 0 ∧ c.reqs = batch.map fun x => (x, (getCtx r x).gen))
  ∧ (∀ (s r : State) (st p : Nat) (c : BsuCmd) (n : Nat) (ls : List BsuList), c.op = .scan ∨ c.op = .shadow → c.out = .lists ls →
    let co := getColl r (recColl c.head)
    let lines := segmentLines s st p c n
    bsuRead (bump (bump s ⟨.BSU_CNT0, st, p⟩ 63 32 1) ⟨.BSU_CNT1, st, p⟩ 63 0 (64 * lines.length)) st p lines = (r, 0) →
    c.done + n < recordsOf c.pages →
    let rs := (queriesOf c.arg).zip ls |>.map fun x => scanRecs r st p co c (recordsFrom (recReads r c) c.pages c.done n) x.1 x.2
    let u := bump r ⟨.BSU_CNT4, st, p⟩ 63 32 (rs.foldl (fun n r => n + r.2) 0)
    runSegment s st p c n = setBsu u st p { getBsu u st p with
      queue := modFirst (recPolder c.head) (fun _ => some { c with done := c.done + n, out := .lists (rs.map (·.1)) }) (getBsu u st p).queue })
  ∧ (∀ (s : State) (st p : Nat) (c : BsuCmd) (n : Nat) (xs : List (Nat × List Nat)), c.op = .filter → c.out = .pass xs →
    let co := getColl s (recColl c.head)
    let recs := recordsFrom (recReads s c) c.pages c.done n
    formOut s st p c n = (s, .pass (xs.zip (queriesOf c.arg) |>.map fun x =>
      (x.1.1, x.1.2 ++ (recs.filter fun r => passes s co x.2.filter (rdBytes s (ofPc s st p r.1) (cAttrBytes s co))).map (·.2)))))

/-- PRUNE, EDGESCAN, COPY, FILL and POOL join the BSU's queue as the controller forms them (R248, R250, R251, R338); what their segments write
(R262) or find. -/
def Obligations.BsuWrites : Prop :=
  (∀ (s : State) (st : Stack) (p : Pc) (rec : BsuRec) (x : CtxId) (item cons seg base : Nat) (pages : List Word) (e : Instr × Option BsuCmd) (c : BsuCmd),
    e ∈ [(Instr.prune st p rec x item, pruneCmd s rec.toList x.val item), (.edgescan st p rec cons seg base, edgeCmd s st.val p.val rec.toList cons seg base),
      (.copy st p rec pages, copyCmd rec.toList pages), (.fill st p rec, fillCmd rec.toList)] →
    alive s = true → pwrState s < 2 → bsuOn s st.val = true → e.2 = some c → reservedOp (recOpcode rec.toList) = false →
    pagesCode s st.val c.op (namedPages s c) = 0 →
    exec e.1 s = .next (setBsu s st.val p.val { getBsu s st.val p.val with queue := (getBsu s st.val p.val).queue ++ [c] })
      ∧ c.head = rec.toList ∧ c.done = 0)
  ∧ (∀ (s s1 r : State) (st : Stack) (p : Pc) (rec : BsuRec) (x : CtxId) (c : BsuCmd), alive s = true → pwrState s < 2 →
    isLive s x.val = true → stageKindOf s x.val = some .bag →
    let k := getCtx s x.val
    let a := operandOf s k
    hostAccess s (some x.val) a (dOpBytes k.desc) false = (.ok, s1) →
    r = (if operandAddr s k.desc ≤ a ∧ a < operandAddr s k.desc + dOpBytes k.desc then
        poolUse s1 (dPolder k.desc) (dOpRegion k.desc) (dOpOffset k.desc + (a - operandAddr s k.desc)) (dOpBytes k.desc) false else s1) →
    poolCmd r st.val p.val rec.toList x.val (rdBytes r a (dOpBytes k.desc)) = some c → bsuOn r st.val = true → reservedOp (recOpcode rec.toList) = false →
    pagesCode r st.val .pool (namedPages r c) = 0 →
    exec (.pool st p rec x) s = .next (setBsu r st.val p.val { getBsu r st.val p.val with queue := (getBsu r st.val p.val).queue ++ [c] }))
  ∧ (∀ (s r : State) (st p : Nat) (c : BsuCmd) (i id : Nat) (code : List Byte) (cands : List PruneCand), c.arg = .anchor i id code cands →
    let co := getColl s (recColl c.head)
    let a := ofPc s st p (recTarget c.head)
    let bs := adjBytes (bsuGeom s co).degree (prune s co id cands)
    bsuRead (bump s ⟨.BSU_CNT1, st, p⟩ 63 0 (64 * (linesOf a bs.length).length)) st p (linesOf a bs.length) = (r, 0) →
    pruneWrite s st p c = (wrBytes r a bs, 0, prune s co id cands))
  ∧ (∀ (s : State) (src dst : Nat), lineOk s src = .clean → moveLine s src dst = wrBytes s (dst * 64) (rdBytes s (src * 64) 64))
  ∧ (∀ (s : State) (src dst : Nat), lineOk s src = .poisoned ∨ lineOk s src = .uncorrectable →
    moveLine s src dst = poisonLine (wrBytes s (dst * 64) (rdBytes s (src * 64) 64)) dst)
  ∧ (∀ (s : State) (st p : Nat) (c : BsuCmd) (n : Nat), c.op = .fill →
    let granule := (List.replicate 32 (leBytes 8 (recPattern c.head).toNat)).flatten
    (formOut s st p c n).1 = (List.range (256 * n)).foldl
      (fun s i => wrBytes s (ofPc s st p (recTarget c.head + 65536 * c.done + 256 * i)) granule) s)
  ∧ (∀ (s : State) (st p : Nat) (c : BsuCmd) (n cons base : Nat) (ids ds : List Nat), c.op = .edgescan → c.out = .ids ids → c.arg = .dead cons base ds →
    let recs := recordsFrom (recReads s c) c.pages c.done n
    formOut s st p c n = (s, .ids (ids ++ (recs.filter fun r =>
      (filled ((List.range (bsuGeom s (getColl s (recColl c.head))).degree).map fun i => leNat (rdBytes s (ofPc s st p r.1 + 5 * i) 5))).any
        fun y => ds.contains y).map (·.2))))

/-- What a controller and its BSU refuse (R250, R251, R259, R263): a reserved opcode, a striped page, an OPAQUE row. -/
def Obligations.BsuRefusals : Prop :=
  (∀ (s : State) (st p : Nat) (c : BsuCmd), bsuOn s st = true → reservedOp (recOpcode c.head) = true →
    submit s st p (some c) = refuseCmd s st p c.reqs Code.BSU_LAYOUT)
  ∧ (∀ (s : State) (st p : Nat) (c : BsuCmd), bsuOn s st = true → reservedOp (recOpcode c.head) = false → c.op ≠ .fill →
    ((namedPages s c).any fun a => rowStriped s st (pcRow a)) = true → submit s st p (some c) = refuseCmd s st p c.reqs Code.BSU_LAYOUT)
  ∧ (∀ (s : State) (st p : Nat) (c : BsuCmd), bsuOn s st = true → reservedOp (recOpcode c.head) = false →
    (c.op = .fill ∨ ((namedPages s c).any fun a => rowStriped s st (pcRow a)) = false) →
    ((namedPages s c).any fun a => !rowRecompute s st (pcRow a)) = true → submit s st p (some c) = refuseCmd s st p c.reqs Code.BSU_OPAQUE)
  ∧ (∀ (s : State) (st p code : Nat), (refuseCmd s st p [] code).ctxs = s.ctxs ∧ (refuseCmd s st p [] code).mem = s.mem
    ∧ (refuseCmd s st p [] code).bsus = s.bsus)
  ∧ (∀ (s : State) (st : Stack) (p : Pc) (rec : BsuRec) (c : BsuCmd), alive s = true → pwrState s < 2 → bsuOn s st.val = true →
    fillCmd rec.toList = some c → reservedOp (recOpcode rec.toList) = true →
    exec (.fill st p rec) s = .next (bump (bump s ⟨.BSU_CNT3, st.val, p.val⟩ 31 0 1) ⟨.BSU_CNT0, st.val, p.val⟩ 31 0 1))

/-- BSU_SEGMENT, SCAN_SEGMENT_LIST, SCRUB, PATROL_SCRUB, REFRESH and ECC_MODE_CHANGE (R243 to R246, R254, R260, R263, R364). -/
def Obligations.BsuUpkeep : Prop :=
  (∀ (s r : State) (st : Stack) (p : Pc) (win : Nat) (t : Stamp) (c : BsuCmd), r = at_ s t → alive r = true → pwrState r < 2 →
    r.tick.running = true → r.tick.begun = true → win < nWindows r → r.tick.base ≤ t → 2 * us * win + 500 ≤ t - r.tick.base →
    t - r.tick.base < 2 * us * (win + 1) → bsuOn r st.val = true → fits r (r.tick.base + 2 * us * win + 500) 1500 = true →
    let b := takeRefresh r (getBsu r st.val p.val) r.tick.tick win (r.tick.base + 2 * us * win)
    b.used ≠ some (r.tick.tick, win) → (b.queue.find? fun c => recPolder c.head = winOwner r st.val win) = some c →
    segmentReady r c (segmentLen r c) = true →
    let u := setBsu r st.val p.val
      { b with run := some c, segEnd := r.tick.base + 2 * us * (win + 1), used := some (r.tick.tick, win), window := win }
    pagesCode u st.val c.op (namedFrom u c c.done (segmentLen r c)) = 0 →
    exec (.bsuSegment st p win t) s = .next (runSegment u st.val p.val c (segmentLen r c)))
  ∧ (∀ (s r : State) (st : Stack) (p : Pc) (win : Nat) (t : Stamp), r = at_ s t →
    (takeRefresh r (getBsu r st.val p.val) r.tick.tick win (r.tick.base + 2 * us * win)).used = some (r.tick.tick, win) →
    exec (.bsuSegment st p win t) s = .next r)
  ∧ (∀ (s : State) (c : CtxId) (seg die : Nat) (sh : Bool), alive s = true → pwrState s < 2 →
    let k := getCtx s c.val
    let co := getColl s (dColl k.desc)
    let op := if sh then BsuOp.shadow else .scan
    let rs := segResults s c.val seg op
    let pages := codePages s co seg k.pin
    isLive s c.val = true → scansIn s c.val sh = true → seg < cSegments s co →
    (pages.all fun g => rs.any fun r => r.1 = g.1 && r.2.1.pages.any fun e => pagePc e = g.2) = true →
    (pages.head?).elim (cWalkDie s co (cSegPart s co seg)) (fun g => g.1 / 64 / 5) = die → activeOwner s c.val = some die →
    let add (ls : List PList) : List PList :=
      if ls.any (fun x => x.covers.contains seg) then ls else ls ++ [segmentList s co seg (walkK s k) (rs.map (·.2.2))]
    exec (.scanSegmentList c seg sh) s = .next (modWork (takeSegResults s c.val seg op) c.val fun w =>
      if sh then { w with shadows := add w.shadows } else { w with lists := add w.lists }))
  ∧ (∀ (s r : State) (st : Stack) (p : Pc) (t : Stamp) (l : Nat) (ls : List Nat), r = at_ s t → alive r = true → inGuard r t = true →
    (getBsu r st.val p.val).scrub = l :: ls →
    exec (.scrub st p t) s = .next (rewriteLine (setBsu r st.val p.val { getBsu r st.val p.val with scrub := ls }) l))
  ∧ (∀ (s r : State) (st : Stack) (line : Nat) (fix : List (Nat × Nat)) (t : Stamp), r = at_ s t → alive r = true →
    fld (getReg r ⟨.MEM_SCRUB_CFG, st.val, 0⟩) 0 0 = 1 →
    inGuard r t = true → line + 1 < stackBytes / 64 →
    let l := st.val * (stackBytes / 64) + line
    memLost r (l * 64) = false → lineOk r l = .corrected fix →
    exec (.patrolScrub st line t) s = .next (rewriteLine (noteEcc r l 1) l))
  ∧ (∀ (s r : State) (st : Stack) (p : Pc) (t : Stamp), r = at_ s t → alive r = true → inGuard r t = false →
    let b := getBsu r st.val p.val
    ((b.segEnd ≤ t ∨ b.used = none) → exec (.refresh st p t) s = .next (setBsu r st.val p.val { b with refEnd := t + 200 }))
    ∧ (r.tick.running = true → r.tick.begun = true → inBerm r t = false → t < b.segEnd →
      b.used = some (r.tick.tick, (t - r.tick.base) / (2 * us)) →
      exec (.refresh st p t) s = .next (setBsu r st.val p.val { b with refresh := b.refresh ++ [t] })))
  ∧ (∀ (s : State) (st : Stack) (row : Fin 1024) (v : Bool), alive s = true → inGuard s s.now = true →
    mapGet s.eccPend (st.val * 1024 + row.val) = some v →
    exec (.eccModeChange st row) s
      = .next { setF s (rowReg st.val row.val) 1 1 (b2n v) with eccPend := mapDel s.eccPend (st.val * 1024 + row.val) })

/-- LINEAR_SLICE, VECTOR, EMBED, APPEND and WEIGHT_RELOAD where a tile runs them. -/
def Obligations.TensorJobs : Prop :=
  (∀ (s r : State) (die : Crest) (tile : Fin 64) (op : Nat) (slots : List (Fin 96)) (t : Stamp) (j : JobAt) (w : Weights) (ads : List Nat) (k0 : Nat)
      (p0 : Pass) (rest : List (Nat × Pass)), r = at_ s t → alive r = true → pwrState r < 2 → jobAt r die.val tile.val t = some j →
    (opAt j.model op).bind slicedWeights = some (w, ads) →
    let all := jobPasses r die.val j (slots.map (·.val))
    let fwd := all.filter fun e => e.2.back.isNone && opReady r j.model e.2 op
      && !(((opAt j.model op).map isItemOp).getD false && decide (e.2.cands.length < e.2.ids.length))
    let back := all.filter fun e => e.2.back = some op
    fwd ++ back = (k0, p0) :: rest →
    exec (.linearSlice die tile op slots ⟨0, 0⟩ t) s = .next (settle (back.foldl (fun s e => backJob s e.1 j.model e.2 op)
      (linJob (noteJob r die.val tile.val 0 (k0 % 96) p0.layer) die.val tile.val op j w ads t fwd))))
  ∧ (∀ (s r : State) (die : Crest) (tile : Fin 64) (op : Nat) (slots : List (Fin 96)) (t : Stamp) (j : JobAt) (o : ModelOp) (k0 : Nat)
      (p0 : Pass) (rest : List (Nat × Pass)), r = at_ s t → alive r = true → pwrState r < 2 → jobAt r die.val tile.val t = some j →
    opAt j.model op = some o → isVectorOp o = true →
    let all := jobPasses r die.val j (slots.map (·.val))
    let fwd := all.filter fun e => e.2.back.isNone && opReady r j.model e.2 op
    let back := all.filter fun e => e.2.back = some op
    fwd ++ back = (k0, p0) :: rest →
    exec (.vector die tile op slots ⟨0, 0⟩ t) s = .next (settle (back.foldl (fun s e => backJob s e.1 j.model e.2 op)
      (overPasses (fun key room p s => vecPass s op j.model o key room p) j.group.rowsMax fwd (noteJob r die.val tile.val 1 (k0 % 96) p0.layer)))))
  ∧ (∀ (s r : State) (die : Crest) (tile : Fin 64) (op key : Nat) (slot : Fin 96) (t : Stamp) (j : JobAt) (p p' : Pass) (tok : Weights) (pos : Option Weights),
    r = at_ s t → alive r = true → pwrState r < 2 → jobAt r die.val tile.val t = some j → jobPasses r die.val j [slot.val] = [(key, p)] →
    opAt j.model op = some (.embed tok pos) → opReady r j.model p op = true → p.back = none →
    let u := noteJob r die.val tile.val 2 slot.val p.layer
    let have_ := (partRows p op 0).length
    let n := min j.group.rowsMax (opLen j.model p op - have_)
    firstCode (weightCode u j.model tok :: pos.toList.map (weightCode u j.model)) = 0 → getPass u key = some p' →
    exec (.embed die tile op slot ⟨0, 0⟩ t) s = .next (settle (finishPass (setPass u key { p' with
      outs := mapSet p'.outs (partKey op 0) (partRows p' op 0 ++ (embedRows u j.model p tok pos have_ n).map fun r => r.map asBf16) }) key)))
  ∧ (∀ (s r u : State) (die : Crest) (tile : Fin 64) (op key layer qCol kCol vCol : Nat) (x : Operand) (slot : Fin 96) (t : Stamp) (j : JobAt) (p : Pass),
    r = at_ s t → alive r = true → pwrState r < 2 → jobAt r die.val tile.val t = some j → jobPasses r die.val j [slot.val] = [(key, p)] →
    opAt j.model op = some (.attention x layer qCol kCol vCol) → opReady r j.model p op = true → p.back = none →
    let a := mapGetD p.appended op 0
    let n := min j.group.rowsMax (p.rows - a)
    let r1 := noteJob r die.val tile.val 3 slot.val layer
    n ≠ 0 →
    ((((operandRows r1 j.model p x).drop a).take n).zipIdx.foldl (fun acc e =>
      (List.range (mKvHeads r1 j.model)).foldl (appendOne j.model key layer kCol vCol (a + e.2) e.1) acc) (some r1)) = some u →
    exec (.append die tile op slot ⟨0, 0⟩ t) s = .next (settle (modPass (bump u ⟨.TEN_CNT2, die.val, tile.val⟩ 31 0 (n * mKvHeads u j.model)) key
      fun p => { p with appended := mapSet p.appended op (a + n), layer := layer })))
  ∧ (∀ (s r : State) (die : Crest) (tile : Fin 64), alive s = true → pwrState s < 2 → getF s ⟨.TEN_STS, die.val, tile.val⟩ 63 61 = 4 →
    (tileGroup s die.val tile.val = none ∧ r = s)
      ∨ (∃ n m g, tileGroup s die.val tile.val = some (n, m, g) ∧ loadTile s m g tile.val = some r) →
    exec (.weightReload die tile) s = .next (setF r ⟨.TEN_STS, die.val, tile.val⟩ 63 61 0))
  ∧ (∀ (s : State) (die tile : Nat) (err : TileErr) (k : State → State), err.corrected = 0 → err.kind ≠ 0 →
    tileErr s die tile [] err k = setF (setRun (bump s ⟨.TEN_ERR, die, tile⟩ 31 16 1) ⟨.TEN_ERR, die, tile⟩ 15 14 err.kind.val)
      ⟨.TEN_STS, die, tile⟩ 63 61 4)

/-- ATTN, ATTN_BACK, OPTIM and PASS_START where they act. -/
def Obligations.TensorAttention : Prop :=
  (∀ (s r : State) (die : Crest) (tile : Fin 64) (op key layer qCol kCol vCol head qb : Nat) (x : Operand) (slot : Fin 96) (t : Stamp) (j : JobAt) (p : Pass)
      (a : AttnRun) (done skip : Nat),
    r = at_ s t → alive r = true → pwrState r < 2 → jobAt r die.val tile.val t = some j → jobPasses r die.val j [slot.val] = [(key, p)] →
    opAt j.model op = some (.attention x layer qCol kCol vCol) → opReady r j.model p op = true → p.back = none →
    p.rows ≤ mapGetD p.appended op 0 → head < mHeads r j.model → qb < qBlocks p → mapGet p.blocks (blockKey op head qb) = none →
    let r1 := noteJob r die.val tile.val 4 slot.val layer
    let ids := blockRows p qb
    let qs := ids.map fun i => (i, headPart r1 j.model p true qCol head i ((nth? (operandRows r1 j.model p x) i).getD []))
    let zero := List.replicate (mHeadDim r1 j.model) (0 : F32)
    let r0 := mapGetD p.attn (blockKey op head qb) ⟨0, ids.map fun _ => f32NegInf, ids.map fun _ => 0, ids.map fun _ => zero⟩
    attnGo r1 j.model p layer (kvHead r1 j.model head) qb qs (qBlocks p + 1) j.group.kbJob r0 (0, 0, 0) = (a, done, skip, 0) →
    let u := bump (bump (bump r1 ⟨.TEN_CNT2, die.val, tile.val⟩ 63 32 done) ⟨.TEN_CNT0, die.val, tile.val⟩ 31 0 skip)
      ⟨.TEN_CNT1, die.val, tile.val⟩ 63 0 (done * 2 * (mHeadDim r1 j.model / 64))
    let p1 := { p with attn := mapSet p.attn (blockKey op head qb) a, layer := layer }
    exec (.attn die tile op slot head qb ⟨0, 0⟩ t) s = .next (settle (
      if a.next < qBlocks p1 then setPass u key p1
      else finishPass (setPass u key { p1 with
        blocks := mapSet p1.blocks (blockKey op head qb) ((a.o.zip a.l).map fun e => (e.1.map fun v => f32Div v e.2).map asBf16) }) key)))
  ∧ (∀ (s r : State) (die : Crest) (tile : Fin 64) (op key layer qCol kCol vCol head qb : Nat) (x : Operand) (slot : Fin 96) (t : Stamp) (j : JobAt) (p : Pass),
    r = at_ s t → alive r = true → pwrState r < 2 → jobAt r die.val tile.val t = some j → jobPasses r die.val j [slot.val] = [(key, p)] →
    opAt j.model op = some (.attention x layer qCol kCol vCol) → p.back = some op → head < mHeads r j.model → qb < qBlocks p →
    (((mapGet p.attn (backKey op head qb)).map (·.next)).getD 0) < qBlocks p →
    (∀ q < qb, qBlocks p ≤ ((mapGet p.attn (backKey op head q)).map (·.next)).getD 0) →
    let m := j.model
    let r1 := noteJob r die.val tile.val 5 slot.val layer
    let ids := blockRows p qb
    let rows := operandRows r1 m p x
    let qs := ids.map fun i => headPart r1 m p true qCol head i ((nth? rows i).getD [])
    let dos := ids.map fun i => (((nth? (gradRows p op) i).getD []).drop (head * mHeadDim r1 m)).take (mHeadDim r1 m)
    ∀ (kb done skip : Nat) (q : Pass),
    backGo r1 m p op head layer qb qs dos (mapGetD p.blocks (blockKey op head qb) []) (mapGetD p.attn (blockKey op head qb) ⟨0, [], [], []⟩)
      (qBlocks p + 1) j.group.kbJob (((mapGet p.attn (backKey op head qb)).map (·.next)).getD 0) (p, 0, 0) = (kb, q, done, skip) →
    let u := bump (bump (bump r1 ⟨.TEN_CNT2, die.val, tile.val⟩ 63 32 done) ⟨.TEN_CNT0, die.val, tile.val⟩ 31 0 skip)
      ⟨.TEN_CNT1, die.val, tile.val⟩ 63 0 (done * 5 * (mHeadDim r1 m / 64))
    ((List.range kb).map (kvCode u m p layer (kvHead u m head))).find? (· ≠ 0) = none →
    let q1 := { q with attn := mapSet q.attn (backKey op head qb) ⟨kb, [], [], []⟩, layer := layer }
    exec (.attnBack die tile op slot head qb ⟨0, 0⟩ t) s = .next (settle (
      if (List.range (mHeads u m)).all fun h => (List.range (qBlocks q1)).all fun b =>
          decide (qBlocks q1 ≤ ((mapGet q1.attn (backKey op h b)).map (·.next)).getD 0) then
        advanceBack u key m (addGrad q1 x (attnGrad u m q1 op qCol kCol vCol ((rows.headD []).length))) op
      else setPass u key q1)))
  ∧ (∀ (s r : State) (die : Crest) (tile : Fin 64) (slot : Fin 96) (ad : Fin 16) (t : Stamp) (j : JobAt) (tr : Train) (x : Nat), r = at_ s t →
    alive r = true → pwrState r < 2 → jobAt r die.val tile.val t = some j → mapGet r.trains (passKey die.val slot.val) = some tr → tr.adapter = ad.val →
    getPass r (passKey die.val slot.val) = none → tr.optim = [] → dItems (getCtx r tr.ctx).desc ≤ tr.ran → earlierStep r j.num ad.val tr.seq = false →
    f32Finite tr.loss = false → x = passKey die.val slot.val →
    exec (.optim die tile slot ad ⟨0, 0⟩ t) s = .next (settle (stepNonfinite (noteJob r die.val tile.val 6 slot.val 0) x j.num j.model tr)))
  ∧ (∀ (s r : State) (die : Crest) (tile : Fin 64) (slot : Fin 96) (ad : Fin 16) (t : Stamp) (j : JobAt) (tr : Train), r = at_ s t →
    alive r = true → pwrState r < 2 → jobAt r die.val tile.val t = some j → mapGet r.trains (passKey die.val slot.val) = some tr → tr.adapter = ad.val →
    getPass r (passKey die.val slot.val) = none → tr.optim ≠ [] → tr.optim.contains j.gi = false → earlierStep r j.num ad.val tr.seq = false →
    tr.newRec ≠ 0 → f32Finite tr.loss = true →
    let n := noteJob r die.val tile.val 6 slot.val 0
    let gt := groupTiles j.model die.val
    let ixs := optSlice (adpSize n j.model ad.val) gt j.gi
    ((List.range (adpSize n j.model ad.val)).any fun i => !f32Finite (mapGetD tr.acc i 0)) = false →
    ∀ u, optAccess n j.model tr ixs = (.ok, u) → (tr.optim ++ [j.gi]).length < gt →
    exec (.optim die tile slot ad ⟨0, 0⟩ t) s = .next (settle { optimSlice u j.model tr ixs with
      trains := mapSet (optimSlice u j.model tr ixs).trains (passKey die.val slot.val) { tr with optim := tr.optim ++ [j.gi] } }))
  ∧ (∀ (s : State) (c : CtxId) (die : Crest) (slot : Fin 96) (m : Model), alive s = true → pwrState s < 2 →
    let k := getCtx s c.val
    let key := passKey die.val slot.val
    getModel s (stageModel s c.val) = some m → isLive s c.val = true → stageKindOf s c.val = some .encode → activeOwner s c.val = some die.val →
    (groupOn m die.val).isSome = true → k.work.done = false →
    (s.passes.any (fun e => e.2.ctx = c.val && e.2.gen = k.gen) || s.trains.any (fun e => e.2.ctx = c.val && e.2.gen = k.gen)) = false →
    slotFree s key = true → seqUsed s die.val k.polder < ((nth? (getPolder s k.polder).seqSlots die.val).getD 0) →
    exec (.passStart c die slot) s = .next (settle (withBytes s c.val (operandOf s k) (dOpBytes k.desc) fun s bs =>
      encodePass s key m (Pass.start c.val k.gen (stageModel s c.val) die.val k.pin) k.desc bs)))

/-- HOT_LOAD, HOT_LIST_SWITCH, HOT_ROW_FETCH, PREFETCH, TABLE_APPLY_STEP and MOVE_COPY. -/
def Obligations.TableRows : Prop :=
  (∀ (s : State) (by_ : Requester) (die : Crest) (tile : Fin 64) (a off : Nat) (num : Nat) (m : Model) (g : TileGroup) (tb : Table), alive s = true →
    by_ ≠ .i3c → (∀ h, by_ = .host h → blockOpen s h.val (unitNo die.val 4 0) = true) →
    let r := setF s ⟨.EMB_HOT_CTL, die.val, 0⟩ 5 0 tile.val
    let p := fld (getReg r ⟨.TEN_CFG, die.val, tile.val⟩) 63 52
    let reg := getF r ⟨.EMB_HOT_ADDR, die.val, 0⟩ 59 48
    off = getF r ⟨.EMB_HOT_ADDR, die.val, 0⟩ 47 0 → regionAddr r p reg off 64 = some a → tileGroup r die.val tile.val = some (num, m, g) →
    let w := rdW r a
    let n := fld w 55 40
    let rows := (List.range n).map fun i => leNat (rdBytes r (a + 64 + 4 * i) 4)
    getTable r (fld w 63 56) = some tb → (regionAddr r p reg off (64 + 4 * n)).isSome = true → off % 64 = 0 → tb.polder = p → p ≠ 0 → n ≠ 0 →
    n ≤ 16384 → (rows.any fun x => decide (tRows r tb ≤ x)) = false → n * tStride r tb ≤ g.hotBytes →
    exec (.hotLoad die tile by_) s = .next (settle { r with
      hotAsk := r.hotAsk.filter (fun h => !(h.die = die.val && h.tile = tile.val)) ++ [⟨die.val, tile.val, fld w 63 56, rows⟩] }))
  ∧ (∀ (s : State) (die : Crest) (tile : Fin 64) (h : HotLoad), alive s = true → s.tick.begun = true →
    (s.hotAsk.find? fun h => h.die = die.val && h.tile = tile.val) = some h →
    let r := { s with hotAsk := s.hotAsk.erase h, hots := mapSet s.hots (die.val * 64 + tile.val) ⟨h.table, h.rows, s.tick.epoch, [], []⟩ }
    let v : Reg := ⟨.EMB_HOT_VAL, die.val, tile.val⟩
    exec (.hotListSwitch die tile) s = .next (setF (setF r v 63 56 h.table) v 55 41 h.rows.length))
  ∧ (∀ (s : State) (die : Crest) (tile : Fin 64) (row : BitVec 32) (h : Hot) (tb : Table) (a : Nat), alive s = true → pwrState s < 2 →
    mapGet s.hots (die.val * 64 + tile.val) = some h → row.toNat ∈ h.rows → mapGet h.fetched row.toNat = none → getTable s h.table = some tb →
    rowAddr s tb (tResolve s tb (h.validFrom row.toNat)) die.val row.toNat = some a → rangeCode s a (tRowBytes s tb) = 0 →
    exec (.hotRowFetch die tile row) s = .next { touchRange s a (tRowBytes s tb) with
      hots := mapSet s.hots (die.val * 64 + tile.val) { h with fetched := mapSet h.fetched row.toNat (h.validFrom row.toNat) } })
  ∧ (∀ (s : State) (die : Crest) (slot : Fin 96) (tab : CollNo) (row : BitVec 32) (p : Pass) (tb : Table) (m : Model) (fs : List Word) (ops : List ModelOp),
    alive s = true → pwrState s < 2 → mapGet s.passes (die.val * 96 + slot.val) = some p → getTable s tab.val = some tb → getModel s p.model = some m →
    m.ops = .bag fs :: ops → (p.bags.any fun b => (bagRows s ((nth? fs b.1).getD 0) b.2).contains (tab.val, row.toNat)) = true →
    fld (getReg s ⟨.EMB_CFG, die.val, 0⟩) 0 0 = 1 →
    aheadUsed s die.val + tStride s tb ≤ fld (getReg s ⟨.EMB_CFG, die.val, 0⟩) 63 48 * 1024 →
    (s.ahead.any fun x => x.die = die.val && x.slot = slot.val && x.table = tab.val && x.row = row.toNat) = false →
    exec (.prefetch die slot tab row) s = .next (bump { s with
      ahead := s.ahead ++ [⟨die.val, slot.val, p.ctx, p.gen, tab.val, row.toNat, tStride s tb⟩] } ⟨.EMB_CNT1, die.val, 0⟩ 63 32 1))
  ∧ (∀ (s r r1 r2 : State) (tab : CollNo) (t b : Stamp) (tb : Table) (jobs : List Nat), r = at_ s t → alive r = true → pwrState r < 2 → getTable r tab.val = some tb →
    r.tick.running = true → r.tick.begun = true → r.tick.nextAt = some b → tb.stepTick ≠ some r.tick.tick →
    let start := b - bermNs r - tb.stepB - us
    r.now ≤ start →
    judgeUpdates (at_ r start) tb (withinMax (at_ r start) (tApplyMax r tb) 0 (tableJobs (at_ r start) tab.val)) = (false, r1, jobs) →
    accAccess r1 tb jobs = (false, r2) →
    ∃ u tb', exec (.tableApplyStep tab t) s = .next (settle u) ∧ u = doTableApply r tab.val ∧ getTable u tab.val = some tb'
      ∧ tb'.stepTick = some u.tick.tick)
  ∧ (∀ (s r : State) (tab : CollNo) (t : Stamp) (tb : Table), r = at_ s t → alive r = true → pwrState r < 2 → getTable r tab.val = some tb →
    r.tick.running = true → tb.stepTick ≠ some r.tick.tick →
    let todo := tb.moves.filter fun m => decide (m.taken < r.tick.tick) && m.copied ≠ some r.tick.tick
    let u := todo.foldl (fun s m =>
      let w := tEntry s (tResolve s tb s.tick.epoch) m.shard m.page
      if pteValid w then copyPage s (ptePage w) m.target
      else wrBytes s m.target (List.replicate 65536 0)) r
    exec (.moveCopy tab t) s = .next (modTable u tab.val fun t =>
      { t with moves := t.moves.map fun m => if todo.contains m then { m with copied := some u.tick.tick } else m }))

/-- MOVER_LIST_DOORBELL, MOVER_COPY, MOVER_TILE and AGE_EVICTION. -/
def Obligations.MoverRows : Prop :=
  (∀ (s : State) (die : Crest) (by_ : Requester), alive s = true → by_ ≠ .i3c →
    (∀ h, by_ = .host h → blockOpen s h.val (movUnit die.val) = true) →
    let r := unIdle s
    let a := getReg r ⟨.MEM_MOV_ADDR, die.val, 0⟩
    exec (.moverListDoorbell die by_) s = .next (
      match listOk r (hostOf by_) (fld a 63 52) (fld a 51 40) (fld a 39 0) (movUnit die.val) (movers r die.val).length with
      | none => setBit r ⟨.MEM_MOV_CTL, die.val, 0⟩ 7
      | some x => setMovers r die.val (movers r die.val ++ [⟨fld a 63 52, x, hostOf by_, 0, 0, false, false⟩])))
  ∧ (∀ (s r u : State) (die : Crest) (t : Stamp) (l : MovList) (ls : List MovList), r = at_ s t → alive r = true → pwrState r < 2 →
    movers r die.val = l :: ls → l.begun = false → listAccess r (waiterOf true die.val) l.addr = (.ok, u) →
    let e := movEntry u l
    (listEntries u l.addr = 0 →
      exec (.moverCopy die t) s = .next (settle (bump (setMovers (listHeader u l.addr 2 u.tick.tick 0 0) die.val ((movers u die.val).drop 1))
        ⟨.MEM_MOV_CNT0, die.val, 0⟩ 31 0 1)))
    ∧ (listEntries u l.addr ≠ 0 → e.op = 0 → copyOk u l.polder e = true → exec (.moverCopy die t) s = .next (settle (beginEntry u die.val l e.tiles)))
    ∧ (listEntries u l.addr ≠ 0 → e.op = 0 → copyOk u l.polder e = false →
      exec (.moverCopy die t) s = .next (settle (endMovList u die.val Code.MOVER_INVALID))))
  ∧ (∀ (s r u v : State) (die : Crest) (bad : Bool) (t : Stamp) (l : MovList) (ls : List MovList) (gs gd : Region), r = at_ s t → alive r = true →
    pwrState r < 2 → movers r die.val = l :: ls → l.begun = true →
    let e := movEntry r l
    regionOf r l.polder e.src = some gs → regionOf r l.polder e.dst = some gd → gs.tier ≠ 2 → gd.tier ≠ 2 → e.op = 0 →
    (bad = true → gs.tier ≠ 1) →
    let src (i : Nat) : Nat := gs.addr (srcByte e l.tile i)
    let dst := gd.addr (e.dstOff + 65536 * l.tile)
    fits r t (accessBound die.val (src 0) + accessBound die.val dst + 256) = true →
    linesAccess r (waiterOf true die.val) (ascending ((List.range 2048).map fun i => lineOf (src (32 * i)))) false = (.ok, u) →
    tileAccess u (waiterOf true die.val) dst 65536 true = (.ok, v) →
    let w := bump (poolUse (poolUse (carryTile v src dst) l.polder e.src (srcByte e l.tile 0) 65536 false) l.polder e.dst (e.dstOff + 65536 * l.tile) 65536 true)
      ⟨.MEM_MOV_CNT0, die.val, 0⟩ 63 32 1
    exec (.moverTile die bad t) s = .next (settle (
      if l.tile + 1 < e.tiles then setFront w die.val { l with tile := l.tile + 1, passed := false } else endMovEntry w die.val 0)))
  ∧ (∀ s : State, alive s = true → s.tick.begun = true →
    exec .ageEviction s = .next ((s.pool.filter fun x => let a := getF s ⟨.MEM_POOL_CFG, x.die, 0⟩ 15 0
      a ≠ 0 && decide (x.lastUse + a < s.tick.tick)).foldl evict s))

/-- PUBLISH and PUBLICATION_FLIP (R378, R379). -/
def Obligations.Publication : Prop :=
  (∀ (s r u v : State) (die : Crest) (t : Stamp) (l : MovList) (ls : List MovList) (h : Nat) (gs gd : Region), r = at_ s t → alive r = true → pwrState r < 2 →
    movers r die.val = l :: ls → l.begun = false → listAccess r (waiterOf true die.val) l.addr = (.ok, u) →
    let e := movEntry u l
    listEntries u l.addr ≠ 0 → e.op = 1 → l.host = some h → regionOf u l.polder e.src = some gs → regionOf u l.polder e.dst = some gd →
    e.format = 0 → e.srcOff % 65536 = 0 → e.dstOff % 65536 = 0 → gs.tier = 2 → gs.host = h → gd.tier = 3 → bits gd.writers h h = 1 → e.arg ≠ 0 →
    e.srcOff + 65536 * e.tiles ≤ gs.bytes → e.dstOff + 65536 * e.tiles ≤ (gd.bytes - 65536) / 2 → pendingPub u l.polder e.dst = none →
    (rdN u gd.base < e.arg → tileAccess u (waiterOf true die.val) (bufAddr gd (1 - activeBuf u gd)) ((gd.bytes - 65536) / 2) true = (.ok, v) →
      exec (.publish die t) s
        = .next (settle (beginEntry { v with pubs := v.pubs ++ [⟨l.polder, e.dst, e.arg, h, 65536 * e.tiles, if e.tiles = 0 then some (boundaryFor v v.now) else none⟩] } die.val l e.tiles)))
    ∧ (e.arg < rdN u gd.base →
      exec (.publish die t) s = .next (settle (refusePub u die.val Code.PUBLISH_STALE h [] e.arg l.polder e.dst))))
  ∧ (∀ (s r : State) (p : PolderNo) (reg : Fin 4096) (x : PubPend) (g : Region) (c : Nat), alive s = true → pendingPub s p.val reg.val = some x →
    regionOf s p.val reg.val = some g → x.commit = some c → c ≤ s.tick.epoch → tileAccess s (waiterOf true g.die) g.base 64 true = (.ok, r) →
    let u := wrWords r g.base [BitVec.ofNat 64 x.version, BitVec.ofNat 64 ((1 - activeBuf r g) * 2 ^ 63 + r.tick.epoch), BitVec.ofNat 64 x.host,
      BitVec.ofNat 64 x.length, 0, 0, 0, 0]
    exec (.publicationFlip p reg) s = .next (settle (publishNotice { u with pubs := u.pubs.erase x } x.host 0 x.version p.val reg.val)))

/-- HOST_LOST, WINDOW_CLOSE, WINDOW_OPEN, MIRROR_REBUILD, RECALL_TIMEOUT and HOST_METER_REFILL. -/
def Obligations.HostWindows : Prop :=
  (∀ (s r : State) (h : Port) (t : Stamp), r = at_ s t → alive r = true → 2 ≤ bmlState r h.val → getF r ⟨.BML_HB_CFG, h.val, 0⟩ 23 20 ≤ hbMissed r h.val t →
    exec (.hostLost h t) s = .next (settle (declareLost r h.val)))
  ∧ (∀ (s : State) (h : Port), alive s = true → (getWin s h.val).st = .recovering → s.mirror.any (inWindow s h.val) = false →
    s.tick.begun = true → s.now = s.tick.base → exec (.windowClose h) s = .next (settle (windowNotice (modWin s h.val fun w => { w with st := .closed }) h.val .closed)))
  ∧ (∀ (s : State) (h : Port), alive s = true → (getWin s h.val).st = .closed → attachedTo s h.val = true → hwSize s h.val ≠ 0 →
    s.tick.begun = true → s.now = s.tick.base → exec (.windowOpen h) s = .next (settle (windowNotice (modWin s h.val fun w => { w with st := .open_ }) h.val .open_)))
  ∧ (∀ (s : State) (st : Stack), alive s = true → s.noMirror.contains st.val = true → getF s ⟨.MEM_CTL_STS, st.val, 0⟩ 1 0 ≠ 3 →
    dieLost s (st.val / 5) = false →
    let m := 5 * ((st.val / 5 + 1) % 4) + st.val % 5
    dieLost s ((st.val / 5 + 1) % 4) = false → getF s ⟨.MEM_CTL_STS, m, 0⟩ 1 0 ≠ 3 →
    exec (.mirrorRebuild st) s = .next { s with
      noMirror := s.noMirror.filter (· ≠ st.val)
      mirrorAt := mapSet s.mirrorAt st.val m
      mirror := ascending (s.mirror.filter (fun l => l * 64 / stackBytes ≠ st.val)
        ++ (s.dir.filter fun e => dirState e.2 = 2 && e.1 * 64 / stackBytes = st.val).map (·.1)) })
  ∧ (∀ (s r : State) (line : Nat) (t : Stamp), r = at_ s t → alive r = true →
    exec (.recallTimeout line t) s = .next (settle ((List.range 4).foldl (fun s h =>
      match (getWin s h).recalls.find? fun x => x.line = line && decide (x.sentAt + getF s ⟨.MEM_HW_CFG, h, 0⟩ 63 54 * us < t) with
      | none => s
      | some x => modWin (x.waits.foldl (fun s w => endWaiter (bump s ⟨.MEM_HW_CNT0, h, 0⟩ 31 0 1) w Code.HOSTWIN_LATE) s) h fun w =>
          { w with recalls := w.recalls.map fun y => if y = x then { x with waits := [] } else y }) r)))
  ∧ (∀ (s : State) (t : Stamp), alive s = true → exec (.hostMeterRefill t) s = .next (settle (at_ s t)))

/-- FLASH_READ, FLASH_LATE, UNIT_WRITE, WORD_LINE_PADDING and PROGRAM_END. -/
def Obligations.FlashAccess : Prop :=
  (∀ (s r : State) (ns : Fin 4096) (u : Nat) (o : Option Nat) (t : Stamp) (n : FlashNs), r = at_ s t → alive r = true → getNs r ns.val = some n →
    entryMapped (mapEntry r n.newest u) = true → exec (.flashRead ns u none o t) s = .next (settle (readUnit r ns.val n.newest u o).1))
  ∧ (∀ (s r v x : State) (ns : Fin 4096) (u : Nat) (c : CtxId) (o : Option Nat) (t : Stamp) (n : FlashNs) (code : Nat) (bs : List Byte), r = at_ s t →
    alive r = true →
    let k := getCtx r c.val
    let co := getColl r (dColl k.desc)
    let plain := if cFullNs r co = ns.val then ((wantVecs r c.val).filter fun x => x.2.1 = u).map fun x => (x.1, co, x.2.2) else []
    let train := ((wantTrain r c.val).filter fun x => cFullNs r x.2.1 = ns.val && x.2.2.1 = u).map fun x => (x.1, x.2.1, x.2.2.2)
    let want := plain ++ train
    isLive r c.val = true → want.isEmpty = false → (activeOwner r c.val).isNone = false → getNs r ns.val = some n → n.isHost = false →
    n.polder = k.polder → n.bound = true →
    let ver := resolveFrom r k.pin chainFuel n.newest
    let w := mapEntry r ver u
    (if entryMapped w then flashAsk r k.polder wFlashRd (locCh (entryLoc w)) (flowTag 1 c.val u) else (true, r)) = (true, v) →
    readUnit v ns.val ver u o = (x, code, bs) →
    exec (.flashRead ns u (some c) o t) s = .next (settle (
      if code ≠ 0 then failCtx x c.val code
      else modWork x c.val fun y => { y with vectors := want.foldl (fun m z => mapSet m z.1 (vecFrom x z.2.1 bs z.2.2)) y.vectors })))
  ∧ (∀ (s r : State) (io : Nat) (t : Stamp), r = at_ s t → alive r = true → io < 8192 → isLive r io = true → wantVecs r io ≠ [] →
    (getCtx r io).work.since + ioLimit r ≤ t →
    exec (.flashLate io t) s = .next (settle (failCtx (bump r ⟨.FSS_CNT1, lateToe r io, 0⟩ 31 0 1) io Code.FLASH_LATE)))
  ∧ (∀ (s r : State) (ns : Fin 4096) (u off : Nat) (data : List Byte) (t : Stamp) (n : FlashNs), r = at_ s t → alive r = true → getNs r ns.val = some n →
    exec (.unitWrite ns u off data none t) s = .next (settle (
      if n.isHost then (writeUnit r n.polder ns.val u off data none none none (flowTag 7 0 u)).1 else r)))
  ∧ (∀ (s r v x : State) (ns : Fin 4096) (u off : Nat) (data old : List Byte) (c : CtxId) (t : Stamp) (n : FlashNs), r = at_ s t → alive r = true →
    let k := getCtx r c.val
    let items := itemsIn r c.val u
    standsIn r c.val .flashWr = true → isMutation (dKind k.desc) = true → dKind k.desc ≠ kDelete → k.work.weir = 2 →
    cFull r (getColl r (dColl k.desc)) = true → cFullNs r (getColl r (dColl k.desc)) = ns.val → items.isEmpty = false → getNs r ns.val = some n →
    n.isHost = false → n.polder = k.polder → n.bound = true → (r.fss.wrs.any fun w => w.ns = ns.val && w.unit = u && w.hold.isSome) = false →
    readUnit r ns.val n.newest u (some 1) = (v, 0, old) →
    writeUnit v k.polder ns.val u 0 (layVecs v c.val old items) (some (c.val, k.gen)) none (some (c.val, k.gen)) (flowTag 2 c.val u) = (x, true, 0) →
    exec (.unitWrite ns u off data (some c) t) s = .next (settle (modWork x c.val fun w => { w with vecDone := w.vecDone ++ items.map (·.1) })))
  ∧ (∀ s : State, alive s = true → inBerm s s.now = true →
    exec .wordLinePadding s = .next ((s.fss.blks.filter fun e => e.2.st = .open_).foldl (fun s e => padTo s e.1 4096) s))
  ∧ (∀ (s r : State) (q : Nat) (t : Stamp) (w : FlashWr), r = at_ s t → alive r = true →
    (r.fss.wrs.find? fun w => w.seq = q && w.commit.isNone) = some w →
    ∃ u, exec (.programEnd q t) s = .next (settle u) ∧ u.fss.wrs = r.fss.wrs.map (fun x =>
      if x.seq = q || (x.commit.isNone && locBlock x.loc = locBlock w.loc && Config.wordLine (locPage x.loc) = Config.wordLine (locPage w.loc))
      then { x with commit := some (boundaryFor r t) } else x))

/-- GARBAGE_COLLECTION, BLOCK_REFRESH, BLOCK_ERASE, PROGRAM_FAILURE, ERASE_FAILURE, LUN_FAILED, CHANNEL_FAILED, CHECKPOINT, FLASH_ENABLE. -/
def Obligations.FlashUpkeep : Prop :=
  (∀ (s r : State) (lun b : Nat) (bad : List Nat) (t : Stamp), r = at_ s t → alive r = true → 2 ≤ fssState r → lun ∈ goodLuns r →
    freeBlocks r lun < getF r ⟨.FSS_CFG, 0, 0⟩ 31 24 →
    let u := { r with fss := { r.fss with gc := insertUniq lun r.fss.gc } }
    (r.fss.blks.any fun e => blockLun e.1 = lun && refreshDue u e.1 t) = false → gcVictim u lun = some b →
    exec (.garbageCollection lun bad t) s = .next (copyBlock u b bad true))
  ∧ (∀ (s r : State) (b : Nat) (bad : List Nat) (t : Stamp), r = at_ s t → alive r = true → 2 ≤ fssState r → refreshDue r b t = true →
    exec (.blockRefresh b bad t) s = .next (copyBlock r b bad false))
  ∧ (∀ (s : State) (b : Nat), alive s = true → 2 ≤ fssState s → (getBlk s b).st = .closed → validPages s b = [] →
    (s.fss.wrs.any fun w => locBlock w.loc = b || w.reloc.elim false (fun src => locBlock src = b)) = false →
    let r := bump (setBlk s b { FlashBlk.fresh with erases := (getBlk s b).erases + 1 }) ⟨.FSS_CH_CNT1, blockCh b, 0⟩ 63 32 1
    exec (.blockErase b) s = .next { r with fss := { r.fss with pages := r.fss.pages.filter fun e => locBlock e.1 ≠ b } })
  ∧ (∀ (s r : State) (b : Nat) (t : Stamp), r = at_ s t → alive r = true → 2 ≤ fssState r → (getBlk r b).st ≠ .free →
    exec (.programFailure b t) s = .next (copyBlock (rewriteFrom (retireBlk r b) (· = b)) b [] false))
  ∧ (∀ (s : State) (b : Nat), alive s = true → 2 ≤ fssState s → (getBlk s b).st = .closed → exec (.eraseFailure b) s = .next (retireBlk s b))
  ∧ (∀ (s : State) (l : Nat), alive s = true → s.fss.badLuns.contains l = false → l < 2048 →
    let u := bump s ⟨.FSS_CH_CNT2, lunCh l, 0⟩ 31 16 1
    let v := rewriteFrom (poisonLun { u with fss := { u.fss with badLuns := insertUniq l u.fss.badLuns } } l) fun b => blockLun b = l
    exec (.lunFailed l) s = .next ((List.range (lunSize v l)).foldl (fun s i => retireBlk s (lunBlock v l i)) v))
  ∧ (∀ (s : State) (ch : Fin 32), alive s = true →
    exec (.channelFailed ch) s = .next (((goodLuns s).filter fun l => lunCh l = ch.val).foldl doLunFailed (setF s ⟨.FSS_CH_STS, ch.val, 0⟩ 1 0 3)))
  ∧ (∀ s : State, alive s = true → 2 ≤ fssState s →
    s.fss.ckptTick + getF s ⟨.FSS_CFG, 0, 0⟩ 47 32 ≤ s.tick.tick ∨ getF s ⟨.FSS_CKPT, 0, 0⟩ 63 32 ≤ s.fss.ckptNew →
    exec .checkpoint s = .next (writeCkpt s))
  ∧ (∀ (s : State) (v : Word), alive s = true → inRanges .FSS_CFG v = true → exec (.flashEnable v) s = .next (settle (doFlashEnable s v)))

/-- FLASH_LIST_DOORBELL, READ, WRITE, DISCARD, MAP_COMMIT and COMMIT_LOG. -/
def Obligations.FlashListsAndCommit : Prop :=
  (∀ (s : State) (n : Port) (by_ : Requester), alive s = true → by_ ≠ .i3c →
    (∀ h, by_ = .host h → blockOpen s h.val (unitNo (4 + n.val) 0 0) = true) →
    let r := unIdle s
    let a := getReg r ⟨.FSS_LIST_ADDR, n.val, 0⟩
    exec (.flashListDoorbell n by_) s = .next (
      match listOk r (hostOf by_) (fld a 63 52) (fld a 51 40) (fld a 39 0) (unitNo (4 + n.val) 0 0) (flLists r n.val).length with
      | none => setBit r ⟨.FSS_LIST_CTL, n.val, 0⟩ 7
      | some x => setLists r n.val (flLists r n.val ++ [⟨fld a 63 52, x, hostOf by_, 0, 0, none, 0, none, false⟩])))
  ∧ (∀ (s r u v : State) (n : Port) (ok : List (Option Nat)) (t : Stamp) (l : FlashList) (e : FlEntry) (i code : Nat), r = at_ s t → alive r = true →
    startFl r n.val (fun op => op = 0 || decide (2 < op)) = (some (l, e), u) →
    unitLoop (fun s i => readStep s n.val l.polder e l.epoch i ((nth? ok i).getD none)) e.units e.units u l.unit = (v, i, code) →
    exec (.read n ok t) s = .next (settle (if code ≠ 0 then endFlList v n.val l code else if e.units ≤ i then endFlEntry v n.val l
      else modList v n.val l fun x => { x with unit := i })))
  ∧ (∀ (s r u v : State) (n : Port) (t : Stamp) (l : FlashList) (e : FlEntry) (i code : Nat), r = at_ s t → alive r = true →
    startFl r n.val (fun op => op = 1) = (some (l, e), u) →
    unitLoop (fun s i => writeStep s n.val l.polder e i (some n.val)) e.units e.units u l.unit = (v, i, code) →
    exec (.write n t) s = .next (settle (if code ≠ 0 then endFlList v n.val l code else if e.units ≤ i then endFlEntry v n.val l
      else modList v n.val l fun x => { x with unit := i })))
  ∧ (∀ (s r u : State) (n : Port) (t : Stamp) (l : FlashList) (e : FlEntry), r = at_ s t → alive r = true →
    startFl r n.val (fun op => op = 2) = (some (l, e), u) →
    exec (.discard n t) s = .next (settle (endFlEntry { u with fss := { u.fss with
      marks := u.fss.marks ++ (List.range e.units).map fun i => ⟨u.fss.seq, e.ns, e.first + i, false, boundaryFor u t, some n.val⟩ } } n.val l)))
  ∧ (∀ s r : State, alive s = true →
    let s0 := { s with fss := { s.fss with wrs := s.fss.wrs.filter fun w => !w.hold.elim false (holdGone s) } }
    let ws := s0.fss.wrs.filter fun w => w.hold.isNone && w.commit.elim false fun c => decide (c ≤ s.tick.epoch)
    let ms := s.fss.marks.filter fun m => decide (m.commit ≤ s.tick.epoch)
    let ups := (sortedChanges ws ms).foldl (applyChange s0) []
    ws ≠ [] → ms = [] →
    ((ascending (ups.map (·.1.1))).foldl (fun (acc : Option State) ns =>
      acc.bind fun s' => publishMap s' ns s.tick.epoch ((ups.filter fun x => x.1.1 = ns).map fun x => (x.1.2, x.2))) (some s0)) = some r →
    exec .mapCommit s = .next { r with fss := { r.fss with
      wrs := r.fss.wrs.filter fun w => !ws.contains w
      marks := r.fss.marks.filter fun m => !ms.contains m
      log := r.fss.log ++ [⟨s.tick.epoch, ws.foldl (fun n w => max n w.seq) ((s.fss.log.getLast?).elim 0 (·.hi)), [], [], false⟩] } })
  ∧ (∀ (s r : State) (t : Stamp) (x : LogRec), r = at_ s t → alive r = true → (r.fss.log.find? fun y => !y.written) = some x → x.epoch ≤ r.tick.tick →
    exec (.commitLog t) s = .next (settle (settleLists { r with fss := { r.fss with
      log := r.fss.log.map fun y => if y = x then { x with written := true } else y
      durable := max r.fss.durable x.epoch } })))

/-- PORT_MODE, LANE_TRAINED, HALF_TRAINING_TIMEOUT, ETHERNET_FRAME, PFC_FRAME, PFC_CONFIG_WRITE and GATE_SWAP. -/
def Obligations.PortRows : Prop :=
  (∀ (s : State) (n : Port) (v : Word), alive s = true → (fld v 37 36 = 1 ∨ fld v 37 36 = 2) → portFieldsOk v = true → s.toeLost.contains n.val = false →
    portMode s n.val = 0 →
    let f (s : State) : State := setF (setF (setF (modPort s n.val fun x => { x with defer := some v }) (rPortCfg n.val) 63 52 (fld v 63 52))
      (rPortCfg n.val) 37 36 (fld v 37 36)) (rPortSts n.val) 51 48 (if fld v 37 36 = 1 then 1 else 5)
    exec (.portMode n v) s = .next (settle (withMembers f s)))
  ∧ (∀ (s : State) (n : Port) (l : Fin 8), alive s = true → portOn s n.val = true →
    let h := if portMode s n.val = 2 then l.val / 4 else 0
    halfState s n.val h = 1 →
    let r := setF s (rPortSts n.val) (56 + l.val) (56 + l.val) 1
    let lanes := getF r (rPortSts n.val) 63 56
    exec (.laneTrained n l) s
      = .next (if (if portMode r n.val = 2 then bits lanes (4 * h + 3) (4 * h) = 15 else lanes = 255) then setHalf r n.val h 2 else r))
  ∧ (∀ (s : State) (n : Port) (h : Fin 2), alive s = true → halfState s n.val h.val = 1 →
    exec (.halfTrainingTimeout n h) s = .next (setHalf s n.val h.val 3))
  ∧ (∀ (s r : State) (n : Port) (aft : Bool) (vlan : Option (BitVec 12)) (pcp : Fin 8) (bytes : Nat) (fcs icrc : Bool) (t : Stamp), r = at_ s t →
    alive r = true → portOn r n.val = true →
    exec (.ethernetFrame n aft vlan pcp bytes fcs icrc t) s = .next (
      if fcs = false ∨ 4202 < bytes then violation r n.val
      else if aft = false then r
      else if vlan.map (·.toNat) ≠ some (getF r (rPortCfg n.val) 63 52) then violation r n.val
      else if icrc = false then bumpAft r .AFT_CNT3 n.val 15 0 1
      else pfcAll (modPort r n.val fun x => { x with frames := x.frames ++ [(pcp.val, bytes)] }) n.val))
  ∧ (∀ (s r : State) (n : Port) (h : Fin 2) (quanta : List (Fin 8 × BitVec 16)) (t : Stamp), r = at_ s t → alive r = true → portOn r n.val = true →
    exec (.pfcFrame n h quanta t) s = .next (quanta.foldl (fun s q => modPort s n.val fun x => { x with
      pauses := mapPut 0 x.pauses (8 * h.val + q.1.val) (if q.2.toNat = 0 then 0 else t + cdiv (q.2.toNat * 64) (halfRate s n.val)) })
      (bumpAft r .AFT_CNT5 n.val 31 0 1)))
  ∧ (∀ (s : State) (n : Port) (v : Word), alive s = true → portMode s n.val = 0 →
    let r : Reg := ⟨.AFT_PFC_CFG, n.val, 0⟩
    let count := ((List.range 8).filter fun c => bits (fld v 63 56) c c = 1).length
    exec (.pfcConfigWrite n v) s = .next (
      if 3 < count ∨ 3072 < count * (fld v 45 34 + fld v 33 22) ∨ fld v 33 22 * 1024 < 2 * 4202 + 100 * (10 * fld v 55 46 + 1300) ∨ fld v 45 34 = 0
        ∨ 3072 < fld v 45 34 ∨ 1000 < fld v 55 46 then setBit s r 0
      else setReg s r (setFld (setFld v 21 1 0) 0 0 (if fld v 0 0 = 1 then 0 else getF s r 0 0))))
  ∧ (∀ (s : State) (n : Port), alive s = true → s.tick.begun = true → getF s ⟨.AFT_GATE_CTL, n.val, 0⟩ 1 1 = 1 →
    exec (.gateSwap n) s = .next (setReg s ⟨.AFT_GATE_CTL, n.val, 0⟩ (BitVec.ofNat 64 (1 - getF s ⟨.AFT_GATE_CTL, n.val, 0⟩ 0 0))))

/-- The six SEND packets, the five Acknowledges and CONTEXT_FETCH (R430, R431). -/
def Obligations.PacketArrival : Prop :=
  (∀ (cmd : Packet → Stamp → Instr) (op : PktOp), (cmd, op) ∈ ([(.sendFirst, .first), (.sendMiddle, .middle), (.sendLast, .last),
      (.sendLastWithImmediate, .lastImm), (.sendOnly, .only), (.sendOnlyWithImmediate, .onlyImm)] : List ((Packet → Stamp → Instr) × PktOp)) →
    ∀ (s r : State) (p : Packet) (t : Stamp), r = at_ s t → alive r = true →
    let n := connPort r p.conn.val
    portOn r n = true → (getPort r n).cache.contains p.conn.val = true → ((getPort r n).parked.any (·.1 = p.conn.val)) = false →
    let u := peerSeen (modPort (unIdle r) n fun y => { y with frames := y.frames.drop 1 }) p.conn.val t
    exec (cmd p t) s = .next (settle (retryHeld (modPort (cacheUse u p.conn.val) n fun y => { y with held := y.held ++ [(p.conn.val, .send op p)] }) p.conn.val t)))
  ∧ (∀ (w : Fin 32) (cmd : AckPacket → Stamp → Instr) (kind wait : Nat),
    (cmd, kind, wait) ∈ ([(.ack, 0, 0), (fun p => .rnrNak p w, 1, w.val), (.nakSequence, 2, 0)] : List ((AckPacket → Stamp → Instr) × Nat × Nat)) →
    ∀ (s r : State) (p : AckPacket) (t : Stamp), r = at_ s t → alive r = true →
    let n := connPort r p.conn.val
    portOn r n = true → (getPort r n).cache.contains p.conn.val = true → ((getPort r n).parked.any (·.1 = p.conn.val)) = false →
    let u := peerSeen (modPort (unIdle r) n fun y => { y with frames := y.frames.drop 1 }) p.conn.val t
    exec (cmd p t) s = .next (settle (retryHeld (modPort (cacheUse u p.conn.val) n fun y => { y with held := y.held ++ [(p.conn.val, .ack kind wait p)] }) p.conn.val t)))
  ∧ (∀ (s : State) (p : AckPacket), alive s = true →
    let n := connPort s p.conn.val
    portOn s n = true → (getPort s n).cache.contains p.conn.val = true → ((getPort s n).parked.any (·.1 = p.conn.val)) = false →
    let u := peerSeen (modPort (unIdle s) n fun y => { y with frames := y.frames.drop 1 }) p.conn.val s.now
    let done (kind : Nat) : State :=
      retryHeld (modPort (cacheUse u p.conn.val) n fun y => { y with held := y.held ++ [(p.conn.val, .ack kind 0 p)] }) p.conn.val s.now
    exec (.nakAccess p) s = .next (settle (done 4)) ∧ (lostMembers s (done 3) = [] → exec (.nakInvalid p) s = .next (settle (done 3))))
  ∧ (∀ (s r : State) (c : ConnNo) (t : Stamp), r = at_ s t → alive r = true →
    let n := connPort r c.val
    let p := getPort r n
    portOn r n = true → (p.parked.any (·.1 = c.val)) = true → p.cache.length < 2048 →
    let u := modPort r n fun x => { x with cache := c.val :: x.cache.filter (fun y => y ≠ c.val && (none : Option Nat) ≠ some y)
                                           parked := x.parked.filter (·.1 ≠ c.val), held := x.held ++ p.parked.filter (·.1 = c.val) }
    let done := retryHeld (bumpAft u .AFT_CNT4 n 31 0 1) c.val t
    lostMembers r done = [] → exec (.contextFetch c t) s = .next (settle done))

/-- The receiver's treatment of a SEND packet by its PSN (R434). -/
def Obligations.ReceiverSequence : Prop :=
  (∀ (s : State) (c : Nat) (op : PktOp) (p : Packet) (t : Stamp), (getConn s c).st = .established → op.isFirst = false → p.ecnCe = false →
    let k := getConn s c
    let behind := (k.epsn % 2 ^ 24 + 2 ^ 24 - p.psn.toNat) % 2 ^ 24
    (behind = 0 → processSend s c op p t = takePkt s c op p t)
    ∧ (1 ≤ behind → behind ≤ 2 ^ 23 → ∃ u, processSend s c op p t = (some u, s)
        ∧ u = bumpAft (sendAckPkt s c (k.epsn + 2 ^ 24 - 1) 0x1F) .AFT_CNT1 (connPort s c) 63 32 1 ∧ u.mem = s.mem)
    ∧ (2 ^ 23 < behind → k.seqNak = none → ∃ u, processSend s c op p t = (some u, s)
        ∧ u = modConn (sendNak s c k.epsn 0x60) c (fun k' => { k' with seqNak := some (k.epsn, t) }) ∧ u.mem = s.mem))
  ∧ (∀ (s : State) (c : Nat) (op : PktOp) (p : Packet) (t : Stamp), (getConn s c).st = .closed →
    processSend s c op p t = (some (sendNak s c p.psn.toNat 0x61), s))

/-- The sender's treatment of an Acknowledge (R432, R433). -/
def Obligations.AckRules : Prop :=
  (∀ (s : State) (c wait q : Nat) (p : AckPacket) (t : Stamp), (getConn s c).st = .established → p.incarn.toNat = (getConn s c).incarn → p.becn = false →
    unaIndex (getConn s c) p.psn.toNat = some q →
    let k := getConn s c
    processAck s c 0 wait p t = advance s c (q + 1) false t
    ∧ (k.rnrPsn ≠ q → 1 < rnrRetry s (connPort s c) → processAck s c 1 wait p t
        = modConn s c fun k => { k with rnrPsn := q, rnrCount := 1, rnrUntil := some (t + (wait + 1) * 10 * us) })
    ∧ (k.nakAt = none → (getConn (shrink s c) c).nakAt = none → processAck s c 2 wait p t
        = modConn (shrink s c) c fun k => { k with cur := q, nakAt := some (q, t), paid := false })
    ∧ processAck s c 3 wait p t = loseConn s c 4 Code.CONN_CLOSED)
  ∧ (∀ (s : State) (c kind wait : Nat) (p : AckPacket) (t : Stamp), (getConn s c).st = .established → ackOwn (getConn s c) kind p = false →
    processAck s c kind wait p t = violation s (connPort s c))

/-- RETRANSMIT_TIMEOUT, RNR_WAIT_END, ACK_DELAY, CONNECTING_ACK, KEEPALIVE, KEEPALIVE_SEND, PEER_LOST, REOPEN and REOPEN_EFFECT. -/
def Obligations.ConnectionTimers : Prop :=
  (∀ (s r : State) (c : ConnNo) (t : Stamp), r = at_ s t → alive r = true →
    let k := getConn r c.val
    let n := connPort r c.val
    k.st = .established → k.una ≠ k.next → k.advAt + rtoNs r n ≤ t →
    let u := bumpAft r .AFT_CNT0 n 31 0 1
    let lost := loseConn u c.val 2 Code.CONN_LOST
    (k.timeouts + 1 < retryMax u n → lostMembers r (modConn (shrink u c.val) c.val fun k' =>
        { k' with timeouts := k'.timeouts + 1, cur := k'.una, advAt := t, paid := false }) = [] →
      exec (.retransmitTimeout c t) s = .next (settle (modConn (shrink u c.val) c.val fun k' =>
        { k' with timeouts := k'.timeouts + 1, cur := k'.una, advAt := t, paid := false })))
    ∧ (retryMax u n ≤ k.timeouts + 1 → lostMembers r lost = [] → exec (.retransmitTimeout c t) s = .next (settle lost)))
  ∧ (∀ (s r : State) (c : ConnNo) (t u : Stamp), r = at_ s t → alive r = true → (getConn r c.val).rnrUntil = some u → u ≤ t →
    exec (.rnrWaitEnd c t) s = .next (setConn r c.val { getConn r c.val with rnrUntil := none, cur := (getConn r c.val).rnrPsn, paid := false }))
  ∧ (∀ (s r : State) (c : ConnNo) (t f : Stamp), r = at_ s t → alive r = true → (getConn r c.val).ackFrom = some f →
    f + ackNs r (connPort r c.val) ≤ t → (getConn r c.val).unacked ≠ 0 → exec (.ackDelay c t) s = .next (sendAckNow r c.val))
  ∧ (∀ (s : State) (c : ConnNo), alive s = true → (getConn s c.val).st = .connecting → (getConn s c.val).ackTick ≠ some s.tick.tick →
    portOn s (connPort s c.val) = true →
    exec (.connectingAck c) s = .next (sendAckPkt (modConn s c.val fun k => { k with ackTick := some s.tick.tick }) c.val (2 ^ 24 - 1) 0x1F))
  ∧ (∀ (s r : State) (n : Port) (i : Fin 1024) (tick : BitVec 48) (t : Stamp), r = at_ s t → alive r = true → portOn r n.val = true →
    peerValid r n.val i.val = true →
    let u := setPeer r n.val i.val { getPeer r n.val i.val with st := 2, last := tickOf r t }
    let own := tickOf u t
    (tick.toNat = own ∨ tick.toNat = own + 1 ∨ tick.toNat + 1 = own → exec (.keepalive n i tick t) s = .next u)
    ∧ (u.tick.running = true → u.tick.begun = true → tick.toNat ≠ own → tick.toNat ≠ own + 1 → tick.toNat + 1 ≠ own →
      ∃ v, exec (.keepalive n i tick t) s = .next v ∧ v.tick.mismatch = true))
  ∧ (∀ (s : State) (n : Port), alive s = true → portOn s n.val = true → s.tick.running = true → s.tick.begun = true →
    (getPort s n.val).kaTick ≠ some s.tick.tick →
    let peers := (List.range 1024).filter fun i => peerValid s n.val i && halfState s n.val (peerHalf s n.val i) = 2
    let u := modPort s n.val fun x => { x with kaTick := some s.tick.tick }
    exec (.keepaliveSend n) s = .next { u with out := u.out ++ peers.map fun i => .keepalive n.val i u.tick.tick (keepaliveHeader u n.val i) })
  ∧ (∀ (s : State) (n : Port) (i : Fin 1024), alive s = true → peerDue s n.val i.val = true → 
    let node := peerNode s n.val i.val
    let s1 := withMembers (fun s => losePeer s n.val i.val) s
    let s2 := (s1.ctxs.filter fun e => e.2.st = .live && e.2.work.gather.isSome).foldl (fun s e => memberFailure s e.1 [node]) s1
    exec (.peerLost n i) s = .next (settle (doubtReplicas (dropMembers s2 fun m => m.origin = node) (some [node]))))
  ∧ (∀ (s : State) (n : Port), alive s = true →
    let c := getF s ⟨.AFT_CONN_SEL, n.val, 0⟩ 17 0
    (getConn s c).st = .lost → connPort s c = n.val → (getConn s c).reopen = false →
    ∃ u, exec (.reopen n) s = .next u ∧ (getConn u c).incarn = ((getConn s c).incarn + 1) % 256 ∧ (getConn u c).reopen = true ∧ (getConn u c).st = .lost
      ∧ (getConn u c).next = 0 ∧ (getConn u c).epsn = 0 ∧ (∀ x ≠ c, getConn u x = getConn s x) ∧ u.mem = s.mem)
  ∧ (∀ (s : State) (c : ConnNo), alive s = true → s.tick.begun = true → (getConn s c.val).reopen = true → (getConn s c.val).st = .lost →
    exec (.reopenEffect c) s
      = .next (setConn s c.val { getConn s c.val with st := .connecting, reason := 0, reopen := false, ackTick := none }))

/-- AFT_DB, SEND, SEND_IMM, NOP, CHAIN_START and EGRESS_START. -/
def Obligations.SendQueue : Prop :=
  (∀ (s : State) (n : Port) (by_ : Requester) (v : Word), alive s = true → by_ ≠ .i3c →
    (∀ h, by_ = .host h → blockOpen s h.val (unitNo (4 + n.val) 1 0) = true) →
    let r := unIdle s
    let c := fld v 63 46
    let rq := fld v 45 45 = 1
    let k := getConn r c
    let cons := if rq then k.rqCons else k.sqCons
    let size := if rq then rqSize r c else sqSize r c
    let ahead := (fld v 15 0 + 65536 - cons % 65536) % 65536
    let granted := (hostOf by_).elim true fun h =>
      r.img.ranges.any fun x => x.1 = h && decide (x.2.1 ≤ connPolder r c) && decide (connPolder r c ≤ x.2.2)
    (k.st = .established → connKind r c = 0 → connPort r c = n.val → granted = true → ahead ≤ size →
      exec (.aftDb n by_ v) s = .next (settle (modConn r c fun x =>
        if rq then { x with rqProd := max k.rqProd (cons + ahead) } else { x with sqProd := max k.sqProd (cons + ahead) })))
    ∧ (k.st = .closed ∨ connKind r c ≠ 0 ∨ connPort r c ≠ n.val ∨ granted = false ∨ size < ahead →
      exec (.aftDb n by_ v) s = .next (settle (bumpAft r .AFT_CNT3 n.val 31 16 1))))
  ∧ (∀ (s r u : State) (c : ConnNo) (t : Stamp), r = at_ s t → alive r = true → headReady r c.val = true →
    let a := sqEntry r c.val (getConn r c.val).sqCons
    hostAccess r (some (connWho c.val)) a 32 false = (.ok, u) → fld (rdW u a) 63 60 = 2 → fld (rdW u (a + 16)) 60 60 = 0 →
    exec (.nop c t) s = .next (settle (endEntry u c.val Code.OK)))
  ∧ (∀ (s r u w : State) (c : ConnNo) (t : Stamp) (d : Nat), r = at_ s t → alive r = true → headReady r c.val = true →
    let a := sqEntry r c.val (getConn r c.val).sqCons
    hostAccess r (some (connWho c.val)) a 32 false = (.ok, u) → fld (rdW u (a + 16)) 60 60 = 0 →
    let n := fld (rdW u (a + 8)) 63 32
    n ≠ 0 → n ≤ 2 ^ 24 → regionAddr u (connPolder u c.val) (fld (rdW u a) 59 48) (fld (rdW u a) 47 0) n = some d →
    hostAccess u (some (connWho c.val)) d n false = (.ok, w) →
    let sent (imm : Option Nat) : State :=
      modConn (pushMsg (poolUse w (connPolder w c.val) (fld (rdW u a) 59 48) (fld (rdW u a) 47 0) n false) c.val .entry imm
        (rdBytes (poolUse w (connPolder w c.val) (fld (rdW u a) 59 48) (fld (rdW u a) 47 0) n false) d n)) c.val fun k => { k with busy := true }
    (fld (rdW u a) 63 60 = 0 → exec (.send c t) s = .next (settle (sent none)))
    ∧ (fld (rdW u a) 63 60 = 1 → exec (.sendImm c t) s = .next (settle (sent (some (fld (rdW u (a + 8)) 31 0))))))
  ∧ (∀ (s : State) (c : ConnNo), alive s = true → headReady s c.val = true →
    let a := sqEntry s c.val (getConn s c.val).sqCons
    fld (rdW s (a + 16)) 60 60 = 1 → chainCode s c.val (rdW s (a + 16)) = 0 → chainMet s (rdW s (a + 16)) (rdW s (a + 24)) = true →
    exec (.chainStart c) s = .next (settle (modConn s c.val fun k => { k with chained := true })))
  ∧ (∀ (s r u : State) (n : Port) (h : Fin 2) (t : Stamp) (sent : Option Nat), r = at_ s t → alive r = true → portOn r n.val = true →
    halfState r n.val h.val = 2 →
    let mine := (r.fab.conns.filter fun e => connPort r e.1 = n.val && connHalf r e.1 = h.val && sendable r e.1 t).map (·.1)
    let last := mapGetD (getPort r n.val).rr h.val 0
    let order := mine.filter (fun c => last < c) ++ mine.filter (fun c => c ≤ last)
    tryEgress r t ((List.range 8).reverse.flatMap fun k => order.filter fun c => connClass r c = k) = (u, sent) →
    exec (.egressStart n h t) s = .next (settle (sent.elim u fun c => modPort u n.val fun x => { x with rr := mapSet x.rr h.val c })))

/-- FANOUT, SUB, LIST, COLLECTIVE_ABORT (R443 to R449) and RETAINED_VERSION_FREE (R58). -/
def Obligations.CollectiveRows : Prop :=
  (∀ (s r : State) (c : CtxId) (t : Stamp) (m : ShardMap) (e0 : MapEntry), r = at_ s t → alive r = true →
    let k := getCtx r c.val
    standsIn r c.val .fanout = true → k.work.done = false → k.src.isMember = false →
    (r.tick.align = .unaligned ∨ r.tick.align = .acquiring → exec (.fanout c t) s = .next (settle (failCtx r c.val Code.EPOCH_UNALIGNED)))
    ∧ (r.tick.align ≠ .unaligned → r.tick.align ≠ .acquiring → mapAtEpoch r k.pin = some m →
        let own := cShard r (getColl r (dColl k.desc))
        entryOfShard (some m) own = some e0 →
        let u := bump r collCnt 63 32 1
        let group := m.entries.filter fun e => (some e0.group = some e.group) && decide (e.shard ≠ own)
        let all := sortBy (fun a b => decide (a.shard < b.shard)) (⟨own, 0, 0, []⟩ :: group)
        let chosen := all.map fun e => if e.shard = own then some ⟨own, none, none⟩
          else (pickNode u k.polder [] e).map fun n => (⟨e.shard, some n, none⟩ : Shardlet)
        let g : Gather := { attempt := 0, shards := chosen.filterMap id, failed := [] }
        exec (.fanout c t) s = .next (settle (if chosen.all Option.isSome
          then sendSubs (modWork u c.val fun w => { w with gather := some g, done := true }) c.val g
          else failCtx (bump u collCnt 15 0 1) c.val Code.COLL_MEMBER_LOST))))
  ∧ (∀ (s r : State) (m : FabMsg) (t : Stamp), r = at_ s t → alive r = true → toePath r (connPort r m.conn.val) = true → hears r m 2 mSub = true →
    let u := takeInbox r m.conn.val
    let n := 8 * (8 + fld (BitVec.ofNat 64 (leNat (m.body.take 8))) 23 16)
    let d := leWords (n / 8) m.body
    let v := if (m.body.drop n).isEmpty then u else (sysPut u (m.body.drop n)).1
    let a := if (m.body.drop n).isEmpty then 0 else (sysPut u (m.body.drop n)).2
    let src : Src := .member ⟨m.conn.val, m.origin.toNat, m.context.val, m.gen.toNat, m.attempt, m.arg0.toNat % 2 ^ 24, m.arg1.toNat, a, (m.body.drop n).length⟩
    let why := subCode v d (m.arg0.toNat % 2 ^ 24)
    exec (.sub m t) s = .next (settle (
      if why = Code.REPLICA_IN_DOUBT then refuseDesc v src d (connPolder v m.conn.val) why (ctxUnit (homeDie m.context.val)) 0
      else if why ≠ 0 then refuseIntake v src d (connPolder v m.conn.val) why
      else intake v src d (connPolder v m.conn.val) t (connPort v m.conn.val) m.conn.val 0)))
  ∧ (∀ (s r : State) (m : FabMsg) (t : Stamp) (g : Gather), r = at_ s t → alive r = true → hears r m 2 mList = true →
    let u := takeInbox r m.conn.val
    let c := m.context.val
    let code := m.arg0.toNat % 65536
    (getCtx u c).work.gather = some g → isLive u c = true → (getCtx u c).gen = m.gen.toNat → g.attempt = m.attempt → m.origin.toNat = myNode u →
    let shards := g.shards.map fun y =>
      if y.node = some (connNode u m.conn.val) ∧ y.shard = (parseList m.body).1 then { y with list := some (parseList m.body).2 } else y
    exec (.list m t) s = .next (settle (
      if served code then modWork u c fun w => { w with gather := some { g with shards := shards } }
      else if code = Code.EPOCH_GONE ∨ code = Code.EPOCH_AHEAD then failCtx (abortMembers u c g [connNode u m.conn.val]) c code
      else memberFailure u c [connNode u m.conn.val])))
  ∧ (∀ (s : State) (m : FabMsg), alive s = true → hears s m 2 mAbort = true →
    let u := takeInbox s m.conn.val
    exec (.collectiveAbort m) s = .next (settle { u with fab := { u.fab with
      aborts := u.fab.aborts ++ [⟨m.origin.toNat, m.context.val, m.gen.toNat, m.attempt, s.tick.nextNum⟩] } }))
  ∧ (∀ (s : State) (coll : CollNo), alive s = true → (mapGet s.colls coll.val).isNone = false →
    exec (.retainedVersionFree coll) s = .next (freeColl s.tick.epoch s coll.val))

/-- PREPARE, PREPARED, REFUSE, MAP_COMMIT_DECISION, COMMIT, MAP_ABORT, IN_DOUBT, STATUS_SEND, STATUS and OUTCOME (R451, R452). -/
def Obligations.MapChange : Prop :=
  (∀ (s : State) (m : FabMsg), alive s = true → m.origin.toNat ≠ myNode s → hears s m 3 mPrepare = true →
    let u := takeInbox s m.conn.val
    let why := if mapVersion u ≠ m.arg0.toNat then 1 else if u.tick.align ≠ .aligned then 2 else if u.fab.prep.isSome || u.fab.prop.isSome then 3 else 0
    exec (.prepare m) s = .next (settle (
      if why ≠ 0 then sendFab u m.conn.val mRefuse m.epoch (BitVec.ofNat 64 why) m.arg1 []
      else sendFab { u with fab := { u.fab with prep := some ⟨m.arg0.toNat, m.arg1.toNat, m.epoch, m.conn.val, (prepareBody m.body).1,
        (prepareBody m.body).2, none, false⟩ } } m.conn.val mPrepared m.epoch 0 m.arg1 [])))
  ∧ (∀ (s : State) (m : FabMsg) (p : Proposal), alive s = true → s.fab.prop = some p →
    let u := takeInbox s m.conn.val
    (hears s m 3 mPrepared = true → p.new_ = m.arg1.toNat → exec (.prepared m) s
      = .next (settle { u with fab := { u.fab with prop := some { p with yes := insertUniq (connNode u m.conn.val) p.yes } } }))
    ∧ (hears s m 3 mRefuse = true → exec (.refuse m) s = .next (settle { u with fab := { u.fab with prop := some { p with refused := true } } })))
  ∧ (∀ (s : State) (p : Proposal), alive s = true → s.fab.prop = some p →
    let inTime := decide (s.tick.nextNum < p.at_) || (s.tick.nextNum = p.at_ && !inBerm s s.now)
    let all := p.parts.all p.yes.contains
    let u : State := { s with fab := { s.fab with prop := none } }
    (p.refused = false → all = true → inTime = true → exec .mapCommitDecision s = .next (settle (
      p.parts.foldl (fun v n => sendShard v n mCommit p.at_ 0 (BitVec.ofNat 64 p.new_) [])
        { u with fab := { u.fab with prep := some ⟨p.old, p.new_, p.at_, 0, p.entries, p.removed, some p.at_, false⟩ } })))
    ∧ (p.refused = true ∨ inTime = false → exec .mapCommitDecision s = .next (settle (
        p.parts.foldl (fun v n => sendShard v n mMapAbort p.at_ 0 (BitVec.ofNat 64 p.new_) [])
          { u with fab := { u.fab with aborted := p.new_ :: u.fab.aborted } }))))
  ∧ (∀ (s r : State) (m : FabMsg) (p : Prepared) (t : Stamp), r = at_ s t → alive r = true → hears r m 3 mCommit = true →
    let u := takeInbox r m.conn.val
    u.fab.prep = some p → p.new_ = m.arg1.toNat → p.doubt = false →
    exec (.commit m t) s = .next (settle { u with fab := { u.fab with
      prep := some (if beforeFreeze u p.at_ t then { p with commit := some p.at_ } else p) } }))
  ∧ (∀ (s : State) (m : FabMsg) (p : Prepared), alive s = true → hears s m 3 mMapAbort = true →
    let u := takeInbox s m.conn.val
    u.fab.prep = some p → p.new_ = m.arg1.toNat → p.commit = none →
    exec (.mapAbort m) s = .next (settle { u with fab := { u.fab with prep := none } }))
  ∧ (∀ (s : State) (p : Prepared), alive s = true → s.fab.prep = some p → p.commit = none → beforeFreeze s p.at_ s.now = false →
    exec .inDoubt s = .next { s with fab := { s.fab with prep := some { p with doubt := true } } })
  ∧ (∀ (s : State) (p : Prepared), alive s = true → s.fab.prep = some p → p.doubt = true → p.commit = none → s.fab.statusAt ≠ some s.tick.tick →
    let u : State := { s with fab := { s.fab with statusAt := some s.tick.tick } }
    exec .statusSend s
      = .next (settle ((mapNodes u p.entries).foldl (fun v n => sendShard v n mStatus p.at_ 0 (BitVec.ofNat 64 p.new_) []) u)))
  ∧ (∀ (s : State) (m : FabMsg), alive s = true → hears s m 3 mStatus = true →
    let u := takeInbox s m.conn.val
    (∀ x, u.fab.maps.find? (fun x => x.version = m.arg1.toNat) = some x →
      exec (.status m) s = .next (settle (sendFab u m.conn.val mOutcome m.epoch 1 (BitVec.ofNat 64 x.from_) [])))
    ∧ (u.fab.maps.find? (fun x => x.version = m.arg1.toNat) = none →
      exec (.status m) s = .next (settle (sendFab u m.conn.val mOutcome m.epoch (if u.fab.aborted.contains m.arg1.toNat then 2 else 0) m.arg1 []))))
  ∧ (∀ (s : State) (m : FabMsg) (p : Prepared), alive s = true → hears s m 3 mOutcome = true →
    let u := takeInbox s m.conn.val
    u.fab.prep = some p → p.doubt = true →
    let after := if m.arg0.toNat = 1 then some { p with commit := some u.tick.nextNum } else if m.arg0.toNat = 2 then none else some p
    exec (.outcome m) s = .next (settle { u with fab := { u.fab with prep := after } }))

/-- REPL_STAGE, REPL_STAGED, REPL_COMMIT, REPL_DEFER, POOL_READ, POOL_WRITE, POOL_DONE and RELAY (R233, R234, R453 to R455). -/
def Obligations.ReplicasAndPools : Prop :=
  (∀ (s : State) (m : FabMsg) (coll : CollNo), alive s = true → (mapGet s.colls coll.val).isNone = false →
    let u := takeInbox s m.conn.val
    let co := getColl u coll.val
    (hears s m 3 mReplStage = true → exec (.replStage m coll) s = .next (settle (setColl u coll.val (
      if m.epoch = u.tick.tick + 1 ∨ m.epoch = u.tick.tick + 2
      then { co with images := co.images ++ [⟨m.conn.val, m.arg0.toNat, m.arg1.toNat, m.epoch, m.body⟩] }
      else { co with inDoubt := true }))))
    ∧ (hears s m 3 mReplStaged = true → exec (.replStaged m coll) s = .next (settle (setColl u coll.val { co with
        groups := co.groups.map fun g => if g.mseqHi = m.arg1.toNat then { g with staged := insertUniq (connNode u m.conn.val) g.staged } else g })))
    ∧ (hears s m 3 mReplDefer = true → exec (.replDefer m coll) s = .next (settle (setColl u coll.val { co with
        groups := co.groups.map fun g => if g.mseqHi = m.arg0.toNat then { g with commit := m.arg1.toNat, named := none } else g
        images := co.images.map fun i => if i.hi = m.arg0.toNat then { i with epoch := m.arg1.toNat } else i }))))
  ∧ (∀ (s r : State) (m : FabMsg) (coll : CollNo) (t : Stamp), r = at_ s t → alive r = true → hears r m 3 mReplCommit = true →
    (mapGet r.colls coll.val).isNone = false →
    let u := takeInbox r m.conn.val
    let co := getColl u coll.val
    exec (.replCommit m coll t) s = .next (settle (if beforeFreeze u m.epoch t = false then u else setColl u coll.val { co with
      groups := co.groups.map fun g => if g.mseqHi = m.arg1.toNat then { g with commit := m.epoch, named := some m.epoch } else g })))
  ∧ (∀ (s r : State) (m : FabMsg) (okSteps : List (Option Nat)) (t : Stamp), r = at_ s t → alive r = true →
    connRelayEn r m.conn.val = false →
    let u := takeInbox r m.conn.val
    let first := m.arg0.toNat
    let units := m.arg1.toNat % 65536
    let id := u.fab.poolNext
    let job (write : Bool) (data : List Byte) (steps : List (Option Nat)) : PoolJob :=
      ⟨id, m.conn.val, write, first, units, 0, data, steps, t, u.tick.epoch, none⟩
    let start (j : PoolJob) : State := stepPool { u with fab := { u.fab with pool := u.fab.pool ++ [j], poolNext := id + 1 } } j
    (connPoolNs u m.conn.val = 0 →
      (hears r m 4 mPoolRead = true → exec (.poolRead m okSteps t) s = .next (settle (poolDone u m.conn.val Code.POOL_DENIED [])))
      ∧ (hears r m 4 mPoolWrite = true → exec (.poolWrite m t) s = .next (settle (poolDone u m.conn.val Code.POOL_DENIED []))))
    ∧ (∀ n, connPoolNs u m.conn.val ≠ 0 → getNs u (connPoolNs u m.conn.val) = some n → n.isHost = true → n.bound = true →
        n.polder = connPolder u m.conn.val → units ≠ 0 → first + units ≤ n.units →
        (hears r m 4 mPoolRead = true → exec (.poolRead m okSteps t) s = .next (settle (start (job false [] okSteps))))
        ∧ (hears r m 4 mPoolWrite = true → exec (.poolWrite m t) s = .next (settle (start (job true m.body []))))))
  ∧ (∀ (s r : State) (m : FabMsg) (t : Stamp), r = at_ s t → alive r = true → hears r m 4 mPoolDone = true →
    exec (.poolDone m t) s = .next (takeInbox r m.conn.val))
  ∧ (∀ (s r : State) (c : ConnNo) (bytes : List Byte) (t : Stamp), r = at_ s t → alive r = true → connHears r c.val 4 = true → inFront r c.val = some bytes →
    connRelayEn r c.val = true → (getConn r (connRelay r c.val)).st = .established →
    exec (.relay c bytes t) s = .next (settle (pushMsg (takeInbox r c.val) (connRelay r c.val) .quiet none bytes)))

/-- BML_TRAINING, TRAINING_RETRY, RETRAIN, RETRAIN_TIMEOUT, INIT_FLIT, NAK_REPEAT, BML_CRD_WRITE and BML_HB_CFG_WRITE (R463 to R471, R486, R491). -/
def Obligations.LinkTraining : Prop :=
  (∀ (s r : State) (n : Port) (tr : BmlTrain) (t : Stamp), r = at_ s t → alive r = true → bmlState r n.val = 1 →
    let sts : Reg := ⟨.BML_LINK_STS, n.val, 0⟩
    let lanes := alignLanes r n.val tr.lanesOk.toNat
    (lanes = 0 → exec (.bmlTraining n tr t) s = .next (settle (setF (bmlDown r n.val t) sts 8 6 2)))
    ∧ (lanes ≠ 0 → initOk tr = false → exec (.bmlTraining n tr t) s = .next (settle (setF (bmlDown r n.val t) sts 8 6 3)))
    ∧ (lanes ≠ 0 → initOk tr = true →
        let u := setF (setF (setF (setF (setF r sts 20 13 lanes) sts 12 9 (if lanes = 255 then 8 else 4)) sts 31 21 tr.rttNs) sts 8 6 3) sts 5 4 2
        let credit := (List.range 4).map fun i => (4 + i, (nth? tr.farRes i).getD 0)
        exec (.bmlTraining n tr t) s = .next (settle (sendHb (modBml u n.val fun x => { BmlPort.fresh with
          trainAt := none, ever := true, since := t, credit := credit, pool := tr.farPool, crd := some (getReg u ⟨.BML_CRD, n.val, 0⟩), hbSeq := x.hbSeq,
          rings := x.rings, gone := x.gone }) n.val t))))
  ∧ (∀ (s r : State) (n : Port) (t : Stamp), r = at_ s t → alive r = true → mayTrain r n.val t = true →
    exec (.trainingRetry n t) s = .next (modBml (setF r ⟨.BML_LINK_STS, n.val, 0⟩ 8 4 1) n.val fun x =>
      { x with since := t, trainAt := none, inits := 0, initLast := [] }))
  ∧ (∀ (s r : State) (n : Port) (t : Stamp) (v k : Nat), r = at_ s t → alive r = true → bmlState r n.val = 2 →
    (getBml r n.val).nakSame = some (v, k) → 8 ≤ k →
    exec (.retrain n t) s = .next (bump (modBml (setF (setF r ⟨.BML_LINK_STS, n.val, 0⟩ 5 4 3) ⟨.BML_LINK_STS, n.val, 0⟩ 8 6 2) n.val fun x =>
      { x with since := t, inits := 0, initLast := [], nakSame := none }) ⟨.BML_CNT1, n.val, 0⟩ 31 0 1))
  ∧ (∀ (s r : State) (n : Port) (t : Stamp), r = at_ s t → alive r = true → bmlState r n.val = 3 → (getBml r n.val).since + 2000 * us ≤ t →
    exec (.retrainTimeout n t) s = .next (settle (bmlDown r n.val t)))
  ∧ (∀ (s r : State) (n : Port) (bytes f : List Byte) (t : Stamp), r = at_ s t → alive r = true → bmlState r n.val = 1 ∨ bmlState r n.val = 3 →
    openFlit bytes = some f → hdKind (flitHead f) = 3 →
    let u := setF (modBml r n.val fun x => { x with inits := if x.initLast = initContent f then x.inits + 1 else 1, initLast := initContent f })
      ⟨.BML_LINK_STS, n.val, 0⟩ 8 6 3
    exec (.initFlit n bytes t) s = .next { u with out := u.out ++ [.flit n.val
      (sealFlit (leBytes 6 (3 * 2 ^ 46) ++ initPayload (at_ u t) n.val ((f.drop 32).take 8) ++ List.replicate 198 0))] })
  ∧ (∀ (s r : State) (n : Port) (t : Stamp), r = at_ s t → alive r = true → bmlState r n.val = 2 → (getBml r n.val).missing = true →
    (getBml r n.val).nakAt + us ≤ t → exec (.nakRepeat n t) s = .next (sendNakFlit r n.val))
  ∧ (∀ (cmd : Port → Word → Instr) (name : RegName), (cmd, name) ∈ ([(.bmlCrdWrite, .BML_CRD), (.bmlHbCfgWrite, .BML_HB_CFG)] : List ((Port → Word → Instr) × RegName)) →
    ∀ (s : State) (n : Port) (v : Word), alive s = true →
    let w := written name [.RW] (getReg s ⟨name, n.val, 0⟩) v
    exec (cmd n v) s = .next (if inRanges name w then setReg s ⟨name, n.val, 0⟩ w else setBit s ⟨.BML_CFG, n.val, 0⟩ 2))

/-- DATA_FLIT, IDLE_FLIT and NAK_FLIT (R467 to R470). -/
def Obligations.FlitRows : Prop :=
  (∀ (s r : State) (n : Port) (bytes f : List Byte) (t : Stamp), r = at_ s t → alive r = true → bmlState r n.val = 2 → openFlit bytes = some f →
    hdKind (flitHead f) = 0 →
    (hdSeq (flitHead f) = (getBml r n.val).rxNext →
      (getBml (settle ((takeData r n.val bytes).2.foldl (takeMsg n.val t) (takeData r n.val bytes).1)) n.val).rxNext ≠ (getBml r n.val).rxNext →
      exec (.dataFlit n bytes t) s
        = .next (idleBack (settle ((takeData r n.val bytes).2.foldl (takeMsg n.val t) (takeData r n.val bytes).1)) n.val (flitsOut r n.val)))
    ∧ (hdSeq (flitHead f) ≠ (getBml r n.val).rxNext → takeData r n.val bytes = (if (getBml r n.val).missing then r else sendNakFlit r n.val, [])))
  ∧ (∀ (s : State) (n : Port) (bytes f : List Byte), alive s = true → bmlState s n.val = 2 → openFlit bytes = some f → hdKind (flitHead f) = 1 →
    exec (.idleFlit n bytes) s = .next (settle (readHeader s n.val (flitHead f))))
  ∧ (∀ (s r : State) (n : Port) (bytes f : List Byte) (t : Stamp), r = at_ s t → alive r = true → bmlState r n.val = 2 →
    openFlit bytes = some f → hdKind (flitHead f) = 2 →
    let v := hdAck (flitHead f)
    let u := readHeader r n.val (flitHead f)
    let seen (k : Nat) : State := modBml u n.val fun x => { x with nakSame := some (v, k) }
    (∀ k, (getBml u n.val).nakSame = some (v, k) → ∀ t0, (getBml u n.val).resent = some (v, t0) → t < t0 + us →
      exec (.nakFlit n bytes t) s = .next (settle (doRetrain (seen (k + 1)) n.val t)))
    ∧ ((getBml u n.val).nakSame = none → (getBml u n.val).resent = none →
      exec (.nakFlit n bytes t) s = .next (settle (doRetrain (bump (resend (modBml (seen 1) n.val fun x => { x with resent := some (v, t) }) n.val)
        ⟨.BML_LINK_STS, n.val, 0⟩ 63 32 (getBml u n.val).replay.length) n.val t))))
  ∧ (∀ (r : State) (n : Port) (bytes : List Byte), bmlState r n.val = 2 → openFlit bytes = none →
    takeData r n.val bytes = (if (getBml r n.val).missing then r else sendNakFlit r n.val, []))

/-- RD_S, RD_O, WR_LINE, DROP, WB_KEEP, WB_DROP, SNP_ACK, SNP_DATA and HOST_METER_REFILL (R369, R475 to R478, R380). -/
def Obligations.HostLines : Prop :=
  (∀ (data : List Byte) (cmd : Port → BitVec 48 → BitVec 16 → Stamp → Instr) (type : Nat) (body : List Byte),
    (cmd, type, body) ∈ ([(.rdS, 1, []), (.rdO, 2, []), (fun h a g t => .wrLine h a g data t, 3, data), (.drop, 4, [])]
      : List ((Port → BitVec 48 → BitVec 16 → Stamp → Instr) × Nat × List Byte)) →
    ∀ (s r : State) (h : Port) (addr : BitVec 48) (tag : BitVec 16) (t : Stamp), r = at_ s t → alive r = true → memHeard r h.val = (true, unIdle r) →
    let u := meterFill (wakeAt (unIdle r) 2 t) h.val t
    let q : HostReq := ⟨h.val, type, addr.toNat / 64, tag.toNat, body, false⟩
    (reqWaits u q (getBml u h.val).waitq = true →
      exec (cmd h addr tag t) s = .next (settle (modBml u h.val fun x => { x with waitq := x.waitq ++ [withMark u q] })))
    ∧ (reqWaits u q (getBml u h.val).waitq = false →
        let reason := memReason u h.val q.addr (type = 2 || type = 3)
        (reason ≠ 0 → exec (cmd h addr tag t) s = .next (settle (memAnswer u q 0x25 reason [])))
        ∧ (reason = 0 → exec (cmd h addr tag t) s = .next (settle (if type = 1 then takeRdS (meterLine u h.val t) q
            else if type = 2 then takeRdO (meterLine u h.val t) q else if type = 3 then takeWrLine (meterLine u h.val t) q else takeDrop u q)))))
  ∧ (∀ (keep : Bool) (s r : State) (h : Port) (addr : BitVec 48) (tag : BitVec 16) (data : List Byte) (t : Stamp), r = at_ s t → alive r = true →
    memHeard r h.val = (true, unIdle r) →
    let cmd := if keep then Instr.wbKeep h addr tag data t else Instr.wbDrop h addr tag data t
    let u := unIdle r
    let line := addr.toNat / 64
    let q : HostReq := ⟨h.val, if keep then 0x08 else 0x09, line, tag.toNat, data, false⟩
    let reason := memReason u h.val line false
    (reason ≠ 0 → exec cmd s = .next (settle (memAnswer u q 0x25 reason [])))
    ∧ (reason = 0 → holdsOwned u h.val line = false → exec cmd s = .next (settle (memAnswer u q 0x24 0 [])))
    ∧ (reason = 0 → holdsOwned u h.val line = true →
        let v := dirSet (wrBytes u (line * 64) data) line (if keep then mkShared (2 ^ h.val) else 0)
        exec cmd s = .next (settle (memAnswer
          (if (getWin v h.val).recalls.any (fun x => x.line = line && x.acked) then endRecall v h.val line else v) q 0x24 0 []))))
  ∧ (∀ (s r : State) (h : Port) (addr : BitVec 48) (x : Recall) (t : Stamp), r = at_ s t → alive r = true → memHeard r h.val = (true, unIdle r) →
    let u := unIdle r
    let line := addr.toNat / 64
    (getWin u h.val).recalls.find? (·.line = line) = some x →
    (x.kind = 0x2A → exec (.snpAck h addr t) s = .next (settle (endRecall
      (if holdsShared u h.val line then dirSet u line (mkShared (dirSharers (dirGet u line) - 2 ^ h.val)) else u) h.val line)))
    ∧ (x.kind ≠ 0x2A → holdsOwned u h.val line = true → exec (.snpAck h addr t) s = .next (settle (modWin u h.val fun w =>
        { w with recalls := w.recalls.map fun y => if y.line = line then { y with acked := true } else y })))
    ∧ (∀ data, exec (.snpData h addr data t) s = .next (settle (endRecall
        (if holdsOwned u h.val line && !memLost u (line * 64)
         then dirSet (wrBytes u (line * 64) data) line (if x.kind = 0x28 then mkShared (2 ^ h.val) else 0) else u) h.val line))))

/-- CSR_RD, CSR_WR, HB, HB_ACK, HOST_ATTACH and the two ring doorbells (R480, R482, R486, R489). -/
def Obligations.HostRows : Prop :=
  (∀ (s : State) (h : Port) (addr : BitVec 32) (tag : BitVec 16), alive s = true → csrHeard s h.val = (true, s) →
    exec (.csrRd h addr tag) s = .next (settle (bmlPush (busRead s (.host h) addr.toNat).1 h.val 0x30 0 addr.toNat tag.toNat 0
      (leBytes 8 (busRead s (.host h) addr.toNat).2.toNat ++ List.replicate 8 0))))
  ∧ (∀ (s r : State) (h : Port) (addr : BitVec 32) (v : Word) (t : Stamp), r = at_ s t → alive r = true → csrHeard r h.val = (true, r) →
    (∀ g, target r (.host h) addr.toNat = .reg g → hostWrites g.name = true → exec (.csrWr h addr v t) s = .next (settle (writeReg r (.host h) g v t)))
    ∧ (∀ g, target r (.host h) addr.toNat = .reg g → hostWrites g.name = false → exec (.csrWr h addr v t) s = .next (settle r))
    ∧ (∀ p, target r (.host h) addr.toNat = .refused p → exec (.csrWr h addr v t) s = .next (settle (bump r ⟨.BML_CNT0, p, 0⟩ 31 0 1))))
  ∧ (∀ (s r : State) (n : Port) (t due : Stamp), r = at_ s t → alive r = true → bmlState r n.val = 2 → (getBml r n.val).hbNext = some due → due ≤ t →
    let seq := (getBml r n.val).hbSeq
    exec (.hb n t) s = .next (settle (bump (modBml (bmlPush r n.val 0x38 0 (tickOf r t) 0 seq []) n.val fun x => { x with
      hbSeq := (seq + 1) % 2 ^ 32, unans := x.unans ++ [(seq, t)], hbNext := some (t + getF (bmlPush r n.val 0x38 0 (tickOf r t) 0 seq []) ⟨.BML_HB_CFG, n.val, 0⟩ 16 0 * us) })
      ⟨.BML_HB_STS, n.val, 0⟩ 63 32 1)))
  ∧ (∀ (s r : State) (n : Port) (seq : BitVec 32) (t : Stamp), r = at_ s t → alive r = true → bmlState r n.val = 2 →
    let u := (getBml r n.val).unans
    let rest := if u.any (·.1 = seq.toNat) then (u.dropWhile (·.1 ≠ seq.toNat)).drop 1 else u
    exec (.hbAck n seq t) s = .next (settle (doAttach (modBml r n.val fun x => { x with unans := rest, hbSeen := true }) n.val)))
  ∧ (∀ (s : State) (n : Port), alive s = true → bmlState s n.val = 2 → (getBml s n.val).hbSeen = true →
    getF s ⟨.BML_LINK_STS, n.val, 0⟩ 3 3 = 0 →
    let u := setF s ⟨.BML_LINK_STS, n.val, 0⟩ 3 3 1
    exec (.hostAttach n) s = .next (settle (modBml u n.val fun x => if (getWin u n.val).st = .closed
      then { x with attachPend := false, gone := false } else { x with attachPend := true })))
  ∧ (∀ (s r : State) (n : Port) (ring : Fin 64) (index : BitVec 32) (t : Stamp), r = at_ s t → alive r = true → csrHeard r n.val = (true, r) →
    blockOpen r n.val (unitNo (4 + n.val) 2 0) = true →
    let u := wakeAt (unIdle r) 2 r.now
    let g := getRing u n.val ring.val
    ringOn u n.val ring.val = true → g.wipe = [] → (getBml u n.val).gone = false →
    (dist32 index.toNat g.cmdProd < 2 ^ 31 → dist32 index.toNat (cmdCons u n.val ring.val) ≤ cmdSize u n.val ring.val →
      exec (.commandProducerDoorbell n ring index t) s = .next (settle (modRing u n.val ring.val fun g => { g with cmdProd := index.toNat })))
    ∧ (dist32 index.toNat g.cplCons < 2 ^ 31 →
        dist32 index.toNat (cplProd u n.val ring.val) = 0 ∨ 2 ^ 31 ≤ dist32 index.toNat (cplProd u n.val ring.val) →
        exec (.completionConsumerDoorbell n ring index t) s
          = .next (settle (modRing u n.val ring.val fun g => { g with cplCons := index.toNat, notify := true }))))

/-- LOAD, STAGING_END, UNLOAD, PLAN, ATTEST, UPDATE and OWNER_RECORD_COMMIT (R506 to R513). -/
def Obligations.ImageOperations : Prop :=
  (∀ (s r : State) (by_ : Requester) (t : Stamp), r = at_ s t → alive r = true → (∀ h, by_ = .host h → blockOpen r h.val imgUnit = true) →
    let n := reqNum by_
    let p := imgArgPolder r
    (imgBusy r = true → (∀ abort, exec (.unload by_ abort t) s = .next (settle (imgBad r)))
      ∧ exec (.load by_ t) s = .next (settle (imgBad r)) ∧ exec (.plan by_ t) s = .next (settle (imgBad r)))
    ∧ (imgBusy r = false → bootState r ≠ 2 → r.tick.running = true → inRequester r n (imgSrc r) (imgLen r) = true →
        let u := imgTake r 1 p n
        exec (.load by_ t) s = .next (settle (advanceLoad { u with img := { u.img with
          loading := some ⟨p, n, imgSrc u, imgLen u, [], none, none⟩ } })))
    ∧ (imgBusy r = false → bootState r ≠ 2 → p ≠ 0 → (getPolder r p).st = .active → ∀ abort,
        exec (.unload by_ abort t) s = .next (settle (if mayName (imgTake r 2 p n) n p = false
          then imgRefuse (imgTake r 2 p n) { code := Code.HOST_DENIED } else imgDone (doUnload (imgTake r 2 p n) p abort t))))
    ∧ (imgBusy r = false → bootState r ≠ 2 → r.tick.running = true →
        let region := getF r ⟨.IMG_ARG, 0, 0⟩ 51 40
        let off := getF r ⟨.IMG_ARG, 0, 0⟩ 39 0
        let u := imgTake r 3 p n
        let a := (regionAddr u p region off 64).getD 0
        (mayName u n p = false → exec (.plan by_ t) s = .next (settle (imgRefuse u { code := Code.HOST_DENIED })))
        ∧ (mayName u n p = true → planCode u p region off false = 0 →
            let v := setF (planWait u a (boundaryFor u t)) rImgSts 47 45 3
            exec (.plan by_ t) s = .next (settle { v with img := { v.img with planning := some ⟨(planHdr v a).coll, boundaryFor u t, p, region, off⟩ } }))
        ∧ (mayName u n p = true → planCode u p region off false ≠ 0 →
            exec (.plan by_ t) s = .next (settle (imgRefuse (if a = 0 then u else planRefuse u a (planCode u p region off false))
              { code := planCode u p region off false })))))
  ∧ (∀ (s r : State) (t : Stamp) (l : Loading), r = at_ s t → alive r = true → r.img.loading = some l → imgState r = 2 →
    exec (.stagingEnd true t) s = .next (settle (imgRefuse r { code := Code.LOAD_FAULT }))
    ∧ (∀ u bs, imgRead r l.addr l.image.length = (.ok, u, bs) → imgHash bs ≠ imgHash l.image →
        exec (.stagingEnd false t) s = .next (settle (imgRefuse u { code := Code.BAD_SIGNATURE })))
    ∧ (∀ u bs v q, imgRead r l.addr l.image.length = (.ok, u, bs) → imgHash bs = imgHash l.image → stageImage u l.image t = some (v, q) →
        let w := seekOp (setF v rImgSts 47 45 3) (min v.pwr.goal (imgProof l.image)) t
        exec (.stagingEnd false t) s
          = .next (settle { w with img := { w.img with loading := some { l with due := some (boundaryFor w t), staged := some q } } })))
  ∧ (∀ (s : State) (by_ : Requester), alive s = true → (∀ h, by_ = .host h → blockOpen s h.val imgUnit = true) → imgBusy s = false →
    let n := reqNum by_
    (inRequester s n (imgSrc s) 32 = true → inRequester s n (imgSrc s + 64) (imgLen s) = true → attestLen s ≤ imgLen s →
      exec (.attest by_) s = .next (settle (advanceAttest (imgTake s 4 0 n))))
    ∧ (inRequester s n (imgSrc s) (imgLen s) = true → exec (.update by_) s = .next (settle (advanceUpdate (imgTake s 5 0 n)))))
  ∧ (∀ (s : State) (by_ : Requester), alive s = true → (∀ h, by_ = .host h → blockOpen s h.val rvUnit = true) →
    let bs := claimBytes s
    let key := (bs.drop 8).take 64
    (bs.take 4 ≠ ascii "EFZO" → exec (.ownerRecordCommit by_) s = .next (setBit s ⟨.RV_CLAIM_CTL, 0, 0⟩ 1))
    ∧ (by_ = .i3c → s.img.owner = List.replicate 32 0 → bs.take 4 = ascii "EFZO" → bs.drop 136 = List.replicate 56 0 →
        ecdsaVerify (sha256 (bs.take 72)) (key.take 32) (key.drop 32) ((bs.drop 72).take 32) ((bs.drop 104).take 32) = true →
        exec (.ownerRecordCommit by_) s
          = .next (writeFloor (norPut s 0x4000 bs) (getF s rRvFloor 31 0) (getF s rRvSvn 63 32) (sha256 key))))

/-- PART_BOOT, LINK_TRAIN_TIMEOUT, LINK_FAILED, CLASSES_OPEN, FAILURE_DECLARATION and PSEUDO_CHANNEL_TIMEOUT (R31 to R36, R514, R536). -/
def Obligations.BootAndLinks : Prop :=
  (∀ (s : State) (puf stacksUp flash : Bool) (bad : List (Fin 8 × Fin 8)) (ms : BitVec 32), pwrState s = 4 →
    let ends := bad.map fun x => (x.1.val, x.2.val)
    let e : BootEnv := { badLinks := ends, stacksUp := stacksUp, flash := flash, ms := ms.toNat }
    (∀ src t, s.pwr.wake = some (src, t) → s.pwr.vinOk = true → s.pwr.vauxOk = true → s.pwr.resetN = true →
      let up := setF (modPwr (afterReset s) fun p => { p with railsUp := true }) rPwrWake 14 8 (if src < 7 then 2 ^ src else 0)
      exec (.partBoot puf bad stacksUp flash ms) s = .next (bootSteps (linksTrained up ends) puf e))
    ∧ (s.pwr.wake = none → s.pwr.railsUp = false → exec (.partBoot puf bad stacksUp flash ms) s = .next s))
  ∧ (∀ (s : State) (stacksUp flash : Bool) (bad : List (Fin 8 × Fin 8)) (ms : BitVec 32), pwrState s ≠ 4 → alive s = true → getReg s rRvBoot = 0 →
    exec (.partBoot false bad stacksUp flash ms) s = .next (setBoot (linksTrained s (bad.map fun x => (x.1.val, x.2.val))) 3 3 1 ms.toNat))
  ∧ (∀ (s : State) (a b : Fin 8), alive s = true → linkEnds a.val b.val = true → linkState s a.val b.val < 2 → bootState s = 0 →
    let u := failLink s a.val b.val
    bootState u = 0 → lostMembers s (setReg u ⟨.RV_BOOT, 0, 0⟩ (BitVec.ofNat 64 (8 * 2 ^ 56 + 3 * 2 ^ 54 + 4 * 2 ^ 50))) = [] →
    exec (.linkTrainTimeout a b) s = .next (settle (setReg u ⟨.RV_BOOT, 0, 0⟩ (BitVec.ofNat 64 (8 * 2 ^ 56 + 3 * 2 ^ 54 + 4 * 2 ^ 50)))))
  ∧ (∀ (s : State) (a b : Fin 8), alive s = true → linkEnds a.val b.val = true →
    exec (.linkFailed a b) s = .next (settle (withMembers (fun s =>
      let u := stopEntry (failLink s a.val b.val) 4
      if max a.val b.val = 4 then loseCrest u (min a.val b.val) else if 4 < max a.val b.val then loseToe u (max a.val b.val - 4)
      else loseCrest u (max a.val b.val)) s)))
  ∧ (∀ (s : State) (a b : Fin 8) (v : Word), alive s = true → linkEnds a.val b.val = true → getF s ⟨.MEM_LINK_CFG, a.val, b.val⟩ 16 16 = 0 →
    let r : Reg := ⟨.MEM_LINK_CFG, a.val, b.val⟩
    let u := setF s r 9 0 (fld v 9 0)
    (fld v 16 16 = 0 → exec (.classesOpen a b v) s = .next u)
    ∧ (fld v 16 16 = 1 →
        let fits := (linkReserves u a.val b.val).all (fun n => decide (4 ≤ n))
          && decide ((linkReserves u a.val b.val).foldl (· + ·) (fld v 9 0) ≤ linkBuffer a.val b.val)
        exec (.classesOpen a b v) s = .next (if fits then pumpLinks (setF u r 16 16 1) else setBit u ⟨.MEM_LINK_STS, a.val, b.val⟩ 3)))
  ∧ (∀ (s : State) (st : Stack) (p : Pc), alive s = true →
    exec (.pseudoChannelTimeout st p) s = .next (settle (losePc (stopEntry s 4) st.val p.val)))
  ∧ (∀ (s : State) (d : Crest) (st : Stack), alive s = true →
    exec (.failureDeclaration (.crest d)) s = .next (settle (withMembers (fun s => loseCrest (stopEntry s 4) d.val) s))
    ∧ exec (.failureDeclaration (.stack st)) s = .next (settle (withMembers (fun s => loseStack (stopEntry s 4) st.val) s)))

/-- REGISTER_WRITE of a register that only stores, and UNMAPPED_ACCESS (R9, R516). -/
def Obligations.RegisterRows : Prop :=
  (∀ (s r : State) (addr : BitVec 32) (v : Word) (t : Stamp) (g : Reg), r = at_ s t → alive r = true → target r .reeve addr.toNat = .reg g →
    g.name ∈ ([.PLD_CTX, .WLK_SLOT_CFG, .MEM_BSU_CFG, .TEN_SEQ_SEL, .NUM_SCL_SEL, .EMB_LOAD_SEL, .MEM_MOV_ADDR, .FSS_LIST_ADDR, .MEM_SCRUB_CFG, .PWR_CAP,
      .PWR_WAKE, .IMG_SRC, .IMG_LEN, .IMG_ARG, .RV_CLAIM_DATA] : List RegName) →
    let w := written g.name (if sealed_ r g then [.RW] else [.RW, .RWL]) (getReg r g) v
    (inRanges g.name w = true → ∃ u, exec (.registerWrite .reeve addr v t) s = .next u ∧ u = { r with csr := u.csr } ∧ getReg u g = w
      ∧ ∀ x : Reg, regAddr x ≠ regAddr g → getReg u x = getReg r x)
    ∧ (inRanges g.name w = false → exec (.registerWrite .reeve addr v t) s = .next r))
  ∧ (∀ (s : State) (by_ : Requester) (addr : Word) (isWrite : Bool), alive s = true → place addr.toNat = .unmapped →
    ∃ u, exec (.unmappedAccess by_ addr isWrite) s = .next u ∧ u = { s with csr := u.csr } ∧ getReg u ⟨.RV_BADADDR, 0, 0⟩ = addr
      ∧ getF u ⟨.RV_BADSRC, 0, 0⟩ 15 15 = (if isWrite then 1 else 0)
      ∧ ∀ x : Reg, regAddr x ≠ regAddr ⟨.RV_BADADDR, 0, 0⟩ → regAddr x ≠ regAddr ⟨.RV_BADSRC, 0, 0⟩ → getReg u x = getReg s x)
  ∧ (∀ (s k : State) (h : Port) (unit : Nat),
    (blockOpen s h.val unit = true → asRequester s (.host h) unit k = k)
    ∧ (blockOpen s h.val unit = false → asRequester s (.host h) unit k = bump s ⟨.BML_CNT0, h.val, 0⟩ 31 0 1))

/-- ENTER_SLEEP, ENTER_DEEP, ENTER_OFF, STATE_ENTRY, DRAIN_REFUSAL, WAKE, WAKE_EVENT, WAKE_N, WAKE_TIMER, SLEEP_EXIT and DEEP_EXIT (R521 to R529). -/
def Obligations.PowerStates : Prop :=
  (∀ (cmd : Requester → Stamp → Instr) (target : Nat),
    (cmd, target) ∈ ([(.enterSleep, 2), (.enterDeep, 3), (.enterOff, 4)] : List ((Requester → Stamp → Instr) × Nat)) →
    ∀ (s r : State) (by_ : Requester) (t : Stamp), r = at_ s t → alive r = true → (∀ h, by_ = .host h → blockOpen r h.val pwrUnit = true) →
    (r.pwr.entry = none → pwrState r < target → r.tick.running = true →
      exec (cmd by_ t) s = .next (settle (modPwr (setF r rPwrState 6 4 target) fun p =>
        { p with entry := some { target := target, abort := decide (getF r ⟨.PWR_CTL, 0, 0⟩ 3 3 = 1), b := boundaryFor r t, refuser := none } })))
    ∧ (target ≤ pwrState r → exec (cmd by_ t) s = .next (settle (setBit r ⟨.PWR_CTL, 0, 0⟩ 10))))
  ∧ (∀ (s : State) (e : Entering), alive s = true → s.pwr.entry = some e → e.abort = false → e.b ≤ s.tick.tick →
    firstRefuser (entryCkpt s e) e.target e.b false = none →
    exec .stateEntry s = .next (settle (enterState (entryCkpt s e) e.target)))
  ∧ (∀ (s : State) (e : Entering) (reason kind who : Nat), alive s = true → s.pwr.entry = some e → e.abort = false →
    e.b + drainTicks s ≤ s.tick.tick → firstRefuser s e.target e.b false = some (reason, kind, who) →
    exec .drainRefusal s = .next (refuseEntry s s.tick.tick reason kind who false))
  ∧ (∀ (s r : State) (t : Stamp), r = at_ s t → alive r = true → pwrState r ≠ 4 →
    exec (.wake .i3c t) s = .next (settle (wakeAt (stopEntry r 4) 1 t)) ∧ exec (.wake .reeve t) s = .next (settle (stopEntry r 4)))
  ∧ (∀ (s r : State) (src : Fin 7) (t : Stamp), r = at_ s t → sourceIn src.val (pwrState r) = true → getF r rPwrWake src.val src.val = 1 →
    r.pwr.vauxOk = true →
    (pwrState r = 4 → r.pwr.vinOk = false → exec (.wakeEvent src t) s
      = .next (modPwr (setF r rPwrWake 14 8 (2 ^ src.val)) fun p => { p with woken := some src.val }))
    ∧ (pwrState r ≠ 4 ∨ r.pwr.vinOk = true → r.pwr.wake = none →
        let u := modPwr r fun p => { p with wake := some (src.val, t) }
        exec (.wakeEvent src t) s = .next (if pwrState r = 2 then seekOp u (opWanted u) t else u)))
  ∧ (∀ (s r : State) (t0 t : Stamp), r = at_ s t → pwrState r = 4 → r.pwr.vinOk = true → r.pwr.vauxOk = true → r.pwr.wake = none →
    getF r rPwrWake 0 0 = 1 →
    exec (.wakeN t0 t) s = .next (if t0 + us ≤ t then modPwr r fun p => { p with wake := some (0, t) } else r))
  ∧ (∀ (s r : State) (t : Stamp), r = at_ s t → alive r = true → getF r rPwrWake 63 32 ≠ 0 →
    r.pwr.entered + getF r rPwrWake 63 32 * 1000 * us ≤ t → exec (.wakeTimer t) s = .next (wakeAt r 6 t))
  ∧ (∀ (s : State) (src : Nat) (t : Stamp), alive s = true → s.pwr.wake = some (src, t) → pwrState s = 2 → s.tick.running = true →
    t + 10 * us ≤ s.tick.base →
    let u := noteWake s
    exec .sleepExit s = .next (setPower (raiseTo (seekOp u (opWanted u) u.now) (opWanted u)) 0))
  ∧ (∀ (s r : State) (t : Stamp), r = at_ s t → alive r = true → pwrState r = 3 → r.pwr.wake.isSome = true → r.img.sched = none →
    let a := setPower (noteWake r) 0
    getF a ⟨.FSS_CFG, 0, 0⟩ 0 0 = 0 →
    let b := (List.range 4).foldl (fun s n => if fld (getPort s n).kept 37 36 = 0 then s else doPortMode s n (getPort s n).kept) a
    b.img.sched = none → exec (.deepExit t) s = .next (settle (seekOp b (opWanted b) t)))

/-- OPERATING_POINT_TARGET, FREQUENCY_SWITCH, SENSOR_SAMPLE, EMERGENCY_RETURN, THROTTLE_STEP, FATAL and WATCHDOG_EXPIRY (R531 to R537). -/
def Obligations.OperatingPoints : Prop :=
  (∀ (s : State) (by_ : Requester) (target : Fin 4), alive s = true → (∀ h, by_ = .host h → blockOpen s h.val pwrUnit = true) →
    (opFloor s < target.val → exec (.operatingPointTarget by_ target) s = .next (floorRefusal s))
    ∧ (target.val ≤ opFloor s → s.pwr.goal = opWanted s → pwrState s = 0 →
        let u := setF s rPwrOp 1 0 target.val
        pwrState u = 0 → exec (.operatingPointTarget by_ target) s = .next (seekOp u (opWanted u) s.now)))
  ∧ (∀ (s r : State) (t : Stamp), r = at_ s t → alive r = true → r.tick.running = false ∨ inBerm r t = true →
    exec (.frequencySwitch t) s = .next (switchOp r t))
  ∧ (∀ (s r : State) (m : Sensors) (t : Stamp), r = at_ s t → r.pwr.railsUp = true → m.iin ≤ 70 →
    let tj := maxInt m.tj
    let ts := maxInt m.ts
    let ltj : Int := getF r ⟨.PWR_CAP, 0, 0⟩ 51 44
    let lts : Int := getF r ⟨.PWR_CAP, 0, 0⟩ 43 36
    let cap := getF r ⟨.PWR_CAP, 0, 0⟩ 63 52
    let cool := decide (tj + 5 ≤ ltj) && decide (ts + 5 ≤ lts) && decide (10 * m.pmean100 < 9 * cap)
    let u := modPwr (setReg r ⟨.PWR_SENSE, 0, 0⟩ (BitVec.ofNat 64
        (m.vin % 2 ^ 16 * 2 ^ 48 + m.pin % 2 ^ 16 * 2 ^ 32 + sense 8 tj * 2 ^ 24 + sense 8 ts * 2 ^ 16))) fun p => { p with
      temps := m.tj ++ m.ts, peaks := (p.peaks.zip (m.tj ++ m.ts)).map fun x => max x.1 x.2
      hot := decide (ltj < tj) || decide (lts < ts) || decide (cap < m.pmean100)
      coolAt := if cool then some (p.coolAt.getD t) else none, over70 := none, over85 := none
      emergOn := decide (105 < tj) || decide (95 < ts) }
    (tj ≤ 105 → ts ≤ 95 → exec (.sensorSample m t) s = .next (alert u))
    ∧ (115 < tj ∨ 105 < ts → exec (.sensorSample m t) s = .next (doFatal u 1)))
  ∧ (∀ (s r : State) (t a : Stamp), r = at_ s t → alive r = true → r.pwr.emergAt = some a → r.pwr.emergOn = false → a + 1000 * us ≤ t →
    exec (.emergencyReturn t) s
      = .next (alert (modPwr (setF r rPwrOp 6 6 0) fun p => { p with emergAt := none, rampAt := some (t, vcore r t) })))
  ∧ (∀ (s r : State) (t : Stamp), r = at_ s t → alive r = true → r.pwr.stepAt = none → pwrState r = 0 → r.pwr.hot = true → r.pwr.goal < opFloor r →
    let u := modPwr r fun p => { p with stepAt := some t }
    exec (.throttleStep t) s = .next (bumpLive (seekOp u (u.pwr.goal + 1) t) ⟨.PWR_CNT4, 0, 0⟩ 63 32 1))
  ∧ (∀ (s r : State) (t : Stamp), r = at_ s t → pwrState r ≠ 4 →
    let u := pumpAll (flushPend r)
    let off (cause : Nat) : State := setReg (goOff u) ⟨.PWR_FATAL, 0, 0⟩ (BitVec.ofNat 64 (u.tick.tick % 2 ^ 48 * 2 ^ 16 + cause))
    (∀ (cause : FatalCause), cause ≠ .thermal → cause ≠ .current → exec (.fatal cause t) s = .next (off (fatalNum cause)))
    ∧ exec (.watchdogExpiry t) s = .next (off 4))

/-- PART_RESET, RESET_N_RISE, VAUX_RISE, VIN_FAULT, VIN_COLLAPSE, VAUX_LOSS, VIN_ENTERS_RANGE and JTAG_INSTRUCTION (R549 to R554). -/
def Obligations.SupplyAndPins : Prop :=
  (∀ (s r : State) (t0 t : Stamp), r = at_ s t → t0 + 10 * us ≤ t →
    let u := if pwrState r = 4 then r else afterReset r
    exec (.partReset t0 t) s = .next { u with pwr := { u.pwr with resetN := false } } ∧ alive { u with pwr := { u.pwr with resetN := false } } = false)
  ∧ (∀ s : State,
    let left := if s.pwr.jtag = .extest ∨ s.pwr.jtag = .clamp ∨ s.pwr.jtag = .highz then .bypass else s.pwr.jtag
    let high : State := { s with pwr := { s.pwr with resetN := true } }
    let u := if s.pwr.railsUp then trainLinks high else high
    exec .resetNRise s = .next { u with pwr := { u.pwr with jtag := left } })
  ∧ (∀ (s : State) (autoon : Bool) (a : Fin 4), s.pwr.vauxOk = false → ∃ u, exec (.vauxRise autoon a) s = .next u
      ∧ u = { s with csr := u.csr, pwr := { s.pwr with vauxOk := true, autoon := autoon, i3cAddr := a.val } } ∧ getReg u ⟨.PWR_FATAL, 0, 0⟩ = 0
      ∧ ∀ x : Reg, regAddr x ≠ regAddr ⟨.PWR_FATAL, 0, 0⟩ → getReg u x = getReg s x)
  ∧ (∀ (s r : State) (t0 t : Stamp), r = at_ s t → t0 + 100 * us ≤ t → pwrState r = 4 →
    exec (.vinFault t0 t) s = .next { r with pwr := { r.pwr with vinOk := false, wake := none } })
  ∧ (∀ s : State, pwrState s ≠ 4 →
    let u : State := { s with pwr := { s.pwr with vinOk := false, wake := none } }
    let v := setReg (goOff u) ⟨.PWR_FATAL, 0, 0⟩ (BitVec.ofNat 64 (s.tick.tick % 2 ^ 48 * 2 ^ 16 + 3))
    exec .vinCollapse s = .next v ∧ alive v = false ∧ pwrState v = 4)
  ∧ (∀ (s r : State) (t0 t : Stamp), r = at_ s t → t0 + 10 * us ≤ t → ∃ u, exec (.vauxLoss t0 t) s = .next u
      ∧ getReg u ⟨.PWR_FATAL, 0, 0⟩ = 0 ∧ u.pwr.vauxOk = false ∧ u.pwr.wake = none ∧ u.pwr.woken = none ∧ (pwrState r ≠ 4 → alive u = false))
  ∧ (∀ s : State, pwrState s = 4 →
    (∀ src, s.pwr.woken = some src → exec .vinEntersRange s
      = .next { s with pwr := { s.pwr with vinOk := true, wake := some (src, s.now), woken := none } })
    ∧ (s.pwr.woken = none →
        let seen := if s.pwr.autoon = true ∧ s.pwr.vauxOk = true then some (7, s.now) else s.pwr.wake
        exec .vinEntersRange s = .next { s with pwr := { s.pwr with vinOk := true, wake := seen } }))
  ∧ (∀ (s : State) (op : JtagOp),
    let acts := if (op = .extest ∨ op = .clamp ∨ op = .highz) ∧ ¬ (s.pwr.railsUp = true ∧ s.pwr.resetN = false) then .bypass else op
    exec (.jtagInstruction op) s = .next { s with pwr := { s.pwr with jtag := acts } })

/-- OFF is left only by a boot, and keeps what R521 says it keeps; a part that cannot act does not act (R34, R521). -/
def Obligations.OffStays : Prop :=
  (∀ (s u : State), Off s → step s = .next u →
    Off u ∧ u.img.nor = s.img.nor ∧ u.fss = s.fss ∧ u.mem = s.mem ∧ u.ctxs = s.ctxs ∧ u.polders = s.polders)
  ∧ (∀ (s : State) (c : Instr), alive s = false → supplyEvent c = false → ∃ t, s.now ≤ t ∧ exec c s = .next { s with now := t })

/-- The state after reset, once VIN has collapsed, is `Off`. -/
def Obligations.OffReached : Prop := ∃ u, exec .vinCollapse State.reset = .next u ∧ Off u

/-- The work of the crest dies' units stops in SLEEP and deeper (R521). -/
def Obligations.CrestSleeps : Prop :=
  ∀ (s : State) (c : Instr), 2 ≤ pwrState s → crestWork c = true → ∃ t, s.now ≤ t ∧ exec c s = .next { s with now := t }

/-- The state after reset (R34). -/
def Obligations.AfterReset : Prop :=
  let s := State.reset
  s.tick.running = false ∧ s.tick.tick = 0 ∧ s.tick.epoch = 0 ∧ s.ctxs = [] ∧ s.walks = [] ∧ s.polders = [] ∧ s.fab.conns = [] ∧ s.pending = []
  ∧ s.mem = [] ∧ Memory.wf s.mem = true ∧ alive s = true ∧ pwrState s = 0
  ∧ ∀ r : Reg, getReg s r = regReset r.name

/-- The striping of a row and its inverse (R265, R266). -/
def Obligations.LineStriping : Prop :=
  (∀ p f : Nat, stripeFrom p f = (f / 256 * 64 + Nat.xor p (stripeHash (f / 256))) * 256 + f % 256)
  ∧ (∀ o : Nat, o < rowBytes → (stripeTo o).1 < 64 ∧ (stripeTo o).2 < frameBytes ∧ stripeFrom (stripeTo o).1 (stripeTo o).2 = o)
  ∧ (∀ p f : Nat, p < 64 → f < frameBytes → stripeFrom p f < rowBytes ∧ stripeTo (stripeFrom p f) = (p, f))
  ∧ (∀ hi p : Nat, hi < 6144 → p < 64 → ∃ g, g / 64 = hi ∧ (stripeTo (g * 256)).1 = p ∧ ∀ g', g' / 64 = hi → (stripeTo (g' * 256)).1 = p → g' = g)

/-- The byte store: a run is read back, the rest is unchanged, and the canonical form is kept. -/
def Obligations.MemoryBytes : Prop :=
  ∀ (m : List Host.Cell) (a : Nat) (bs : List Byte),
    cellBytes (cellPut m a bs) a bs.length = bs
    ∧ (∀ x, x < a ∨ a + bs.length ≤ x → cellGet (cellPut m a bs) x = cellGet m x)
    ∧ (Memory.wf m = true → Memory.wf (cellPut m a bs) = true)
end

