-- ==== Sys2Proof/Laws/Access.lean ====
section
/-! SUPPORT. Accesses of movers and lists in a state with no host copy, no window and no lost memory. -/

namespace Sys2Proof.Laws

open Sys2Proof.Machine

theorem getReg_of_csr {s : State} (hc : s.csr = []) (r : Reg) : getReg s r = regReset r.name := by
  simp [getReg, hc, mapGet]

theorem fld_zero (hi lo : Nat) : fld (0 : Word) hi lo = 0 := by
  simp [fld, bits]

theorem windowOf_quiet {s : State} (hc : s.csr = []) (a : Nat) : windowOf s a = none := by
  simp only [windowOf, List.find?_eq_none, List.mem_range]
  intro h _
  have : hwSize s h = 0 := by simp [hwSize, getReg_of_csr hc]; decide
  simp [this]

theorem nth?_replicate {α : Type} (x : α) : ∀ n i, nth? (List.replicate n x) i = none ∨ nth? (List.replicate n x) i = some x
  | 0, _ => .inl rfl
  | n + 1, 0 => .inr rfl
  | n + 1, i + 1 => by simpa [List.replicate, nth?] using nth?_replicate x n i

theorem memLost_quiet {s : State} (hc : s.csr = []) (hd : s.dies = State.reset.dies) (a : Nat) : memLost s a = false := by
  have h0 : regReset .MEM_PC_FAIL = 0 := by decide
  have h1 : fld (regReset .MEM_CTL_STS) 1 0 = 0 := by decide
  have h2 : ∀ i, ((nth? s.dies i).map (·.lost)).getD false = false := by
    intro i
    rw [hd]
    rcases nth?_replicate DieCtx.reset 4 i with h | h
    · rw [show State.reset.dies = List.replicate 4 DieCtx.reset from rfl, h]; rfl
    · rw [show State.reset.dies = List.replicate 4 DieCtx.reset from rfl, h]; rfl
  simp only [memLost]
  split
  · simp only [getF, getReg_of_csr hc, h0, h1, fld_zero, h2]
    simp
  · rfl

theorem linesAccess_quiet {s : State} (hc : s.csr = []) (hd : s.dies = State.reset.dies) (hr : s.dir = []) (who : Nat) (ls : List Nat) (w : Bool) :
    linesAccess s who ls w = (.ok, s) := by
  have hk : ∀ l, conflict s w l = false := by
    intro l; simp [conflict, dirGet, hr, mapGetD, mapGet, dirState, bits]
  have hw : windowCode s ls = 0 := by simp [windowCode, windowOf_quiet hc]
  have hl : (ls.any fun l => memLost s (l * 64)) = false := by simp [memLost_quiet hc hd]
  have hf : ls.filter (conflict s w) = [] := by simp [hk]
  simp [linesAccess, hw, hf, hl]

end Sys2Proof.Laws
end

