-- ==== Sys2Proof/Laws/Maps.lean ====
section
/-! SUPPORT. Reading after writing in the sparse tables and in the byte store, and the canonical form of the byte store, which every write
keeps. -/

namespace Sys2Proof.Laws

open Sys2Proof.Machine

variable {α : Type}

/-! ### Sparse tables -/

@[simp] theorem mapGet_nil (k : Nat) : mapGet ([] : Map α) k = none := rfl

theorem mapGet_mapSet_of_ne (m : Map α) {k k' : Nat} (v : α) (h : k' ≠ k) : mapGet (mapSet m k v) k' = mapGet m k' := by
  induction m with
  | nil => simp [mapSet, mapGet, h.symm]
  | cons a m ih =>
    obtain ⟨a, w⟩ := a
    simp only [mapSet]
    split
    · simp [mapGet, h.symm]
    · split
      · rename_i h2
        subst h2
        simp [mapGet, h.symm]
      · simp [mapGet, ih]

theorem mapGet_mapSet_self (m : Map α) (k : Nat) (v : α) : mapGet (mapSet m k v) k = some v := by
  induction m with
  | nil => simp [mapSet, mapGet]
  | cons a m ih =>
    obtain ⟨a, w⟩ := a
    simp only [mapSet]
    split
    · simp [mapGet]
    · split
      · simp [mapGet]
      · rename_i h
        simp [mapGet, ih, Ne.symm h]

theorem mapGet_mapDel_of_ne (m : Map α) {k k' : Nat} (h : k' ≠ k) : mapGet (mapDel m k) k' = mapGet m k' := by
  induction m with
  | nil => rfl
  | cons a m ih =>
    obtain ⟨a, w⟩ := a
    simp only [mapDel]
    split
    · rename_i h2
      subst h2
      simp [mapGet, h.symm, ih]
    · simp [mapGet, ih]

theorem mapGet_mapDel_self (m : Map α) (k : Nat) : mapGet (mapDel m k) k = none := by
  induction m with
  | nil => rfl
  | cons a m ih =>
    obtain ⟨a, w⟩ := a
    simp only [mapDel]
    split
    · exact ih
    · rename_i hk
      simp [mapGet, hk, ih]

theorem mapGet_mapPut_of_ne [DecidableEq α] (d : α) (m : Map α) {k k' : Nat} (v : α) (h : k' ≠ k) :
    mapGet (mapPut d m k v) k' = mapGet m k' := by
  unfold mapPut
  split
  · exact mapGet_mapDel_of_ne m h
  · exact mapGet_mapSet_of_ne m v h

/-- Reading what was put. -/
theorem getD_mapGet_mapPut_self [DecidableEq α] (d : α) (m : Map α) (k : Nat) (v : α) : (mapGet (mapPut d m k v) k).getD d = v := by
  unfold mapPut
  split
  · rename_i hv
    simp [mapGet_mapDel_self, hv]
  · simp [mapGet_mapSet_self]

theorem mapGetD_mapSet_self (m : Map α) (k : Nat) (v d : α) : mapGetD (mapSet m k v) k d = v := by
  simp [mapGetD, mapGet_mapSet_self]

theorem mapGetD_mapSet_of_ne (m : Map α) {k k' : Nat} (v d : α) (h : k' ≠ k) : mapGetD (mapSet m k v) k' d = mapGetD m k' d := by
  simp [mapGetD, mapGet_mapSet_of_ne m v h]

/-! ### The byte store -/

theorem cellGet_cellSet_of_ne (m : List Host.Cell) {k k' : Nat} (b : Byte) (h : k' ≠ k) : cellGet (cellSet m k b) k' = cellGet m k' :=
  congrArg (fun x : Option Byte => x.getD 0) (mapGet_mapPut_of_ne (0 : Byte) m b h)

/-- Reading the byte that was written. -/
theorem cellGet_cellSet_self (m : List Host.Cell) (k : Nat) (b : Byte) : cellGet (cellSet m k b) k = b :=
  getD_mapGet_mapPut_self 0 m k b

/-- The canonical form in one line: what stands in front of a canonical list. -/
theorem Memory.wf_cons {a : Nat} {c : Byte} {m : List Host.Cell} :
    Memory.wf ((a, c) :: m) = true ↔ c ≠ 0 ∧ (∀ x ∈ m.head?, a < x.1) ∧ Memory.wf m = true := by
  cases m with
  | nil => simp [Memory.wf]
  | cons b m =>
    obtain ⟨b, d⟩ := b
    simp only [Memory.wf, Bool.and_eq_true, decide_eq_true_eq, List.head?_cons, Option.mem_def, Option.some.injEq, forall_eq']
    tauto

/-- What is left of a canonical list starts no lower. -/
theorem mapDel_head {m : List Host.Cell} {n : Nat} (k : Nat) (hw : Memory.wf m = true) (h : ∀ x ∈ m.head?, n < x.1) :
    ∀ x ∈ (mapDel m k).head?, n < x.1 := by
  induction m with
  | nil => simp [mapDel]
  | cons a m ih =>
    obtain ⟨a, c⟩ := a
    have h' := Memory.wf_cons.1 hw
    have ha : n < a := h (a, c) (by simp)
    simp only [mapDel]
    split
    · exact ih h'.2.2 fun x hx => Nat.lt_trans ha (h'.2.1 x hx)
    · simp [ha]

theorem mapDel_wf {m : List Host.Cell} (h : Memory.wf m = true) (k : Nat) : Memory.wf (mapDel m k) = true := by
  induction m with
  | nil => rfl
  | cons a m ih =>
    obtain ⟨a, c⟩ := a
    have h' := Memory.wf_cons.1 h
    simp only [mapDel]
    split
    · exact ih h'.2.2
    · exact Memory.wf_cons.2 ⟨h'.1, mapDel_head k h'.2.2 h'.2.1, ih h'.2.2⟩

theorem mapSet_head {m : List Host.Cell} {n k : Nat} (b : Byte) (hn : n < k) (h : ∀ x ∈ m.head?, n < x.1) :
    ∀ x ∈ (mapSet m k b).head?, n < x.1 := by
  cases m with
  | nil => simp [mapSet, hn]
  | cons a m =>
    obtain ⟨a, c⟩ := a
    have ha : n < a := h (a, c) (by simp)
    simp only [mapSet]
    split
    · simp [hn]
    · split <;> simp [hn, ha]

theorem mapSet_wf {m : List Host.Cell} (h : Memory.wf m = true) (k : Nat) {b : Byte} (hb : b ≠ 0) : Memory.wf (mapSet m k b) = true := by
  induction m with
  | nil => simpa [mapSet, Memory.wf] using hb
  | cons a m ih =>
    obtain ⟨a, c⟩ := a
    have h' := Memory.wf_cons.1 h
    simp only [mapSet]
    split
    · rename_i hk
      exact Memory.wf_cons.2 ⟨hb, by simpa using hk, h⟩
    · split
      · rename_i h2
        exact Memory.wf_cons.2 ⟨hb, h2 ▸ h'.2.1, h'.2.2⟩
      · exact Memory.wf_cons.2 ⟨h'.1, mapSet_head b (by omega) h'.2.1, ih h'.2.2⟩

/-- A write keeps the canonical form. -/
theorem cellSet_wf {m : List Host.Cell} (h : Memory.wf m = true) (k : Nat) (b : Byte) : Memory.wf (cellSet m k b) = true := by
  unfold cellSet mapPut
  split
  · exact mapDel_wf h k
  · rename_i hb
    exact mapSet_wf h k hb

theorem cellPut_wf {m : List Host.Cell} (h : Memory.wf m = true) (a : Nat) (bs : List Byte) : Memory.wf (cellPut m a bs) = true := by
  induction bs generalizing m a with
  | nil => exact h
  | cons b bs ih => exact ih (cellSet_wf h a b) (a + 1)

/-- A run of bytes leaves every address outside it alone. -/
theorem cellGet_cellPut_of_outside (m : List Host.Cell) (a k : Nat) (bs : List Byte) (h : k < a ∨ a + bs.length ≤ k) :
    cellGet (cellPut m a bs) k = cellGet m k := by
  induction bs generalizing m a with
  | nil => rfl
  | cons b bs ih =>
    simp only [List.length_cons] at h
    rw [cellPut, ih _ _ (by omega), cellGet_cellSet_of_ne _ _ (by omega)]

theorem filter_head_lt {p : Host.Cell → Bool} {m : List Host.Cell} {n : Nat} (h : Memory.wf m = true) (hn : ∀ x ∈ m.head?, n < x.1) :
    ∀ x ∈ (m.filter p).head?, n < x.1 := by
  induction m generalizing n with
  | nil => simp
  | cons a m ih =>
    obtain ⟨a, c⟩ := a
    have h' := Memory.wf_cons.1 h
    have ha : n < a := hn (a, c) (by simp)
    simp only [List.filter_cons]
    split
    · simpa using ha
    · exact ih h'.2.2 fun x hx => Nat.lt_trans ha (h'.2.1 x hx)

/-- Dropping bytes keeps the canonical form. -/
theorem filter_wf {p : Host.Cell → Bool} {m : List Host.Cell} (h : Memory.wf m = true) : Memory.wf (m.filter p) = true := by
  induction m with
  | nil => rfl
  | cons a m ih =>
    obtain ⟨a, c⟩ := a
    have h' := Memory.wf_cons.1 h
    simp only [List.filter_cons]
    split
    · exact Memory.wf_cons.2 ⟨h'.1, filter_head_lt h'.2.2 h'.2.1, ih h'.2.2⟩
    · exact ih h'.2.2

end Sys2Proof.Laws
end

