-- ==== Sys2Proof/Laws/Memory.lean ====
section
/-! SUPPORT. What storing to memory can do: the byte store keeps its canonical form, lines outside the range keep their bytes, and nothing but
bytes and line codes changes. -/

namespace Sys2Proof.Laws

open Sys2Proof.Machine

/-- A store changes bytes and line codes only. -/
theorem wrRun_frame (a : Nat) (bs : List Byte) (ls : List Nat) (s : State) :
    wrBytes.wrRun s a bs ls = { s with mem := (wrBytes.wrRun s a bs ls).mem, chk := (wrBytes.wrRun s a bs ls).chk } := by
  induction ls generalizing s with
  | nil => rfl
  | cons l ls ih =>
    simp only [wrBytes.wrRun]
    split <;> (rw [ih]; split <;> rfl)

theorem wrBytes_frame (s : State) (a : Nat) (bs : List Byte) :
    wrBytes s a bs = { s with mem := (wrBytes s a bs).mem, chk := (wrBytes s a bs).chk } := by
  cases bs with
  | nil => rfl
  | cons b bs => exact wrRun_frame a (b :: bs) _ s

theorem wrRun_wf (a : Nat) (bs : List Byte) (ls : List Nat) (s : State) (h : Memory.wf s.mem = true) :
    Memory.wf (wrBytes.wrRun s a bs ls).mem = true := by
  induction ls generalizing s with
  | nil => exact h
  | cons l ls ih =>
    simp only [wrBytes.wrRun]
    split <;> (apply ih; split; exacts [h, cellPut_wf h _ _])

/-- A store keeps the canonical form. -/
theorem wrBytes_wf (s : State) (a : Nat) (bs : List Byte) (h : Memory.wf s.mem = true) : Memory.wf (wrBytes s a bs).mem = true := by
  cases bs with
  | nil => exact h
  | cons b bs => exact wrRun_wf a (b :: bs) _ s h

theorem wrW_wf (s : State) (a : Nat) (v : Word) (h : Memory.wf s.mem = true) : Memory.wf (wrW s a v).mem = true := wrBytes_wf s a _ h

theorem wrWords_wf (s : State) (a : Nat) (ws : List Word) (h : Memory.wf s.mem = true) : Memory.wf (wrWords s a ws).mem = true :=
  wrBytes_wf s a _ h

/-- Zero-filling a range keeps the canonical form. -/
theorem zeroFill_wf (s : State) (a n : Nat) (h : Memory.wf s.mem = true) : Memory.wf (zeroFill s a n).mem = true := filter_wf h

/-- Poisoning a line touches no byte. -/
@[simp] theorem poisonLine_mem (s : State) (l : Nat) : (poisonLine s l).mem = s.mem := rfl

@[simp] theorem wrBytes_nil (s : State) (a : Nat) : wrBytes s a [] = s := rfl

/-- A store leaves every register and counter alone. -/
@[simp] theorem wrBytes_csr (s : State) (a : Nat) (bs : List Byte) : (wrBytes s a bs).csr = s.csr := by rw [wrBytes_frame]
@[simp] theorem wrBytes_cnt (s : State) (a : Nat) (bs : List Byte) : (wrBytes s a bs).cnt = s.cnt := by rw [wrBytes_frame]
@[simp] theorem wrBytes_getReg (s : State) (a : Nat) (bs : List Byte) (r : Reg) : getReg (wrBytes s a bs) r = getReg s r := by simp [getReg]

theorem rdBytes_length (s : State) (a n : Nat) : (rdBytes s a n).length = n := by
  induction n generalizing a with
  | zero => rfl
  | succ n ih => simp [rdBytes, ih]

/-- The bytes stored into one line fill the line. -/
theorem wrRun_line_length (s : State) (a l : Nat) (bs : List Byte) (h1 : a < l * 64 + 64) (h2 : l * 64 < a + bs.length) :
    let lo := max a (l * 64)
    let hi := min (a + bs.length) (l * 64 + 64)
    let part := (bs.drop (lo - a)).take (hi - lo)
    let old := rdBytes s (l * 64) 64
    (old.take (lo - l * 64) ++ part ++ old.drop (hi - l * 64)).length = 64 := by
  simp only [List.length_append, List.length_take, List.length_drop, rdBytes_length]
  omega

end Sys2Proof.Laws
end

