-- ==== Sys2Proof/Laws/State.lean ====
section
/-! SUPPORT. What each named update of one part of the state leaves alone: every other field, one lemma a field. -/

namespace Sys2Proof.Laws

open Sys2Proof.Machine

/-! ### at_ -/

@[simp] theorem at_csr (s : State) (t : Stamp) : (at_ s t).csr = s.csr := rfl
@[simp] theorem at_cnt (s : State) (t : Stamp) : (at_ s t).cnt = s.cnt := rfl
@[simp] theorem at_mem (s : State) (t : Stamp) : (at_ s t).mem = s.mem := rfl
@[simp] theorem at_chk (s : State) (t : Stamp) : (at_ s t).chk = s.chk := rfl
@[simp] theorem at_dir (s : State) (t : Stamp) : (at_ s t).dir = s.dir := rfl
@[simp] theorem at_mirror (s : State) (t : Stamp) : (at_ s t).mirror = s.mirror := rfl
@[simp] theorem at_noMirror (s : State) (t : Stamp) : (at_ s t).noMirror = s.noMirror := rfl
@[simp] theorem at_mirrorAt (s : State) (t : Stamp) : (at_ s t).mirrorAt = s.mirrorAt := rfl
@[simp] theorem at_tick (s : State) (t : Stamp) : (at_ s t).tick = s.tick := rfl
@[simp] theorem at_ctxs (s : State) (t : Stamp) : (at_ s t).ctxs = s.ctxs := rfl
@[simp] theorem at_dies (s : State) (t : Stamp) : (at_ s t).dies = s.dies := rfl
@[simp] theorem at_flight (s : State) (t : Stamp) : (at_ s t).flight = s.flight := rfl
@[simp] theorem at_retries (s : State) (t : Stamp) : (at_ s t).retries = s.retries := rfl
@[simp] theorem at_adpRun (s : State) (t : Stamp) : (at_ s t).adpRun = s.adpRun := rfl
@[simp] theorem at_adpShown (s : State) (t : Stamp) : (at_ s t).adpShown = s.adpShown := rfl
@[simp] theorem at_sclRun (s : State) (t : Stamp) : (at_ s t).sclRun = s.sclRun := rfl
@[simp] theorem at_sclShown (s : State) (t : Stamp) : (at_ s t).sclShown = s.sclShown := rfl
@[simp] theorem at_pend (s : State) (t : Stamp) : (at_ s t).pend = s.pend := rfl
@[simp] theorem at_orphans (s : State) (t : Stamp) : (at_ s t).orphans = s.orphans := rfl
@[simp] theorem at_reeve (s : State) (t : Stamp) : (at_ s t).reeve = s.reeve := rfl
@[simp] theorem at_polders (s : State) (t : Stamp) : (at_ s t).polders = s.polders := rfl
@[simp] theorem at_dikes (s : State) (t : Stamp) : (at_ s t).dikes = s.dikes := rfl
@[simp] theorem at_sluice (s : State) (t : Stamp) : (at_ s t).sluice = s.sluice := rfl
@[simp] theorem at_weirs (s : State) (t : Stamp) : (at_ s t).weirs = s.weirs := rfl
@[simp] theorem at_walks (s : State) (t : Stamp) : (at_ s t).walks = s.walks := rfl
@[simp] theorem at_jobs (s : State) (t : Stamp) : (at_ s t).jobs = s.jobs := rfl
@[simp] theorem at_colls (s : State) (t : Stamp) : (at_ s t).colls = s.colls := rfl
@[simp] theorem at_bsus (s : State) (t : Stamp) : (at_ s t).bsus = s.bsus := rfl
@[simp] theorem at_eccPend (s : State) (t : Stamp) : (at_ s t).eccPend = s.eccPend := rfl
@[simp] theorem at_sys (s : State) (t : Stamp) : (at_ s t).sys = s.sys := rfl
@[simp] theorem at_movers (s : State) (t : Stamp) : (at_ s t).movers = s.movers := rfl
@[simp] theorem at_pool (s : State) (t : Stamp) : (at_ s t).pool = s.pool := rfl
@[simp] theorem at_poolBad (s : State) (t : Stamp) : (at_ s t).poolBad = s.poolBad := rfl
@[simp] theorem at_wins (s : State) (t : Stamp) : (at_ s t).wins = s.wins := rfl
@[simp] theorem at_pubs (s : State) (t : Stamp) : (at_ s t).pubs = s.pubs := rfl
@[simp] theorem at_models (s : State) (t : Stamp) : (at_ s t).models = s.models := rfl
@[simp] theorem at_passes (s : State) (t : Stamp) : (at_ s t).passes = s.passes := rfl
@[simp] theorem at_trains (s : State) (t : Stamp) : (at_ s t).trains = s.trains := rfl
@[simp] theorem at_tables (s : State) (t : Stamp) : (at_ s t).tables = s.tables := rfl
@[simp] theorem at_hots (s : State) (t : Stamp) : (at_ s t).hots = s.hots := rfl
@[simp] theorem at_hotAsk (s : State) (t : Stamp) : (at_ s t).hotAsk = s.hotAsk := rfl
@[simp] theorem at_ahead (s : State) (t : Stamp) : (at_ s t).ahead = s.ahead := rfl
@[simp] theorem at_fss (s : State) (t : Stamp) : (at_ s t).fss = s.fss := rfl
@[simp] theorem at_toeLost (s : State) (t : Stamp) : (at_ s t).toeLost = s.toeLost := rfl
@[simp] theorem at_fab (s : State) (t : Stamp) : (at_ s t).fab = s.fab := rfl
@[simp] theorem at_bml (s : State) (t : Stamp) : (at_ s t).bml = s.bml := rfl
@[simp] theorem at_img (s : State) (t : Stamp) : (at_ s t).img = s.img := rfl
@[simp] theorem at_pwr (s : State) (t : Stamp) : (at_ s t).pwr = s.pwr := rfl
@[simp] theorem at_fresh (s : State) (t : Stamp) : (at_ s t).fresh = s.fresh := rfl
@[simp] theorem at_out (s : State) (t : Stamp) : (at_ s t).out = s.out := rfl
@[simp] theorem at_pending (s : State) (t : Stamp) : (at_ s t).pending = s.pending := rfl

/-! ### setReg -/

@[simp] theorem setReg_now (s : State) (r : Reg) (v : Word) : (setReg s r v).now = s.now := rfl
@[simp] theorem setReg_cnt (s : State) (r : Reg) (v : Word) : (setReg s r v).cnt = s.cnt := rfl
@[simp] theorem setReg_mem (s : State) (r : Reg) (v : Word) : (setReg s r v).mem = s.mem := rfl
@[simp] theorem setReg_chk (s : State) (r : Reg) (v : Word) : (setReg s r v).chk = s.chk := rfl
@[simp] theorem setReg_dir (s : State) (r : Reg) (v : Word) : (setReg s r v).dir = s.dir := rfl
@[simp] theorem setReg_mirror (s : State) (r : Reg) (v : Word) : (setReg s r v).mirror = s.mirror := rfl
@[simp] theorem setReg_noMirror (s : State) (r : Reg) (v : Word) : (setReg s r v).noMirror = s.noMirror := rfl
@[simp] theorem setReg_mirrorAt (s : State) (r : Reg) (v : Word) : (setReg s r v).mirrorAt = s.mirrorAt := rfl
@[simp] theorem setReg_tick (s : State) (r : Reg) (v : Word) : (setReg s r v).tick = s.tick := rfl
@[simp] theorem setReg_ctxs (s : State) (r : Reg) (v : Word) : (setReg s r v).ctxs = s.ctxs := rfl
@[simp] theorem setReg_dies (s : State) (r : Reg) (v : Word) : (setReg s r v).dies = s.dies := rfl
@[simp] theorem setReg_flight (s : State) (r : Reg) (v : Word) : (setReg s r v).flight = s.flight := rfl
@[simp] theorem setReg_retries (s : State) (r : Reg) (v : Word) : (setReg s r v).retries = s.retries := rfl
@[simp] theorem setReg_adpRun (s : State) (r : Reg) (v : Word) : (setReg s r v).adpRun = s.adpRun := rfl
@[simp] theorem setReg_adpShown (s : State) (r : Reg) (v : Word) : (setReg s r v).adpShown = s.adpShown := rfl
@[simp] theorem setReg_sclRun (s : State) (r : Reg) (v : Word) : (setReg s r v).sclRun = s.sclRun := rfl
@[simp] theorem setReg_sclShown (s : State) (r : Reg) (v : Word) : (setReg s r v).sclShown = s.sclShown := rfl
@[simp] theorem setReg_pend (s : State) (r : Reg) (v : Word) : (setReg s r v).pend = s.pend := rfl
@[simp] theorem setReg_orphans (s : State) (r : Reg) (v : Word) : (setReg s r v).orphans = s.orphans := rfl
@[simp] theorem setReg_reeve (s : State) (r : Reg) (v : Word) : (setReg s r v).reeve = s.reeve := rfl
@[simp] theorem setReg_polders (s : State) (r : Reg) (v : Word) : (setReg s r v).polders = s.polders := rfl
@[simp] theorem setReg_dikes (s : State) (r : Reg) (v : Word) : (setReg s r v).dikes = s.dikes := rfl
@[simp] theorem setReg_sluice (s : State) (r : Reg) (v : Word) : (setReg s r v).sluice = s.sluice := rfl
@[simp] theorem setReg_weirs (s : State) (r : Reg) (v : Word) : (setReg s r v).weirs = s.weirs := rfl
@[simp] theorem setReg_walks (s : State) (r : Reg) (v : Word) : (setReg s r v).walks = s.walks := rfl
@[simp] theorem setReg_jobs (s : State) (r : Reg) (v : Word) : (setReg s r v).jobs = s.jobs := rfl
@[simp] theorem setReg_colls (s : State) (r : Reg) (v : Word) : (setReg s r v).colls = s.colls := rfl
@[simp] theorem setReg_bsus (s : State) (r : Reg) (v : Word) : (setReg s r v).bsus = s.bsus := rfl
@[simp] theorem setReg_eccPend (s : State) (r : Reg) (v : Word) : (setReg s r v).eccPend = s.eccPend := rfl
@[simp] theorem setReg_sys (s : State) (r : Reg) (v : Word) : (setReg s r v).sys = s.sys := rfl
@[simp] theorem setReg_movers (s : State) (r : Reg) (v : Word) : (setReg s r v).movers = s.movers := rfl
@[simp] theorem setReg_pool (s : State) (r : Reg) (v : Word) : (setReg s r v).pool = s.pool := rfl
@[simp] theorem setReg_poolBad (s : State) (r : Reg) (v : Word) : (setReg s r v).poolBad = s.poolBad := rfl
@[simp] theorem setReg_wins (s : State) (r : Reg) (v : Word) : (setReg s r v).wins = s.wins := rfl
@[simp] theorem setReg_pubs (s : State) (r : Reg) (v : Word) : (setReg s r v).pubs = s.pubs := rfl
@[simp] theorem setReg_models (s : State) (r : Reg) (v : Word) : (setReg s r v).models = s.models := rfl
@[simp] theorem setReg_passes (s : State) (r : Reg) (v : Word) : (setReg s r v).passes = s.passes := rfl
@[simp] theorem setReg_trains (s : State) (r : Reg) (v : Word) : (setReg s r v).trains = s.trains := rfl
@[simp] theorem setReg_tables (s : State) (r : Reg) (v : Word) : (setReg s r v).tables = s.tables := rfl
@[simp] theorem setReg_hots (s : State) (r : Reg) (v : Word) : (setReg s r v).hots = s.hots := rfl
@[simp] theorem setReg_hotAsk (s : State) (r : Reg) (v : Word) : (setReg s r v).hotAsk = s.hotAsk := rfl
@[simp] theorem setReg_ahead (s : State) (r : Reg) (v : Word) : (setReg s r v).ahead = s.ahead := rfl
@[simp] theorem setReg_fss (s : State) (r : Reg) (v : Word) : (setReg s r v).fss = s.fss := rfl
@[simp] theorem setReg_toeLost (s : State) (r : Reg) (v : Word) : (setReg s r v).toeLost = s.toeLost := rfl
@[simp] theorem setReg_fab (s : State) (r : Reg) (v : Word) : (setReg s r v).fab = s.fab := rfl
@[simp] theorem setReg_bml (s : State) (r : Reg) (v : Word) : (setReg s r v).bml = s.bml := rfl
@[simp] theorem setReg_img (s : State) (r : Reg) (v : Word) : (setReg s r v).img = s.img := rfl
@[simp] theorem setReg_pwr (s : State) (r : Reg) (v : Word) : (setReg s r v).pwr = s.pwr := rfl
@[simp] theorem setReg_fresh (s : State) (r : Reg) (v : Word) : (setReg s r v).fresh = s.fresh := rfl
@[simp] theorem setReg_out (s : State) (r : Reg) (v : Word) : (setReg s r v).out = s.out := rfl
@[simp] theorem setReg_pending (s : State) (r : Reg) (v : Word) : (setReg s r v).pending = s.pending := rfl

/-! ### setF -/

@[simp] theorem setF_now (s : State) (r : Reg) (hi lo v : Nat) : (setF s r hi lo v).now = s.now := rfl
@[simp] theorem setF_cnt (s : State) (r : Reg) (hi lo v : Nat) : (setF s r hi lo v).cnt = s.cnt := rfl
@[simp] theorem setF_mem (s : State) (r : Reg) (hi lo v : Nat) : (setF s r hi lo v).mem = s.mem := rfl
@[simp] theorem setF_chk (s : State) (r : Reg) (hi lo v : Nat) : (setF s r hi lo v).chk = s.chk := rfl
@[simp] theorem setF_dir (s : State) (r : Reg) (hi lo v : Nat) : (setF s r hi lo v).dir = s.dir := rfl
@[simp] theorem setF_mirror (s : State) (r : Reg) (hi lo v : Nat) : (setF s r hi lo v).mirror = s.mirror := rfl
@[simp] theorem setF_noMirror (s : State) (r : Reg) (hi lo v : Nat) : (setF s r hi lo v).noMirror = s.noMirror := rfl
@[simp] theorem setF_mirrorAt (s : State) (r : Reg) (hi lo v : Nat) : (setF s r hi lo v).mirrorAt = s.mirrorAt := rfl
@[simp] theorem setF_tick (s : State) (r : Reg) (hi lo v : Nat) : (setF s r hi lo v).tick = s.tick := rfl
@[simp] theorem setF_ctxs (s : State) (r : Reg) (hi lo v : Nat) : (setF s r hi lo v).ctxs = s.ctxs := rfl
@[simp] theorem setF_dies (s : State) (r : Reg) (hi lo v : Nat) : (setF s r hi lo v).dies = s.dies := rfl
@[simp] theorem setF_flight (s : State) (r : Reg) (hi lo v : Nat) : (setF s r hi lo v).flight = s.flight := rfl
@[simp] theorem setF_retries (s : State) (r : Reg) (hi lo v : Nat) : (setF s r hi lo v).retries = s.retries := rfl
@[simp] theorem setF_adpRun (s : State) (r : Reg) (hi lo v : Nat) : (setF s r hi lo v).adpRun = s.adpRun := rfl
@[simp] theorem setF_adpShown (s : State) (r : Reg) (hi lo v : Nat) : (setF s r hi lo v).adpShown = s.adpShown := rfl
@[simp] theorem setF_sclRun (s : State) (r : Reg) (hi lo v : Nat) : (setF s r hi lo v).sclRun = s.sclRun := rfl
@[simp] theorem setF_sclShown (s : State) (r : Reg) (hi lo v : Nat) : (setF s r hi lo v).sclShown = s.sclShown := rfl
@[simp] theorem setF_pend (s : State) (r : Reg) (hi lo v : Nat) : (setF s r hi lo v).pend = s.pend := rfl
@[simp] theorem setF_orphans (s : State) (r : Reg) (hi lo v : Nat) : (setF s r hi lo v).orphans = s.orphans := rfl
@[simp] theorem setF_reeve (s : State) (r : Reg) (hi lo v : Nat) : (setF s r hi lo v).reeve = s.reeve := rfl
@[simp] theorem setF_polders (s : State) (r : Reg) (hi lo v : Nat) : (setF s r hi lo v).polders = s.polders := rfl
@[simp] theorem setF_dikes (s : State) (r : Reg) (hi lo v : Nat) : (setF s r hi lo v).dikes = s.dikes := rfl
@[simp] theorem setF_sluice (s : State) (r : Reg) (hi lo v : Nat) : (setF s r hi lo v).sluice = s.sluice := rfl
@[simp] theorem setF_weirs (s : State) (r : Reg) (hi lo v : Nat) : (setF s r hi lo v).weirs = s.weirs := rfl
@[simp] theorem setF_walks (s : State) (r : Reg) (hi lo v : Nat) : (setF s r hi lo v).walks = s.walks := rfl
@[simp] theorem setF_jobs (s : State) (r : Reg) (hi lo v : Nat) : (setF s r hi lo v).jobs = s.jobs := rfl
@[simp] theorem setF_colls (s : State) (r : Reg) (hi lo v : Nat) : (setF s r hi lo v).colls = s.colls := rfl
@[simp] theorem setF_bsus (s : State) (r : Reg) (hi lo v : Nat) : (setF s r hi lo v).bsus = s.bsus := rfl
@[simp] theorem setF_eccPend (s : State) (r : Reg) (hi lo v : Nat) : (setF s r hi lo v).eccPend = s.eccPend := rfl
@[simp] theorem setF_sys (s : State) (r : Reg) (hi lo v : Nat) : (setF s r hi lo v).sys = s.sys := rfl
@[simp] theorem setF_movers (s : State) (r : Reg) (hi lo v : Nat) : (setF s r hi lo v).movers = s.movers := rfl
@[simp] theorem setF_pool (s : State) (r : Reg) (hi lo v : Nat) : (setF s r hi lo v).pool = s.pool := rfl
@[simp] theorem setF_poolBad (s : State) (r : Reg) (hi lo v : Nat) : (setF s r hi lo v).poolBad = s.poolBad := rfl
@[simp] theorem setF_wins (s : State) (r : Reg) (hi lo v : Nat) : (setF s r hi lo v).wins = s.wins := rfl
@[simp] theorem setF_pubs (s : State) (r : Reg) (hi lo v : Nat) : (setF s r hi lo v).pubs = s.pubs := rfl
@[simp] theorem setF_models (s : State) (r : Reg) (hi lo v : Nat) : (setF s r hi lo v).models = s.models := rfl
@[simp] theorem setF_passes (s : State) (r : Reg) (hi lo v : Nat) : (setF s r hi lo v).passes = s.passes := rfl
@[simp] theorem setF_trains (s : State) (r : Reg) (hi lo v : Nat) : (setF s r hi lo v).trains = s.trains := rfl
@[simp] theorem setF_tables (s : State) (r : Reg) (hi lo v : Nat) : (setF s r hi lo v).tables = s.tables := rfl
@[simp] theorem setF_hots (s : State) (r : Reg) (hi lo v : Nat) : (setF s r hi lo v).hots = s.hots := rfl
@[simp] theorem setF_hotAsk (s : State) (r : Reg) (hi lo v : Nat) : (setF s r hi lo v).hotAsk = s.hotAsk := rfl
@[simp] theorem setF_ahead (s : State) (r : Reg) (hi lo v : Nat) : (setF s r hi lo v).ahead = s.ahead := rfl
@[simp] theorem setF_fss (s : State) (r : Reg) (hi lo v : Nat) : (setF s r hi lo v).fss = s.fss := rfl
@[simp] theorem setF_toeLost (s : State) (r : Reg) (hi lo v : Nat) : (setF s r hi lo v).toeLost = s.toeLost := rfl
@[simp] theorem setF_fab (s : State) (r : Reg) (hi lo v : Nat) : (setF s r hi lo v).fab = s.fab := rfl
@[simp] theorem setF_bml (s : State) (r : Reg) (hi lo v : Nat) : (setF s r hi lo v).bml = s.bml := rfl
@[simp] theorem setF_img (s : State) (r : Reg) (hi lo v : Nat) : (setF s r hi lo v).img = s.img := rfl
@[simp] theorem setF_pwr (s : State) (r : Reg) (hi lo v : Nat) : (setF s r hi lo v).pwr = s.pwr := rfl
@[simp] theorem setF_fresh (s : State) (r : Reg) (hi lo v : Nat) : (setF s r hi lo v).fresh = s.fresh := rfl
@[simp] theorem setF_out (s : State) (r : Reg) (hi lo v : Nat) : (setF s r hi lo v).out = s.out := rfl
@[simp] theorem setF_pending (s : State) (r : Reg) (hi lo v : Nat) : (setF s r hi lo v).pending = s.pending := rfl

/-! ### bump -/

@[simp] theorem bump_now (s : State) (r : Reg) (hi lo n : Nat) : (bump s r hi lo n).now = s.now := rfl
@[simp] theorem bump_csr (s : State) (r : Reg) (hi lo n : Nat) : (bump s r hi lo n).csr = s.csr := rfl
@[simp] theorem bump_mem (s : State) (r : Reg) (hi lo n : Nat) : (bump s r hi lo n).mem = s.mem := rfl
@[simp] theorem bump_chk (s : State) (r : Reg) (hi lo n : Nat) : (bump s r hi lo n).chk = s.chk := rfl
@[simp] theorem bump_dir (s : State) (r : Reg) (hi lo n : Nat) : (bump s r hi lo n).dir = s.dir := rfl
@[simp] theorem bump_mirror (s : State) (r : Reg) (hi lo n : Nat) : (bump s r hi lo n).mirror = s.mirror := rfl
@[simp] theorem bump_noMirror (s : State) (r : Reg) (hi lo n : Nat) : (bump s r hi lo n).noMirror = s.noMirror := rfl
@[simp] theorem bump_mirrorAt (s : State) (r : Reg) (hi lo n : Nat) : (bump s r hi lo n).mirrorAt = s.mirrorAt := rfl
@[simp] theorem bump_tick (s : State) (r : Reg) (hi lo n : Nat) : (bump s r hi lo n).tick = s.tick := rfl
@[simp] theorem bump_ctxs (s : State) (r : Reg) (hi lo n : Nat) : (bump s r hi lo n).ctxs = s.ctxs := rfl
@[simp] theorem bump_dies (s : State) (r : Reg) (hi lo n : Nat) : (bump s r hi lo n).dies = s.dies := rfl
@[simp] theorem bump_flight (s : State) (r : Reg) (hi lo n : Nat) : (bump s r hi lo n).flight = s.flight := rfl
@[simp] theorem bump_retries (s : State) (r : Reg) (hi lo n : Nat) : (bump s r hi lo n).retries = s.retries := rfl
@[simp] theorem bump_adpRun (s : State) (r : Reg) (hi lo n : Nat) : (bump s r hi lo n).adpRun = s.adpRun := rfl
@[simp] theorem bump_adpShown (s : State) (r : Reg) (hi lo n : Nat) : (bump s r hi lo n).adpShown = s.adpShown := rfl
@[simp] theorem bump_sclRun (s : State) (r : Reg) (hi lo n : Nat) : (bump s r hi lo n).sclRun = s.sclRun := rfl
@[simp] theorem bump_sclShown (s : State) (r : Reg) (hi lo n : Nat) : (bump s r hi lo n).sclShown = s.sclShown := rfl
@[simp] theorem bump_pend (s : State) (r : Reg) (hi lo n : Nat) : (bump s r hi lo n).pend = s.pend := rfl
@[simp] theorem bump_orphans (s : State) (r : Reg) (hi lo n : Nat) : (bump s r hi lo n).orphans = s.orphans := rfl
@[simp] theorem bump_reeve (s : State) (r : Reg) (hi lo n : Nat) : (bump s r hi lo n).reeve = s.reeve := rfl
@[simp] theorem bump_polders (s : State) (r : Reg) (hi lo n : Nat) : (bump s r hi lo n).polders = s.polders := rfl
@[simp] theorem bump_dikes (s : State) (r : Reg) (hi lo n : Nat) : (bump s r hi lo n).dikes = s.dikes := rfl
@[simp] theorem bump_sluice (s : State) (r : Reg) (hi lo n : Nat) : (bump s r hi lo n).sluice = s.sluice := rfl
@[simp] theorem bump_weirs (s : State) (r : Reg) (hi lo n : Nat) : (bump s r hi lo n).weirs = s.weirs := rfl
@[simp] theorem bump_walks (s : State) (r : Reg) (hi lo n : Nat) : (bump s r hi lo n).walks = s.walks := rfl
@[simp] theorem bump_jobs (s : State) (r : Reg) (hi lo n : Nat) : (bump s r hi lo n).jobs = s.jobs := rfl
@[simp] theorem bump_colls (s : State) (r : Reg) (hi lo n : Nat) : (bump s r hi lo n).colls = s.colls := rfl
@[simp] theorem bump_bsus (s : State) (r : Reg) (hi lo n : Nat) : (bump s r hi lo n).bsus = s.bsus := rfl
@[simp] theorem bump_eccPend (s : State) (r : Reg) (hi lo n : Nat) : (bump s r hi lo n).eccPend = s.eccPend := rfl
@[simp] theorem bump_sys (s : State) (r : Reg) (hi lo n : Nat) : (bump s r hi lo n).sys = s.sys := rfl
@[simp] theorem bump_movers (s : State) (r : Reg) (hi lo n : Nat) : (bump s r hi lo n).movers = s.movers := rfl
@[simp] theorem bump_pool (s : State) (r : Reg) (hi lo n : Nat) : (bump s r hi lo n).pool = s.pool := rfl
@[simp] theorem bump_poolBad (s : State) (r : Reg) (hi lo n : Nat) : (bump s r hi lo n).poolBad = s.poolBad := rfl
@[simp] theorem bump_wins (s : State) (r : Reg) (hi lo n : Nat) : (bump s r hi lo n).wins = s.wins := rfl
@[simp] theorem bump_pubs (s : State) (r : Reg) (hi lo n : Nat) : (bump s r hi lo n).pubs = s.pubs := rfl
@[simp] theorem bump_models (s : State) (r : Reg) (hi lo n : Nat) : (bump s r hi lo n).models = s.models := rfl
@[simp] theorem bump_passes (s : State) (r : Reg) (hi lo n : Nat) : (bump s r hi lo n).passes = s.passes := rfl
@[simp] theorem bump_trains (s : State) (r : Reg) (hi lo n : Nat) : (bump s r hi lo n).trains = s.trains := rfl
@[simp] theorem bump_tables (s : State) (r : Reg) (hi lo n : Nat) : (bump s r hi lo n).tables = s.tables := rfl
@[simp] theorem bump_hots (s : State) (r : Reg) (hi lo n : Nat) : (bump s r hi lo n).hots = s.hots := rfl
@[simp] theorem bump_hotAsk (s : State) (r : Reg) (hi lo n : Nat) : (bump s r hi lo n).hotAsk = s.hotAsk := rfl
@[simp] theorem bump_ahead (s : State) (r : Reg) (hi lo n : Nat) : (bump s r hi lo n).ahead = s.ahead := rfl
@[simp] theorem bump_fss (s : State) (r : Reg) (hi lo n : Nat) : (bump s r hi lo n).fss = s.fss := rfl
@[simp] theorem bump_toeLost (s : State) (r : Reg) (hi lo n : Nat) : (bump s r hi lo n).toeLost = s.toeLost := rfl
@[simp] theorem bump_fab (s : State) (r : Reg) (hi lo n : Nat) : (bump s r hi lo n).fab = s.fab := rfl
@[simp] theorem bump_bml (s : State) (r : Reg) (hi lo n : Nat) : (bump s r hi lo n).bml = s.bml := rfl
@[simp] theorem bump_img (s : State) (r : Reg) (hi lo n : Nat) : (bump s r hi lo n).img = s.img := rfl
@[simp] theorem bump_pwr (s : State) (r : Reg) (hi lo n : Nat) : (bump s r hi lo n).pwr = s.pwr := rfl
@[simp] theorem bump_fresh (s : State) (r : Reg) (hi lo n : Nat) : (bump s r hi lo n).fresh = s.fresh := rfl
@[simp] theorem bump_out (s : State) (r : Reg) (hi lo n : Nat) : (bump s r hi lo n).out = s.out := rfl
@[simp] theorem bump_pending (s : State) (r : Reg) (hi lo n : Nat) : (bump s r hi lo n).pending = s.pending := rfl

/-! ### setRun -/

@[simp] theorem setRun_now (s : State) (r : Reg) (hi lo v : Nat) : (setRun s r hi lo v).now = s.now := rfl
@[simp] theorem setRun_csr (s : State) (r : Reg) (hi lo v : Nat) : (setRun s r hi lo v).csr = s.csr := rfl
@[simp] theorem setRun_mem (s : State) (r : Reg) (hi lo v : Nat) : (setRun s r hi lo v).mem = s.mem := rfl
@[simp] theorem setRun_chk (s : State) (r : Reg) (hi lo v : Nat) : (setRun s r hi lo v).chk = s.chk := rfl
@[simp] theorem setRun_dir (s : State) (r : Reg) (hi lo v : Nat) : (setRun s r hi lo v).dir = s.dir := rfl
@[simp] theorem setRun_mirror (s : State) (r : Reg) (hi lo v : Nat) : (setRun s r hi lo v).mirror = s.mirror := rfl
@[simp] theorem setRun_noMirror (s : State) (r : Reg) (hi lo v : Nat) : (setRun s r hi lo v).noMirror = s.noMirror := rfl
@[simp] theorem setRun_mirrorAt (s : State) (r : Reg) (hi lo v : Nat) : (setRun s r hi lo v).mirrorAt = s.mirrorAt := rfl
@[simp] theorem setRun_tick (s : State) (r : Reg) (hi lo v : Nat) : (setRun s r hi lo v).tick = s.tick := rfl
@[simp] theorem setRun_ctxs (s : State) (r : Reg) (hi lo v : Nat) : (setRun s r hi lo v).ctxs = s.ctxs := rfl
@[simp] theorem setRun_dies (s : State) (r : Reg) (hi lo v : Nat) : (setRun s r hi lo v).dies = s.dies := rfl
@[simp] theorem setRun_flight (s : State) (r : Reg) (hi lo v : Nat) : (setRun s r hi lo v).flight = s.flight := rfl
@[simp] theorem setRun_retries (s : State) (r : Reg) (hi lo v : Nat) : (setRun s r hi lo v).retries = s.retries := rfl
@[simp] theorem setRun_adpRun (s : State) (r : Reg) (hi lo v : Nat) : (setRun s r hi lo v).adpRun = s.adpRun := rfl
@[simp] theorem setRun_adpShown (s : State) (r : Reg) (hi lo v : Nat) : (setRun s r hi lo v).adpShown = s.adpShown := rfl
@[simp] theorem setRun_sclRun (s : State) (r : Reg) (hi lo v : Nat) : (setRun s r hi lo v).sclRun = s.sclRun := rfl
@[simp] theorem setRun_sclShown (s : State) (r : Reg) (hi lo v : Nat) : (setRun s r hi lo v).sclShown = s.sclShown := rfl
@[simp] theorem setRun_pend (s : State) (r : Reg) (hi lo v : Nat) : (setRun s r hi lo v).pend = s.pend := rfl
@[simp] theorem setRun_orphans (s : State) (r : Reg) (hi lo v : Nat) : (setRun s r hi lo v).orphans = s.orphans := rfl
@[simp] theorem setRun_reeve (s : State) (r : Reg) (hi lo v : Nat) : (setRun s r hi lo v).reeve = s.reeve := rfl
@[simp] theorem setRun_polders (s : State) (r : Reg) (hi lo v : Nat) : (setRun s r hi lo v).polders = s.polders := rfl
@[simp] theorem setRun_dikes (s : State) (r : Reg) (hi lo v : Nat) : (setRun s r hi lo v).dikes = s.dikes := rfl
@[simp] theorem setRun_sluice (s : State) (r : Reg) (hi lo v : Nat) : (setRun s r hi lo v).sluice = s.sluice := rfl
@[simp] theorem setRun_weirs (s : State) (r : Reg) (hi lo v : Nat) : (setRun s r hi lo v).weirs = s.weirs := rfl
@[simp] theorem setRun_walks (s : State) (r : Reg) (hi lo v : Nat) : (setRun s r hi lo v).walks = s.walks := rfl
@[simp] theorem setRun_jobs (s : State) (r : Reg) (hi lo v : Nat) : (setRun s r hi lo v).jobs = s.jobs := rfl
@[simp] theorem setRun_colls (s : State) (r : Reg) (hi lo v : Nat) : (setRun s r hi lo v).colls = s.colls := rfl
@[simp] theorem setRun_bsus (s : State) (r : Reg) (hi lo v : Nat) : (setRun s r hi lo v).bsus = s.bsus := rfl
@[simp] theorem setRun_eccPend (s : State) (r : Reg) (hi lo v : Nat) : (setRun s r hi lo v).eccPend = s.eccPend := rfl
@[simp] theorem setRun_sys (s : State) (r : Reg) (hi lo v : Nat) : (setRun s r hi lo v).sys = s.sys := rfl
@[simp] theorem setRun_movers (s : State) (r : Reg) (hi lo v : Nat) : (setRun s r hi lo v).movers = s.movers := rfl
@[simp] theorem setRun_pool (s : State) (r : Reg) (hi lo v : Nat) : (setRun s r hi lo v).pool = s.pool := rfl
@[simp] theorem setRun_poolBad (s : State) (r : Reg) (hi lo v : Nat) : (setRun s r hi lo v).poolBad = s.poolBad := rfl
@[simp] theorem setRun_wins (s : State) (r : Reg) (hi lo v : Nat) : (setRun s r hi lo v).wins = s.wins := rfl
@[simp] theorem setRun_pubs (s : State) (r : Reg) (hi lo v : Nat) : (setRun s r hi lo v).pubs = s.pubs := rfl
@[simp] theorem setRun_models (s : State) (r : Reg) (hi lo v : Nat) : (setRun s r hi lo v).models = s.models := rfl
@[simp] theorem setRun_passes (s : State) (r : Reg) (hi lo v : Nat) : (setRun s r hi lo v).passes = s.passes := rfl
@[simp] theorem setRun_trains (s : State) (r : Reg) (hi lo v : Nat) : (setRun s r hi lo v).trains = s.trains := rfl
@[simp] theorem setRun_tables (s : State) (r : Reg) (hi lo v : Nat) : (setRun s r hi lo v).tables = s.tables := rfl
@[simp] theorem setRun_hots (s : State) (r : Reg) (hi lo v : Nat) : (setRun s r hi lo v).hots = s.hots := rfl
@[simp] theorem setRun_hotAsk (s : State) (r : Reg) (hi lo v : Nat) : (setRun s r hi lo v).hotAsk = s.hotAsk := rfl
@[simp] theorem setRun_ahead (s : State) (r : Reg) (hi lo v : Nat) : (setRun s r hi lo v).ahead = s.ahead := rfl
@[simp] theorem setRun_fss (s : State) (r : Reg) (hi lo v : Nat) : (setRun s r hi lo v).fss = s.fss := rfl
@[simp] theorem setRun_toeLost (s : State) (r : Reg) (hi lo v : Nat) : (setRun s r hi lo v).toeLost = s.toeLost := rfl
@[simp] theorem setRun_fab (s : State) (r : Reg) (hi lo v : Nat) : (setRun s r hi lo v).fab = s.fab := rfl
@[simp] theorem setRun_bml (s : State) (r : Reg) (hi lo v : Nat) : (setRun s r hi lo v).bml = s.bml := rfl
@[simp] theorem setRun_img (s : State) (r : Reg) (hi lo v : Nat) : (setRun s r hi lo v).img = s.img := rfl
@[simp] theorem setRun_pwr (s : State) (r : Reg) (hi lo v : Nat) : (setRun s r hi lo v).pwr = s.pwr := rfl
@[simp] theorem setRun_fresh (s : State) (r : Reg) (hi lo v : Nat) : (setRun s r hi lo v).fresh = s.fresh := rfl
@[simp] theorem setRun_out (s : State) (r : Reg) (hi lo v : Nat) : (setRun s r hi lo v).out = s.out := rfl
@[simp] theorem setRun_pending (s : State) (r : Reg) (hi lo v : Nat) : (setRun s r hi lo v).pending = s.pending := rfl

/-! ### bumpLive -/

@[simp] theorem bumpLive_now (s : State) (r : Reg) (hi lo n : Nat) : (bumpLive s r hi lo n).now = s.now := rfl
@[simp] theorem bumpLive_cnt (s : State) (r : Reg) (hi lo n : Nat) : (bumpLive s r hi lo n).cnt = s.cnt := rfl
@[simp] theorem bumpLive_mem (s : State) (r : Reg) (hi lo n : Nat) : (bumpLive s r hi lo n).mem = s.mem := rfl
@[simp] theorem bumpLive_chk (s : State) (r : Reg) (hi lo n : Nat) : (bumpLive s r hi lo n).chk = s.chk := rfl
@[simp] theorem bumpLive_dir (s : State) (r : Reg) (hi lo n : Nat) : (bumpLive s r hi lo n).dir = s.dir := rfl
@[simp] theorem bumpLive_mirror (s : State) (r : Reg) (hi lo n : Nat) : (bumpLive s r hi lo n).mirror = s.mirror := rfl
@[simp] theorem bumpLive_noMirror (s : State) (r : Reg) (hi lo n : Nat) : (bumpLive s r hi lo n).noMirror = s.noMirror := rfl
@[simp] theorem bumpLive_mirrorAt (s : State) (r : Reg) (hi lo n : Nat) : (bumpLive s r hi lo n).mirrorAt = s.mirrorAt := rfl
@[simp] theorem bumpLive_tick (s : State) (r : Reg) (hi lo n : Nat) : (bumpLive s r hi lo n).tick = s.tick := rfl
@[simp] theorem bumpLive_ctxs (s : State) (r : Reg) (hi lo n : Nat) : (bumpLive s r hi lo n).ctxs = s.ctxs := rfl
@[simp] theorem bumpLive_dies (s : State) (r : Reg) (hi lo n : Nat) : (bumpLive s r hi lo n).dies = s.dies := rfl
@[simp] theorem bumpLive_flight (s : State) (r : Reg) (hi lo n : Nat) : (bumpLive s r hi lo n).flight = s.flight := rfl
@[simp] theorem bumpLive_retries (s : State) (r : Reg) (hi lo n : Nat) : (bumpLive s r hi lo n).retries = s.retries := rfl
@[simp] theorem bumpLive_adpRun (s : State) (r : Reg) (hi lo n : Nat) : (bumpLive s r hi lo n).adpRun = s.adpRun := rfl
@[simp] theorem bumpLive_adpShown (s : State) (r : Reg) (hi lo n : Nat) : (bumpLive s r hi lo n).adpShown = s.adpShown := rfl
@[simp] theorem bumpLive_sclRun (s : State) (r : Reg) (hi lo n : Nat) : (bumpLive s r hi lo n).sclRun = s.sclRun := rfl
@[simp] theorem bumpLive_sclShown (s : State) (r : Reg) (hi lo n : Nat) : (bumpLive s r hi lo n).sclShown = s.sclShown := rfl
@[simp] theorem bumpLive_pend (s : State) (r : Reg) (hi lo n : Nat) : (bumpLive s r hi lo n).pend = s.pend := rfl
@[simp] theorem bumpLive_orphans (s : State) (r : Reg) (hi lo n : Nat) : (bumpLive s r hi lo n).orphans = s.orphans := rfl
@[simp] theorem bumpLive_reeve (s : State) (r : Reg) (hi lo n : Nat) : (bumpLive s r hi lo n).reeve = s.reeve := rfl
@[simp] theorem bumpLive_polders (s : State) (r : Reg) (hi lo n : Nat) : (bumpLive s r hi lo n).polders = s.polders := rfl
@[simp] theorem bumpLive_dikes (s : State) (r : Reg) (hi lo n : Nat) : (bumpLive s r hi lo n).dikes = s.dikes := rfl
@[simp] theorem bumpLive_sluice (s : State) (r : Reg) (hi lo n : Nat) : (bumpLive s r hi lo n).sluice = s.sluice := rfl
@[simp] theorem bumpLive_weirs (s : State) (r : Reg) (hi lo n : Nat) : (bumpLive s r hi lo n).weirs = s.weirs := rfl
@[simp] theorem bumpLive_walks (s : State) (r : Reg) (hi lo n : Nat) : (bumpLive s r hi lo n).walks = s.walks := rfl
@[simp] theorem bumpLive_jobs (s : State) (r : Reg) (hi lo n : Nat) : (bumpLive s r hi lo n).jobs = s.jobs := rfl
@[simp] theorem bumpLive_colls (s : State) (r : Reg) (hi lo n : Nat) : (bumpLive s r hi lo n).colls = s.colls := rfl
@[simp] theorem bumpLive_bsus (s : State) (r : Reg) (hi lo n : Nat) : (bumpLive s r hi lo n).bsus = s.bsus := rfl
@[simp] theorem bumpLive_eccPend (s : State) (r : Reg) (hi lo n : Nat) : (bumpLive s r hi lo n).eccPend = s.eccPend := rfl
@[simp] theorem bumpLive_sys (s : State) (r : Reg) (hi lo n : Nat) : (bumpLive s r hi lo n).sys = s.sys := rfl
@[simp] theorem bumpLive_movers (s : State) (r : Reg) (hi lo n : Nat) : (bumpLive s r hi lo n).movers = s.movers := rfl
@[simp] theorem bumpLive_pool (s : State) (r : Reg) (hi lo n : Nat) : (bumpLive s r hi lo n).pool = s.pool := rfl
@[simp] theorem bumpLive_poolBad (s : State) (r : Reg) (hi lo n : Nat) : (bumpLive s r hi lo n).poolBad = s.poolBad := rfl
@[simp] theorem bumpLive_wins (s : State) (r : Reg) (hi lo n : Nat) : (bumpLive s r hi lo n).wins = s.wins := rfl
@[simp] theorem bumpLive_pubs (s : State) (r : Reg) (hi lo n : Nat) : (bumpLive s r hi lo n).pubs = s.pubs := rfl
@[simp] theorem bumpLive_models (s : State) (r : Reg) (hi lo n : Nat) : (bumpLive s r hi lo n).models = s.models := rfl
@[simp] theorem bumpLive_passes (s : State) (r : Reg) (hi lo n : Nat) : (bumpLive s r hi lo n).passes = s.passes := rfl
@[simp] theorem bumpLive_trains (s : State) (r : Reg) (hi lo n : Nat) : (bumpLive s r hi lo n).trains = s.trains := rfl
@[simp] theorem bumpLive_tables (s : State) (r : Reg) (hi lo n : Nat) : (bumpLive s r hi lo n).tables = s.tables := rfl
@[simp] theorem bumpLive_hots (s : State) (r : Reg) (hi lo n : Nat) : (bumpLive s r hi lo n).hots = s.hots := rfl
@[simp] theorem bumpLive_hotAsk (s : State) (r : Reg) (hi lo n : Nat) : (bumpLive s r hi lo n).hotAsk = s.hotAsk := rfl
@[simp] theorem bumpLive_ahead (s : State) (r : Reg) (hi lo n : Nat) : (bumpLive s r hi lo n).ahead = s.ahead := rfl
@[simp] theorem bumpLive_fss (s : State) (r : Reg) (hi lo n : Nat) : (bumpLive s r hi lo n).fss = s.fss := rfl
@[simp] theorem bumpLive_toeLost (s : State) (r : Reg) (hi lo n : Nat) : (bumpLive s r hi lo n).toeLost = s.toeLost := rfl
@[simp] theorem bumpLive_fab (s : State) (r : Reg) (hi lo n : Nat) : (bumpLive s r hi lo n).fab = s.fab := rfl
@[simp] theorem bumpLive_bml (s : State) (r : Reg) (hi lo n : Nat) : (bumpLive s r hi lo n).bml = s.bml := rfl
@[simp] theorem bumpLive_img (s : State) (r : Reg) (hi lo n : Nat) : (bumpLive s r hi lo n).img = s.img := rfl
@[simp] theorem bumpLive_pwr (s : State) (r : Reg) (hi lo n : Nat) : (bumpLive s r hi lo n).pwr = s.pwr := rfl
@[simp] theorem bumpLive_fresh (s : State) (r : Reg) (hi lo n : Nat) : (bumpLive s r hi lo n).fresh = s.fresh := rfl
@[simp] theorem bumpLive_out (s : State) (r : Reg) (hi lo n : Nat) : (bumpLive s r hi lo n).out = s.out := rfl
@[simp] theorem bumpLive_pending (s : State) (r : Reg) (hi lo n : Nat) : (bumpLive s r hi lo n).pending = s.pending := rfl

/-! ### setBit -/

@[simp] theorem setBit_now (s : State) (r : Reg) (b : Nat) : (setBit s r b).now = s.now := rfl
@[simp] theorem setBit_cnt (s : State) (r : Reg) (b : Nat) : (setBit s r b).cnt = s.cnt := rfl
@[simp] theorem setBit_mem (s : State) (r : Reg) (b : Nat) : (setBit s r b).mem = s.mem := rfl
@[simp] theorem setBit_chk (s : State) (r : Reg) (b : Nat) : (setBit s r b).chk = s.chk := rfl
@[simp] theorem setBit_dir (s : State) (r : Reg) (b : Nat) : (setBit s r b).dir = s.dir := rfl
@[simp] theorem setBit_mirror (s : State) (r : Reg) (b : Nat) : (setBit s r b).mirror = s.mirror := rfl
@[simp] theorem setBit_noMirror (s : State) (r : Reg) (b : Nat) : (setBit s r b).noMirror = s.noMirror := rfl
@[simp] theorem setBit_mirrorAt (s : State) (r : Reg) (b : Nat) : (setBit s r b).mirrorAt = s.mirrorAt := rfl
@[simp] theorem setBit_tick (s : State) (r : Reg) (b : Nat) : (setBit s r b).tick = s.tick := rfl
@[simp] theorem setBit_ctxs (s : State) (r : Reg) (b : Nat) : (setBit s r b).ctxs = s.ctxs := rfl
@[simp] theorem setBit_dies (s : State) (r : Reg) (b : Nat) : (setBit s r b).dies = s.dies := rfl
@[simp] theorem setBit_flight (s : State) (r : Reg) (b : Nat) : (setBit s r b).flight = s.flight := rfl
@[simp] theorem setBit_retries (s : State) (r : Reg) (b : Nat) : (setBit s r b).retries = s.retries := rfl
@[simp] theorem setBit_adpRun (s : State) (r : Reg) (b : Nat) : (setBit s r b).adpRun = s.adpRun := rfl
@[simp] theorem setBit_adpShown (s : State) (r : Reg) (b : Nat) : (setBit s r b).adpShown = s.adpShown := rfl
@[simp] theorem setBit_sclRun (s : State) (r : Reg) (b : Nat) : (setBit s r b).sclRun = s.sclRun := rfl
@[simp] theorem setBit_sclShown (s : State) (r : Reg) (b : Nat) : (setBit s r b).sclShown = s.sclShown := rfl
@[simp] theorem setBit_pend (s : State) (r : Reg) (b : Nat) : (setBit s r b).pend = s.pend := rfl
@[simp] theorem setBit_orphans (s : State) (r : Reg) (b : Nat) : (setBit s r b).orphans = s.orphans := rfl
@[simp] theorem setBit_reeve (s : State) (r : Reg) (b : Nat) : (setBit s r b).reeve = s.reeve := rfl
@[simp] theorem setBit_polders (s : State) (r : Reg) (b : Nat) : (setBit s r b).polders = s.polders := rfl
@[simp] theorem setBit_dikes (s : State) (r : Reg) (b : Nat) : (setBit s r b).dikes = s.dikes := rfl
@[simp] theorem setBit_sluice (s : State) (r : Reg) (b : Nat) : (setBit s r b).sluice = s.sluice := rfl
@[simp] theorem setBit_weirs (s : State) (r : Reg) (b : Nat) : (setBit s r b).weirs = s.weirs := rfl
@[simp] theorem setBit_walks (s : State) (r : Reg) (b : Nat) : (setBit s r b).walks = s.walks := rfl
@[simp] theorem setBit_jobs (s : State) (r : Reg) (b : Nat) : (setBit s r b).jobs = s.jobs := rfl
@[simp] theorem setBit_colls (s : State) (r : Reg) (b : Nat) : (setBit s r b).colls = s.colls := rfl
@[simp] theorem setBit_bsus (s : State) (r : Reg) (b : Nat) : (setBit s r b).bsus = s.bsus := rfl
@[simp] theorem setBit_eccPend (s : State) (r : Reg) (b : Nat) : (setBit s r b).eccPend = s.eccPend := rfl
@[simp] theorem setBit_sys (s : State) (r : Reg) (b : Nat) : (setBit s r b).sys = s.sys := rfl
@[simp] theorem setBit_movers (s : State) (r : Reg) (b : Nat) : (setBit s r b).movers = s.movers := rfl
@[simp] theorem setBit_pool (s : State) (r : Reg) (b : Nat) : (setBit s r b).pool = s.pool := rfl
@[simp] theorem setBit_poolBad (s : State) (r : Reg) (b : Nat) : (setBit s r b).poolBad = s.poolBad := rfl
@[simp] theorem setBit_wins (s : State) (r : Reg) (b : Nat) : (setBit s r b).wins = s.wins := rfl
@[simp] theorem setBit_pubs (s : State) (r : Reg) (b : Nat) : (setBit s r b).pubs = s.pubs := rfl
@[simp] theorem setBit_models (s : State) (r : Reg) (b : Nat) : (setBit s r b).models = s.models := rfl
@[simp] theorem setBit_passes (s : State) (r : Reg) (b : Nat) : (setBit s r b).passes = s.passes := rfl
@[simp] theorem setBit_trains (s : State) (r : Reg) (b : Nat) : (setBit s r b).trains = s.trains := rfl
@[simp] theorem setBit_tables (s : State) (r : Reg) (b : Nat) : (setBit s r b).tables = s.tables := rfl
@[simp] theorem setBit_hots (s : State) (r : Reg) (b : Nat) : (setBit s r b).hots = s.hots := rfl
@[simp] theorem setBit_hotAsk (s : State) (r : Reg) (b : Nat) : (setBit s r b).hotAsk = s.hotAsk := rfl
@[simp] theorem setBit_ahead (s : State) (r : Reg) (b : Nat) : (setBit s r b).ahead = s.ahead := rfl
@[simp] theorem setBit_fss (s : State) (r : Reg) (b : Nat) : (setBit s r b).fss = s.fss := rfl
@[simp] theorem setBit_toeLost (s : State) (r : Reg) (b : Nat) : (setBit s r b).toeLost = s.toeLost := rfl
@[simp] theorem setBit_fab (s : State) (r : Reg) (b : Nat) : (setBit s r b).fab = s.fab := rfl
@[simp] theorem setBit_bml (s : State) (r : Reg) (b : Nat) : (setBit s r b).bml = s.bml := rfl
@[simp] theorem setBit_img (s : State) (r : Reg) (b : Nat) : (setBit s r b).img = s.img := rfl
@[simp] theorem setBit_pwr (s : State) (r : Reg) (b : Nat) : (setBit s r b).pwr = s.pwr := rfl
@[simp] theorem setBit_fresh (s : State) (r : Reg) (b : Nat) : (setBit s r b).fresh = s.fresh := rfl
@[simp] theorem setBit_out (s : State) (r : Reg) (b : Nat) : (setBit s r b).out = s.out := rfl
@[simp] theorem setBit_pending (s : State) (r : Reg) (b : Nat) : (setBit s r b).pending = s.pending := rfl

/-! ### resetReg -/

@[simp] theorem resetReg_now (s : State) (r : Reg) : (resetReg s r).now = s.now := rfl
@[simp] theorem resetReg_cnt (s : State) (r : Reg) : (resetReg s r).cnt = s.cnt := rfl
@[simp] theorem resetReg_mem (s : State) (r : Reg) : (resetReg s r).mem = s.mem := rfl
@[simp] theorem resetReg_chk (s : State) (r : Reg) : (resetReg s r).chk = s.chk := rfl
@[simp] theorem resetReg_dir (s : State) (r : Reg) : (resetReg s r).dir = s.dir := rfl
@[simp] theorem resetReg_mirror (s : State) (r : Reg) : (resetReg s r).mirror = s.mirror := rfl
@[simp] theorem resetReg_noMirror (s : State) (r : Reg) : (resetReg s r).noMirror = s.noMirror := rfl
@[simp] theorem resetReg_mirrorAt (s : State) (r : Reg) : (resetReg s r).mirrorAt = s.mirrorAt := rfl
@[simp] theorem resetReg_tick (s : State) (r : Reg) : (resetReg s r).tick = s.tick := rfl
@[simp] theorem resetReg_ctxs (s : State) (r : Reg) : (resetReg s r).ctxs = s.ctxs := rfl
@[simp] theorem resetReg_dies (s : State) (r : Reg) : (resetReg s r).dies = s.dies := rfl
@[simp] theorem resetReg_flight (s : State) (r : Reg) : (resetReg s r).flight = s.flight := rfl
@[simp] theorem resetReg_retries (s : State) (r : Reg) : (resetReg s r).retries = s.retries := rfl
@[simp] theorem resetReg_adpRun (s : State) (r : Reg) : (resetReg s r).adpRun = s.adpRun := rfl
@[simp] theorem resetReg_adpShown (s : State) (r : Reg) : (resetReg s r).adpShown = s.adpShown := rfl
@[simp] theorem resetReg_sclRun (s : State) (r : Reg) : (resetReg s r).sclRun = s.sclRun := rfl
@[simp] theorem resetReg_sclShown (s : State) (r : Reg) : (resetReg s r).sclShown = s.sclShown := rfl
@[simp] theorem resetReg_pend (s : State) (r : Reg) : (resetReg s r).pend = s.pend := rfl
@[simp] theorem resetReg_orphans (s : State) (r : Reg) : (resetReg s r).orphans = s.orphans := rfl
@[simp] theorem resetReg_reeve (s : State) (r : Reg) : (resetReg s r).reeve = s.reeve := rfl
@[simp] theorem resetReg_polders (s : State) (r : Reg) : (resetReg s r).polders = s.polders := rfl
@[simp] theorem resetReg_dikes (s : State) (r : Reg) : (resetReg s r).dikes = s.dikes := rfl
@[simp] theorem resetReg_sluice (s : State) (r : Reg) : (resetReg s r).sluice = s.sluice := rfl
@[simp] theorem resetReg_weirs (s : State) (r : Reg) : (resetReg s r).weirs = s.weirs := rfl
@[simp] theorem resetReg_walks (s : State) (r : Reg) : (resetReg s r).walks = s.walks := rfl
@[simp] theorem resetReg_jobs (s : State) (r : Reg) : (resetReg s r).jobs = s.jobs := rfl
@[simp] theorem resetReg_colls (s : State) (r : Reg) : (resetReg s r).colls = s.colls := rfl
@[simp] theorem resetReg_bsus (s : State) (r : Reg) : (resetReg s r).bsus = s.bsus := rfl
@[simp] theorem resetReg_eccPend (s : State) (r : Reg) : (resetReg s r).eccPend = s.eccPend := rfl
@[simp] theorem resetReg_sys (s : State) (r : Reg) : (resetReg s r).sys = s.sys := rfl
@[simp] theorem resetReg_movers (s : State) (r : Reg) : (resetReg s r).movers = s.movers := rfl
@[simp] theorem resetReg_pool (s : State) (r : Reg) : (resetReg s r).pool = s.pool := rfl
@[simp] theorem resetReg_poolBad (s : State) (r : Reg) : (resetReg s r).poolBad = s.poolBad := rfl
@[simp] theorem resetReg_wins (s : State) (r : Reg) : (resetReg s r).wins = s.wins := rfl
@[simp] theorem resetReg_pubs (s : State) (r : Reg) : (resetReg s r).pubs = s.pubs := rfl
@[simp] theorem resetReg_models (s : State) (r : Reg) : (resetReg s r).models = s.models := rfl
@[simp] theorem resetReg_passes (s : State) (r : Reg) : (resetReg s r).passes = s.passes := rfl
@[simp] theorem resetReg_trains (s : State) (r : Reg) : (resetReg s r).trains = s.trains := rfl
@[simp] theorem resetReg_tables (s : State) (r : Reg) : (resetReg s r).tables = s.tables := rfl
@[simp] theorem resetReg_hots (s : State) (r : Reg) : (resetReg s r).hots = s.hots := rfl
@[simp] theorem resetReg_hotAsk (s : State) (r : Reg) : (resetReg s r).hotAsk = s.hotAsk := rfl
@[simp] theorem resetReg_ahead (s : State) (r : Reg) : (resetReg s r).ahead = s.ahead := rfl
@[simp] theorem resetReg_fss (s : State) (r : Reg) : (resetReg s r).fss = s.fss := rfl
@[simp] theorem resetReg_toeLost (s : State) (r : Reg) : (resetReg s r).toeLost = s.toeLost := rfl
@[simp] theorem resetReg_fab (s : State) (r : Reg) : (resetReg s r).fab = s.fab := rfl
@[simp] theorem resetReg_bml (s : State) (r : Reg) : (resetReg s r).bml = s.bml := rfl
@[simp] theorem resetReg_img (s : State) (r : Reg) : (resetReg s r).img = s.img := rfl
@[simp] theorem resetReg_pwr (s : State) (r : Reg) : (resetReg s r).pwr = s.pwr := rfl
@[simp] theorem resetReg_fresh (s : State) (r : Reg) : (resetReg s r).fresh = s.fresh := rfl
@[simp] theorem resetReg_out (s : State) (r : Reg) : (resetReg s r).out = s.out := rfl
@[simp] theorem resetReg_pending (s : State) (r : Reg) : (resetReg s r).pending = s.pending := rfl

/-! ### bumpScl -/

@[simp] theorem bumpScl_now (s : State) (k n : Nat) : (bumpScl s k n).now = s.now := rfl
@[simp] theorem bumpScl_csr (s : State) (k n : Nat) : (bumpScl s k n).csr = s.csr := rfl
@[simp] theorem bumpScl_cnt (s : State) (k n : Nat) : (bumpScl s k n).cnt = s.cnt := rfl
@[simp] theorem bumpScl_mem (s : State) (k n : Nat) : (bumpScl s k n).mem = s.mem := rfl
@[simp] theorem bumpScl_chk (s : State) (k n : Nat) : (bumpScl s k n).chk = s.chk := rfl
@[simp] theorem bumpScl_dir (s : State) (k n : Nat) : (bumpScl s k n).dir = s.dir := rfl
@[simp] theorem bumpScl_mirror (s : State) (k n : Nat) : (bumpScl s k n).mirror = s.mirror := rfl
@[simp] theorem bumpScl_noMirror (s : State) (k n : Nat) : (bumpScl s k n).noMirror = s.noMirror := rfl
@[simp] theorem bumpScl_mirrorAt (s : State) (k n : Nat) : (bumpScl s k n).mirrorAt = s.mirrorAt := rfl
@[simp] theorem bumpScl_tick (s : State) (k n : Nat) : (bumpScl s k n).tick = s.tick := rfl
@[simp] theorem bumpScl_ctxs (s : State) (k n : Nat) : (bumpScl s k n).ctxs = s.ctxs := rfl
@[simp] theorem bumpScl_dies (s : State) (k n : Nat) : (bumpScl s k n).dies = s.dies := rfl
@[simp] theorem bumpScl_flight (s : State) (k n : Nat) : (bumpScl s k n).flight = s.flight := rfl
@[simp] theorem bumpScl_retries (s : State) (k n : Nat) : (bumpScl s k n).retries = s.retries := rfl
@[simp] theorem bumpScl_adpRun (s : State) (k n : Nat) : (bumpScl s k n).adpRun = s.adpRun := rfl
@[simp] theorem bumpScl_adpShown (s : State) (k n : Nat) : (bumpScl s k n).adpShown = s.adpShown := rfl
@[simp] theorem bumpScl_sclShown (s : State) (k n : Nat) : (bumpScl s k n).sclShown = s.sclShown := rfl
@[simp] theorem bumpScl_pend (s : State) (k n : Nat) : (bumpScl s k n).pend = s.pend := rfl
@[simp] theorem bumpScl_orphans (s : State) (k n : Nat) : (bumpScl s k n).orphans = s.orphans := rfl
@[simp] theorem bumpScl_reeve (s : State) (k n : Nat) : (bumpScl s k n).reeve = s.reeve := rfl
@[simp] theorem bumpScl_polders (s : State) (k n : Nat) : (bumpScl s k n).polders = s.polders := rfl
@[simp] theorem bumpScl_dikes (s : State) (k n : Nat) : (bumpScl s k n).dikes = s.dikes := rfl
@[simp] theorem bumpScl_sluice (s : State) (k n : Nat) : (bumpScl s k n).sluice = s.sluice := rfl
@[simp] theorem bumpScl_weirs (s : State) (k n : Nat) : (bumpScl s k n).weirs = s.weirs := rfl
@[simp] theorem bumpScl_walks (s : State) (k n : Nat) : (bumpScl s k n).walks = s.walks := rfl
@[simp] theorem bumpScl_jobs (s : State) (k n : Nat) : (bumpScl s k n).jobs = s.jobs := rfl
@[simp] theorem bumpScl_colls (s : State) (k n : Nat) : (bumpScl s k n).colls = s.colls := rfl
@[simp] theorem bumpScl_bsus (s : State) (k n : Nat) : (bumpScl s k n).bsus = s.bsus := rfl
@[simp] theorem bumpScl_eccPend (s : State) (k n : Nat) : (bumpScl s k n).eccPend = s.eccPend := rfl
@[simp] theorem bumpScl_sys (s : State) (k n : Nat) : (bumpScl s k n).sys = s.sys := rfl
@[simp] theorem bumpScl_movers (s : State) (k n : Nat) : (bumpScl s k n).movers = s.movers := rfl
@[simp] theorem bumpScl_pool (s : State) (k n : Nat) : (bumpScl s k n).pool = s.pool := rfl
@[simp] theorem bumpScl_poolBad (s : State) (k n : Nat) : (bumpScl s k n).poolBad = s.poolBad := rfl
@[simp] theorem bumpScl_wins (s : State) (k n : Nat) : (bumpScl s k n).wins = s.wins := rfl
@[simp] theorem bumpScl_pubs (s : State) (k n : Nat) : (bumpScl s k n).pubs = s.pubs := rfl
@[simp] theorem bumpScl_models (s : State) (k n : Nat) : (bumpScl s k n).models = s.models := rfl
@[simp] theorem bumpScl_passes (s : State) (k n : Nat) : (bumpScl s k n).passes = s.passes := rfl
@[simp] theorem bumpScl_trains (s : State) (k n : Nat) : (bumpScl s k n).trains = s.trains := rfl
@[simp] theorem bumpScl_tables (s : State) (k n : Nat) : (bumpScl s k n).tables = s.tables := rfl
@[simp] theorem bumpScl_hots (s : State) (k n : Nat) : (bumpScl s k n).hots = s.hots := rfl
@[simp] theorem bumpScl_hotAsk (s : State) (k n : Nat) : (bumpScl s k n).hotAsk = s.hotAsk := rfl
@[simp] theorem bumpScl_ahead (s : State) (k n : Nat) : (bumpScl s k n).ahead = s.ahead := rfl
@[simp] theorem bumpScl_fss (s : State) (k n : Nat) : (bumpScl s k n).fss = s.fss := rfl
@[simp] theorem bumpScl_toeLost (s : State) (k n : Nat) : (bumpScl s k n).toeLost = s.toeLost := rfl
@[simp] theorem bumpScl_fab (s : State) (k n : Nat) : (bumpScl s k n).fab = s.fab := rfl
@[simp] theorem bumpScl_bml (s : State) (k n : Nat) : (bumpScl s k n).bml = s.bml := rfl
@[simp] theorem bumpScl_img (s : State) (k n : Nat) : (bumpScl s k n).img = s.img := rfl
@[simp] theorem bumpScl_pwr (s : State) (k n : Nat) : (bumpScl s k n).pwr = s.pwr := rfl
@[simp] theorem bumpScl_fresh (s : State) (k n : Nat) : (bumpScl s k n).fresh = s.fresh := rfl
@[simp] theorem bumpScl_out (s : State) (k n : Nat) : (bumpScl s k n).out = s.out := rfl
@[simp] theorem bumpScl_pending (s : State) (k n : Nat) : (bumpScl s k n).pending = s.pending := rfl

/-! ### clearCnt -/

@[simp] theorem clearCnt_now (s : State) (r : Reg) : (clearCnt s r).now = s.now := rfl
@[simp] theorem clearCnt_mem (s : State) (r : Reg) : (clearCnt s r).mem = s.mem := rfl
@[simp] theorem clearCnt_chk (s : State) (r : Reg) : (clearCnt s r).chk = s.chk := rfl
@[simp] theorem clearCnt_dir (s : State) (r : Reg) : (clearCnt s r).dir = s.dir := rfl
@[simp] theorem clearCnt_mirror (s : State) (r : Reg) : (clearCnt s r).mirror = s.mirror := rfl
@[simp] theorem clearCnt_noMirror (s : State) (r : Reg) : (clearCnt s r).noMirror = s.noMirror := rfl
@[simp] theorem clearCnt_mirrorAt (s : State) (r : Reg) : (clearCnt s r).mirrorAt = s.mirrorAt := rfl
@[simp] theorem clearCnt_tick (s : State) (r : Reg) : (clearCnt s r).tick = s.tick := rfl
@[simp] theorem clearCnt_ctxs (s : State) (r : Reg) : (clearCnt s r).ctxs = s.ctxs := rfl
@[simp] theorem clearCnt_dies (s : State) (r : Reg) : (clearCnt s r).dies = s.dies := rfl
@[simp] theorem clearCnt_flight (s : State) (r : Reg) : (clearCnt s r).flight = s.flight := rfl
@[simp] theorem clearCnt_retries (s : State) (r : Reg) : (clearCnt s r).retries = s.retries := rfl
@[simp] theorem clearCnt_adpRun (s : State) (r : Reg) : (clearCnt s r).adpRun = s.adpRun := rfl
@[simp] theorem clearCnt_adpShown (s : State) (r : Reg) : (clearCnt s r).adpShown = s.adpShown := rfl
@[simp] theorem clearCnt_sclRun (s : State) (r : Reg) : (clearCnt s r).sclRun = s.sclRun := rfl
@[simp] theorem clearCnt_sclShown (s : State) (r : Reg) : (clearCnt s r).sclShown = s.sclShown := rfl
@[simp] theorem clearCnt_pend (s : State) (r : Reg) : (clearCnt s r).pend = s.pend := rfl
@[simp] theorem clearCnt_orphans (s : State) (r : Reg) : (clearCnt s r).orphans = s.orphans := rfl
@[simp] theorem clearCnt_reeve (s : State) (r : Reg) : (clearCnt s r).reeve = s.reeve := rfl
@[simp] theorem clearCnt_polders (s : State) (r : Reg) : (clearCnt s r).polders = s.polders := rfl
@[simp] theorem clearCnt_dikes (s : State) (r : Reg) : (clearCnt s r).dikes = s.dikes := rfl
@[simp] theorem clearCnt_sluice (s : State) (r : Reg) : (clearCnt s r).sluice = s.sluice := rfl
@[simp] theorem clearCnt_weirs (s : State) (r : Reg) : (clearCnt s r).weirs = s.weirs := rfl
@[simp] theorem clearCnt_walks (s : State) (r : Reg) : (clearCnt s r).walks = s.walks := rfl
@[simp] theorem clearCnt_jobs (s : State) (r : Reg) : (clearCnt s r).jobs = s.jobs := rfl
@[simp] theorem clearCnt_colls (s : State) (r : Reg) : (clearCnt s r).colls = s.colls := rfl
@[simp] theorem clearCnt_bsus (s : State) (r : Reg) : (clearCnt s r).bsus = s.bsus := rfl
@[simp] theorem clearCnt_eccPend (s : State) (r : Reg) : (clearCnt s r).eccPend = s.eccPend := rfl
@[simp] theorem clearCnt_sys (s : State) (r : Reg) : (clearCnt s r).sys = s.sys := rfl
@[simp] theorem clearCnt_movers (s : State) (r : Reg) : (clearCnt s r).movers = s.movers := rfl
@[simp] theorem clearCnt_pool (s : State) (r : Reg) : (clearCnt s r).pool = s.pool := rfl
@[simp] theorem clearCnt_poolBad (s : State) (r : Reg) : (clearCnt s r).poolBad = s.poolBad := rfl
@[simp] theorem clearCnt_wins (s : State) (r : Reg) : (clearCnt s r).wins = s.wins := rfl
@[simp] theorem clearCnt_pubs (s : State) (r : Reg) : (clearCnt s r).pubs = s.pubs := rfl
@[simp] theorem clearCnt_models (s : State) (r : Reg) : (clearCnt s r).models = s.models := rfl
@[simp] theorem clearCnt_passes (s : State) (r : Reg) : (clearCnt s r).passes = s.passes := rfl
@[simp] theorem clearCnt_trains (s : State) (r : Reg) : (clearCnt s r).trains = s.trains := rfl
@[simp] theorem clearCnt_tables (s : State) (r : Reg) : (clearCnt s r).tables = s.tables := rfl
@[simp] theorem clearCnt_hots (s : State) (r : Reg) : (clearCnt s r).hots = s.hots := rfl
@[simp] theorem clearCnt_hotAsk (s : State) (r : Reg) : (clearCnt s r).hotAsk = s.hotAsk := rfl
@[simp] theorem clearCnt_ahead (s : State) (r : Reg) : (clearCnt s r).ahead = s.ahead := rfl
@[simp] theorem clearCnt_fss (s : State) (r : Reg) : (clearCnt s r).fss = s.fss := rfl
@[simp] theorem clearCnt_toeLost (s : State) (r : Reg) : (clearCnt s r).toeLost = s.toeLost := rfl
@[simp] theorem clearCnt_fab (s : State) (r : Reg) : (clearCnt s r).fab = s.fab := rfl
@[simp] theorem clearCnt_bml (s : State) (r : Reg) : (clearCnt s r).bml = s.bml := rfl
@[simp] theorem clearCnt_img (s : State) (r : Reg) : (clearCnt s r).img = s.img := rfl
@[simp] theorem clearCnt_pwr (s : State) (r : Reg) : (clearCnt s r).pwr = s.pwr := rfl
@[simp] theorem clearCnt_fresh (s : State) (r : Reg) : (clearCnt s r).fresh = s.fresh := rfl
@[simp] theorem clearCnt_out (s : State) (r : Reg) : (clearCnt s r).out = s.out := rfl
@[simp] theorem clearCnt_pending (s : State) (r : Reg) : (clearCnt s r).pending = s.pending := rfl

/-! ### latchCounters -/

@[simp] theorem latchCounters_now (s : State) : (latchCounters s).now = s.now := rfl
@[simp] theorem latchCounters_cnt (s : State) : (latchCounters s).cnt = s.cnt := rfl
@[simp] theorem latchCounters_mem (s : State) : (latchCounters s).mem = s.mem := rfl
@[simp] theorem latchCounters_chk (s : State) : (latchCounters s).chk = s.chk := rfl
@[simp] theorem latchCounters_dir (s : State) : (latchCounters s).dir = s.dir := rfl
@[simp] theorem latchCounters_mirror (s : State) : (latchCounters s).mirror = s.mirror := rfl
@[simp] theorem latchCounters_noMirror (s : State) : (latchCounters s).noMirror = s.noMirror := rfl
@[simp] theorem latchCounters_mirrorAt (s : State) : (latchCounters s).mirrorAt = s.mirrorAt := rfl
@[simp] theorem latchCounters_tick (s : State) : (latchCounters s).tick = s.tick := rfl
@[simp] theorem latchCounters_ctxs (s : State) : (latchCounters s).ctxs = s.ctxs := rfl
@[simp] theorem latchCounters_dies (s : State) : (latchCounters s).dies = s.dies := rfl
@[simp] theorem latchCounters_flight (s : State) : (latchCounters s).flight = s.flight := rfl
@[simp] theorem latchCounters_retries (s : State) : (latchCounters s).retries = s.retries := rfl
@[simp] theorem latchCounters_adpRun (s : State) : (latchCounters s).adpRun = s.adpRun := rfl
@[simp] theorem latchCounters_sclRun (s : State) : (latchCounters s).sclRun = s.sclRun := rfl
@[simp] theorem latchCounters_pend (s : State) : (latchCounters s).pend = s.pend := rfl
@[simp] theorem latchCounters_orphans (s : State) : (latchCounters s).orphans = s.orphans := rfl
@[simp] theorem latchCounters_reeve (s : State) : (latchCounters s).reeve = s.reeve := rfl
@[simp] theorem latchCounters_polders (s : State) : (latchCounters s).polders = s.polders := rfl
@[simp] theorem latchCounters_dikes (s : State) : (latchCounters s).dikes = s.dikes := rfl
@[simp] theorem latchCounters_sluice (s : State) : (latchCounters s).sluice = s.sluice := rfl
@[simp] theorem latchCounters_weirs (s : State) : (latchCounters s).weirs = s.weirs := rfl
@[simp] theorem latchCounters_walks (s : State) : (latchCounters s).walks = s.walks := rfl
@[simp] theorem latchCounters_jobs (s : State) : (latchCounters s).jobs = s.jobs := rfl
@[simp] theorem latchCounters_colls (s : State) : (latchCounters s).colls = s.colls := rfl
@[simp] theorem latchCounters_bsus (s : State) : (latchCounters s).bsus = s.bsus := rfl
@[simp] theorem latchCounters_eccPend (s : State) : (latchCounters s).eccPend = s.eccPend := rfl
@[simp] theorem latchCounters_sys (s : State) : (latchCounters s).sys = s.sys := rfl
@[simp] theorem latchCounters_movers (s : State) : (latchCounters s).movers = s.movers := rfl
@[simp] theorem latchCounters_pool (s : State) : (latchCounters s).pool = s.pool := rfl
@[simp] theorem latchCounters_poolBad (s : State) : (latchCounters s).poolBad = s.poolBad := rfl
@[simp] theorem latchCounters_wins (s : State) : (latchCounters s).wins = s.wins := rfl
@[simp] theorem latchCounters_pubs (s : State) : (latchCounters s).pubs = s.pubs := rfl
@[simp] theorem latchCounters_models (s : State) : (latchCounters s).models = s.models := rfl
@[simp] theorem latchCounters_passes (s : State) : (latchCounters s).passes = s.passes := rfl
@[simp] theorem latchCounters_trains (s : State) : (latchCounters s).trains = s.trains := rfl
@[simp] theorem latchCounters_tables (s : State) : (latchCounters s).tables = s.tables := rfl
@[simp] theorem latchCounters_hots (s : State) : (latchCounters s).hots = s.hots := rfl
@[simp] theorem latchCounters_hotAsk (s : State) : (latchCounters s).hotAsk = s.hotAsk := rfl
@[simp] theorem latchCounters_ahead (s : State) : (latchCounters s).ahead = s.ahead := rfl
@[simp] theorem latchCounters_fss (s : State) : (latchCounters s).fss = s.fss := rfl
@[simp] theorem latchCounters_toeLost (s : State) : (latchCounters s).toeLost = s.toeLost := rfl
@[simp] theorem latchCounters_fab (s : State) : (latchCounters s).fab = s.fab := rfl
@[simp] theorem latchCounters_bml (s : State) : (latchCounters s).bml = s.bml := rfl
@[simp] theorem latchCounters_img (s : State) : (latchCounters s).img = s.img := rfl
@[simp] theorem latchCounters_pwr (s : State) : (latchCounters s).pwr = s.pwr := rfl
@[simp] theorem latchCounters_fresh (s : State) : (latchCounters s).fresh = s.fresh := rfl
@[simp] theorem latchCounters_out (s : State) : (latchCounters s).out = s.out := rfl
@[simp] theorem latchCounters_pending (s : State) : (latchCounters s).pending = s.pending := rfl

/-! ### modDie -/

@[simp] theorem modDie_now (s : State) (d : Nat) (f : DieCtx → DieCtx) : (modDie s d f).now = s.now := rfl
@[simp] theorem modDie_csr (s : State) (d : Nat) (f : DieCtx → DieCtx) : (modDie s d f).csr = s.csr := rfl
@[simp] theorem modDie_cnt (s : State) (d : Nat) (f : DieCtx → DieCtx) : (modDie s d f).cnt = s.cnt := rfl
@[simp] theorem modDie_mem (s : State) (d : Nat) (f : DieCtx → DieCtx) : (modDie s d f).mem = s.mem := rfl
@[simp] theorem modDie_chk (s : State) (d : Nat) (f : DieCtx → DieCtx) : (modDie s d f).chk = s.chk := rfl
@[simp] theorem modDie_dir (s : State) (d : Nat) (f : DieCtx → DieCtx) : (modDie s d f).dir = s.dir := rfl
@[simp] theorem modDie_mirror (s : State) (d : Nat) (f : DieCtx → DieCtx) : (modDie s d f).mirror = s.mirror := rfl
@[simp] theorem modDie_noMirror (s : State) (d : Nat) (f : DieCtx → DieCtx) : (modDie s d f).noMirror = s.noMirror := rfl
@[simp] theorem modDie_mirrorAt (s : State) (d : Nat) (f : DieCtx → DieCtx) : (modDie s d f).mirrorAt = s.mirrorAt := rfl
@[simp] theorem modDie_tick (s : State) (d : Nat) (f : DieCtx → DieCtx) : (modDie s d f).tick = s.tick := rfl
@[simp] theorem modDie_ctxs (s : State) (d : Nat) (f : DieCtx → DieCtx) : (modDie s d f).ctxs = s.ctxs := rfl
@[simp] theorem modDie_flight (s : State) (d : Nat) (f : DieCtx → DieCtx) : (modDie s d f).flight = s.flight := rfl
@[simp] theorem modDie_retries (s : State) (d : Nat) (f : DieCtx → DieCtx) : (modDie s d f).retries = s.retries := rfl
@[simp] theorem modDie_adpRun (s : State) (d : Nat) (f : DieCtx → DieCtx) : (modDie s d f).adpRun = s.adpRun := rfl
@[simp] theorem modDie_adpShown (s : State) (d : Nat) (f : DieCtx → DieCtx) : (modDie s d f).adpShown = s.adpShown := rfl
@[simp] theorem modDie_sclRun (s : State) (d : Nat) (f : DieCtx → DieCtx) : (modDie s d f).sclRun = s.sclRun := rfl
@[simp] theorem modDie_sclShown (s : State) (d : Nat) (f : DieCtx → DieCtx) : (modDie s d f).sclShown = s.sclShown := rfl
@[simp] theorem modDie_pend (s : State) (d : Nat) (f : DieCtx → DieCtx) : (modDie s d f).pend = s.pend := rfl
@[simp] theorem modDie_orphans (s : State) (d : Nat) (f : DieCtx → DieCtx) : (modDie s d f).orphans = s.orphans := rfl
@[simp] theorem modDie_reeve (s : State) (d : Nat) (f : DieCtx → DieCtx) : (modDie s d f).reeve = s.reeve := rfl
@[simp] theorem modDie_polders (s : State) (d : Nat) (f : DieCtx → DieCtx) : (modDie s d f).polders = s.polders := rfl
@[simp] theorem modDie_dikes (s : State) (d : Nat) (f : DieCtx → DieCtx) : (modDie s d f).dikes = s.dikes := rfl
@[simp] theorem modDie_sluice (s : State) (d : Nat) (f : DieCtx → DieCtx) : (modDie s d f).sluice = s.sluice := rfl
@[simp] theorem modDie_weirs (s : State) (d : Nat) (f : DieCtx → DieCtx) : (modDie s d f).weirs = s.weirs := rfl
@[simp] theorem modDie_walks (s : State) (d : Nat) (f : DieCtx → DieCtx) : (modDie s d f).walks = s.walks := rfl
@[simp] theorem modDie_jobs (s : State) (d : Nat) (f : DieCtx → DieCtx) : (modDie s d f).jobs = s.jobs := rfl
@[simp] theorem modDie_colls (s : State) (d : Nat) (f : DieCtx → DieCtx) : (modDie s d f).colls = s.colls := rfl
@[simp] theorem modDie_bsus (s : State) (d : Nat) (f : DieCtx → DieCtx) : (modDie s d f).bsus = s.bsus := rfl
@[simp] theorem modDie_eccPend (s : State) (d : Nat) (f : DieCtx → DieCtx) : (modDie s d f).eccPend = s.eccPend := rfl
@[simp] theorem modDie_sys (s : State) (d : Nat) (f : DieCtx → DieCtx) : (modDie s d f).sys = s.sys := rfl
@[simp] theorem modDie_movers (s : State) (d : Nat) (f : DieCtx → DieCtx) : (modDie s d f).movers = s.movers := rfl
@[simp] theorem modDie_pool (s : State) (d : Nat) (f : DieCtx → DieCtx) : (modDie s d f).pool = s.pool := rfl
@[simp] theorem modDie_poolBad (s : State) (d : Nat) (f : DieCtx → DieCtx) : (modDie s d f).poolBad = s.poolBad := rfl
@[simp] theorem modDie_wins (s : State) (d : Nat) (f : DieCtx → DieCtx) : (modDie s d f).wins = s.wins := rfl
@[simp] theorem modDie_pubs (s : State) (d : Nat) (f : DieCtx → DieCtx) : (modDie s d f).pubs = s.pubs := rfl
@[simp] theorem modDie_models (s : State) (d : Nat) (f : DieCtx → DieCtx) : (modDie s d f).models = s.models := rfl
@[simp] theorem modDie_passes (s : State) (d : Nat) (f : DieCtx → DieCtx) : (modDie s d f).passes = s.passes := rfl
@[simp] theorem modDie_trains (s : State) (d : Nat) (f : DieCtx → DieCtx) : (modDie s d f).trains = s.trains := rfl
@[simp] theorem modDie_tables (s : State) (d : Nat) (f : DieCtx → DieCtx) : (modDie s d f).tables = s.tables := rfl
@[simp] theorem modDie_hots (s : State) (d : Nat) (f : DieCtx → DieCtx) : (modDie s d f).hots = s.hots := rfl
@[simp] theorem modDie_hotAsk (s : State) (d : Nat) (f : DieCtx → DieCtx) : (modDie s d f).hotAsk = s.hotAsk := rfl
@[simp] theorem modDie_ahead (s : State) (d : Nat) (f : DieCtx → DieCtx) : (modDie s d f).ahead = s.ahead := rfl
@[simp] theorem modDie_fss (s : State) (d : Nat) (f : DieCtx → DieCtx) : (modDie s d f).fss = s.fss := rfl
@[simp] theorem modDie_toeLost (s : State) (d : Nat) (f : DieCtx → DieCtx) : (modDie s d f).toeLost = s.toeLost := rfl
@[simp] theorem modDie_fab (s : State) (d : Nat) (f : DieCtx → DieCtx) : (modDie s d f).fab = s.fab := rfl
@[simp] theorem modDie_bml (s : State) (d : Nat) (f : DieCtx → DieCtx) : (modDie s d f).bml = s.bml := rfl
@[simp] theorem modDie_img (s : State) (d : Nat) (f : DieCtx → DieCtx) : (modDie s d f).img = s.img := rfl
@[simp] theorem modDie_pwr (s : State) (d : Nat) (f : DieCtx → DieCtx) : (modDie s d f).pwr = s.pwr := rfl
@[simp] theorem modDie_fresh (s : State) (d : Nat) (f : DieCtx → DieCtx) : (modDie s d f).fresh = s.fresh := rfl
@[simp] theorem modDie_out (s : State) (d : Nat) (f : DieCtx → DieCtx) : (modDie s d f).out = s.out := rfl
@[simp] theorem modDie_pending (s : State) (d : Nat) (f : DieCtx → DieCtx) : (modDie s d f).pending = s.pending := rfl

/-! ### modDies -/

@[simp] theorem modDies_now (s : State) (f : DieCtx → DieCtx) : (modDies s f).now = s.now := rfl
@[simp] theorem modDies_csr (s : State) (f : DieCtx → DieCtx) : (modDies s f).csr = s.csr := rfl
@[simp] theorem modDies_cnt (s : State) (f : DieCtx → DieCtx) : (modDies s f).cnt = s.cnt := rfl
@[simp] theorem modDies_mem (s : State) (f : DieCtx → DieCtx) : (modDies s f).mem = s.mem := rfl
@[simp] theorem modDies_chk (s : State) (f : DieCtx → DieCtx) : (modDies s f).chk = s.chk := rfl
@[simp] theorem modDies_dir (s : State) (f : DieCtx → DieCtx) : (modDies s f).dir = s.dir := rfl
@[simp] theorem modDies_mirror (s : State) (f : DieCtx → DieCtx) : (modDies s f).mirror = s.mirror := rfl
@[simp] theorem modDies_noMirror (s : State) (f : DieCtx → DieCtx) : (modDies s f).noMirror = s.noMirror := rfl
@[simp] theorem modDies_mirrorAt (s : State) (f : DieCtx → DieCtx) : (modDies s f).mirrorAt = s.mirrorAt := rfl
@[simp] theorem modDies_tick (s : State) (f : DieCtx → DieCtx) : (modDies s f).tick = s.tick := rfl
@[simp] theorem modDies_ctxs (s : State) (f : DieCtx → DieCtx) : (modDies s f).ctxs = s.ctxs := rfl
@[simp] theorem modDies_flight (s : State) (f : DieCtx → DieCtx) : (modDies s f).flight = s.flight := rfl
@[simp] theorem modDies_retries (s : State) (f : DieCtx → DieCtx) : (modDies s f).retries = s.retries := rfl
@[simp] theorem modDies_adpRun (s : State) (f : DieCtx → DieCtx) : (modDies s f).adpRun = s.adpRun := rfl
@[simp] theorem modDies_adpShown (s : State) (f : DieCtx → DieCtx) : (modDies s f).adpShown = s.adpShown := rfl
@[simp] theorem modDies_sclRun (s : State) (f : DieCtx → DieCtx) : (modDies s f).sclRun = s.sclRun := rfl
@[simp] theorem modDies_sclShown (s : State) (f : DieCtx → DieCtx) : (modDies s f).sclShown = s.sclShown := rfl
@[simp] theorem modDies_pend (s : State) (f : DieCtx → DieCtx) : (modDies s f).pend = s.pend := rfl
@[simp] theorem modDies_orphans (s : State) (f : DieCtx → DieCtx) : (modDies s f).orphans = s.orphans := rfl
@[simp] theorem modDies_reeve (s : State) (f : DieCtx → DieCtx) : (modDies s f).reeve = s.reeve := rfl
@[simp] theorem modDies_polders (s : State) (f : DieCtx → DieCtx) : (modDies s f).polders = s.polders := rfl
@[simp] theorem modDies_dikes (s : State) (f : DieCtx → DieCtx) : (modDies s f).dikes = s.dikes := rfl
@[simp] theorem modDies_sluice (s : State) (f : DieCtx → DieCtx) : (modDies s f).sluice = s.sluice := rfl
@[simp] theorem modDies_weirs (s : State) (f : DieCtx → DieCtx) : (modDies s f).weirs = s.weirs := rfl
@[simp] theorem modDies_walks (s : State) (f : DieCtx → DieCtx) : (modDies s f).walks = s.walks := rfl
@[simp] theorem modDies_jobs (s : State) (f : DieCtx → DieCtx) : (modDies s f).jobs = s.jobs := rfl
@[simp] theorem modDies_colls (s : State) (f : DieCtx → DieCtx) : (modDies s f).colls = s.colls := rfl
@[simp] theorem modDies_bsus (s : State) (f : DieCtx → DieCtx) : (modDies s f).bsus = s.bsus := rfl
@[simp] theorem modDies_eccPend (s : State) (f : DieCtx → DieCtx) : (modDies s f).eccPend = s.eccPend := rfl
@[simp] theorem modDies_sys (s : State) (f : DieCtx → DieCtx) : (modDies s f).sys = s.sys := rfl
@[simp] theorem modDies_movers (s : State) (f : DieCtx → DieCtx) : (modDies s f).movers = s.movers := rfl
@[simp] theorem modDies_pool (s : State) (f : DieCtx → DieCtx) : (modDies s f).pool = s.pool := rfl
@[simp] theorem modDies_poolBad (s : State) (f : DieCtx → DieCtx) : (modDies s f).poolBad = s.poolBad := rfl
@[simp] theorem modDies_wins (s : State) (f : DieCtx → DieCtx) : (modDies s f).wins = s.wins := rfl
@[simp] theorem modDies_pubs (s : State) (f : DieCtx → DieCtx) : (modDies s f).pubs = s.pubs := rfl
@[simp] theorem modDies_models (s : State) (f : DieCtx → DieCtx) : (modDies s f).models = s.models := rfl
@[simp] theorem modDies_passes (s : State) (f : DieCtx → DieCtx) : (modDies s f).passes = s.passes := rfl
@[simp] theorem modDies_trains (s : State) (f : DieCtx → DieCtx) : (modDies s f).trains = s.trains := rfl
@[simp] theorem modDies_tables (s : State) (f : DieCtx → DieCtx) : (modDies s f).tables = s.tables := rfl
@[simp] theorem modDies_hots (s : State) (f : DieCtx → DieCtx) : (modDies s f).hots = s.hots := rfl
@[simp] theorem modDies_hotAsk (s : State) (f : DieCtx → DieCtx) : (modDies s f).hotAsk = s.hotAsk := rfl
@[simp] theorem modDies_ahead (s : State) (f : DieCtx → DieCtx) : (modDies s f).ahead = s.ahead := rfl
@[simp] theorem modDies_fss (s : State) (f : DieCtx → DieCtx) : (modDies s f).fss = s.fss := rfl
@[simp] theorem modDies_toeLost (s : State) (f : DieCtx → DieCtx) : (modDies s f).toeLost = s.toeLost := rfl
@[simp] theorem modDies_fab (s : State) (f : DieCtx → DieCtx) : (modDies s f).fab = s.fab := rfl
@[simp] theorem modDies_bml (s : State) (f : DieCtx → DieCtx) : (modDies s f).bml = s.bml := rfl
@[simp] theorem modDies_img (s : State) (f : DieCtx → DieCtx) : (modDies s f).img = s.img := rfl
@[simp] theorem modDies_pwr (s : State) (f : DieCtx → DieCtx) : (modDies s f).pwr = s.pwr := rfl
@[simp] theorem modDies_fresh (s : State) (f : DieCtx → DieCtx) : (modDies s f).fresh = s.fresh := rfl
@[simp] theorem modDies_out (s : State) (f : DieCtx → DieCtx) : (modDies s f).out = s.out := rfl
@[simp] theorem modDies_pending (s : State) (f : DieCtx → DieCtx) : (modDies s f).pending = s.pending := rfl

/-! ### setPolder -/

@[simp] theorem setPolder_now (s : State) (p : Nat) (v : Polder) : (setPolder s p v).now = s.now := rfl
@[simp] theorem setPolder_csr (s : State) (p : Nat) (v : Polder) : (setPolder s p v).csr = s.csr := rfl
@[simp] theorem setPolder_cnt (s : State) (p : Nat) (v : Polder) : (setPolder s p v).cnt = s.cnt := rfl
@[simp] theorem setPolder_mem (s : State) (p : Nat) (v : Polder) : (setPolder s p v).mem = s.mem := rfl
@[simp] theorem setPolder_chk (s : State) (p : Nat) (v : Polder) : (setPolder s p v).chk = s.chk := rfl
@[simp] theorem setPolder_dir (s : State) (p : Nat) (v : Polder) : (setPolder s p v).dir = s.dir := rfl
@[simp] theorem setPolder_mirror (s : State) (p : Nat) (v : Polder) : (setPolder s p v).mirror = s.mirror := rfl
@[simp] theorem setPolder_noMirror (s : State) (p : Nat) (v : Polder) : (setPolder s p v).noMirror = s.noMirror := rfl
@[simp] theorem setPolder_mirrorAt (s : State) (p : Nat) (v : Polder) : (setPolder s p v).mirrorAt = s.mirrorAt := rfl
@[simp] theorem setPolder_tick (s : State) (p : Nat) (v : Polder) : (setPolder s p v).tick = s.tick := rfl
@[simp] theorem setPolder_ctxs (s : State) (p : Nat) (v : Polder) : (setPolder s p v).ctxs = s.ctxs := rfl
@[simp] theorem setPolder_dies (s : State) (p : Nat) (v : Polder) : (setPolder s p v).dies = s.dies := rfl
@[simp] theorem setPolder_flight (s : State) (p : Nat) (v : Polder) : (setPolder s p v).flight = s.flight := rfl
@[simp] theorem setPolder_retries (s : State) (p : Nat) (v : Polder) : (setPolder s p v).retries = s.retries := rfl
@[simp] theorem setPolder_adpRun (s : State) (p : Nat) (v : Polder) : (setPolder s p v).adpRun = s.adpRun := rfl
@[simp] theorem setPolder_adpShown (s : State) (p : Nat) (v : Polder) : (setPolder s p v).adpShown = s.adpShown := rfl
@[simp] theorem setPolder_sclRun (s : State) (p : Nat) (v : Polder) : (setPolder s p v).sclRun = s.sclRun := rfl
@[simp] theorem setPolder_sclShown (s : State) (p : Nat) (v : Polder) : (setPolder s p v).sclShown = s.sclShown := rfl
@[simp] theorem setPolder_pend (s : State) (p : Nat) (v : Polder) : (setPolder s p v).pend = s.pend := rfl
@[simp] theorem setPolder_orphans (s : State) (p : Nat) (v : Polder) : (setPolder s p v).orphans = s.orphans := rfl
@[simp] theorem setPolder_reeve (s : State) (p : Nat) (v : Polder) : (setPolder s p v).reeve = s.reeve := rfl
@[simp] theorem setPolder_dikes (s : State) (p : Nat) (v : Polder) : (setPolder s p v).dikes = s.dikes := rfl
@[simp] theorem setPolder_sluice (s : State) (p : Nat) (v : Polder) : (setPolder s p v).sluice = s.sluice := rfl
@[simp] theorem setPolder_weirs (s : State) (p : Nat) (v : Polder) : (setPolder s p v).weirs = s.weirs := rfl
@[simp] theorem setPolder_walks (s : State) (p : Nat) (v : Polder) : (setPolder s p v).walks = s.walks := rfl
@[simp] theorem setPolder_jobs (s : State) (p : Nat) (v : Polder) : (setPolder s p v).jobs = s.jobs := rfl
@[simp] theorem setPolder_colls (s : State) (p : Nat) (v : Polder) : (setPolder s p v).colls = s.colls := rfl
@[simp] theorem setPolder_bsus (s : State) (p : Nat) (v : Polder) : (setPolder s p v).bsus = s.bsus := rfl
@[simp] theorem setPolder_eccPend (s : State) (p : Nat) (v : Polder) : (setPolder s p v).eccPend = s.eccPend := rfl
@[simp] theorem setPolder_sys (s : State) (p : Nat) (v : Polder) : (setPolder s p v).sys = s.sys := rfl
@[simp] theorem setPolder_movers (s : State) (p : Nat) (v : Polder) : (setPolder s p v).movers = s.movers := rfl
@[simp] theorem setPolder_pool (s : State) (p : Nat) (v : Polder) : (setPolder s p v).pool = s.pool := rfl
@[simp] theorem setPolder_poolBad (s : State) (p : Nat) (v : Polder) : (setPolder s p v).poolBad = s.poolBad := rfl
@[simp] theorem setPolder_wins (s : State) (p : Nat) (v : Polder) : (setPolder s p v).wins = s.wins := rfl
@[simp] theorem setPolder_pubs (s : State) (p : Nat) (v : Polder) : (setPolder s p v).pubs = s.pubs := rfl
@[simp] theorem setPolder_models (s : State) (p : Nat) (v : Polder) : (setPolder s p v).models = s.models := rfl
@[simp] theorem setPolder_passes (s : State) (p : Nat) (v : Polder) : (setPolder s p v).passes = s.passes := rfl
@[simp] theorem setPolder_trains (s : State) (p : Nat) (v : Polder) : (setPolder s p v).trains = s.trains := rfl
@[simp] theorem setPolder_tables (s : State) (p : Nat) (v : Polder) : (setPolder s p v).tables = s.tables := rfl
@[simp] theorem setPolder_hots (s : State) (p : Nat) (v : Polder) : (setPolder s p v).hots = s.hots := rfl
@[simp] theorem setPolder_hotAsk (s : State) (p : Nat) (v : Polder) : (setPolder s p v).hotAsk = s.hotAsk := rfl
@[simp] theorem setPolder_ahead (s : State) (p : Nat) (v : Polder) : (setPolder s p v).ahead = s.ahead := rfl
@[simp] theorem setPolder_fss (s : State) (p : Nat) (v : Polder) : (setPolder s p v).fss = s.fss := rfl
@[simp] theorem setPolder_toeLost (s : State) (p : Nat) (v : Polder) : (setPolder s p v).toeLost = s.toeLost := rfl
@[simp] theorem setPolder_fab (s : State) (p : Nat) (v : Polder) : (setPolder s p v).fab = s.fab := rfl
@[simp] theorem setPolder_bml (s : State) (p : Nat) (v : Polder) : (setPolder s p v).bml = s.bml := rfl
@[simp] theorem setPolder_img (s : State) (p : Nat) (v : Polder) : (setPolder s p v).img = s.img := rfl
@[simp] theorem setPolder_pwr (s : State) (p : Nat) (v : Polder) : (setPolder s p v).pwr = s.pwr := rfl
@[simp] theorem setPolder_fresh (s : State) (p : Nat) (v : Polder) : (setPolder s p v).fresh = s.fresh := rfl
@[simp] theorem setPolder_out (s : State) (p : Nat) (v : Polder) : (setPolder s p v).out = s.out := rfl
@[simp] theorem setPolder_pending (s : State) (p : Nat) (v : Polder) : (setPolder s p v).pending = s.pending := rfl

/-! ### setCtx -/

@[simp] theorem setCtx_now (s : State) (c : Nat) (k : Ctx) : (setCtx s c k).now = s.now := rfl
@[simp] theorem setCtx_csr (s : State) (c : Nat) (k : Ctx) : (setCtx s c k).csr = s.csr := rfl
@[simp] theorem setCtx_cnt (s : State) (c : Nat) (k : Ctx) : (setCtx s c k).cnt = s.cnt := rfl
@[simp] theorem setCtx_mem (s : State) (c : Nat) (k : Ctx) : (setCtx s c k).mem = s.mem := rfl
@[simp] theorem setCtx_chk (s : State) (c : Nat) (k : Ctx) : (setCtx s c k).chk = s.chk := rfl
@[simp] theorem setCtx_dir (s : State) (c : Nat) (k : Ctx) : (setCtx s c k).dir = s.dir := rfl
@[simp] theorem setCtx_mirror (s : State) (c : Nat) (k : Ctx) : (setCtx s c k).mirror = s.mirror := rfl
@[simp] theorem setCtx_noMirror (s : State) (c : Nat) (k : Ctx) : (setCtx s c k).noMirror = s.noMirror := rfl
@[simp] theorem setCtx_mirrorAt (s : State) (c : Nat) (k : Ctx) : (setCtx s c k).mirrorAt = s.mirrorAt := rfl
@[simp] theorem setCtx_tick (s : State) (c : Nat) (k : Ctx) : (setCtx s c k).tick = s.tick := rfl
@[simp] theorem setCtx_dies (s : State) (c : Nat) (k : Ctx) : (setCtx s c k).dies = s.dies := rfl
@[simp] theorem setCtx_flight (s : State) (c : Nat) (k : Ctx) : (setCtx s c k).flight = s.flight := rfl
@[simp] theorem setCtx_retries (s : State) (c : Nat) (k : Ctx) : (setCtx s c k).retries = s.retries := rfl
@[simp] theorem setCtx_adpRun (s : State) (c : Nat) (k : Ctx) : (setCtx s c k).adpRun = s.adpRun := rfl
@[simp] theorem setCtx_adpShown (s : State) (c : Nat) (k : Ctx) : (setCtx s c k).adpShown = s.adpShown := rfl
@[simp] theorem setCtx_sclRun (s : State) (c : Nat) (k : Ctx) : (setCtx s c k).sclRun = s.sclRun := rfl
@[simp] theorem setCtx_sclShown (s : State) (c : Nat) (k : Ctx) : (setCtx s c k).sclShown = s.sclShown := rfl
@[simp] theorem setCtx_pend (s : State) (c : Nat) (k : Ctx) : (setCtx s c k).pend = s.pend := rfl
@[simp] theorem setCtx_orphans (s : State) (c : Nat) (k : Ctx) : (setCtx s c k).orphans = s.orphans := rfl
@[simp] theorem setCtx_reeve (s : State) (c : Nat) (k : Ctx) : (setCtx s c k).reeve = s.reeve := rfl
@[simp] theorem setCtx_polders (s : State) (c : Nat) (k : Ctx) : (setCtx s c k).polders = s.polders := rfl
@[simp] theorem setCtx_dikes (s : State) (c : Nat) (k : Ctx) : (setCtx s c k).dikes = s.dikes := rfl
@[simp] theorem setCtx_sluice (s : State) (c : Nat) (k : Ctx) : (setCtx s c k).sluice = s.sluice := rfl
@[simp] theorem setCtx_weirs (s : State) (c : Nat) (k : Ctx) : (setCtx s c k).weirs = s.weirs := rfl
@[simp] theorem setCtx_walks (s : State) (c : Nat) (k : Ctx) : (setCtx s c k).walks = s.walks := rfl
@[simp] theorem setCtx_jobs (s : State) (c : Nat) (k : Ctx) : (setCtx s c k).jobs = s.jobs := rfl
@[simp] theorem setCtx_colls (s : State) (c : Nat) (k : Ctx) : (setCtx s c k).colls = s.colls := rfl
@[simp] theorem setCtx_bsus (s : State) (c : Nat) (k : Ctx) : (setCtx s c k).bsus = s.bsus := rfl
@[simp] theorem setCtx_eccPend (s : State) (c : Nat) (k : Ctx) : (setCtx s c k).eccPend = s.eccPend := rfl
@[simp] theorem setCtx_sys (s : State) (c : Nat) (k : Ctx) : (setCtx s c k).sys = s.sys := rfl
@[simp] theorem setCtx_movers (s : State) (c : Nat) (k : Ctx) : (setCtx s c k).movers = s.movers := rfl
@[simp] theorem setCtx_pool (s : State) (c : Nat) (k : Ctx) : (setCtx s c k).pool = s.pool := rfl
@[simp] theorem setCtx_poolBad (s : State) (c : Nat) (k : Ctx) : (setCtx s c k).poolBad = s.poolBad := rfl
@[simp] theorem setCtx_wins (s : State) (c : Nat) (k : Ctx) : (setCtx s c k).wins = s.wins := rfl
@[simp] theorem setCtx_pubs (s : State) (c : Nat) (k : Ctx) : (setCtx s c k).pubs = s.pubs := rfl
@[simp] theorem setCtx_models (s : State) (c : Nat) (k : Ctx) : (setCtx s c k).models = s.models := rfl
@[simp] theorem setCtx_passes (s : State) (c : Nat) (k : Ctx) : (setCtx s c k).passes = s.passes := rfl
@[simp] theorem setCtx_trains (s : State) (c : Nat) (k : Ctx) : (setCtx s c k).trains = s.trains := rfl
@[simp] theorem setCtx_tables (s : State) (c : Nat) (k : Ctx) : (setCtx s c k).tables = s.tables := rfl
@[simp] theorem setCtx_hots (s : State) (c : Nat) (k : Ctx) : (setCtx s c k).hots = s.hots := rfl
@[simp] theorem setCtx_hotAsk (s : State) (c : Nat) (k : Ctx) : (setCtx s c k).hotAsk = s.hotAsk := rfl
@[simp] theorem setCtx_ahead (s : State) (c : Nat) (k : Ctx) : (setCtx s c k).ahead = s.ahead := rfl
@[simp] theorem setCtx_fss (s : State) (c : Nat) (k : Ctx) : (setCtx s c k).fss = s.fss := rfl
@[simp] theorem setCtx_toeLost (s : State) (c : Nat) (k : Ctx) : (setCtx s c k).toeLost = s.toeLost := rfl
@[simp] theorem setCtx_fab (s : State) (c : Nat) (k : Ctx) : (setCtx s c k).fab = s.fab := rfl
@[simp] theorem setCtx_bml (s : State) (c : Nat) (k : Ctx) : (setCtx s c k).bml = s.bml := rfl
@[simp] theorem setCtx_img (s : State) (c : Nat) (k : Ctx) : (setCtx s c k).img = s.img := rfl
@[simp] theorem setCtx_pwr (s : State) (c : Nat) (k : Ctx) : (setCtx s c k).pwr = s.pwr := rfl
@[simp] theorem setCtx_fresh (s : State) (c : Nat) (k : Ctx) : (setCtx s c k).fresh = s.fresh := rfl
@[simp] theorem setCtx_out (s : State) (c : Nat) (k : Ctx) : (setCtx s c k).out = s.out := rfl
@[simp] theorem setCtx_pending (s : State) (c : Nat) (k : Ctx) : (setCtx s c k).pending = s.pending := rfl

/-! ### modCtx -/

@[simp] theorem modCtx_now (s : State) (c : Nat) (f : Ctx → Ctx) : (modCtx s c f).now = s.now := rfl
@[simp] theorem modCtx_csr (s : State) (c : Nat) (f : Ctx → Ctx) : (modCtx s c f).csr = s.csr := rfl
@[simp] theorem modCtx_cnt (s : State) (c : Nat) (f : Ctx → Ctx) : (modCtx s c f).cnt = s.cnt := rfl
@[simp] theorem modCtx_mem (s : State) (c : Nat) (f : Ctx → Ctx) : (modCtx s c f).mem = s.mem := rfl
@[simp] theorem modCtx_chk (s : State) (c : Nat) (f : Ctx → Ctx) : (modCtx s c f).chk = s.chk := rfl
@[simp] theorem modCtx_dir (s : State) (c : Nat) (f : Ctx → Ctx) : (modCtx s c f).dir = s.dir := rfl
@[simp] theorem modCtx_mirror (s : State) (c : Nat) (f : Ctx → Ctx) : (modCtx s c f).mirror = s.mirror := rfl
@[simp] theorem modCtx_noMirror (s : State) (c : Nat) (f : Ctx → Ctx) : (modCtx s c f).noMirror = s.noMirror := rfl
@[simp] theorem modCtx_mirrorAt (s : State) (c : Nat) (f : Ctx → Ctx) : (modCtx s c f).mirrorAt = s.mirrorAt := rfl
@[simp] theorem modCtx_tick (s : State) (c : Nat) (f : Ctx → Ctx) : (modCtx s c f).tick = s.tick := rfl
@[simp] theorem modCtx_dies (s : State) (c : Nat) (f : Ctx → Ctx) : (modCtx s c f).dies = s.dies := rfl
@[simp] theorem modCtx_flight (s : State) (c : Nat) (f : Ctx → Ctx) : (modCtx s c f).flight = s.flight := rfl
@[simp] theorem modCtx_retries (s : State) (c : Nat) (f : Ctx → Ctx) : (modCtx s c f).retries = s.retries := rfl
@[simp] theorem modCtx_adpRun (s : State) (c : Nat) (f : Ctx → Ctx) : (modCtx s c f).adpRun = s.adpRun := rfl
@[simp] theorem modCtx_adpShown (s : State) (c : Nat) (f : Ctx → Ctx) : (modCtx s c f).adpShown = s.adpShown := rfl
@[simp] theorem modCtx_sclRun (s : State) (c : Nat) (f : Ctx → Ctx) : (modCtx s c f).sclRun = s.sclRun := rfl
@[simp] theorem modCtx_sclShown (s : State) (c : Nat) (f : Ctx → Ctx) : (modCtx s c f).sclShown = s.sclShown := rfl
@[simp] theorem modCtx_pend (s : State) (c : Nat) (f : Ctx → Ctx) : (modCtx s c f).pend = s.pend := rfl
@[simp] theorem modCtx_orphans (s : State) (c : Nat) (f : Ctx → Ctx) : (modCtx s c f).orphans = s.orphans := rfl
@[simp] theorem modCtx_reeve (s : State) (c : Nat) (f : Ctx → Ctx) : (modCtx s c f).reeve = s.reeve := rfl
@[simp] theorem modCtx_polders (s : State) (c : Nat) (f : Ctx → Ctx) : (modCtx s c f).polders = s.polders := rfl
@[simp] theorem modCtx_dikes (s : State) (c : Nat) (f : Ctx → Ctx) : (modCtx s c f).dikes = s.dikes := rfl
@[simp] theorem modCtx_sluice (s : State) (c : Nat) (f : Ctx → Ctx) : (modCtx s c f).sluice = s.sluice := rfl
@[simp] theorem modCtx_weirs (s : State) (c : Nat) (f : Ctx → Ctx) : (modCtx s c f).weirs = s.weirs := rfl
@[simp] theorem modCtx_walks (s : State) (c : Nat) (f : Ctx → Ctx) : (modCtx s c f).walks = s.walks := rfl
@[simp] theorem modCtx_jobs (s : State) (c : Nat) (f : Ctx → Ctx) : (modCtx s c f).jobs = s.jobs := rfl
@[simp] theorem modCtx_colls (s : State) (c : Nat) (f : Ctx → Ctx) : (modCtx s c f).colls = s.colls := rfl
@[simp] theorem modCtx_bsus (s : State) (c : Nat) (f : Ctx → Ctx) : (modCtx s c f).bsus = s.bsus := rfl
@[simp] theorem modCtx_eccPend (s : State) (c : Nat) (f : Ctx → Ctx) : (modCtx s c f).eccPend = s.eccPend := rfl
@[simp] theorem modCtx_sys (s : State) (c : Nat) (f : Ctx → Ctx) : (modCtx s c f).sys = s.sys := rfl
@[simp] theorem modCtx_movers (s : State) (c : Nat) (f : Ctx → Ctx) : (modCtx s c f).movers = s.movers := rfl
@[simp] theorem modCtx_pool (s : State) (c : Nat) (f : Ctx → Ctx) : (modCtx s c f).pool = s.pool := rfl
@[simp] theorem modCtx_poolBad (s : State) (c : Nat) (f : Ctx → Ctx) : (modCtx s c f).poolBad = s.poolBad := rfl
@[simp] theorem modCtx_wins (s : State) (c : Nat) (f : Ctx → Ctx) : (modCtx s c f).wins = s.wins := rfl
@[simp] theorem modCtx_pubs (s : State) (c : Nat) (f : Ctx → Ctx) : (modCtx s c f).pubs = s.pubs := rfl
@[simp] theorem modCtx_models (s : State) (c : Nat) (f : Ctx → Ctx) : (modCtx s c f).models = s.models := rfl
@[simp] theorem modCtx_passes (s : State) (c : Nat) (f : Ctx → Ctx) : (modCtx s c f).passes = s.passes := rfl
@[simp] theorem modCtx_trains (s : State) (c : Nat) (f : Ctx → Ctx) : (modCtx s c f).trains = s.trains := rfl
@[simp] theorem modCtx_tables (s : State) (c : Nat) (f : Ctx → Ctx) : (modCtx s c f).tables = s.tables := rfl
@[simp] theorem modCtx_hots (s : State) (c : Nat) (f : Ctx → Ctx) : (modCtx s c f).hots = s.hots := rfl
@[simp] theorem modCtx_hotAsk (s : State) (c : Nat) (f : Ctx → Ctx) : (modCtx s c f).hotAsk = s.hotAsk := rfl
@[simp] theorem modCtx_ahead (s : State) (c : Nat) (f : Ctx → Ctx) : (modCtx s c f).ahead = s.ahead := rfl
@[simp] theorem modCtx_fss (s : State) (c : Nat) (f : Ctx → Ctx) : (modCtx s c f).fss = s.fss := rfl
@[simp] theorem modCtx_toeLost (s : State) (c : Nat) (f : Ctx → Ctx) : (modCtx s c f).toeLost = s.toeLost := rfl
@[simp] theorem modCtx_fab (s : State) (c : Nat) (f : Ctx → Ctx) : (modCtx s c f).fab = s.fab := rfl
@[simp] theorem modCtx_bml (s : State) (c : Nat) (f : Ctx → Ctx) : (modCtx s c f).bml = s.bml := rfl
@[simp] theorem modCtx_img (s : State) (c : Nat) (f : Ctx → Ctx) : (modCtx s c f).img = s.img := rfl
@[simp] theorem modCtx_pwr (s : State) (c : Nat) (f : Ctx → Ctx) : (modCtx s c f).pwr = s.pwr := rfl
@[simp] theorem modCtx_fresh (s : State) (c : Nat) (f : Ctx → Ctx) : (modCtx s c f).fresh = s.fresh := rfl
@[simp] theorem modCtx_out (s : State) (c : Nat) (f : Ctx → Ctx) : (modCtx s c f).out = s.out := rfl
@[simp] theorem modCtx_pending (s : State) (c : Nat) (f : Ctx → Ctx) : (modCtx s c f).pending = s.pending := rfl

/-! ### modWork -/

@[simp] theorem modWork_now (s : State) (c : Nat) (f : Work → Work) : (modWork s c f).now = s.now := rfl
@[simp] theorem modWork_csr (s : State) (c : Nat) (f : Work → Work) : (modWork s c f).csr = s.csr := rfl
@[simp] theorem modWork_cnt (s : State) (c : Nat) (f : Work → Work) : (modWork s c f).cnt = s.cnt := rfl
@[simp] theorem modWork_mem (s : State) (c : Nat) (f : Work → Work) : (modWork s c f).mem = s.mem := rfl
@[simp] theorem modWork_chk (s : State) (c : Nat) (f : Work → Work) : (modWork s c f).chk = s.chk := rfl
@[simp] theorem modWork_dir (s : State) (c : Nat) (f : Work → Work) : (modWork s c f).dir = s.dir := rfl
@[simp] theorem modWork_mirror (s : State) (c : Nat) (f : Work → Work) : (modWork s c f).mirror = s.mirror := rfl
@[simp] theorem modWork_noMirror (s : State) (c : Nat) (f : Work → Work) : (modWork s c f).noMirror = s.noMirror := rfl
@[simp] theorem modWork_mirrorAt (s : State) (c : Nat) (f : Work → Work) : (modWork s c f).mirrorAt = s.mirrorAt := rfl
@[simp] theorem modWork_tick (s : State) (c : Nat) (f : Work → Work) : (modWork s c f).tick = s.tick := rfl
@[simp] theorem modWork_dies (s : State) (c : Nat) (f : Work → Work) : (modWork s c f).dies = s.dies := rfl
@[simp] theorem modWork_flight (s : State) (c : Nat) (f : Work → Work) : (modWork s c f).flight = s.flight := rfl
@[simp] theorem modWork_retries (s : State) (c : Nat) (f : Work → Work) : (modWork s c f).retries = s.retries := rfl
@[simp] theorem modWork_adpRun (s : State) (c : Nat) (f : Work → Work) : (modWork s c f).adpRun = s.adpRun := rfl
@[simp] theorem modWork_adpShown (s : State) (c : Nat) (f : Work → Work) : (modWork s c f).adpShown = s.adpShown := rfl
@[simp] theorem modWork_sclRun (s : State) (c : Nat) (f : Work → Work) : (modWork s c f).sclRun = s.sclRun := rfl
@[simp] theorem modWork_sclShown (s : State) (c : Nat) (f : Work → Work) : (modWork s c f).sclShown = s.sclShown := rfl
@[simp] theorem modWork_pend (s : State) (c : Nat) (f : Work → Work) : (modWork s c f).pend = s.pend := rfl
@[simp] theorem modWork_orphans (s : State) (c : Nat) (f : Work → Work) : (modWork s c f).orphans = s.orphans := rfl
@[simp] theorem modWork_reeve (s : State) (c : Nat) (f : Work → Work) : (modWork s c f).reeve = s.reeve := rfl
@[simp] theorem modWork_polders (s : State) (c : Nat) (f : Work → Work) : (modWork s c f).polders = s.polders := rfl
@[simp] theorem modWork_dikes (s : State) (c : Nat) (f : Work → Work) : (modWork s c f).dikes = s.dikes := rfl
@[simp] theorem modWork_sluice (s : State) (c : Nat) (f : Work → Work) : (modWork s c f).sluice = s.sluice := rfl
@[simp] theorem modWork_weirs (s : State) (c : Nat) (f : Work → Work) : (modWork s c f).weirs = s.weirs := rfl
@[simp] theorem modWork_walks (s : State) (c : Nat) (f : Work → Work) : (modWork s c f).walks = s.walks := rfl
@[simp] theorem modWork_jobs (s : State) (c : Nat) (f : Work → Work) : (modWork s c f).jobs = s.jobs := rfl
@[simp] theorem modWork_colls (s : State) (c : Nat) (f : Work → Work) : (modWork s c f).colls = s.colls := rfl
@[simp] theorem modWork_bsus (s : State) (c : Nat) (f : Work → Work) : (modWork s c f).bsus = s.bsus := rfl
@[simp] theorem modWork_eccPend (s : State) (c : Nat) (f : Work → Work) : (modWork s c f).eccPend = s.eccPend := rfl
@[simp] theorem modWork_sys (s : State) (c : Nat) (f : Work → Work) : (modWork s c f).sys = s.sys := rfl
@[simp] theorem modWork_movers (s : State) (c : Nat) (f : Work → Work) : (modWork s c f).movers = s.movers := rfl
@[simp] theorem modWork_pool (s : State) (c : Nat) (f : Work → Work) : (modWork s c f).pool = s.pool := rfl
@[simp] theorem modWork_poolBad (s : State) (c : Nat) (f : Work → Work) : (modWork s c f).poolBad = s.poolBad := rfl
@[simp] theorem modWork_wins (s : State) (c : Nat) (f : Work → Work) : (modWork s c f).wins = s.wins := rfl
@[simp] theorem modWork_pubs (s : State) (c : Nat) (f : Work → Work) : (modWork s c f).pubs = s.pubs := rfl
@[simp] theorem modWork_models (s : State) (c : Nat) (f : Work → Work) : (modWork s c f).models = s.models := rfl
@[simp] theorem modWork_passes (s : State) (c : Nat) (f : Work → Work) : (modWork s c f).passes = s.passes := rfl
@[simp] theorem modWork_trains (s : State) (c : Nat) (f : Work → Work) : (modWork s c f).trains = s.trains := rfl
@[simp] theorem modWork_tables (s : State) (c : Nat) (f : Work → Work) : (modWork s c f).tables = s.tables := rfl
@[simp] theorem modWork_hots (s : State) (c : Nat) (f : Work → Work) : (modWork s c f).hots = s.hots := rfl
@[simp] theorem modWork_hotAsk (s : State) (c : Nat) (f : Work → Work) : (modWork s c f).hotAsk = s.hotAsk := rfl
@[simp] theorem modWork_ahead (s : State) (c : Nat) (f : Work → Work) : (modWork s c f).ahead = s.ahead := rfl
@[simp] theorem modWork_fss (s : State) (c : Nat) (f : Work → Work) : (modWork s c f).fss = s.fss := rfl
@[simp] theorem modWork_toeLost (s : State) (c : Nat) (f : Work → Work) : (modWork s c f).toeLost = s.toeLost := rfl
@[simp] theorem modWork_fab (s : State) (c : Nat) (f : Work → Work) : (modWork s c f).fab = s.fab := rfl
@[simp] theorem modWork_bml (s : State) (c : Nat) (f : Work → Work) : (modWork s c f).bml = s.bml := rfl
@[simp] theorem modWork_img (s : State) (c : Nat) (f : Work → Work) : (modWork s c f).img = s.img := rfl
@[simp] theorem modWork_pwr (s : State) (c : Nat) (f : Work → Work) : (modWork s c f).pwr = s.pwr := rfl
@[simp] theorem modWork_fresh (s : State) (c : Nat) (f : Work → Work) : (modWork s c f).fresh = s.fresh := rfl
@[simp] theorem modWork_out (s : State) (c : Nat) (f : Work → Work) : (modWork s c f).out = s.out := rfl
@[simp] theorem modWork_pending (s : State) (c : Nat) (f : Work → Work) : (modWork s c f).pending = s.pending := rfl

/-! ### setWeir -/

@[simp] theorem setWeir_now (s : State) (w : Nat) (v : Weir) : (setWeir s w v).now = s.now := rfl
@[simp] theorem setWeir_csr (s : State) (w : Nat) (v : Weir) : (setWeir s w v).csr = s.csr := rfl
@[simp] theorem setWeir_cnt (s : State) (w : Nat) (v : Weir) : (setWeir s w v).cnt = s.cnt := rfl
@[simp] theorem setWeir_mem (s : State) (w : Nat) (v : Weir) : (setWeir s w v).mem = s.mem := rfl
@[simp] theorem setWeir_chk (s : State) (w : Nat) (v : Weir) : (setWeir s w v).chk = s.chk := rfl
@[simp] theorem setWeir_dir (s : State) (w : Nat) (v : Weir) : (setWeir s w v).dir = s.dir := rfl
@[simp] theorem setWeir_mirror (s : State) (w : Nat) (v : Weir) : (setWeir s w v).mirror = s.mirror := rfl
@[simp] theorem setWeir_noMirror (s : State) (w : Nat) (v : Weir) : (setWeir s w v).noMirror = s.noMirror := rfl
@[simp] theorem setWeir_mirrorAt (s : State) (w : Nat) (v : Weir) : (setWeir s w v).mirrorAt = s.mirrorAt := rfl
@[simp] theorem setWeir_tick (s : State) (w : Nat) (v : Weir) : (setWeir s w v).tick = s.tick := rfl
@[simp] theorem setWeir_ctxs (s : State) (w : Nat) (v : Weir) : (setWeir s w v).ctxs = s.ctxs := rfl
@[simp] theorem setWeir_dies (s : State) (w : Nat) (v : Weir) : (setWeir s w v).dies = s.dies := rfl
@[simp] theorem setWeir_flight (s : State) (w : Nat) (v : Weir) : (setWeir s w v).flight = s.flight := rfl
@[simp] theorem setWeir_retries (s : State) (w : Nat) (v : Weir) : (setWeir s w v).retries = s.retries := rfl
@[simp] theorem setWeir_adpRun (s : State) (w : Nat) (v : Weir) : (setWeir s w v).adpRun = s.adpRun := rfl
@[simp] theorem setWeir_adpShown (s : State) (w : Nat) (v : Weir) : (setWeir s w v).adpShown = s.adpShown := rfl
@[simp] theorem setWeir_sclRun (s : State) (w : Nat) (v : Weir) : (setWeir s w v).sclRun = s.sclRun := rfl
@[simp] theorem setWeir_sclShown (s : State) (w : Nat) (v : Weir) : (setWeir s w v).sclShown = s.sclShown := rfl
@[simp] theorem setWeir_pend (s : State) (w : Nat) (v : Weir) : (setWeir s w v).pend = s.pend := rfl
@[simp] theorem setWeir_orphans (s : State) (w : Nat) (v : Weir) : (setWeir s w v).orphans = s.orphans := rfl
@[simp] theorem setWeir_reeve (s : State) (w : Nat) (v : Weir) : (setWeir s w v).reeve = s.reeve := rfl
@[simp] theorem setWeir_polders (s : State) (w : Nat) (v : Weir) : (setWeir s w v).polders = s.polders := rfl
@[simp] theorem setWeir_dikes (s : State) (w : Nat) (v : Weir) : (setWeir s w v).dikes = s.dikes := rfl
@[simp] theorem setWeir_sluice (s : State) (w : Nat) (v : Weir) : (setWeir s w v).sluice = s.sluice := rfl
@[simp] theorem setWeir_walks (s : State) (w : Nat) (v : Weir) : (setWeir s w v).walks = s.walks := rfl
@[simp] theorem setWeir_jobs (s : State) (w : Nat) (v : Weir) : (setWeir s w v).jobs = s.jobs := rfl
@[simp] theorem setWeir_colls (s : State) (w : Nat) (v : Weir) : (setWeir s w v).colls = s.colls := rfl
@[simp] theorem setWeir_bsus (s : State) (w : Nat) (v : Weir) : (setWeir s w v).bsus = s.bsus := rfl
@[simp] theorem setWeir_eccPend (s : State) (w : Nat) (v : Weir) : (setWeir s w v).eccPend = s.eccPend := rfl
@[simp] theorem setWeir_sys (s : State) (w : Nat) (v : Weir) : (setWeir s w v).sys = s.sys := rfl
@[simp] theorem setWeir_movers (s : State) (w : Nat) (v : Weir) : (setWeir s w v).movers = s.movers := rfl
@[simp] theorem setWeir_pool (s : State) (w : Nat) (v : Weir) : (setWeir s w v).pool = s.pool := rfl
@[simp] theorem setWeir_poolBad (s : State) (w : Nat) (v : Weir) : (setWeir s w v).poolBad = s.poolBad := rfl
@[simp] theorem setWeir_wins (s : State) (w : Nat) (v : Weir) : (setWeir s w v).wins = s.wins := rfl
@[simp] theorem setWeir_pubs (s : State) (w : Nat) (v : Weir) : (setWeir s w v).pubs = s.pubs := rfl
@[simp] theorem setWeir_models (s : State) (w : Nat) (v : Weir) : (setWeir s w v).models = s.models := rfl
@[simp] theorem setWeir_passes (s : State) (w : Nat) (v : Weir) : (setWeir s w v).passes = s.passes := rfl
@[simp] theorem setWeir_trains (s : State) (w : Nat) (v : Weir) : (setWeir s w v).trains = s.trains := rfl
@[simp] theorem setWeir_tables (s : State) (w : Nat) (v : Weir) : (setWeir s w v).tables = s.tables := rfl
@[simp] theorem setWeir_hots (s : State) (w : Nat) (v : Weir) : (setWeir s w v).hots = s.hots := rfl
@[simp] theorem setWeir_hotAsk (s : State) (w : Nat) (v : Weir) : (setWeir s w v).hotAsk = s.hotAsk := rfl
@[simp] theorem setWeir_ahead (s : State) (w : Nat) (v : Weir) : (setWeir s w v).ahead = s.ahead := rfl
@[simp] theorem setWeir_fss (s : State) (w : Nat) (v : Weir) : (setWeir s w v).fss = s.fss := rfl
@[simp] theorem setWeir_toeLost (s : State) (w : Nat) (v : Weir) : (setWeir s w v).toeLost = s.toeLost := rfl
@[simp] theorem setWeir_fab (s : State) (w : Nat) (v : Weir) : (setWeir s w v).fab = s.fab := rfl
@[simp] theorem setWeir_bml (s : State) (w : Nat) (v : Weir) : (setWeir s w v).bml = s.bml := rfl
@[simp] theorem setWeir_img (s : State) (w : Nat) (v : Weir) : (setWeir s w v).img = s.img := rfl
@[simp] theorem setWeir_pwr (s : State) (w : Nat) (v : Weir) : (setWeir s w v).pwr = s.pwr := rfl
@[simp] theorem setWeir_fresh (s : State) (w : Nat) (v : Weir) : (setWeir s w v).fresh = s.fresh := rfl
@[simp] theorem setWeir_out (s : State) (w : Nat) (v : Weir) : (setWeir s w v).out = s.out := rfl
@[simp] theorem setWeir_pending (s : State) (w : Nat) (v : Weir) : (setWeir s w v).pending = s.pending := rfl

/-! ### setDike -/

@[simp] theorem setDike_now (s : State) (p : Nat) (v : Dike) : (setDike s p v).now = s.now := rfl
@[simp] theorem setDike_csr (s : State) (p : Nat) (v : Dike) : (setDike s p v).csr = s.csr := rfl
@[simp] theorem setDike_cnt (s : State) (p : Nat) (v : Dike) : (setDike s p v).cnt = s.cnt := rfl
@[simp] theorem setDike_mem (s : State) (p : Nat) (v : Dike) : (setDike s p v).mem = s.mem := rfl
@[simp] theorem setDike_chk (s : State) (p : Nat) (v : Dike) : (setDike s p v).chk = s.chk := rfl
@[simp] theorem setDike_dir (s : State) (p : Nat) (v : Dike) : (setDike s p v).dir = s.dir := rfl
@[simp] theorem setDike_mirror (s : State) (p : Nat) (v : Dike) : (setDike s p v).mirror = s.mirror := rfl
@[simp] theorem setDike_noMirror (s : State) (p : Nat) (v : Dike) : (setDike s p v).noMirror = s.noMirror := rfl
@[simp] theorem setDike_mirrorAt (s : State) (p : Nat) (v : Dike) : (setDike s p v).mirrorAt = s.mirrorAt := rfl
@[simp] theorem setDike_tick (s : State) (p : Nat) (v : Dike) : (setDike s p v).tick = s.tick := rfl
@[simp] theorem setDike_ctxs (s : State) (p : Nat) (v : Dike) : (setDike s p v).ctxs = s.ctxs := rfl
@[simp] theorem setDike_dies (s : State) (p : Nat) (v : Dike) : (setDike s p v).dies = s.dies := rfl
@[simp] theorem setDike_flight (s : State) (p : Nat) (v : Dike) : (setDike s p v).flight = s.flight := rfl
@[simp] theorem setDike_retries (s : State) (p : Nat) (v : Dike) : (setDike s p v).retries = s.retries := rfl
@[simp] theorem setDike_adpRun (s : State) (p : Nat) (v : Dike) : (setDike s p v).adpRun = s.adpRun := rfl
@[simp] theorem setDike_adpShown (s : State) (p : Nat) (v : Dike) : (setDike s p v).adpShown = s.adpShown := rfl
@[simp] theorem setDike_sclRun (s : State) (p : Nat) (v : Dike) : (setDike s p v).sclRun = s.sclRun := rfl
@[simp] theorem setDike_sclShown (s : State) (p : Nat) (v : Dike) : (setDike s p v).sclShown = s.sclShown := rfl
@[simp] theorem setDike_pend (s : State) (p : Nat) (v : Dike) : (setDike s p v).pend = s.pend := rfl
@[simp] theorem setDike_orphans (s : State) (p : Nat) (v : Dike) : (setDike s p v).orphans = s.orphans := rfl
@[simp] theorem setDike_reeve (s : State) (p : Nat) (v : Dike) : (setDike s p v).reeve = s.reeve := rfl
@[simp] theorem setDike_polders (s : State) (p : Nat) (v : Dike) : (setDike s p v).polders = s.polders := rfl
@[simp] theorem setDike_sluice (s : State) (p : Nat) (v : Dike) : (setDike s p v).sluice = s.sluice := rfl
@[simp] theorem setDike_weirs (s : State) (p : Nat) (v : Dike) : (setDike s p v).weirs = s.weirs := rfl
@[simp] theorem setDike_walks (s : State) (p : Nat) (v : Dike) : (setDike s p v).walks = s.walks := rfl
@[simp] theorem setDike_jobs (s : State) (p : Nat) (v : Dike) : (setDike s p v).jobs = s.jobs := rfl
@[simp] theorem setDike_colls (s : State) (p : Nat) (v : Dike) : (setDike s p v).colls = s.colls := rfl
@[simp] theorem setDike_bsus (s : State) (p : Nat) (v : Dike) : (setDike s p v).bsus = s.bsus := rfl
@[simp] theorem setDike_eccPend (s : State) (p : Nat) (v : Dike) : (setDike s p v).eccPend = s.eccPend := rfl
@[simp] theorem setDike_sys (s : State) (p : Nat) (v : Dike) : (setDike s p v).sys = s.sys := rfl
@[simp] theorem setDike_movers (s : State) (p : Nat) (v : Dike) : (setDike s p v).movers = s.movers := rfl
@[simp] theorem setDike_pool (s : State) (p : Nat) (v : Dike) : (setDike s p v).pool = s.pool := rfl
@[simp] theorem setDike_poolBad (s : State) (p : Nat) (v : Dike) : (setDike s p v).poolBad = s.poolBad := rfl
@[simp] theorem setDike_wins (s : State) (p : Nat) (v : Dike) : (setDike s p v).wins = s.wins := rfl
@[simp] theorem setDike_pubs (s : State) (p : Nat) (v : Dike) : (setDike s p v).pubs = s.pubs := rfl
@[simp] theorem setDike_models (s : State) (p : Nat) (v : Dike) : (setDike s p v).models = s.models := rfl
@[simp] theorem setDike_passes (s : State) (p : Nat) (v : Dike) : (setDike s p v).passes = s.passes := rfl
@[simp] theorem setDike_trains (s : State) (p : Nat) (v : Dike) : (setDike s p v).trains = s.trains := rfl
@[simp] theorem setDike_tables (s : State) (p : Nat) (v : Dike) : (setDike s p v).tables = s.tables := rfl
@[simp] theorem setDike_hots (s : State) (p : Nat) (v : Dike) : (setDike s p v).hots = s.hots := rfl
@[simp] theorem setDike_hotAsk (s : State) (p : Nat) (v : Dike) : (setDike s p v).hotAsk = s.hotAsk := rfl
@[simp] theorem setDike_ahead (s : State) (p : Nat) (v : Dike) : (setDike s p v).ahead = s.ahead := rfl
@[simp] theorem setDike_fss (s : State) (p : Nat) (v : Dike) : (setDike s p v).fss = s.fss := rfl
@[simp] theorem setDike_toeLost (s : State) (p : Nat) (v : Dike) : (setDike s p v).toeLost = s.toeLost := rfl
@[simp] theorem setDike_fab (s : State) (p : Nat) (v : Dike) : (setDike s p v).fab = s.fab := rfl
@[simp] theorem setDike_bml (s : State) (p : Nat) (v : Dike) : (setDike s p v).bml = s.bml := rfl
@[simp] theorem setDike_img (s : State) (p : Nat) (v : Dike) : (setDike s p v).img = s.img := rfl
@[simp] theorem setDike_pwr (s : State) (p : Nat) (v : Dike) : (setDike s p v).pwr = s.pwr := rfl
@[simp] theorem setDike_fresh (s : State) (p : Nat) (v : Dike) : (setDike s p v).fresh = s.fresh := rfl
@[simp] theorem setDike_out (s : State) (p : Nat) (v : Dike) : (setDike s p v).out = s.out := rfl
@[simp] theorem setDike_pending (s : State) (p : Nat) (v : Dike) : (setDike s p v).pending = s.pending := rfl

/-! ### setDeficit -/

@[simp] theorem setDeficit_now (s : State) (p v : Nat) : (setDeficit s p v).now = s.now := rfl
@[simp] theorem setDeficit_csr (s : State) (p v : Nat) : (setDeficit s p v).csr = s.csr := rfl
@[simp] theorem setDeficit_cnt (s : State) (p v : Nat) : (setDeficit s p v).cnt = s.cnt := rfl
@[simp] theorem setDeficit_mem (s : State) (p v : Nat) : (setDeficit s p v).mem = s.mem := rfl
@[simp] theorem setDeficit_chk (s : State) (p v : Nat) : (setDeficit s p v).chk = s.chk := rfl
@[simp] theorem setDeficit_dir (s : State) (p v : Nat) : (setDeficit s p v).dir = s.dir := rfl
@[simp] theorem setDeficit_mirror (s : State) (p v : Nat) : (setDeficit s p v).mirror = s.mirror := rfl
@[simp] theorem setDeficit_noMirror (s : State) (p v : Nat) : (setDeficit s p v).noMirror = s.noMirror := rfl
@[simp] theorem setDeficit_mirrorAt (s : State) (p v : Nat) : (setDeficit s p v).mirrorAt = s.mirrorAt := rfl
@[simp] theorem setDeficit_tick (s : State) (p v : Nat) : (setDeficit s p v).tick = s.tick := rfl
@[simp] theorem setDeficit_ctxs (s : State) (p v : Nat) : (setDeficit s p v).ctxs = s.ctxs := rfl
@[simp] theorem setDeficit_dies (s : State) (p v : Nat) : (setDeficit s p v).dies = s.dies := rfl
@[simp] theorem setDeficit_flight (s : State) (p v : Nat) : (setDeficit s p v).flight = s.flight := rfl
@[simp] theorem setDeficit_retries (s : State) (p v : Nat) : (setDeficit s p v).retries = s.retries := rfl
@[simp] theorem setDeficit_adpRun (s : State) (p v : Nat) : (setDeficit s p v).adpRun = s.adpRun := rfl
@[simp] theorem setDeficit_adpShown (s : State) (p v : Nat) : (setDeficit s p v).adpShown = s.adpShown := rfl
@[simp] theorem setDeficit_sclRun (s : State) (p v : Nat) : (setDeficit s p v).sclRun = s.sclRun := rfl
@[simp] theorem setDeficit_sclShown (s : State) (p v : Nat) : (setDeficit s p v).sclShown = s.sclShown := rfl
@[simp] theorem setDeficit_pend (s : State) (p v : Nat) : (setDeficit s p v).pend = s.pend := rfl
@[simp] theorem setDeficit_orphans (s : State) (p v : Nat) : (setDeficit s p v).orphans = s.orphans := rfl
@[simp] theorem setDeficit_reeve (s : State) (p v : Nat) : (setDeficit s p v).reeve = s.reeve := rfl
@[simp] theorem setDeficit_polders (s : State) (p v : Nat) : (setDeficit s p v).polders = s.polders := rfl
@[simp] theorem setDeficit_dikes (s : State) (p v : Nat) : (setDeficit s p v).dikes = s.dikes := rfl
@[simp] theorem setDeficit_weirs (s : State) (p v : Nat) : (setDeficit s p v).weirs = s.weirs := rfl
@[simp] theorem setDeficit_walks (s : State) (p v : Nat) : (setDeficit s p v).walks = s.walks := rfl
@[simp] theorem setDeficit_jobs (s : State) (p v : Nat) : (setDeficit s p v).jobs = s.jobs := rfl
@[simp] theorem setDeficit_colls (s : State) (p v : Nat) : (setDeficit s p v).colls = s.colls := rfl
@[simp] theorem setDeficit_bsus (s : State) (p v : Nat) : (setDeficit s p v).bsus = s.bsus := rfl
@[simp] theorem setDeficit_eccPend (s : State) (p v : Nat) : (setDeficit s p v).eccPend = s.eccPend := rfl
@[simp] theorem setDeficit_sys (s : State) (p v : Nat) : (setDeficit s p v).sys = s.sys := rfl
@[simp] theorem setDeficit_movers (s : State) (p v : Nat) : (setDeficit s p v).movers = s.movers := rfl
@[simp] theorem setDeficit_pool (s : State) (p v : Nat) : (setDeficit s p v).pool = s.pool := rfl
@[simp] theorem setDeficit_poolBad (s : State) (p v : Nat) : (setDeficit s p v).poolBad = s.poolBad := rfl
@[simp] theorem setDeficit_wins (s : State) (p v : Nat) : (setDeficit s p v).wins = s.wins := rfl
@[simp] theorem setDeficit_pubs (s : State) (p v : Nat) : (setDeficit s p v).pubs = s.pubs := rfl
@[simp] theorem setDeficit_models (s : State) (p v : Nat) : (setDeficit s p v).models = s.models := rfl
@[simp] theorem setDeficit_passes (s : State) (p v : Nat) : (setDeficit s p v).passes = s.passes := rfl
@[simp] theorem setDeficit_trains (s : State) (p v : Nat) : (setDeficit s p v).trains = s.trains := rfl
@[simp] theorem setDeficit_tables (s : State) (p v : Nat) : (setDeficit s p v).tables = s.tables := rfl
@[simp] theorem setDeficit_hots (s : State) (p v : Nat) : (setDeficit s p v).hots = s.hots := rfl
@[simp] theorem setDeficit_hotAsk (s : State) (p v : Nat) : (setDeficit s p v).hotAsk = s.hotAsk := rfl
@[simp] theorem setDeficit_ahead (s : State) (p v : Nat) : (setDeficit s p v).ahead = s.ahead := rfl
@[simp] theorem setDeficit_fss (s : State) (p v : Nat) : (setDeficit s p v).fss = s.fss := rfl
@[simp] theorem setDeficit_toeLost (s : State) (p v : Nat) : (setDeficit s p v).toeLost = s.toeLost := rfl
@[simp] theorem setDeficit_fab (s : State) (p v : Nat) : (setDeficit s p v).fab = s.fab := rfl
@[simp] theorem setDeficit_bml (s : State) (p v : Nat) : (setDeficit s p v).bml = s.bml := rfl
@[simp] theorem setDeficit_img (s : State) (p v : Nat) : (setDeficit s p v).img = s.img := rfl
@[simp] theorem setDeficit_pwr (s : State) (p v : Nat) : (setDeficit s p v).pwr = s.pwr := rfl
@[simp] theorem setDeficit_fresh (s : State) (p v : Nat) : (setDeficit s p v).fresh = s.fresh := rfl
@[simp] theorem setDeficit_out (s : State) (p v : Nat) : (setDeficit s p v).out = s.out := rfl
@[simp] theorem setDeficit_pending (s : State) (p v : Nat) : (setDeficit s p v).pending = s.pending := rfl

/-! ### setColl -/

@[simp] theorem setColl_now (s : State) (c : Nat) (v : Coll) : (setColl s c v).now = s.now := rfl
@[simp] theorem setColl_csr (s : State) (c : Nat) (v : Coll) : (setColl s c v).csr = s.csr := rfl
@[simp] theorem setColl_cnt (s : State) (c : Nat) (v : Coll) : (setColl s c v).cnt = s.cnt := rfl
@[simp] theorem setColl_mem (s : State) (c : Nat) (v : Coll) : (setColl s c v).mem = s.mem := rfl
@[simp] theorem setColl_chk (s : State) (c : Nat) (v : Coll) : (setColl s c v).chk = s.chk := rfl
@[simp] theorem setColl_dir (s : State) (c : Nat) (v : Coll) : (setColl s c v).dir = s.dir := rfl
@[simp] theorem setColl_mirror (s : State) (c : Nat) (v : Coll) : (setColl s c v).mirror = s.mirror := rfl
@[simp] theorem setColl_noMirror (s : State) (c : Nat) (v : Coll) : (setColl s c v).noMirror = s.noMirror := rfl
@[simp] theorem setColl_mirrorAt (s : State) (c : Nat) (v : Coll) : (setColl s c v).mirrorAt = s.mirrorAt := rfl
@[simp] theorem setColl_tick (s : State) (c : Nat) (v : Coll) : (setColl s c v).tick = s.tick := rfl
@[simp] theorem setColl_ctxs (s : State) (c : Nat) (v : Coll) : (setColl s c v).ctxs = s.ctxs := rfl
@[simp] theorem setColl_dies (s : State) (c : Nat) (v : Coll) : (setColl s c v).dies = s.dies := rfl
@[simp] theorem setColl_flight (s : State) (c : Nat) (v : Coll) : (setColl s c v).flight = s.flight := rfl
@[simp] theorem setColl_retries (s : State) (c : Nat) (v : Coll) : (setColl s c v).retries = s.retries := rfl
@[simp] theorem setColl_adpRun (s : State) (c : Nat) (v : Coll) : (setColl s c v).adpRun = s.adpRun := rfl
@[simp] theorem setColl_adpShown (s : State) (c : Nat) (v : Coll) : (setColl s c v).adpShown = s.adpShown := rfl
@[simp] theorem setColl_sclRun (s : State) (c : Nat) (v : Coll) : (setColl s c v).sclRun = s.sclRun := rfl
@[simp] theorem setColl_sclShown (s : State) (c : Nat) (v : Coll) : (setColl s c v).sclShown = s.sclShown := rfl
@[simp] theorem setColl_pend (s : State) (c : Nat) (v : Coll) : (setColl s c v).pend = s.pend := rfl
@[simp] theorem setColl_orphans (s : State) (c : Nat) (v : Coll) : (setColl s c v).orphans = s.orphans := rfl
@[simp] theorem setColl_reeve (s : State) (c : Nat) (v : Coll) : (setColl s c v).reeve = s.reeve := rfl
@[simp] theorem setColl_polders (s : State) (c : Nat) (v : Coll) : (setColl s c v).polders = s.polders := rfl
@[simp] theorem setColl_dikes (s : State) (c : Nat) (v : Coll) : (setColl s c v).dikes = s.dikes := rfl
@[simp] theorem setColl_sluice (s : State) (c : Nat) (v : Coll) : (setColl s c v).sluice = s.sluice := rfl
@[simp] theorem setColl_weirs (s : State) (c : Nat) (v : Coll) : (setColl s c v).weirs = s.weirs := rfl
@[simp] theorem setColl_walks (s : State) (c : Nat) (v : Coll) : (setColl s c v).walks = s.walks := rfl
@[simp] theorem setColl_jobs (s : State) (c : Nat) (v : Coll) : (setColl s c v).jobs = s.jobs := rfl
@[simp] theorem setColl_bsus (s : State) (c : Nat) (v : Coll) : (setColl s c v).bsus = s.bsus := rfl
@[simp] theorem setColl_eccPend (s : State) (c : Nat) (v : Coll) : (setColl s c v).eccPend = s.eccPend := rfl
@[simp] theorem setColl_sys (s : State) (c : Nat) (v : Coll) : (setColl s c v).sys = s.sys := rfl
@[simp] theorem setColl_movers (s : State) (c : Nat) (v : Coll) : (setColl s c v).movers = s.movers := rfl
@[simp] theorem setColl_pool (s : State) (c : Nat) (v : Coll) : (setColl s c v).pool = s.pool := rfl
@[simp] theorem setColl_poolBad (s : State) (c : Nat) (v : Coll) : (setColl s c v).poolBad = s.poolBad := rfl
@[simp] theorem setColl_wins (s : State) (c : Nat) (v : Coll) : (setColl s c v).wins = s.wins := rfl
@[simp] theorem setColl_pubs (s : State) (c : Nat) (v : Coll) : (setColl s c v).pubs = s.pubs := rfl
@[simp] theorem setColl_models (s : State) (c : Nat) (v : Coll) : (setColl s c v).models = s.models := rfl
@[simp] theorem setColl_passes (s : State) (c : Nat) (v : Coll) : (setColl s c v).passes = s.passes := rfl
@[simp] theorem setColl_trains (s : State) (c : Nat) (v : Coll) : (setColl s c v).trains = s.trains := rfl
@[simp] theorem setColl_tables (s : State) (c : Nat) (v : Coll) : (setColl s c v).tables = s.tables := rfl
@[simp] theorem setColl_hots (s : State) (c : Nat) (v : Coll) : (setColl s c v).hots = s.hots := rfl
@[simp] theorem setColl_hotAsk (s : State) (c : Nat) (v : Coll) : (setColl s c v).hotAsk = s.hotAsk := rfl
@[simp] theorem setColl_ahead (s : State) (c : Nat) (v : Coll) : (setColl s c v).ahead = s.ahead := rfl
@[simp] theorem setColl_fss (s : State) (c : Nat) (v : Coll) : (setColl s c v).fss = s.fss := rfl
@[simp] theorem setColl_toeLost (s : State) (c : Nat) (v : Coll) : (setColl s c v).toeLost = s.toeLost := rfl
@[simp] theorem setColl_fab (s : State) (c : Nat) (v : Coll) : (setColl s c v).fab = s.fab := rfl
@[simp] theorem setColl_bml (s : State) (c : Nat) (v : Coll) : (setColl s c v).bml = s.bml := rfl
@[simp] theorem setColl_img (s : State) (c : Nat) (v : Coll) : (setColl s c v).img = s.img := rfl
@[simp] theorem setColl_pwr (s : State) (c : Nat) (v : Coll) : (setColl s c v).pwr = s.pwr := rfl
@[simp] theorem setColl_fresh (s : State) (c : Nat) (v : Coll) : (setColl s c v).fresh = s.fresh := rfl
@[simp] theorem setColl_out (s : State) (c : Nat) (v : Coll) : (setColl s c v).out = s.out := rfl
@[simp] theorem setColl_pending (s : State) (c : Nat) (v : Coll) : (setColl s c v).pending = s.pending := rfl

/-! ### modFab -/

@[simp] theorem modFab_now (s : State) (f : Fabric → Fabric) : (modFab s f).now = s.now := rfl
@[simp] theorem modFab_csr (s : State) (f : Fabric → Fabric) : (modFab s f).csr = s.csr := rfl
@[simp] theorem modFab_cnt (s : State) (f : Fabric → Fabric) : (modFab s f).cnt = s.cnt := rfl
@[simp] theorem modFab_mem (s : State) (f : Fabric → Fabric) : (modFab s f).mem = s.mem := rfl
@[simp] theorem modFab_chk (s : State) (f : Fabric → Fabric) : (modFab s f).chk = s.chk := rfl
@[simp] theorem modFab_dir (s : State) (f : Fabric → Fabric) : (modFab s f).dir = s.dir := rfl
@[simp] theorem modFab_mirror (s : State) (f : Fabric → Fabric) : (modFab s f).mirror = s.mirror := rfl
@[simp] theorem modFab_noMirror (s : State) (f : Fabric → Fabric) : (modFab s f).noMirror = s.noMirror := rfl
@[simp] theorem modFab_mirrorAt (s : State) (f : Fabric → Fabric) : (modFab s f).mirrorAt = s.mirrorAt := rfl
@[simp] theorem modFab_tick (s : State) (f : Fabric → Fabric) : (modFab s f).tick = s.tick := rfl
@[simp] theorem modFab_ctxs (s : State) (f : Fabric → Fabric) : (modFab s f).ctxs = s.ctxs := rfl
@[simp] theorem modFab_dies (s : State) (f : Fabric → Fabric) : (modFab s f).dies = s.dies := rfl
@[simp] theorem modFab_flight (s : State) (f : Fabric → Fabric) : (modFab s f).flight = s.flight := rfl
@[simp] theorem modFab_retries (s : State) (f : Fabric → Fabric) : (modFab s f).retries = s.retries := rfl
@[simp] theorem modFab_adpRun (s : State) (f : Fabric → Fabric) : (modFab s f).adpRun = s.adpRun := rfl
@[simp] theorem modFab_adpShown (s : State) (f : Fabric → Fabric) : (modFab s f).adpShown = s.adpShown := rfl
@[simp] theorem modFab_sclRun (s : State) (f : Fabric → Fabric) : (modFab s f).sclRun = s.sclRun := rfl
@[simp] theorem modFab_sclShown (s : State) (f : Fabric → Fabric) : (modFab s f).sclShown = s.sclShown := rfl
@[simp] theorem modFab_pend (s : State) (f : Fabric → Fabric) : (modFab s f).pend = s.pend := rfl
@[simp] theorem modFab_orphans (s : State) (f : Fabric → Fabric) : (modFab s f).orphans = s.orphans := rfl
@[simp] theorem modFab_reeve (s : State) (f : Fabric → Fabric) : (modFab s f).reeve = s.reeve := rfl
@[simp] theorem modFab_polders (s : State) (f : Fabric → Fabric) : (modFab s f).polders = s.polders := rfl
@[simp] theorem modFab_dikes (s : State) (f : Fabric → Fabric) : (modFab s f).dikes = s.dikes := rfl
@[simp] theorem modFab_sluice (s : State) (f : Fabric → Fabric) : (modFab s f).sluice = s.sluice := rfl
@[simp] theorem modFab_weirs (s : State) (f : Fabric → Fabric) : (modFab s f).weirs = s.weirs := rfl
@[simp] theorem modFab_walks (s : State) (f : Fabric → Fabric) : (modFab s f).walks = s.walks := rfl
@[simp] theorem modFab_jobs (s : State) (f : Fabric → Fabric) : (modFab s f).jobs = s.jobs := rfl
@[simp] theorem modFab_colls (s : State) (f : Fabric → Fabric) : (modFab s f).colls = s.colls := rfl
@[simp] theorem modFab_bsus (s : State) (f : Fabric → Fabric) : (modFab s f).bsus = s.bsus := rfl
@[simp] theorem modFab_eccPend (s : State) (f : Fabric → Fabric) : (modFab s f).eccPend = s.eccPend := rfl
@[simp] theorem modFab_sys (s : State) (f : Fabric → Fabric) : (modFab s f).sys = s.sys := rfl
@[simp] theorem modFab_movers (s : State) (f : Fabric → Fabric) : (modFab s f).movers = s.movers := rfl
@[simp] theorem modFab_pool (s : State) (f : Fabric → Fabric) : (modFab s f).pool = s.pool := rfl
@[simp] theorem modFab_poolBad (s : State) (f : Fabric → Fabric) : (modFab s f).poolBad = s.poolBad := rfl
@[simp] theorem modFab_wins (s : State) (f : Fabric → Fabric) : (modFab s f).wins = s.wins := rfl
@[simp] theorem modFab_pubs (s : State) (f : Fabric → Fabric) : (modFab s f).pubs = s.pubs := rfl
@[simp] theorem modFab_models (s : State) (f : Fabric → Fabric) : (modFab s f).models = s.models := rfl
@[simp] theorem modFab_passes (s : State) (f : Fabric → Fabric) : (modFab s f).passes = s.passes := rfl
@[simp] theorem modFab_trains (s : State) (f : Fabric → Fabric) : (modFab s f).trains = s.trains := rfl
@[simp] theorem modFab_tables (s : State) (f : Fabric → Fabric) : (modFab s f).tables = s.tables := rfl
@[simp] theorem modFab_hots (s : State) (f : Fabric → Fabric) : (modFab s f).hots = s.hots := rfl
@[simp] theorem modFab_hotAsk (s : State) (f : Fabric → Fabric) : (modFab s f).hotAsk = s.hotAsk := rfl
@[simp] theorem modFab_ahead (s : State) (f : Fabric → Fabric) : (modFab s f).ahead = s.ahead := rfl
@[simp] theorem modFab_fss (s : State) (f : Fabric → Fabric) : (modFab s f).fss = s.fss := rfl
@[simp] theorem modFab_toeLost (s : State) (f : Fabric → Fabric) : (modFab s f).toeLost = s.toeLost := rfl
@[simp] theorem modFab_bml (s : State) (f : Fabric → Fabric) : (modFab s f).bml = s.bml := rfl
@[simp] theorem modFab_img (s : State) (f : Fabric → Fabric) : (modFab s f).img = s.img := rfl
@[simp] theorem modFab_pwr (s : State) (f : Fabric → Fabric) : (modFab s f).pwr = s.pwr := rfl
@[simp] theorem modFab_fresh (s : State) (f : Fabric → Fabric) : (modFab s f).fresh = s.fresh := rfl
@[simp] theorem modFab_out (s : State) (f : Fabric → Fabric) : (modFab s f).out = s.out := rfl
@[simp] theorem modFab_pending (s : State) (f : Fabric → Fabric) : (modFab s f).pending = s.pending := rfl

/-! ### modFss -/

@[simp] theorem modFss_now (s : State) (f : Fss → Fss) : (modFss s f).now = s.now := rfl
@[simp] theorem modFss_csr (s : State) (f : Fss → Fss) : (modFss s f).csr = s.csr := rfl
@[simp] theorem modFss_cnt (s : State) (f : Fss → Fss) : (modFss s f).cnt = s.cnt := rfl
@[simp] theorem modFss_mem (s : State) (f : Fss → Fss) : (modFss s f).mem = s.mem := rfl
@[simp] theorem modFss_chk (s : State) (f : Fss → Fss) : (modFss s f).chk = s.chk := rfl
@[simp] theorem modFss_dir (s : State) (f : Fss → Fss) : (modFss s f).dir = s.dir := rfl
@[simp] theorem modFss_mirror (s : State) (f : Fss → Fss) : (modFss s f).mirror = s.mirror := rfl
@[simp] theorem modFss_noMirror (s : State) (f : Fss → Fss) : (modFss s f).noMirror = s.noMirror := rfl
@[simp] theorem modFss_mirrorAt (s : State) (f : Fss → Fss) : (modFss s f).mirrorAt = s.mirrorAt := rfl
@[simp] theorem modFss_tick (s : State) (f : Fss → Fss) : (modFss s f).tick = s.tick := rfl
@[simp] theorem modFss_ctxs (s : State) (f : Fss → Fss) : (modFss s f).ctxs = s.ctxs := rfl
@[simp] theorem modFss_dies (s : State) (f : Fss → Fss) : (modFss s f).dies = s.dies := rfl
@[simp] theorem modFss_flight (s : State) (f : Fss → Fss) : (modFss s f).flight = s.flight := rfl
@[simp] theorem modFss_retries (s : State) (f : Fss → Fss) : (modFss s f).retries = s.retries := rfl
@[simp] theorem modFss_adpRun (s : State) (f : Fss → Fss) : (modFss s f).adpRun = s.adpRun := rfl
@[simp] theorem modFss_adpShown (s : State) (f : Fss → Fss) : (modFss s f).adpShown = s.adpShown := rfl
@[simp] theorem modFss_sclRun (s : State) (f : Fss → Fss) : (modFss s f).sclRun = s.sclRun := rfl
@[simp] theorem modFss_sclShown (s : State) (f : Fss → Fss) : (modFss s f).sclShown = s.sclShown := rfl
@[simp] theorem modFss_pend (s : State) (f : Fss → Fss) : (modFss s f).pend = s.pend := rfl
@[simp] theorem modFss_orphans (s : State) (f : Fss → Fss) : (modFss s f).orphans = s.orphans := rfl
@[simp] theorem modFss_reeve (s : State) (f : Fss → Fss) : (modFss s f).reeve = s.reeve := rfl
@[simp] theorem modFss_polders (s : State) (f : Fss → Fss) : (modFss s f).polders = s.polders := rfl
@[simp] theorem modFss_dikes (s : State) (f : Fss → Fss) : (modFss s f).dikes = s.dikes := rfl
@[simp] theorem modFss_sluice (s : State) (f : Fss → Fss) : (modFss s f).sluice = s.sluice := rfl
@[simp] theorem modFss_weirs (s : State) (f : Fss → Fss) : (modFss s f).weirs = s.weirs := rfl
@[simp] theorem modFss_walks (s : State) (f : Fss → Fss) : (modFss s f).walks = s.walks := rfl
@[simp] theorem modFss_jobs (s : State) (f : Fss → Fss) : (modFss s f).jobs = s.jobs := rfl
@[simp] theorem modFss_colls (s : State) (f : Fss → Fss) : (modFss s f).colls = s.colls := rfl
@[simp] theorem modFss_bsus (s : State) (f : Fss → Fss) : (modFss s f).bsus = s.bsus := rfl
@[simp] theorem modFss_eccPend (s : State) (f : Fss → Fss) : (modFss s f).eccPend = s.eccPend := rfl
@[simp] theorem modFss_sys (s : State) (f : Fss → Fss) : (modFss s f).sys = s.sys := rfl
@[simp] theorem modFss_movers (s : State) (f : Fss → Fss) : (modFss s f).movers = s.movers := rfl
@[simp] theorem modFss_pool (s : State) (f : Fss → Fss) : (modFss s f).pool = s.pool := rfl
@[simp] theorem modFss_poolBad (s : State) (f : Fss → Fss) : (modFss s f).poolBad = s.poolBad := rfl
@[simp] theorem modFss_wins (s : State) (f : Fss → Fss) : (modFss s f).wins = s.wins := rfl
@[simp] theorem modFss_pubs (s : State) (f : Fss → Fss) : (modFss s f).pubs = s.pubs := rfl
@[simp] theorem modFss_models (s : State) (f : Fss → Fss) : (modFss s f).models = s.models := rfl
@[simp] theorem modFss_passes (s : State) (f : Fss → Fss) : (modFss s f).passes = s.passes := rfl
@[simp] theorem modFss_trains (s : State) (f : Fss → Fss) : (modFss s f).trains = s.trains := rfl
@[simp] theorem modFss_tables (s : State) (f : Fss → Fss) : (modFss s f).tables = s.tables := rfl
@[simp] theorem modFss_hots (s : State) (f : Fss → Fss) : (modFss s f).hots = s.hots := rfl
@[simp] theorem modFss_hotAsk (s : State) (f : Fss → Fss) : (modFss s f).hotAsk = s.hotAsk := rfl
@[simp] theorem modFss_ahead (s : State) (f : Fss → Fss) : (modFss s f).ahead = s.ahead := rfl
@[simp] theorem modFss_toeLost (s : State) (f : Fss → Fss) : (modFss s f).toeLost = s.toeLost := rfl
@[simp] theorem modFss_fab (s : State) (f : Fss → Fss) : (modFss s f).fab = s.fab := rfl
@[simp] theorem modFss_bml (s : State) (f : Fss → Fss) : (modFss s f).bml = s.bml := rfl
@[simp] theorem modFss_img (s : State) (f : Fss → Fss) : (modFss s f).img = s.img := rfl
@[simp] theorem modFss_pwr (s : State) (f : Fss → Fss) : (modFss s f).pwr = s.pwr := rfl
@[simp] theorem modFss_fresh (s : State) (f : Fss → Fss) : (modFss s f).fresh = s.fresh := rfl
@[simp] theorem modFss_out (s : State) (f : Fss → Fss) : (modFss s f).out = s.out := rfl
@[simp] theorem modFss_pending (s : State) (f : Fss → Fss) : (modFss s f).pending = s.pending := rfl

/-! ### modWin -/

@[simp] theorem modWin_now (s : State) (h : Nat) (f : Window → Window) : (modWin s h f).now = s.now := rfl
@[simp] theorem modWin_csr (s : State) (h : Nat) (f : Window → Window) : (modWin s h f).csr = s.csr := rfl
@[simp] theorem modWin_cnt (s : State) (h : Nat) (f : Window → Window) : (modWin s h f).cnt = s.cnt := rfl
@[simp] theorem modWin_mem (s : State) (h : Nat) (f : Window → Window) : (modWin s h f).mem = s.mem := rfl
@[simp] theorem modWin_chk (s : State) (h : Nat) (f : Window → Window) : (modWin s h f).chk = s.chk := rfl
@[simp] theorem modWin_dir (s : State) (h : Nat) (f : Window → Window) : (modWin s h f).dir = s.dir := rfl
@[simp] theorem modWin_mirror (s : State) (h : Nat) (f : Window → Window) : (modWin s h f).mirror = s.mirror := rfl
@[simp] theorem modWin_noMirror (s : State) (h : Nat) (f : Window → Window) : (modWin s h f).noMirror = s.noMirror := rfl
@[simp] theorem modWin_mirrorAt (s : State) (h : Nat) (f : Window → Window) : (modWin s h f).mirrorAt = s.mirrorAt := rfl
@[simp] theorem modWin_tick (s : State) (h : Nat) (f : Window → Window) : (modWin s h f).tick = s.tick := rfl
@[simp] theorem modWin_ctxs (s : State) (h : Nat) (f : Window → Window) : (modWin s h f).ctxs = s.ctxs := rfl
@[simp] theorem modWin_dies (s : State) (h : Nat) (f : Window → Window) : (modWin s h f).dies = s.dies := rfl
@[simp] theorem modWin_flight (s : State) (h : Nat) (f : Window → Window) : (modWin s h f).flight = s.flight := rfl
@[simp] theorem modWin_retries (s : State) (h : Nat) (f : Window → Window) : (modWin s h f).retries = s.retries := rfl
@[simp] theorem modWin_adpRun (s : State) (h : Nat) (f : Window → Window) : (modWin s h f).adpRun = s.adpRun := rfl
@[simp] theorem modWin_adpShown (s : State) (h : Nat) (f : Window → Window) : (modWin s h f).adpShown = s.adpShown := rfl
@[simp] theorem modWin_sclRun (s : State) (h : Nat) (f : Window → Window) : (modWin s h f).sclRun = s.sclRun := rfl
@[simp] theorem modWin_sclShown (s : State) (h : Nat) (f : Window → Window) : (modWin s h f).sclShown = s.sclShown := rfl
@[simp] theorem modWin_pend (s : State) (h : Nat) (f : Window → Window) : (modWin s h f).pend = s.pend := rfl
@[simp] theorem modWin_orphans (s : State) (h : Nat) (f : Window → Window) : (modWin s h f).orphans = s.orphans := rfl
@[simp] theorem modWin_reeve (s : State) (h : Nat) (f : Window → Window) : (modWin s h f).reeve = s.reeve := rfl
@[simp] theorem modWin_polders (s : State) (h : Nat) (f : Window → Window) : (modWin s h f).polders = s.polders := rfl
@[simp] theorem modWin_dikes (s : State) (h : Nat) (f : Window → Window) : (modWin s h f).dikes = s.dikes := rfl
@[simp] theorem modWin_sluice (s : State) (h : Nat) (f : Window → Window) : (modWin s h f).sluice = s.sluice := rfl
@[simp] theorem modWin_weirs (s : State) (h : Nat) (f : Window → Window) : (modWin s h f).weirs = s.weirs := rfl
@[simp] theorem modWin_walks (s : State) (h : Nat) (f : Window → Window) : (modWin s h f).walks = s.walks := rfl
@[simp] theorem modWin_jobs (s : State) (h : Nat) (f : Window → Window) : (modWin s h f).jobs = s.jobs := rfl
@[simp] theorem modWin_colls (s : State) (h : Nat) (f : Window → Window) : (modWin s h f).colls = s.colls := rfl
@[simp] theorem modWin_bsus (s : State) (h : Nat) (f : Window → Window) : (modWin s h f).bsus = s.bsus := rfl
@[simp] theorem modWin_eccPend (s : State) (h : Nat) (f : Window → Window) : (modWin s h f).eccPend = s.eccPend := rfl
@[simp] theorem modWin_sys (s : State) (h : Nat) (f : Window → Window) : (modWin s h f).sys = s.sys := rfl
@[simp] theorem modWin_movers (s : State) (h : Nat) (f : Window → Window) : (modWin s h f).movers = s.movers := rfl
@[simp] theorem modWin_pool (s : State) (h : Nat) (f : Window → Window) : (modWin s h f).pool = s.pool := rfl
@[simp] theorem modWin_poolBad (s : State) (h : Nat) (f : Window → Window) : (modWin s h f).poolBad = s.poolBad := rfl
@[simp] theorem modWin_pubs (s : State) (h : Nat) (f : Window → Window) : (modWin s h f).pubs = s.pubs := rfl
@[simp] theorem modWin_models (s : State) (h : Nat) (f : Window → Window) : (modWin s h f).models = s.models := rfl
@[simp] theorem modWin_passes (s : State) (h : Nat) (f : Window → Window) : (modWin s h f).passes = s.passes := rfl
@[simp] theorem modWin_trains (s : State) (h : Nat) (f : Window → Window) : (modWin s h f).trains = s.trains := rfl
@[simp] theorem modWin_tables (s : State) (h : Nat) (f : Window → Window) : (modWin s h f).tables = s.tables := rfl
@[simp] theorem modWin_hots (s : State) (h : Nat) (f : Window → Window) : (modWin s h f).hots = s.hots := rfl
@[simp] theorem modWin_hotAsk (s : State) (h : Nat) (f : Window → Window) : (modWin s h f).hotAsk = s.hotAsk := rfl
@[simp] theorem modWin_ahead (s : State) (h : Nat) (f : Window → Window) : (modWin s h f).ahead = s.ahead := rfl
@[simp] theorem modWin_fss (s : State) (h : Nat) (f : Window → Window) : (modWin s h f).fss = s.fss := rfl
@[simp] theorem modWin_toeLost (s : State) (h : Nat) (f : Window → Window) : (modWin s h f).toeLost = s.toeLost := rfl
@[simp] theorem modWin_fab (s : State) (h : Nat) (f : Window → Window) : (modWin s h f).fab = s.fab := rfl
@[simp] theorem modWin_bml (s : State) (h : Nat) (f : Window → Window) : (modWin s h f).bml = s.bml := rfl
@[simp] theorem modWin_img (s : State) (h : Nat) (f : Window → Window) : (modWin s h f).img = s.img := rfl
@[simp] theorem modWin_pwr (s : State) (h : Nat) (f : Window → Window) : (modWin s h f).pwr = s.pwr := rfl
@[simp] theorem modWin_fresh (s : State) (h : Nat) (f : Window → Window) : (modWin s h f).fresh = s.fresh := rfl
@[simp] theorem modWin_out (s : State) (h : Nat) (f : Window → Window) : (modWin s h f).out = s.out := rfl
@[simp] theorem modWin_pending (s : State) (h : Nat) (f : Window → Window) : (modWin s h f).pending = s.pending := rfl

/-! ### modBml -/

@[simp] theorem modBml_now (s : State) (n : Nat) (f : BmlPort → BmlPort) : (modBml s n f).now = s.now := rfl
@[simp] theorem modBml_csr (s : State) (n : Nat) (f : BmlPort → BmlPort) : (modBml s n f).csr = s.csr := rfl
@[simp] theorem modBml_cnt (s : State) (n : Nat) (f : BmlPort → BmlPort) : (modBml s n f).cnt = s.cnt := rfl
@[simp] theorem modBml_mem (s : State) (n : Nat) (f : BmlPort → BmlPort) : (modBml s n f).mem = s.mem := rfl
@[simp] theorem modBml_chk (s : State) (n : Nat) (f : BmlPort → BmlPort) : (modBml s n f).chk = s.chk := rfl
@[simp] theorem modBml_dir (s : State) (n : Nat) (f : BmlPort → BmlPort) : (modBml s n f).dir = s.dir := rfl
@[simp] theorem modBml_mirror (s : State) (n : Nat) (f : BmlPort → BmlPort) : (modBml s n f).mirror = s.mirror := rfl
@[simp] theorem modBml_noMirror (s : State) (n : Nat) (f : BmlPort → BmlPort) : (modBml s n f).noMirror = s.noMirror := rfl
@[simp] theorem modBml_mirrorAt (s : State) (n : Nat) (f : BmlPort → BmlPort) : (modBml s n f).mirrorAt = s.mirrorAt := rfl
@[simp] theorem modBml_tick (s : State) (n : Nat) (f : BmlPort → BmlPort) : (modBml s n f).tick = s.tick := rfl
@[simp] theorem modBml_ctxs (s : State) (n : Nat) (f : BmlPort → BmlPort) : (modBml s n f).ctxs = s.ctxs := rfl
@[simp] theorem modBml_dies (s : State) (n : Nat) (f : BmlPort → BmlPort) : (modBml s n f).dies = s.dies := rfl
@[simp] theorem modBml_flight (s : State) (n : Nat) (f : BmlPort → BmlPort) : (modBml s n f).flight = s.flight := rfl
@[simp] theorem modBml_retries (s : State) (n : Nat) (f : BmlPort → BmlPort) : (modBml s n f).retries = s.retries := rfl
@[simp] theorem modBml_adpRun (s : State) (n : Nat) (f : BmlPort → BmlPort) : (modBml s n f).adpRun = s.adpRun := rfl
@[simp] theorem modBml_adpShown (s : State) (n : Nat) (f : BmlPort → BmlPort) : (modBml s n f).adpShown = s.adpShown := rfl
@[simp] theorem modBml_sclRun (s : State) (n : Nat) (f : BmlPort → BmlPort) : (modBml s n f).sclRun = s.sclRun := rfl
@[simp] theorem modBml_sclShown (s : State) (n : Nat) (f : BmlPort → BmlPort) : (modBml s n f).sclShown = s.sclShown := rfl
@[simp] theorem modBml_pend (s : State) (n : Nat) (f : BmlPort → BmlPort) : (modBml s n f).pend = s.pend := rfl
@[simp] theorem modBml_orphans (s : State) (n : Nat) (f : BmlPort → BmlPort) : (modBml s n f).orphans = s.orphans := rfl
@[simp] theorem modBml_reeve (s : State) (n : Nat) (f : BmlPort → BmlPort) : (modBml s n f).reeve = s.reeve := rfl
@[simp] theorem modBml_polders (s : State) (n : Nat) (f : BmlPort → BmlPort) : (modBml s n f).polders = s.polders := rfl
@[simp] theorem modBml_dikes (s : State) (n : Nat) (f : BmlPort → BmlPort) : (modBml s n f).dikes = s.dikes := rfl
@[simp] theorem modBml_sluice (s : State) (n : Nat) (f : BmlPort → BmlPort) : (modBml s n f).sluice = s.sluice := rfl
@[simp] theorem modBml_weirs (s : State) (n : Nat) (f : BmlPort → BmlPort) : (modBml s n f).weirs = s.weirs := rfl
@[simp] theorem modBml_walks (s : State) (n : Nat) (f : BmlPort → BmlPort) : (modBml s n f).walks = s.walks := rfl
@[simp] theorem modBml_jobs (s : State) (n : Nat) (f : BmlPort → BmlPort) : (modBml s n f).jobs = s.jobs := rfl
@[simp] theorem modBml_colls (s : State) (n : Nat) (f : BmlPort → BmlPort) : (modBml s n f).colls = s.colls := rfl
@[simp] theorem modBml_bsus (s : State) (n : Nat) (f : BmlPort → BmlPort) : (modBml s n f).bsus = s.bsus := rfl
@[simp] theorem modBml_eccPend (s : State) (n : Nat) (f : BmlPort → BmlPort) : (modBml s n f).eccPend = s.eccPend := rfl
@[simp] theorem modBml_sys (s : State) (n : Nat) (f : BmlPort → BmlPort) : (modBml s n f).sys = s.sys := rfl
@[simp] theorem modBml_movers (s : State) (n : Nat) (f : BmlPort → BmlPort) : (modBml s n f).movers = s.movers := rfl
@[simp] theorem modBml_pool (s : State) (n : Nat) (f : BmlPort → BmlPort) : (modBml s n f).pool = s.pool := rfl
@[simp] theorem modBml_poolBad (s : State) (n : Nat) (f : BmlPort → BmlPort) : (modBml s n f).poolBad = s.poolBad := rfl
@[simp] theorem modBml_wins (s : State) (n : Nat) (f : BmlPort → BmlPort) : (modBml s n f).wins = s.wins := rfl
@[simp] theorem modBml_pubs (s : State) (n : Nat) (f : BmlPort → BmlPort) : (modBml s n f).pubs = s.pubs := rfl
@[simp] theorem modBml_models (s : State) (n : Nat) (f : BmlPort → BmlPort) : (modBml s n f).models = s.models := rfl
@[simp] theorem modBml_passes (s : State) (n : Nat) (f : BmlPort → BmlPort) : (modBml s n f).passes = s.passes := rfl
@[simp] theorem modBml_trains (s : State) (n : Nat) (f : BmlPort → BmlPort) : (modBml s n f).trains = s.trains := rfl
@[simp] theorem modBml_tables (s : State) (n : Nat) (f : BmlPort → BmlPort) : (modBml s n f).tables = s.tables := rfl
@[simp] theorem modBml_hots (s : State) (n : Nat) (f : BmlPort → BmlPort) : (modBml s n f).hots = s.hots := rfl
@[simp] theorem modBml_hotAsk (s : State) (n : Nat) (f : BmlPort → BmlPort) : (modBml s n f).hotAsk = s.hotAsk := rfl
@[simp] theorem modBml_ahead (s : State) (n : Nat) (f : BmlPort → BmlPort) : (modBml s n f).ahead = s.ahead := rfl
@[simp] theorem modBml_fss (s : State) (n : Nat) (f : BmlPort → BmlPort) : (modBml s n f).fss = s.fss := rfl
@[simp] theorem modBml_toeLost (s : State) (n : Nat) (f : BmlPort → BmlPort) : (modBml s n f).toeLost = s.toeLost := rfl
@[simp] theorem modBml_fab (s : State) (n : Nat) (f : BmlPort → BmlPort) : (modBml s n f).fab = s.fab := rfl
@[simp] theorem modBml_img (s : State) (n : Nat) (f : BmlPort → BmlPort) : (modBml s n f).img = s.img := rfl
@[simp] theorem modBml_pwr (s : State) (n : Nat) (f : BmlPort → BmlPort) : (modBml s n f).pwr = s.pwr := rfl
@[simp] theorem modBml_fresh (s : State) (n : Nat) (f : BmlPort → BmlPort) : (modBml s n f).fresh = s.fresh := rfl
@[simp] theorem modBml_out (s : State) (n : Nat) (f : BmlPort → BmlPort) : (modBml s n f).out = s.out := rfl
@[simp] theorem modBml_pending (s : State) (n : Nat) (f : BmlPort → BmlPort) : (modBml s n f).pending = s.pending := rfl

/-! ### setBsu -/

@[simp] theorem setBsu_now (s : State) (st p : Nat) (b : Bsu) : (setBsu s st p b).now = s.now := rfl
@[simp] theorem setBsu_csr (s : State) (st p : Nat) (b : Bsu) : (setBsu s st p b).csr = s.csr := rfl
@[simp] theorem setBsu_cnt (s : State) (st p : Nat) (b : Bsu) : (setBsu s st p b).cnt = s.cnt := rfl
@[simp] theorem setBsu_mem (s : State) (st p : Nat) (b : Bsu) : (setBsu s st p b).mem = s.mem := rfl
@[simp] theorem setBsu_chk (s : State) (st p : Nat) (b : Bsu) : (setBsu s st p b).chk = s.chk := rfl
@[simp] theorem setBsu_dir (s : State) (st p : Nat) (b : Bsu) : (setBsu s st p b).dir = s.dir := rfl
@[simp] theorem setBsu_mirror (s : State) (st p : Nat) (b : Bsu) : (setBsu s st p b).mirror = s.mirror := rfl
@[simp] theorem setBsu_noMirror (s : State) (st p : Nat) (b : Bsu) : (setBsu s st p b).noMirror = s.noMirror := rfl
@[simp] theorem setBsu_mirrorAt (s : State) (st p : Nat) (b : Bsu) : (setBsu s st p b).mirrorAt = s.mirrorAt := rfl
@[simp] theorem setBsu_tick (s : State) (st p : Nat) (b : Bsu) : (setBsu s st p b).tick = s.tick := rfl
@[simp] theorem setBsu_ctxs (s : State) (st p : Nat) (b : Bsu) : (setBsu s st p b).ctxs = s.ctxs := rfl
@[simp] theorem setBsu_dies (s : State) (st p : Nat) (b : Bsu) : (setBsu s st p b).dies = s.dies := rfl
@[simp] theorem setBsu_flight (s : State) (st p : Nat) (b : Bsu) : (setBsu s st p b).flight = s.flight := rfl
@[simp] theorem setBsu_retries (s : State) (st p : Nat) (b : Bsu) : (setBsu s st p b).retries = s.retries := rfl
@[simp] theorem setBsu_adpRun (s : State) (st p : Nat) (b : Bsu) : (setBsu s st p b).adpRun = s.adpRun := rfl
@[simp] theorem setBsu_adpShown (s : State) (st p : Nat) (b : Bsu) : (setBsu s st p b).adpShown = s.adpShown := rfl
@[simp] theorem setBsu_sclRun (s : State) (st p : Nat) (b : Bsu) : (setBsu s st p b).sclRun = s.sclRun := rfl
@[simp] theorem setBsu_sclShown (s : State) (st p : Nat) (b : Bsu) : (setBsu s st p b).sclShown = s.sclShown := rfl
@[simp] theorem setBsu_pend (s : State) (st p : Nat) (b : Bsu) : (setBsu s st p b).pend = s.pend := rfl
@[simp] theorem setBsu_orphans (s : State) (st p : Nat) (b : Bsu) : (setBsu s st p b).orphans = s.orphans := rfl
@[simp] theorem setBsu_reeve (s : State) (st p : Nat) (b : Bsu) : (setBsu s st p b).reeve = s.reeve := rfl
@[simp] theorem setBsu_polders (s : State) (st p : Nat) (b : Bsu) : (setBsu s st p b).polders = s.polders := rfl
@[simp] theorem setBsu_dikes (s : State) (st p : Nat) (b : Bsu) : (setBsu s st p b).dikes = s.dikes := rfl
@[simp] theorem setBsu_sluice (s : State) (st p : Nat) (b : Bsu) : (setBsu s st p b).sluice = s.sluice := rfl
@[simp] theorem setBsu_weirs (s : State) (st p : Nat) (b : Bsu) : (setBsu s st p b).weirs = s.weirs := rfl
@[simp] theorem setBsu_walks (s : State) (st p : Nat) (b : Bsu) : (setBsu s st p b).walks = s.walks := rfl
@[simp] theorem setBsu_jobs (s : State) (st p : Nat) (b : Bsu) : (setBsu s st p b).jobs = s.jobs := rfl
@[simp] theorem setBsu_colls (s : State) (st p : Nat) (b : Bsu) : (setBsu s st p b).colls = s.colls := rfl
@[simp] theorem setBsu_eccPend (s : State) (st p : Nat) (b : Bsu) : (setBsu s st p b).eccPend = s.eccPend := rfl
@[simp] theorem setBsu_sys (s : State) (st p : Nat) (b : Bsu) : (setBsu s st p b).sys = s.sys := rfl
@[simp] theorem setBsu_movers (s : State) (st p : Nat) (b : Bsu) : (setBsu s st p b).movers = s.movers := rfl
@[simp] theorem setBsu_pool (s : State) (st p : Nat) (b : Bsu) : (setBsu s st p b).pool = s.pool := rfl
@[simp] theorem setBsu_poolBad (s : State) (st p : Nat) (b : Bsu) : (setBsu s st p b).poolBad = s.poolBad := rfl
@[simp] theorem setBsu_wins (s : State) (st p : Nat) (b : Bsu) : (setBsu s st p b).wins = s.wins := rfl
@[simp] theorem setBsu_pubs (s : State) (st p : Nat) (b : Bsu) : (setBsu s st p b).pubs = s.pubs := rfl
@[simp] theorem setBsu_models (s : State) (st p : Nat) (b : Bsu) : (setBsu s st p b).models = s.models := rfl
@[simp] theorem setBsu_passes (s : State) (st p : Nat) (b : Bsu) : (setBsu s st p b).passes = s.passes := rfl
@[simp] theorem setBsu_trains (s : State) (st p : Nat) (b : Bsu) : (setBsu s st p b).trains = s.trains := rfl
@[simp] theorem setBsu_tables (s : State) (st p : Nat) (b : Bsu) : (setBsu s st p b).tables = s.tables := rfl
@[simp] theorem setBsu_hots (s : State) (st p : Nat) (b : Bsu) : (setBsu s st p b).hots = s.hots := rfl
@[simp] theorem setBsu_hotAsk (s : State) (st p : Nat) (b : Bsu) : (setBsu s st p b).hotAsk = s.hotAsk := rfl
@[simp] theorem setBsu_ahead (s : State) (st p : Nat) (b : Bsu) : (setBsu s st p b).ahead = s.ahead := rfl
@[simp] theorem setBsu_fss (s : State) (st p : Nat) (b : Bsu) : (setBsu s st p b).fss = s.fss := rfl
@[simp] theorem setBsu_toeLost (s : State) (st p : Nat) (b : Bsu) : (setBsu s st p b).toeLost = s.toeLost := rfl
@[simp] theorem setBsu_fab (s : State) (st p : Nat) (b : Bsu) : (setBsu s st p b).fab = s.fab := rfl
@[simp] theorem setBsu_bml (s : State) (st p : Nat) (b : Bsu) : (setBsu s st p b).bml = s.bml := rfl
@[simp] theorem setBsu_img (s : State) (st p : Nat) (b : Bsu) : (setBsu s st p b).img = s.img := rfl
@[simp] theorem setBsu_pwr (s : State) (st p : Nat) (b : Bsu) : (setBsu s st p b).pwr = s.pwr := rfl
@[simp] theorem setBsu_fresh (s : State) (st p : Nat) (b : Bsu) : (setBsu s st p b).fresh = s.fresh := rfl
@[simp] theorem setBsu_out (s : State) (st p : Nat) (b : Bsu) : (setBsu s st p b).out = s.out := rfl
@[simp] theorem setBsu_pending (s : State) (st p : Nat) (b : Bsu) : (setBsu s st p b).pending = s.pending := rfl

/-! ### setMovers -/

@[simp] theorem setMovers_now (s : State) (die : Nat) (ls : List MovList) : (setMovers s die ls).now = s.now := rfl
@[simp] theorem setMovers_csr (s : State) (die : Nat) (ls : List MovList) : (setMovers s die ls).csr = s.csr := rfl
@[simp] theorem setMovers_cnt (s : State) (die : Nat) (ls : List MovList) : (setMovers s die ls).cnt = s.cnt := rfl
@[simp] theorem setMovers_mem (s : State) (die : Nat) (ls : List MovList) : (setMovers s die ls).mem = s.mem := rfl
@[simp] theorem setMovers_chk (s : State) (die : Nat) (ls : List MovList) : (setMovers s die ls).chk = s.chk := rfl
@[simp] theorem setMovers_dir (s : State) (die : Nat) (ls : List MovList) : (setMovers s die ls).dir = s.dir := rfl
@[simp] theorem setMovers_mirror (s : State) (die : Nat) (ls : List MovList) : (setMovers s die ls).mirror = s.mirror := rfl
@[simp] theorem setMovers_noMirror (s : State) (die : Nat) (ls : List MovList) : (setMovers s die ls).noMirror = s.noMirror := rfl
@[simp] theorem setMovers_mirrorAt (s : State) (die : Nat) (ls : List MovList) : (setMovers s die ls).mirrorAt = s.mirrorAt := rfl
@[simp] theorem setMovers_tick (s : State) (die : Nat) (ls : List MovList) : (setMovers s die ls).tick = s.tick := rfl
@[simp] theorem setMovers_ctxs (s : State) (die : Nat) (ls : List MovList) : (setMovers s die ls).ctxs = s.ctxs := rfl
@[simp] theorem setMovers_dies (s : State) (die : Nat) (ls : List MovList) : (setMovers s die ls).dies = s.dies := rfl
@[simp] theorem setMovers_flight (s : State) (die : Nat) (ls : List MovList) : (setMovers s die ls).flight = s.flight := rfl
@[simp] theorem setMovers_retries (s : State) (die : Nat) (ls : List MovList) : (setMovers s die ls).retries = s.retries := rfl
@[simp] theorem setMovers_adpRun (s : State) (die : Nat) (ls : List MovList) : (setMovers s die ls).adpRun = s.adpRun := rfl
@[simp] theorem setMovers_adpShown (s : State) (die : Nat) (ls : List MovList) : (setMovers s die ls).adpShown = s.adpShown := rfl
@[simp] theorem setMovers_sclRun (s : State) (die : Nat) (ls : List MovList) : (setMovers s die ls).sclRun = s.sclRun := rfl
@[simp] theorem setMovers_sclShown (s : State) (die : Nat) (ls : List MovList) : (setMovers s die ls).sclShown = s.sclShown := rfl
@[simp] theorem setMovers_pend (s : State) (die : Nat) (ls : List MovList) : (setMovers s die ls).pend = s.pend := rfl
@[simp] theorem setMovers_orphans (s : State) (die : Nat) (ls : List MovList) : (setMovers s die ls).orphans = s.orphans := rfl
@[simp] theorem setMovers_reeve (s : State) (die : Nat) (ls : List MovList) : (setMovers s die ls).reeve = s.reeve := rfl
@[simp] theorem setMovers_polders (s : State) (die : Nat) (ls : List MovList) : (setMovers s die ls).polders = s.polders := rfl
@[simp] theorem setMovers_dikes (s : State) (die : Nat) (ls : List MovList) : (setMovers s die ls).dikes = s.dikes := rfl
@[simp] theorem setMovers_sluice (s : State) (die : Nat) (ls : List MovList) : (setMovers s die ls).sluice = s.sluice := rfl
@[simp] theorem setMovers_weirs (s : State) (die : Nat) (ls : List MovList) : (setMovers s die ls).weirs = s.weirs := rfl
@[simp] theorem setMovers_walks (s : State) (die : Nat) (ls : List MovList) : (setMovers s die ls).walks = s.walks := rfl
@[simp] theorem setMovers_jobs (s : State) (die : Nat) (ls : List MovList) : (setMovers s die ls).jobs = s.jobs := rfl
@[simp] theorem setMovers_colls (s : State) (die : Nat) (ls : List MovList) : (setMovers s die ls).colls = s.colls := rfl
@[simp] theorem setMovers_bsus (s : State) (die : Nat) (ls : List MovList) : (setMovers s die ls).bsus = s.bsus := rfl
@[simp] theorem setMovers_eccPend (s : State) (die : Nat) (ls : List MovList) : (setMovers s die ls).eccPend = s.eccPend := rfl
@[simp] theorem setMovers_sys (s : State) (die : Nat) (ls : List MovList) : (setMovers s die ls).sys = s.sys := rfl
@[simp] theorem setMovers_pool (s : State) (die : Nat) (ls : List MovList) : (setMovers s die ls).pool = s.pool := rfl
@[simp] theorem setMovers_poolBad (s : State) (die : Nat) (ls : List MovList) : (setMovers s die ls).poolBad = s.poolBad := rfl
@[simp] theorem setMovers_wins (s : State) (die : Nat) (ls : List MovList) : (setMovers s die ls).wins = s.wins := rfl
@[simp] theorem setMovers_pubs (s : State) (die : Nat) (ls : List MovList) : (setMovers s die ls).pubs = s.pubs := rfl
@[simp] theorem setMovers_models (s : State) (die : Nat) (ls : List MovList) : (setMovers s die ls).models = s.models := rfl
@[simp] theorem setMovers_passes (s : State) (die : Nat) (ls : List MovList) : (setMovers s die ls).passes = s.passes := rfl
@[simp] theorem setMovers_trains (s : State) (die : Nat) (ls : List MovList) : (setMovers s die ls).trains = s.trains := rfl
@[simp] theorem setMovers_tables (s : State) (die : Nat) (ls : List MovList) : (setMovers s die ls).tables = s.tables := rfl
@[simp] theorem setMovers_hots (s : State) (die : Nat) (ls : List MovList) : (setMovers s die ls).hots = s.hots := rfl
@[simp] theorem setMovers_hotAsk (s : State) (die : Nat) (ls : List MovList) : (setMovers s die ls).hotAsk = s.hotAsk := rfl
@[simp] theorem setMovers_ahead (s : State) (die : Nat) (ls : List MovList) : (setMovers s die ls).ahead = s.ahead := rfl
@[simp] theorem setMovers_fss (s : State) (die : Nat) (ls : List MovList) : (setMovers s die ls).fss = s.fss := rfl
@[simp] theorem setMovers_toeLost (s : State) (die : Nat) (ls : List MovList) : (setMovers s die ls).toeLost = s.toeLost := rfl
@[simp] theorem setMovers_fab (s : State) (die : Nat) (ls : List MovList) : (setMovers s die ls).fab = s.fab := rfl
@[simp] theorem setMovers_bml (s : State) (die : Nat) (ls : List MovList) : (setMovers s die ls).bml = s.bml := rfl
@[simp] theorem setMovers_img (s : State) (die : Nat) (ls : List MovList) : (setMovers s die ls).img = s.img := rfl
@[simp] theorem setMovers_pwr (s : State) (die : Nat) (ls : List MovList) : (setMovers s die ls).pwr = s.pwr := rfl
@[simp] theorem setMovers_fresh (s : State) (die : Nat) (ls : List MovList) : (setMovers s die ls).fresh = s.fresh := rfl
@[simp] theorem setMovers_out (s : State) (die : Nat) (ls : List MovList) : (setMovers s die ls).out = s.out := rfl
@[simp] theorem setMovers_pending (s : State) (die : Nat) (ls : List MovList) : (setMovers s die ls).pending = s.pending := rfl

/-! ### modPwr -/

@[simp] theorem modPwr_now (s : State) (f : Power → Power) : (modPwr s f).now = s.now := rfl
@[simp] theorem modPwr_csr (s : State) (f : Power → Power) : (modPwr s f).csr = s.csr := rfl
@[simp] theorem modPwr_cnt (s : State) (f : Power → Power) : (modPwr s f).cnt = s.cnt := rfl
@[simp] theorem modPwr_mem (s : State) (f : Power → Power) : (modPwr s f).mem = s.mem := rfl
@[simp] theorem modPwr_chk (s : State) (f : Power → Power) : (modPwr s f).chk = s.chk := rfl
@[simp] theorem modPwr_dir (s : State) (f : Power → Power) : (modPwr s f).dir = s.dir := rfl
@[simp] theorem modPwr_mirror (s : State) (f : Power → Power) : (modPwr s f).mirror = s.mirror := rfl
@[simp] theorem modPwr_noMirror (s : State) (f : Power → Power) : (modPwr s f).noMirror = s.noMirror := rfl
@[simp] theorem modPwr_mirrorAt (s : State) (f : Power → Power) : (modPwr s f).mirrorAt = s.mirrorAt := rfl
@[simp] theorem modPwr_tick (s : State) (f : Power → Power) : (modPwr s f).tick = s.tick := rfl
@[simp] theorem modPwr_ctxs (s : State) (f : Power → Power) : (modPwr s f).ctxs = s.ctxs := rfl
@[simp] theorem modPwr_dies (s : State) (f : Power → Power) : (modPwr s f).dies = s.dies := rfl
@[simp] theorem modPwr_flight (s : State) (f : Power → Power) : (modPwr s f).flight = s.flight := rfl
@[simp] theorem modPwr_retries (s : State) (f : Power → Power) : (modPwr s f).retries = s.retries := rfl
@[simp] theorem modPwr_adpRun (s : State) (f : Power → Power) : (modPwr s f).adpRun = s.adpRun := rfl
@[simp] theorem modPwr_adpShown (s : State) (f : Power → Power) : (modPwr s f).adpShown = s.adpShown := rfl
@[simp] theorem modPwr_sclRun (s : State) (f : Power → Power) : (modPwr s f).sclRun = s.sclRun := rfl
@[simp] theorem modPwr_sclShown (s : State) (f : Power → Power) : (modPwr s f).sclShown = s.sclShown := rfl
@[simp] theorem modPwr_pend (s : State) (f : Power → Power) : (modPwr s f).pend = s.pend := rfl
@[simp] theorem modPwr_orphans (s : State) (f : Power → Power) : (modPwr s f).orphans = s.orphans := rfl
@[simp] theorem modPwr_reeve (s : State) (f : Power → Power) : (modPwr s f).reeve = s.reeve := rfl
@[simp] theorem modPwr_polders (s : State) (f : Power → Power) : (modPwr s f).polders = s.polders := rfl
@[simp] theorem modPwr_dikes (s : State) (f : Power → Power) : (modPwr s f).dikes = s.dikes := rfl
@[simp] theorem modPwr_sluice (s : State) (f : Power → Power) : (modPwr s f).sluice = s.sluice := rfl
@[simp] theorem modPwr_weirs (s : State) (f : Power → Power) : (modPwr s f).weirs = s.weirs := rfl
@[simp] theorem modPwr_walks (s : State) (f : Power → Power) : (modPwr s f).walks = s.walks := rfl
@[simp] theorem modPwr_jobs (s : State) (f : Power → Power) : (modPwr s f).jobs = s.jobs := rfl
@[simp] theorem modPwr_colls (s : State) (f : Power → Power) : (modPwr s f).colls = s.colls := rfl
@[simp] theorem modPwr_bsus (s : State) (f : Power → Power) : (modPwr s f).bsus = s.bsus := rfl
@[simp] theorem modPwr_eccPend (s : State) (f : Power → Power) : (modPwr s f).eccPend = s.eccPend := rfl
@[simp] theorem modPwr_sys (s : State) (f : Power → Power) : (modPwr s f).sys = s.sys := rfl
@[simp] theorem modPwr_movers (s : State) (f : Power → Power) : (modPwr s f).movers = s.movers := rfl
@[simp] theorem modPwr_pool (s : State) (f : Power → Power) : (modPwr s f).pool = s.pool := rfl
@[simp] theorem modPwr_poolBad (s : State) (f : Power → Power) : (modPwr s f).poolBad = s.poolBad := rfl
@[simp] theorem modPwr_wins (s : State) (f : Power → Power) : (modPwr s f).wins = s.wins := rfl
@[simp] theorem modPwr_pubs (s : State) (f : Power → Power) : (modPwr s f).pubs = s.pubs := rfl
@[simp] theorem modPwr_models (s : State) (f : Power → Power) : (modPwr s f).models = s.models := rfl
@[simp] theorem modPwr_passes (s : State) (f : Power → Power) : (modPwr s f).passes = s.passes := rfl
@[simp] theorem modPwr_trains (s : State) (f : Power → Power) : (modPwr s f).trains = s.trains := rfl
@[simp] theorem modPwr_tables (s : State) (f : Power → Power) : (modPwr s f).tables = s.tables := rfl
@[simp] theorem modPwr_hots (s : State) (f : Power → Power) : (modPwr s f).hots = s.hots := rfl
@[simp] theorem modPwr_hotAsk (s : State) (f : Power → Power) : (modPwr s f).hotAsk = s.hotAsk := rfl
@[simp] theorem modPwr_ahead (s : State) (f : Power → Power) : (modPwr s f).ahead = s.ahead := rfl
@[simp] theorem modPwr_fss (s : State) (f : Power → Power) : (modPwr s f).fss = s.fss := rfl
@[simp] theorem modPwr_toeLost (s : State) (f : Power → Power) : (modPwr s f).toeLost = s.toeLost := rfl
@[simp] theorem modPwr_fab (s : State) (f : Power → Power) : (modPwr s f).fab = s.fab := rfl
@[simp] theorem modPwr_bml (s : State) (f : Power → Power) : (modPwr s f).bml = s.bml := rfl
@[simp] theorem modPwr_img (s : State) (f : Power → Power) : (modPwr s f).img = s.img := rfl
@[simp] theorem modPwr_fresh (s : State) (f : Power → Power) : (modPwr s f).fresh = s.fresh := rfl
@[simp] theorem modPwr_out (s : State) (f : Power → Power) : (modPwr s f).out = s.out := rfl
@[simp] theorem modPwr_pending (s : State) (f : Power → Power) : (modPwr s f).pending = s.pending := rfl

/-! ### setTable -/

@[simp] theorem setTable_now (s : State) (n : Nat) (t : Table) : (setTable s n t).now = s.now := rfl
@[simp] theorem setTable_csr (s : State) (n : Nat) (t : Table) : (setTable s n t).csr = s.csr := rfl
@[simp] theorem setTable_cnt (s : State) (n : Nat) (t : Table) : (setTable s n t).cnt = s.cnt := rfl
@[simp] theorem setTable_mem (s : State) (n : Nat) (t : Table) : (setTable s n t).mem = s.mem := rfl
@[simp] theorem setTable_chk (s : State) (n : Nat) (t : Table) : (setTable s n t).chk = s.chk := rfl
@[simp] theorem setTable_dir (s : State) (n : Nat) (t : Table) : (setTable s n t).dir = s.dir := rfl
@[simp] theorem setTable_mirror (s : State) (n : Nat) (t : Table) : (setTable s n t).mirror = s.mirror := rfl
@[simp] theorem setTable_noMirror (s : State) (n : Nat) (t : Table) : (setTable s n t).noMirror = s.noMirror := rfl
@[simp] theorem setTable_mirrorAt (s : State) (n : Nat) (t : Table) : (setTable s n t).mirrorAt = s.mirrorAt := rfl
@[simp] theorem setTable_tick (s : State) (n : Nat) (t : Table) : (setTable s n t).tick = s.tick := rfl
@[simp] theorem setTable_ctxs (s : State) (n : Nat) (t : Table) : (setTable s n t).ctxs = s.ctxs := rfl
@[simp] theorem setTable_dies (s : State) (n : Nat) (t : Table) : (setTable s n t).dies = s.dies := rfl
@[simp] theorem setTable_flight (s : State) (n : Nat) (t : Table) : (setTable s n t).flight = s.flight := rfl
@[simp] theorem setTable_retries (s : State) (n : Nat) (t : Table) : (setTable s n t).retries = s.retries := rfl
@[simp] theorem setTable_adpRun (s : State) (n : Nat) (t : Table) : (setTable s n t).adpRun = s.adpRun := rfl
@[simp] theorem setTable_adpShown (s : State) (n : Nat) (t : Table) : (setTable s n t).adpShown = s.adpShown := rfl
@[simp] theorem setTable_sclRun (s : State) (n : Nat) (t : Table) : (setTable s n t).sclRun = s.sclRun := rfl
@[simp] theorem setTable_sclShown (s : State) (n : Nat) (t : Table) : (setTable s n t).sclShown = s.sclShown := rfl
@[simp] theorem setTable_pend (s : State) (n : Nat) (t : Table) : (setTable s n t).pend = s.pend := rfl
@[simp] theorem setTable_orphans (s : State) (n : Nat) (t : Table) : (setTable s n t).orphans = s.orphans := rfl
@[simp] theorem setTable_reeve (s : State) (n : Nat) (t : Table) : (setTable s n t).reeve = s.reeve := rfl
@[simp] theorem setTable_polders (s : State) (n : Nat) (t : Table) : (setTable s n t).polders = s.polders := rfl
@[simp] theorem setTable_dikes (s : State) (n : Nat) (t : Table) : (setTable s n t).dikes = s.dikes := rfl
@[simp] theorem setTable_sluice (s : State) (n : Nat) (t : Table) : (setTable s n t).sluice = s.sluice := rfl
@[simp] theorem setTable_weirs (s : State) (n : Nat) (t : Table) : (setTable s n t).weirs = s.weirs := rfl
@[simp] theorem setTable_walks (s : State) (n : Nat) (t : Table) : (setTable s n t).walks = s.walks := rfl
@[simp] theorem setTable_jobs (s : State) (n : Nat) (t : Table) : (setTable s n t).jobs = s.jobs := rfl
@[simp] theorem setTable_colls (s : State) (n : Nat) (t : Table) : (setTable s n t).colls = s.colls := rfl
@[simp] theorem setTable_bsus (s : State) (n : Nat) (t : Table) : (setTable s n t).bsus = s.bsus := rfl
@[simp] theorem setTable_eccPend (s : State) (n : Nat) (t : Table) : (setTable s n t).eccPend = s.eccPend := rfl
@[simp] theorem setTable_sys (s : State) (n : Nat) (t : Table) : (setTable s n t).sys = s.sys := rfl
@[simp] theorem setTable_movers (s : State) (n : Nat) (t : Table) : (setTable s n t).movers = s.movers := rfl
@[simp] theorem setTable_pool (s : State) (n : Nat) (t : Table) : (setTable s n t).pool = s.pool := rfl
@[simp] theorem setTable_poolBad (s : State) (n : Nat) (t : Table) : (setTable s n t).poolBad = s.poolBad := rfl
@[simp] theorem setTable_wins (s : State) (n : Nat) (t : Table) : (setTable s n t).wins = s.wins := rfl
@[simp] theorem setTable_pubs (s : State) (n : Nat) (t : Table) : (setTable s n t).pubs = s.pubs := rfl
@[simp] theorem setTable_models (s : State) (n : Nat) (t : Table) : (setTable s n t).models = s.models := rfl
@[simp] theorem setTable_passes (s : State) (n : Nat) (t : Table) : (setTable s n t).passes = s.passes := rfl
@[simp] theorem setTable_trains (s : State) (n : Nat) (t : Table) : (setTable s n t).trains = s.trains := rfl
@[simp] theorem setTable_hots (s : State) (n : Nat) (t : Table) : (setTable s n t).hots = s.hots := rfl
@[simp] theorem setTable_hotAsk (s : State) (n : Nat) (t : Table) : (setTable s n t).hotAsk = s.hotAsk := rfl
@[simp] theorem setTable_ahead (s : State) (n : Nat) (t : Table) : (setTable s n t).ahead = s.ahead := rfl
@[simp] theorem setTable_fss (s : State) (n : Nat) (t : Table) : (setTable s n t).fss = s.fss := rfl
@[simp] theorem setTable_toeLost (s : State) (n : Nat) (t : Table) : (setTable s n t).toeLost = s.toeLost := rfl
@[simp] theorem setTable_fab (s : State) (n : Nat) (t : Table) : (setTable s n t).fab = s.fab := rfl
@[simp] theorem setTable_bml (s : State) (n : Nat) (t : Table) : (setTable s n t).bml = s.bml := rfl
@[simp] theorem setTable_img (s : State) (n : Nat) (t : Table) : (setTable s n t).img = s.img := rfl
@[simp] theorem setTable_pwr (s : State) (n : Nat) (t : Table) : (setTable s n t).pwr = s.pwr := rfl
@[simp] theorem setTable_fresh (s : State) (n : Nat) (t : Table) : (setTable s n t).fresh = s.fresh := rfl
@[simp] theorem setTable_out (s : State) (n : Nat) (t : Table) : (setTable s n t).out = s.out := rfl
@[simp] theorem setTable_pending (s : State) (n : Nat) (t : Table) : (setTable s n t).pending = s.pending := rfl

/-! ### modTable -/

@[simp] theorem modTable_now (s : State) (n : Nat) (f : Table → Table) : (modTable s n f).now = s.now := rfl
@[simp] theorem modTable_csr (s : State) (n : Nat) (f : Table → Table) : (modTable s n f).csr = s.csr := rfl
@[simp] theorem modTable_cnt (s : State) (n : Nat) (f : Table → Table) : (modTable s n f).cnt = s.cnt := rfl
@[simp] theorem modTable_mem (s : State) (n : Nat) (f : Table → Table) : (modTable s n f).mem = s.mem := rfl
@[simp] theorem modTable_chk (s : State) (n : Nat) (f : Table → Table) : (modTable s n f).chk = s.chk := rfl
@[simp] theorem modTable_dir (s : State) (n : Nat) (f : Table → Table) : (modTable s n f).dir = s.dir := rfl
@[simp] theorem modTable_mirror (s : State) (n : Nat) (f : Table → Table) : (modTable s n f).mirror = s.mirror := rfl
@[simp] theorem modTable_noMirror (s : State) (n : Nat) (f : Table → Table) : (modTable s n f).noMirror = s.noMirror := rfl
@[simp] theorem modTable_mirrorAt (s : State) (n : Nat) (f : Table → Table) : (modTable s n f).mirrorAt = s.mirrorAt := rfl
@[simp] theorem modTable_tick (s : State) (n : Nat) (f : Table → Table) : (modTable s n f).tick = s.tick := rfl
@[simp] theorem modTable_ctxs (s : State) (n : Nat) (f : Table → Table) : (modTable s n f).ctxs = s.ctxs := rfl
@[simp] theorem modTable_dies (s : State) (n : Nat) (f : Table → Table) : (modTable s n f).dies = s.dies := rfl
@[simp] theorem modTable_flight (s : State) (n : Nat) (f : Table → Table) : (modTable s n f).flight = s.flight := rfl
@[simp] theorem modTable_retries (s : State) (n : Nat) (f : Table → Table) : (modTable s n f).retries = s.retries := rfl
@[simp] theorem modTable_adpRun (s : State) (n : Nat) (f : Table → Table) : (modTable s n f).adpRun = s.adpRun := rfl
@[simp] theorem modTable_adpShown (s : State) (n : Nat) (f : Table → Table) : (modTable s n f).adpShown = s.adpShown := rfl
@[simp] theorem modTable_sclRun (s : State) (n : Nat) (f : Table → Table) : (modTable s n f).sclRun = s.sclRun := rfl
@[simp] theorem modTable_sclShown (s : State) (n : Nat) (f : Table → Table) : (modTable s n f).sclShown = s.sclShown := rfl
@[simp] theorem modTable_pend (s : State) (n : Nat) (f : Table → Table) : (modTable s n f).pend = s.pend := rfl
@[simp] theorem modTable_orphans (s : State) (n : Nat) (f : Table → Table) : (modTable s n f).orphans = s.orphans := rfl
@[simp] theorem modTable_reeve (s : State) (n : Nat) (f : Table → Table) : (modTable s n f).reeve = s.reeve := rfl
@[simp] theorem modTable_polders (s : State) (n : Nat) (f : Table → Table) : (modTable s n f).polders = s.polders := rfl
@[simp] theorem modTable_dikes (s : State) (n : Nat) (f : Table → Table) : (modTable s n f).dikes = s.dikes := rfl
@[simp] theorem modTable_sluice (s : State) (n : Nat) (f : Table → Table) : (modTable s n f).sluice = s.sluice := rfl
@[simp] theorem modTable_weirs (s : State) (n : Nat) (f : Table → Table) : (modTable s n f).weirs = s.weirs := rfl
@[simp] theorem modTable_walks (s : State) (n : Nat) (f : Table → Table) : (modTable s n f).walks = s.walks := rfl
@[simp] theorem modTable_jobs (s : State) (n : Nat) (f : Table → Table) : (modTable s n f).jobs = s.jobs := rfl
@[simp] theorem modTable_colls (s : State) (n : Nat) (f : Table → Table) : (modTable s n f).colls = s.colls := rfl
@[simp] theorem modTable_bsus (s : State) (n : Nat) (f : Table → Table) : (modTable s n f).bsus = s.bsus := rfl
@[simp] theorem modTable_eccPend (s : State) (n : Nat) (f : Table → Table) : (modTable s n f).eccPend = s.eccPend := rfl
@[simp] theorem modTable_sys (s : State) (n : Nat) (f : Table → Table) : (modTable s n f).sys = s.sys := rfl
@[simp] theorem modTable_movers (s : State) (n : Nat) (f : Table → Table) : (modTable s n f).movers = s.movers := rfl
@[simp] theorem modTable_pool (s : State) (n : Nat) (f : Table → Table) : (modTable s n f).pool = s.pool := rfl
@[simp] theorem modTable_poolBad (s : State) (n : Nat) (f : Table → Table) : (modTable s n f).poolBad = s.poolBad := rfl
@[simp] theorem modTable_wins (s : State) (n : Nat) (f : Table → Table) : (modTable s n f).wins = s.wins := rfl
@[simp] theorem modTable_pubs (s : State) (n : Nat) (f : Table → Table) : (modTable s n f).pubs = s.pubs := rfl
@[simp] theorem modTable_models (s : State) (n : Nat) (f : Table → Table) : (modTable s n f).models = s.models := rfl
@[simp] theorem modTable_passes (s : State) (n : Nat) (f : Table → Table) : (modTable s n f).passes = s.passes := rfl
@[simp] theorem modTable_trains (s : State) (n : Nat) (f : Table → Table) : (modTable s n f).trains = s.trains := rfl
@[simp] theorem modTable_hots (s : State) (n : Nat) (f : Table → Table) : (modTable s n f).hots = s.hots := rfl
@[simp] theorem modTable_hotAsk (s : State) (n : Nat) (f : Table → Table) : (modTable s n f).hotAsk = s.hotAsk := rfl
@[simp] theorem modTable_ahead (s : State) (n : Nat) (f : Table → Table) : (modTable s n f).ahead = s.ahead := rfl
@[simp] theorem modTable_fss (s : State) (n : Nat) (f : Table → Table) : (modTable s n f).fss = s.fss := rfl
@[simp] theorem modTable_toeLost (s : State) (n : Nat) (f : Table → Table) : (modTable s n f).toeLost = s.toeLost := rfl
@[simp] theorem modTable_fab (s : State) (n : Nat) (f : Table → Table) : (modTable s n f).fab = s.fab := rfl
@[simp] theorem modTable_bml (s : State) (n : Nat) (f : Table → Table) : (modTable s n f).bml = s.bml := rfl
@[simp] theorem modTable_img (s : State) (n : Nat) (f : Table → Table) : (modTable s n f).img = s.img := rfl
@[simp] theorem modTable_pwr (s : State) (n : Nat) (f : Table → Table) : (modTable s n f).pwr = s.pwr := rfl
@[simp] theorem modTable_fresh (s : State) (n : Nat) (f : Table → Table) : (modTable s n f).fresh = s.fresh := rfl
@[simp] theorem modTable_out (s : State) (n : Nat) (f : Table → Table) : (modTable s n f).out = s.out := rfl
@[simp] theorem modTable_pending (s : State) (n : Nat) (f : Table → Table) : (modTable s n f).pending = s.pending := rfl

/-! ### setPass -/

@[simp] theorem setPass_now (s : State) (key : Nat) (p : Pass) : (setPass s key p).now = s.now := rfl
@[simp] theorem setPass_csr (s : State) (key : Nat) (p : Pass) : (setPass s key p).csr = s.csr := rfl
@[simp] theorem setPass_cnt (s : State) (key : Nat) (p : Pass) : (setPass s key p).cnt = s.cnt := rfl
@[simp] theorem setPass_mem (s : State) (key : Nat) (p : Pass) : (setPass s key p).mem = s.mem := rfl
@[simp] theorem setPass_chk (s : State) (key : Nat) (p : Pass) : (setPass s key p).chk = s.chk := rfl
@[simp] theorem setPass_dir (s : State) (key : Nat) (p : Pass) : (setPass s key p).dir = s.dir := rfl
@[simp] theorem setPass_mirror (s : State) (key : Nat) (p : Pass) : (setPass s key p).mirror = s.mirror := rfl
@[simp] theorem setPass_noMirror (s : State) (key : Nat) (p : Pass) : (setPass s key p).noMirror = s.noMirror := rfl
@[simp] theorem setPass_mirrorAt (s : State) (key : Nat) (p : Pass) : (setPass s key p).mirrorAt = s.mirrorAt := rfl
@[simp] theorem setPass_tick (s : State) (key : Nat) (p : Pass) : (setPass s key p).tick = s.tick := rfl
@[simp] theorem setPass_ctxs (s : State) (key : Nat) (p : Pass) : (setPass s key p).ctxs = s.ctxs := rfl
@[simp] theorem setPass_dies (s : State) (key : Nat) (p : Pass) : (setPass s key p).dies = s.dies := rfl
@[simp] theorem setPass_flight (s : State) (key : Nat) (p : Pass) : (setPass s key p).flight = s.flight := rfl
@[simp] theorem setPass_retries (s : State) (key : Nat) (p : Pass) : (setPass s key p).retries = s.retries := rfl
@[simp] theorem setPass_adpRun (s : State) (key : Nat) (p : Pass) : (setPass s key p).adpRun = s.adpRun := rfl
@[simp] theorem setPass_adpShown (s : State) (key : Nat) (p : Pass) : (setPass s key p).adpShown = s.adpShown := rfl
@[simp] theorem setPass_sclRun (s : State) (key : Nat) (p : Pass) : (setPass s key p).sclRun = s.sclRun := rfl
@[simp] theorem setPass_sclShown (s : State) (key : Nat) (p : Pass) : (setPass s key p).sclShown = s.sclShown := rfl
@[simp] theorem setPass_pend (s : State) (key : Nat) (p : Pass) : (setPass s key p).pend = s.pend := rfl
@[simp] theorem setPass_orphans (s : State) (key : Nat) (p : Pass) : (setPass s key p).orphans = s.orphans := rfl
@[simp] theorem setPass_reeve (s : State) (key : Nat) (p : Pass) : (setPass s key p).reeve = s.reeve := rfl
@[simp] theorem setPass_polders (s : State) (key : Nat) (p : Pass) : (setPass s key p).polders = s.polders := rfl
@[simp] theorem setPass_dikes (s : State) (key : Nat) (p : Pass) : (setPass s key p).dikes = s.dikes := rfl
@[simp] theorem setPass_sluice (s : State) (key : Nat) (p : Pass) : (setPass s key p).sluice = s.sluice := rfl
@[simp] theorem setPass_weirs (s : State) (key : Nat) (p : Pass) : (setPass s key p).weirs = s.weirs := rfl
@[simp] theorem setPass_walks (s : State) (key : Nat) (p : Pass) : (setPass s key p).walks = s.walks := rfl
@[simp] theorem setPass_jobs (s : State) (key : Nat) (p : Pass) : (setPass s key p).jobs = s.jobs := rfl
@[simp] theorem setPass_colls (s : State) (key : Nat) (p : Pass) : (setPass s key p).colls = s.colls := rfl
@[simp] theorem setPass_bsus (s : State) (key : Nat) (p : Pass) : (setPass s key p).bsus = s.bsus := rfl
@[simp] theorem setPass_eccPend (s : State) (key : Nat) (p : Pass) : (setPass s key p).eccPend = s.eccPend := rfl
@[simp] theorem setPass_sys (s : State) (key : Nat) (p : Pass) : (setPass s key p).sys = s.sys := rfl
@[simp] theorem setPass_movers (s : State) (key : Nat) (p : Pass) : (setPass s key p).movers = s.movers := rfl
@[simp] theorem setPass_pool (s : State) (key : Nat) (p : Pass) : (setPass s key p).pool = s.pool := rfl
@[simp] theorem setPass_poolBad (s : State) (key : Nat) (p : Pass) : (setPass s key p).poolBad = s.poolBad := rfl
@[simp] theorem setPass_wins (s : State) (key : Nat) (p : Pass) : (setPass s key p).wins = s.wins := rfl
@[simp] theorem setPass_pubs (s : State) (key : Nat) (p : Pass) : (setPass s key p).pubs = s.pubs := rfl
@[simp] theorem setPass_models (s : State) (key : Nat) (p : Pass) : (setPass s key p).models = s.models := rfl
@[simp] theorem setPass_trains (s : State) (key : Nat) (p : Pass) : (setPass s key p).trains = s.trains := rfl
@[simp] theorem setPass_tables (s : State) (key : Nat) (p : Pass) : (setPass s key p).tables = s.tables := rfl
@[simp] theorem setPass_hots (s : State) (key : Nat) (p : Pass) : (setPass s key p).hots = s.hots := rfl
@[simp] theorem setPass_hotAsk (s : State) (key : Nat) (p : Pass) : (setPass s key p).hotAsk = s.hotAsk := rfl
@[simp] theorem setPass_ahead (s : State) (key : Nat) (p : Pass) : (setPass s key p).ahead = s.ahead := rfl
@[simp] theorem setPass_fss (s : State) (key : Nat) (p : Pass) : (setPass s key p).fss = s.fss := rfl
@[simp] theorem setPass_toeLost (s : State) (key : Nat) (p : Pass) : (setPass s key p).toeLost = s.toeLost := rfl
@[simp] theorem setPass_fab (s : State) (key : Nat) (p : Pass) : (setPass s key p).fab = s.fab := rfl
@[simp] theorem setPass_bml (s : State) (key : Nat) (p : Pass) : (setPass s key p).bml = s.bml := rfl
@[simp] theorem setPass_img (s : State) (key : Nat) (p : Pass) : (setPass s key p).img = s.img := rfl
@[simp] theorem setPass_pwr (s : State) (key : Nat) (p : Pass) : (setPass s key p).pwr = s.pwr := rfl
@[simp] theorem setPass_fresh (s : State) (key : Nat) (p : Pass) : (setPass s key p).fresh = s.fresh := rfl
@[simp] theorem setPass_out (s : State) (key : Nat) (p : Pass) : (setPass s key p).out = s.out := rfl
@[simp] theorem setPass_pending (s : State) (key : Nat) (p : Pass) : (setPass s key p).pending = s.pending := rfl

/-! ### modPass -/

@[simp] theorem modPass_now (s : State) (key : Nat) (f : Pass → Pass) : (modPass s key f).now = s.now := rfl
@[simp] theorem modPass_csr (s : State) (key : Nat) (f : Pass → Pass) : (modPass s key f).csr = s.csr := rfl
@[simp] theorem modPass_cnt (s : State) (key : Nat) (f : Pass → Pass) : (modPass s key f).cnt = s.cnt := rfl
@[simp] theorem modPass_mem (s : State) (key : Nat) (f : Pass → Pass) : (modPass s key f).mem = s.mem := rfl
@[simp] theorem modPass_chk (s : State) (key : Nat) (f : Pass → Pass) : (modPass s key f).chk = s.chk := rfl
@[simp] theorem modPass_dir (s : State) (key : Nat) (f : Pass → Pass) : (modPass s key f).dir = s.dir := rfl
@[simp] theorem modPass_mirror (s : State) (key : Nat) (f : Pass → Pass) : (modPass s key f).mirror = s.mirror := rfl
@[simp] theorem modPass_noMirror (s : State) (key : Nat) (f : Pass → Pass) : (modPass s key f).noMirror = s.noMirror := rfl
@[simp] theorem modPass_mirrorAt (s : State) (key : Nat) (f : Pass → Pass) : (modPass s key f).mirrorAt = s.mirrorAt := rfl
@[simp] theorem modPass_tick (s : State) (key : Nat) (f : Pass → Pass) : (modPass s key f).tick = s.tick := rfl
@[simp] theorem modPass_ctxs (s : State) (key : Nat) (f : Pass → Pass) : (modPass s key f).ctxs = s.ctxs := rfl
@[simp] theorem modPass_dies (s : State) (key : Nat) (f : Pass → Pass) : (modPass s key f).dies = s.dies := rfl
@[simp] theorem modPass_flight (s : State) (key : Nat) (f : Pass → Pass) : (modPass s key f).flight = s.flight := rfl
@[simp] theorem modPass_retries (s : State) (key : Nat) (f : Pass → Pass) : (modPass s key f).retries = s.retries := rfl
@[simp] theorem modPass_adpRun (s : State) (key : Nat) (f : Pass → Pass) : (modPass s key f).adpRun = s.adpRun := rfl
@[simp] theorem modPass_adpShown (s : State) (key : Nat) (f : Pass → Pass) : (modPass s key f).adpShown = s.adpShown := rfl
@[simp] theorem modPass_sclRun (s : State) (key : Nat) (f : Pass → Pass) : (modPass s key f).sclRun = s.sclRun := rfl
@[simp] theorem modPass_sclShown (s : State) (key : Nat) (f : Pass → Pass) : (modPass s key f).sclShown = s.sclShown := rfl
@[simp] theorem modPass_pend (s : State) (key : Nat) (f : Pass → Pass) : (modPass s key f).pend = s.pend := rfl
@[simp] theorem modPass_orphans (s : State) (key : Nat) (f : Pass → Pass) : (modPass s key f).orphans = s.orphans := rfl
@[simp] theorem modPass_reeve (s : State) (key : Nat) (f : Pass → Pass) : (modPass s key f).reeve = s.reeve := rfl
@[simp] theorem modPass_polders (s : State) (key : Nat) (f : Pass → Pass) : (modPass s key f).polders = s.polders := rfl
@[simp] theorem modPass_dikes (s : State) (key : Nat) (f : Pass → Pass) : (modPass s key f).dikes = s.dikes := rfl
@[simp] theorem modPass_sluice (s : State) (key : Nat) (f : Pass → Pass) : (modPass s key f).sluice = s.sluice := rfl
@[simp] theorem modPass_weirs (s : State) (key : Nat) (f : Pass → Pass) : (modPass s key f).weirs = s.weirs := rfl
@[simp] theorem modPass_walks (s : State) (key : Nat) (f : Pass → Pass) : (modPass s key f).walks = s.walks := rfl
@[simp] theorem modPass_jobs (s : State) (key : Nat) (f : Pass → Pass) : (modPass s key f).jobs = s.jobs := rfl
@[simp] theorem modPass_colls (s : State) (key : Nat) (f : Pass → Pass) : (modPass s key f).colls = s.colls := rfl
@[simp] theorem modPass_bsus (s : State) (key : Nat) (f : Pass → Pass) : (modPass s key f).bsus = s.bsus := rfl
@[simp] theorem modPass_eccPend (s : State) (key : Nat) (f : Pass → Pass) : (modPass s key f).eccPend = s.eccPend := rfl
@[simp] theorem modPass_sys (s : State) (key : Nat) (f : Pass → Pass) : (modPass s key f).sys = s.sys := rfl
@[simp] theorem modPass_movers (s : State) (key : Nat) (f : Pass → Pass) : (modPass s key f).movers = s.movers := rfl
@[simp] theorem modPass_pool (s : State) (key : Nat) (f : Pass → Pass) : (modPass s key f).pool = s.pool := rfl
@[simp] theorem modPass_poolBad (s : State) (key : Nat) (f : Pass → Pass) : (modPass s key f).poolBad = s.poolBad := rfl
@[simp] theorem modPass_wins (s : State) (key : Nat) (f : Pass → Pass) : (modPass s key f).wins = s.wins := rfl
@[simp] theorem modPass_pubs (s : State) (key : Nat) (f : Pass → Pass) : (modPass s key f).pubs = s.pubs := rfl
@[simp] theorem modPass_models (s : State) (key : Nat) (f : Pass → Pass) : (modPass s key f).models = s.models := rfl
@[simp] theorem modPass_trains (s : State) (key : Nat) (f : Pass → Pass) : (modPass s key f).trains = s.trains := rfl
@[simp] theorem modPass_tables (s : State) (key : Nat) (f : Pass → Pass) : (modPass s key f).tables = s.tables := rfl
@[simp] theorem modPass_hots (s : State) (key : Nat) (f : Pass → Pass) : (modPass s key f).hots = s.hots := rfl
@[simp] theorem modPass_hotAsk (s : State) (key : Nat) (f : Pass → Pass) : (modPass s key f).hotAsk = s.hotAsk := rfl
@[simp] theorem modPass_ahead (s : State) (key : Nat) (f : Pass → Pass) : (modPass s key f).ahead = s.ahead := rfl
@[simp] theorem modPass_fss (s : State) (key : Nat) (f : Pass → Pass) : (modPass s key f).fss = s.fss := rfl
@[simp] theorem modPass_toeLost (s : State) (key : Nat) (f : Pass → Pass) : (modPass s key f).toeLost = s.toeLost := rfl
@[simp] theorem modPass_fab (s : State) (key : Nat) (f : Pass → Pass) : (modPass s key f).fab = s.fab := rfl
@[simp] theorem modPass_bml (s : State) (key : Nat) (f : Pass → Pass) : (modPass s key f).bml = s.bml := rfl
@[simp] theorem modPass_img (s : State) (key : Nat) (f : Pass → Pass) : (modPass s key f).img = s.img := rfl
@[simp] theorem modPass_pwr (s : State) (key : Nat) (f : Pass → Pass) : (modPass s key f).pwr = s.pwr := rfl
@[simp] theorem modPass_fresh (s : State) (key : Nat) (f : Pass → Pass) : (modPass s key f).fresh = s.fresh := rfl
@[simp] theorem modPass_out (s : State) (key : Nat) (f : Pass → Pass) : (modPass s key f).out = s.out := rfl
@[simp] theorem modPass_pending (s : State) (key : Nat) (f : Pass → Pass) : (modPass s key f).pending = s.pending := rfl

/-! ### modTick -/

@[simp] theorem modTick_now (s : State) (f : TickUnit → TickUnit) : (modTick s f).now = s.now := rfl
@[simp] theorem modTick_csr (s : State) (f : TickUnit → TickUnit) : (modTick s f).csr = s.csr := rfl
@[simp] theorem modTick_cnt (s : State) (f : TickUnit → TickUnit) : (modTick s f).cnt = s.cnt := rfl
@[simp] theorem modTick_mem (s : State) (f : TickUnit → TickUnit) : (modTick s f).mem = s.mem := rfl
@[simp] theorem modTick_chk (s : State) (f : TickUnit → TickUnit) : (modTick s f).chk = s.chk := rfl
@[simp] theorem modTick_dir (s : State) (f : TickUnit → TickUnit) : (modTick s f).dir = s.dir := rfl
@[simp] theorem modTick_mirror (s : State) (f : TickUnit → TickUnit) : (modTick s f).mirror = s.mirror := rfl
@[simp] theorem modTick_noMirror (s : State) (f : TickUnit → TickUnit) : (modTick s f).noMirror = s.noMirror := rfl
@[simp] theorem modTick_mirrorAt (s : State) (f : TickUnit → TickUnit) : (modTick s f).mirrorAt = s.mirrorAt := rfl
@[simp] theorem modTick_ctxs (s : State) (f : TickUnit → TickUnit) : (modTick s f).ctxs = s.ctxs := rfl
@[simp] theorem modTick_dies (s : State) (f : TickUnit → TickUnit) : (modTick s f).dies = s.dies := rfl
@[simp] theorem modTick_flight (s : State) (f : TickUnit → TickUnit) : (modTick s f).flight = s.flight := rfl
@[simp] theorem modTick_retries (s : State) (f : TickUnit → TickUnit) : (modTick s f).retries = s.retries := rfl
@[simp] theorem modTick_adpRun (s : State) (f : TickUnit → TickUnit) : (modTick s f).adpRun = s.adpRun := rfl
@[simp] theorem modTick_adpShown (s : State) (f : TickUnit → TickUnit) : (modTick s f).adpShown = s.adpShown := rfl
@[simp] theorem modTick_sclRun (s : State) (f : TickUnit → TickUnit) : (modTick s f).sclRun = s.sclRun := rfl
@[simp] theorem modTick_sclShown (s : State) (f : TickUnit → TickUnit) : (modTick s f).sclShown = s.sclShown := rfl
@[simp] theorem modTick_pend (s : State) (f : TickUnit → TickUnit) : (modTick s f).pend = s.pend := rfl
@[simp] theorem modTick_orphans (s : State) (f : TickUnit → TickUnit) : (modTick s f).orphans = s.orphans := rfl
@[simp] theorem modTick_reeve (s : State) (f : TickUnit → TickUnit) : (modTick s f).reeve = s.reeve := rfl
@[simp] theorem modTick_polders (s : State) (f : TickUnit → TickUnit) : (modTick s f).polders = s.polders := rfl
@[simp] theorem modTick_dikes (s : State) (f : TickUnit → TickUnit) : (modTick s f).dikes = s.dikes := rfl
@[simp] theorem modTick_sluice (s : State) (f : TickUnit → TickUnit) : (modTick s f).sluice = s.sluice := rfl
@[simp] theorem modTick_weirs (s : State) (f : TickUnit → TickUnit) : (modTick s f).weirs = s.weirs := rfl
@[simp] theorem modTick_walks (s : State) (f : TickUnit → TickUnit) : (modTick s f).walks = s.walks := rfl
@[simp] theorem modTick_jobs (s : State) (f : TickUnit → TickUnit) : (modTick s f).jobs = s.jobs := rfl
@[simp] theorem modTick_colls (s : State) (f : TickUnit → TickUnit) : (modTick s f).colls = s.colls := rfl
@[simp] theorem modTick_bsus (s : State) (f : TickUnit → TickUnit) : (modTick s f).bsus = s.bsus := rfl
@[simp] theorem modTick_eccPend (s : State) (f : TickUnit → TickUnit) : (modTick s f).eccPend = s.eccPend := rfl
@[simp] theorem modTick_sys (s : State) (f : TickUnit → TickUnit) : (modTick s f).sys = s.sys := rfl
@[simp] theorem modTick_movers (s : State) (f : TickUnit → TickUnit) : (modTick s f).movers = s.movers := rfl
@[simp] theorem modTick_pool (s : State) (f : TickUnit → TickUnit) : (modTick s f).pool = s.pool := rfl
@[simp] theorem modTick_poolBad (s : State) (f : TickUnit → TickUnit) : (modTick s f).poolBad = s.poolBad := rfl
@[simp] theorem modTick_wins (s : State) (f : TickUnit → TickUnit) : (modTick s f).wins = s.wins := rfl
@[simp] theorem modTick_pubs (s : State) (f : TickUnit → TickUnit) : (modTick s f).pubs = s.pubs := rfl
@[simp] theorem modTick_models (s : State) (f : TickUnit → TickUnit) : (modTick s f).models = s.models := rfl
@[simp] theorem modTick_passes (s : State) (f : TickUnit → TickUnit) : (modTick s f).passes = s.passes := rfl
@[simp] theorem modTick_trains (s : State) (f : TickUnit → TickUnit) : (modTick s f).trains = s.trains := rfl
@[simp] theorem modTick_tables (s : State) (f : TickUnit → TickUnit) : (modTick s f).tables = s.tables := rfl
@[simp] theorem modTick_hots (s : State) (f : TickUnit → TickUnit) : (modTick s f).hots = s.hots := rfl
@[simp] theorem modTick_hotAsk (s : State) (f : TickUnit → TickUnit) : (modTick s f).hotAsk = s.hotAsk := rfl
@[simp] theorem modTick_ahead (s : State) (f : TickUnit → TickUnit) : (modTick s f).ahead = s.ahead := rfl
@[simp] theorem modTick_fss (s : State) (f : TickUnit → TickUnit) : (modTick s f).fss = s.fss := rfl
@[simp] theorem modTick_toeLost (s : State) (f : TickUnit → TickUnit) : (modTick s f).toeLost = s.toeLost := rfl
@[simp] theorem modTick_fab (s : State) (f : TickUnit → TickUnit) : (modTick s f).fab = s.fab := rfl
@[simp] theorem modTick_bml (s : State) (f : TickUnit → TickUnit) : (modTick s f).bml = s.bml := rfl
@[simp] theorem modTick_img (s : State) (f : TickUnit → TickUnit) : (modTick s f).img = s.img := rfl
@[simp] theorem modTick_pwr (s : State) (f : TickUnit → TickUnit) : (modTick s f).pwr = s.pwr := rfl
@[simp] theorem modTick_fresh (s : State) (f : TickUnit → TickUnit) : (modTick s f).fresh = s.fresh := rfl
@[simp] theorem modTick_out (s : State) (f : TickUnit → TickUnit) : (modTick s f).out = s.out := rfl
@[simp] theorem modTick_pending (s : State) (f : TickUnit → TickUnit) : (modTick s f).pending = s.pending := rfl

/-! ### setWalk -/

@[simp] theorem setWalk_now (s : State) (key : Nat) (w : Walk) : (setWalk s key w).now = s.now := rfl
@[simp] theorem setWalk_csr (s : State) (key : Nat) (w : Walk) : (setWalk s key w).csr = s.csr := rfl
@[simp] theorem setWalk_cnt (s : State) (key : Nat) (w : Walk) : (setWalk s key w).cnt = s.cnt := rfl
@[simp] theorem setWalk_mem (s : State) (key : Nat) (w : Walk) : (setWalk s key w).mem = s.mem := rfl
@[simp] theorem setWalk_chk (s : State) (key : Nat) (w : Walk) : (setWalk s key w).chk = s.chk := rfl
@[simp] theorem setWalk_dir (s : State) (key : Nat) (w : Walk) : (setWalk s key w).dir = s.dir := rfl
@[simp] theorem setWalk_mirror (s : State) (key : Nat) (w : Walk) : (setWalk s key w).mirror = s.mirror := rfl
@[simp] theorem setWalk_noMirror (s : State) (key : Nat) (w : Walk) : (setWalk s key w).noMirror = s.noMirror := rfl
@[simp] theorem setWalk_mirrorAt (s : State) (key : Nat) (w : Walk) : (setWalk s key w).mirrorAt = s.mirrorAt := rfl
@[simp] theorem setWalk_tick (s : State) (key : Nat) (w : Walk) : (setWalk s key w).tick = s.tick := rfl
@[simp] theorem setWalk_ctxs (s : State) (key : Nat) (w : Walk) : (setWalk s key w).ctxs = s.ctxs := rfl
@[simp] theorem setWalk_dies (s : State) (key : Nat) (w : Walk) : (setWalk s key w).dies = s.dies := rfl
@[simp] theorem setWalk_flight (s : State) (key : Nat) (w : Walk) : (setWalk s key w).flight = s.flight := rfl
@[simp] theorem setWalk_retries (s : State) (key : Nat) (w : Walk) : (setWalk s key w).retries = s.retries := rfl
@[simp] theorem setWalk_adpRun (s : State) (key : Nat) (w : Walk) : (setWalk s key w).adpRun = s.adpRun := rfl
@[simp] theorem setWalk_adpShown (s : State) (key : Nat) (w : Walk) : (setWalk s key w).adpShown = s.adpShown := rfl
@[simp] theorem setWalk_sclRun (s : State) (key : Nat) (w : Walk) : (setWalk s key w).sclRun = s.sclRun := rfl
@[simp] theorem setWalk_sclShown (s : State) (key : Nat) (w : Walk) : (setWalk s key w).sclShown = s.sclShown := rfl
@[simp] theorem setWalk_pend (s : State) (key : Nat) (w : Walk) : (setWalk s key w).pend = s.pend := rfl
@[simp] theorem setWalk_orphans (s : State) (key : Nat) (w : Walk) : (setWalk s key w).orphans = s.orphans := rfl
@[simp] theorem setWalk_reeve (s : State) (key : Nat) (w : Walk) : (setWalk s key w).reeve = s.reeve := rfl
@[simp] theorem setWalk_polders (s : State) (key : Nat) (w : Walk) : (setWalk s key w).polders = s.polders := rfl
@[simp] theorem setWalk_dikes (s : State) (key : Nat) (w : Walk) : (setWalk s key w).dikes = s.dikes := rfl
@[simp] theorem setWalk_sluice (s : State) (key : Nat) (w : Walk) : (setWalk s key w).sluice = s.sluice := rfl
@[simp] theorem setWalk_weirs (s : State) (key : Nat) (w : Walk) : (setWalk s key w).weirs = s.weirs := rfl
@[simp] theorem setWalk_jobs (s : State) (key : Nat) (w : Walk) : (setWalk s key w).jobs = s.jobs := rfl
@[simp] theorem setWalk_colls (s : State) (key : Nat) (w : Walk) : (setWalk s key w).colls = s.colls := rfl
@[simp] theorem setWalk_bsus (s : State) (key : Nat) (w : Walk) : (setWalk s key w).bsus = s.bsus := rfl
@[simp] theorem setWalk_eccPend (s : State) (key : Nat) (w : Walk) : (setWalk s key w).eccPend = s.eccPend := rfl
@[simp] theorem setWalk_sys (s : State) (key : Nat) (w : Walk) : (setWalk s key w).sys = s.sys := rfl
@[simp] theorem setWalk_movers (s : State) (key : Nat) (w : Walk) : (setWalk s key w).movers = s.movers := rfl
@[simp] theorem setWalk_pool (s : State) (key : Nat) (w : Walk) : (setWalk s key w).pool = s.pool := rfl
@[simp] theorem setWalk_poolBad (s : State) (key : Nat) (w : Walk) : (setWalk s key w).poolBad = s.poolBad := rfl
@[simp] theorem setWalk_wins (s : State) (key : Nat) (w : Walk) : (setWalk s key w).wins = s.wins := rfl
@[simp] theorem setWalk_pubs (s : State) (key : Nat) (w : Walk) : (setWalk s key w).pubs = s.pubs := rfl
@[simp] theorem setWalk_models (s : State) (key : Nat) (w : Walk) : (setWalk s key w).models = s.models := rfl
@[simp] theorem setWalk_passes (s : State) (key : Nat) (w : Walk) : (setWalk s key w).passes = s.passes := rfl
@[simp] theorem setWalk_trains (s : State) (key : Nat) (w : Walk) : (setWalk s key w).trains = s.trains := rfl
@[simp] theorem setWalk_tables (s : State) (key : Nat) (w : Walk) : (setWalk s key w).tables = s.tables := rfl
@[simp] theorem setWalk_hots (s : State) (key : Nat) (w : Walk) : (setWalk s key w).hots = s.hots := rfl
@[simp] theorem setWalk_hotAsk (s : State) (key : Nat) (w : Walk) : (setWalk s key w).hotAsk = s.hotAsk := rfl
@[simp] theorem setWalk_ahead (s : State) (key : Nat) (w : Walk) : (setWalk s key w).ahead = s.ahead := rfl
@[simp] theorem setWalk_fss (s : State) (key : Nat) (w : Walk) : (setWalk s key w).fss = s.fss := rfl
@[simp] theorem setWalk_toeLost (s : State) (key : Nat) (w : Walk) : (setWalk s key w).toeLost = s.toeLost := rfl
@[simp] theorem setWalk_fab (s : State) (key : Nat) (w : Walk) : (setWalk s key w).fab = s.fab := rfl
@[simp] theorem setWalk_bml (s : State) (key : Nat) (w : Walk) : (setWalk s key w).bml = s.bml := rfl
@[simp] theorem setWalk_img (s : State) (key : Nat) (w : Walk) : (setWalk s key w).img = s.img := rfl
@[simp] theorem setWalk_pwr (s : State) (key : Nat) (w : Walk) : (setWalk s key w).pwr = s.pwr := rfl
@[simp] theorem setWalk_fresh (s : State) (key : Nat) (w : Walk) : (setWalk s key w).fresh = s.fresh := rfl
@[simp] theorem setWalk_out (s : State) (key : Nat) (w : Walk) : (setWalk s key w).out = s.out := rfl
@[simp] theorem setWalk_pending (s : State) (key : Nat) (w : Walk) : (setWalk s key w).pending = s.pending := rfl

/-! ### freeSlot -/

@[simp] theorem freeSlot_now (s : State) (key : Nat) : (freeSlot s key).now = s.now := rfl
@[simp] theorem freeSlot_csr (s : State) (key : Nat) : (freeSlot s key).csr = s.csr := rfl
@[simp] theorem freeSlot_cnt (s : State) (key : Nat) : (freeSlot s key).cnt = s.cnt := rfl
@[simp] theorem freeSlot_mem (s : State) (key : Nat) : (freeSlot s key).mem = s.mem := rfl
@[simp] theorem freeSlot_chk (s : State) (key : Nat) : (freeSlot s key).chk = s.chk := rfl
@[simp] theorem freeSlot_dir (s : State) (key : Nat) : (freeSlot s key).dir = s.dir := rfl
@[simp] theorem freeSlot_mirror (s : State) (key : Nat) : (freeSlot s key).mirror = s.mirror := rfl
@[simp] theorem freeSlot_noMirror (s : State) (key : Nat) : (freeSlot s key).noMirror = s.noMirror := rfl
@[simp] theorem freeSlot_mirrorAt (s : State) (key : Nat) : (freeSlot s key).mirrorAt = s.mirrorAt := rfl
@[simp] theorem freeSlot_tick (s : State) (key : Nat) : (freeSlot s key).tick = s.tick := rfl
@[simp] theorem freeSlot_ctxs (s : State) (key : Nat) : (freeSlot s key).ctxs = s.ctxs := rfl
@[simp] theorem freeSlot_dies (s : State) (key : Nat) : (freeSlot s key).dies = s.dies := rfl
@[simp] theorem freeSlot_flight (s : State) (key : Nat) : (freeSlot s key).flight = s.flight := rfl
@[simp] theorem freeSlot_retries (s : State) (key : Nat) : (freeSlot s key).retries = s.retries := rfl
@[simp] theorem freeSlot_adpRun (s : State) (key : Nat) : (freeSlot s key).adpRun = s.adpRun := rfl
@[simp] theorem freeSlot_adpShown (s : State) (key : Nat) : (freeSlot s key).adpShown = s.adpShown := rfl
@[simp] theorem freeSlot_sclRun (s : State) (key : Nat) : (freeSlot s key).sclRun = s.sclRun := rfl
@[simp] theorem freeSlot_sclShown (s : State) (key : Nat) : (freeSlot s key).sclShown = s.sclShown := rfl
@[simp] theorem freeSlot_pend (s : State) (key : Nat) : (freeSlot s key).pend = s.pend := rfl
@[simp] theorem freeSlot_orphans (s : State) (key : Nat) : (freeSlot s key).orphans = s.orphans := rfl
@[simp] theorem freeSlot_reeve (s : State) (key : Nat) : (freeSlot s key).reeve = s.reeve := rfl
@[simp] theorem freeSlot_polders (s : State) (key : Nat) : (freeSlot s key).polders = s.polders := rfl
@[simp] theorem freeSlot_dikes (s : State) (key : Nat) : (freeSlot s key).dikes = s.dikes := rfl
@[simp] theorem freeSlot_sluice (s : State) (key : Nat) : (freeSlot s key).sluice = s.sluice := rfl
@[simp] theorem freeSlot_weirs (s : State) (key : Nat) : (freeSlot s key).weirs = s.weirs := rfl
@[simp] theorem freeSlot_jobs (s : State) (key : Nat) : (freeSlot s key).jobs = s.jobs := rfl
@[simp] theorem freeSlot_colls (s : State) (key : Nat) : (freeSlot s key).colls = s.colls := rfl
@[simp] theorem freeSlot_bsus (s : State) (key : Nat) : (freeSlot s key).bsus = s.bsus := rfl
@[simp] theorem freeSlot_eccPend (s : State) (key : Nat) : (freeSlot s key).eccPend = s.eccPend := rfl
@[simp] theorem freeSlot_sys (s : State) (key : Nat) : (freeSlot s key).sys = s.sys := rfl
@[simp] theorem freeSlot_movers (s : State) (key : Nat) : (freeSlot s key).movers = s.movers := rfl
@[simp] theorem freeSlot_pool (s : State) (key : Nat) : (freeSlot s key).pool = s.pool := rfl
@[simp] theorem freeSlot_poolBad (s : State) (key : Nat) : (freeSlot s key).poolBad = s.poolBad := rfl
@[simp] theorem freeSlot_wins (s : State) (key : Nat) : (freeSlot s key).wins = s.wins := rfl
@[simp] theorem freeSlot_pubs (s : State) (key : Nat) : (freeSlot s key).pubs = s.pubs := rfl
@[simp] theorem freeSlot_models (s : State) (key : Nat) : (freeSlot s key).models = s.models := rfl
@[simp] theorem freeSlot_passes (s : State) (key : Nat) : (freeSlot s key).passes = s.passes := rfl
@[simp] theorem freeSlot_trains (s : State) (key : Nat) : (freeSlot s key).trains = s.trains := rfl
@[simp] theorem freeSlot_tables (s : State) (key : Nat) : (freeSlot s key).tables = s.tables := rfl
@[simp] theorem freeSlot_hots (s : State) (key : Nat) : (freeSlot s key).hots = s.hots := rfl
@[simp] theorem freeSlot_hotAsk (s : State) (key : Nat) : (freeSlot s key).hotAsk = s.hotAsk := rfl
@[simp] theorem freeSlot_ahead (s : State) (key : Nat) : (freeSlot s key).ahead = s.ahead := rfl
@[simp] theorem freeSlot_fss (s : State) (key : Nat) : (freeSlot s key).fss = s.fss := rfl
@[simp] theorem freeSlot_toeLost (s : State) (key : Nat) : (freeSlot s key).toeLost = s.toeLost := rfl
@[simp] theorem freeSlot_fab (s : State) (key : Nat) : (freeSlot s key).fab = s.fab := rfl
@[simp] theorem freeSlot_bml (s : State) (key : Nat) : (freeSlot s key).bml = s.bml := rfl
@[simp] theorem freeSlot_img (s : State) (key : Nat) : (freeSlot s key).img = s.img := rfl
@[simp] theorem freeSlot_pwr (s : State) (key : Nat) : (freeSlot s key).pwr = s.pwr := rfl
@[simp] theorem freeSlot_fresh (s : State) (key : Nat) : (freeSlot s key).fresh = s.fresh := rfl
@[simp] theorem freeSlot_out (s : State) (key : Nat) : (freeSlot s key).out = s.out := rfl
@[simp] theorem freeSlot_pending (s : State) (key : Nat) : (freeSlot s key).pending = s.pending := rfl

end Sys2Proof.Laws
end

