-- ==== Sys2Proof/Laws/Ops.lean ====
section
/-! SUPPORT. What the operations that meanings share can do, once each. -/

namespace Sys2Proof.Laws

open Sys2Proof.Machine

/-! ### Fields of a word -/

theorem bits_testBit (n hi lo i : Nat) : (bits n hi lo).testBit i = (decide (i < hi + 1 - lo) && n.testBit (lo + i)) := by
  simp [bits, Nat.testBit_mod_two_pow, Nat.testBit_shiftRight]

theorem mask_testBit (hi lo i : Nat) : ((2 ^ (hi + 1 - lo) - 1) <<< lo).testBit i = (decide (lo ≤ i) && decide (i - lo < hi + 1 - lo)) := by
  simp [Nat.testBit_shiftLeft, Nat.testBit_two_pow_sub_one]

/-- Every bit of a word after a field of it is set. -/
theorem setFld_testBit (w : Word) (hi lo v i : Nat) : (setFld w hi lo v).toNat.testBit i
    = (decide (i < 64) && if lo ≤ i ∧ i - lo < hi + 1 - lo then v.testBit (i - lo) else w.toNat.testBit i) := by
  simp only [setFld, BitVec.toNat_or, BitVec.toNat_and, Nat.testBit_or, Nat.testBit_and, BitVec.testBit_toNat, BitVec.getLsbD_not,
    BitVec.getLsbD_ofNat, mask_testBit, Nat.testBit_shiftLeft]
  by_cases h : i < 64
  · by_cases h1 : lo ≤ i
    · by_cases h2 : i - lo < hi + 1 - lo <;> simp [h, h1, h2]
    · simp [h, h1]
  · simp [h, BitVec.getLsbD_of_ge _ _ (Nat.le_of_not_lt h)]

/-- A field that was set reads as what was stored. -/
theorem fld_setFld_self (w : Word) {hi lo : Nat} (v : Nat) (h : hi < 64) : fld (setFld w hi lo v) hi lo = v % 2 ^ (hi + 1 - lo) := by
  apply Nat.eq_of_testBit_eq
  intro i
  rw [fld, bits_testBit, setFld_testBit, Nat.testBit_mod_two_pow]
  by_cases hi' : i < hi + 1 - lo
  · have : lo + i < 64 := by omega
    simp [hi', this]
  · simp [hi']

/-- A field apart from the one that was set reads as before. -/
theorem fld_setFld_of_apart (w : Word) {hi lo hi' lo' : Nat} (v : Nat) (h : hi' < 64) (ha : hi' < lo ∨ hi < lo') :
    fld (setFld w hi lo v) hi' lo' = fld w hi' lo' := by
  apply Nat.eq_of_testBit_eq
  intro i
  rw [fld, fld, bits_testBit, bits_testBit, setFld_testBit]
  by_cases hi2 : i < hi' + 1 - lo'
  · have h1 : lo' + i < 64 := by omega
    have h2 : ¬(lo ≤ lo' + i ∧ lo' + i - lo < hi + 1 - lo) := by omega
    simp [hi2, h1, h2]
  · simp [hi2]

/-! ### Registers -/

@[simp] theorem getReg_setReg_self (s : State) (r : Reg) (v : Word) : getReg (setReg s r v) r = v :=
  getD_mapGet_mapPut_self _ _ _ _

theorem getReg_setReg_of_ne (s : State) {r x : Reg} (v : Word) (h : regAddr x ≠ regAddr r) : getReg (setReg s r v) x = getReg s x := by
  simp [getReg, setReg, mapGet_mapPut_of_ne _ _ _ h]

theorem getReg_setF_of_ne (s : State) {r x : Reg} (hi lo v : Nat) (h : regAddr x ≠ regAddr r) : getReg (setF s r hi lo v) x = getReg s x :=
  getReg_setReg_of_ne s _ h

theorem getF_setF_self (s : State) (r : Reg) {hi lo : Nat} (v : Nat) (h : hi < 64) : getF (setF s r hi lo v) r hi lo = v % 2 ^ (hi + 1 - lo) := by
  simp [getF, setF, fld_setFld_self _ _ h]

theorem getF_setF_of_apart (s : State) (r : Reg) {hi lo hi' lo' : Nat} (v : Nat) (h : hi' < 64) (ha : hi' < lo ∨ hi < lo') :
    getF (setF s r hi lo v) r hi' lo' = getF s r hi' lo' := by
  simp [getF, setF, fld_setFld_of_apart _ _ h ha]

theorem getF_setF_of_ne (s : State) {r x : Reg} (hi lo v hi' lo' : Nat) (h : regAddr x ≠ regAddr r) :
    getF (setF s r hi lo v) x hi' lo' = getF s x hi' lo' := by
  simp [getF, getReg_setF_of_ne s hi lo v h]

/-! ### When the part acts -/

theorem onPart_alive {s : State} (h : alive s = true) (f : State → State) : onPart s f = f s := by simp [onPart, h]

theorem onPart_dead {s : State} (h : alive s = false) (f : State → State) : onPart s f = s := by simp [onPart, h]

theorem onCrest_awake {s : State} (h : alive s = true) (hp : pwrState s < 2) (f : State → State) : onCrest s f = f s := by simp [onCrest, h, hp]

theorem onCrest_asleep {s : State} (h : alive s = false ∨ 2 ≤ pwrState s) (f : State → State) : onCrest s f = s := by
  rcases h with h | h
  · simp [onCrest, h]
  · simp [onCrest, Nat.not_lt.2 h]

@[simp] theorem at_now (s : State) (t : Stamp) : (at_ s t).now = max s.now t := rfl
@[simp] theorem alive_at (s : State) (t : Stamp) : alive (at_ s t) = alive s := rfl
@[simp] theorem getReg_at (s : State) (t : Stamp) (r : Reg) : getReg (at_ s t) r = getReg s r := rfl
@[simp] theorem pwrState_at (s : State) (t : Stamp) : pwrState (at_ s t) = pwrState s := rfl

/-! ### Messages and completions -/

/-- Giving credits keeps every message, in its order. -/
theorem creditAll_msgs (s : State) : ∀ r b : List Flight,
    (creditAll s b r).map (fun f => (f.src, f.dst, f.msg)) = (b ++ r).map fun f => (f.src, f.dst, f.msg)
  | [], b => by simp [creditAll]
  | f :: r, b => by
    rw [creditAll, creditAll_msgs s r]
    cases h : f.credit <;> simp [h]

/-- Sending touches the links' messages alone. -/
theorem sendMsg_eq (s : State) (a b : Nat) (m : LinkMsg) : ∃ fl, sendMsg s a b m = { s with flight := fl } := by
  unfold sendMsg
  split
  · exact ⟨s.flight, rfl⟩
  · exact ⟨_, rfl⟩

/-- Nothing is sent on a FAILED link or between lost dies; any other message flies last (R21, R33). -/
theorem sendMsg_msgs (s : State) (a b : Nat) (m : LinkMsg) :
    (sendMsg s a b m).flight.map (fun f => (f.src, f.dst, f.msg))
      = s.flight.map (fun f => (f.src, f.dst, f.msg)) ++ if linkFailed s a b || dieLost s a || dieLost s b then [] else [(a, b, m)] := by
  unfold sendMsg
  split
  · simp [*]
  · simp [*, pumpLinks, creditAll_msgs]

/-- A completion is queued last, unless nobody waits for it. -/
theorem pushPend_eq (s : State) (src : Src) (ws : List Word) (hold : Option Nat) (report : Bool) (ranked : Option Ranked) :
    pushPend s src ws hold report ranked = s ∨ pushPend s src ws hold report ranked = { s with pend := s.pend ++ [⟨src, ws, hold, report, ranked⟩] } := by
  unfold pushPend
  split
  · exact .inl rfl
  · exact .inr rfl

theorem retire_of_not_live {s : State} {c : Nat} (h : (getCtx s c).st ≠ .live) (code unit : Nat) : retire s c code unit = s := by
  simp [retire, h]

/-- Ending a request that is not LIVE does nothing (R101). -/
theorem endCtx_of_not_live {s : State} {c : Nat} (h : (getCtx s c).st ≠ .live) (code unit : Nat) : endCtx s c code unit = s := by
  simp [endCtx, h]

@[simp] theorem getCtx_setCtx_self (s : State) (c : Nat) (k : Ctx) : getCtx (setCtx s c k) c = k :=
  mapGetD_mapSet_self _ _ _ _

theorem getCtx_setCtx_of_ne (s : State) {c c' : Nat} (k : Ctx) (h : c' ≠ c) : getCtx (setCtx s c k) c' = getCtx s c' :=
  mapGetD_mapSet_of_ne _ _ _ h

@[simp] theorem getPolder_setPolder_self (s : State) (p : Nat) (v : Polder) : getPolder (setPolder s p v) p = v :=
  mapGetD_mapSet_self _ _ _ _

theorem getPolder_setPolder_of_ne (s : State) {p p' : Nat} (v : Polder) (h : p' ≠ p) : getPolder (setPolder s p v) p' = getPolder s p' :=
  mapGetD_mapSet_of_ne _ _ _ h

@[simp] theorem getColl_setColl_self (s : State) (c : Nat) (v : Coll) : getColl (setColl s c v) c = v :=
  mapGetD_mapSet_self _ _ _ _

theorem getColl_setColl_of_ne (s : State) {c c' : Nat} (v : Coll) (h : c' ≠ c) : getColl (setColl s c v) c' = getColl s c' :=
  mapGetD_mapSet_of_ne _ _ _ h

/-! ### Power -/

/-- With no entry in progress there is nothing to refuse or abort. -/
theorem refuseEntry_of_none {s : State} (h : s.pwr.entry = none) (tick reason kind who : Nat) (ab : Bool) : refuseEntry s tick reason kind who ab = s := by
  simp [refuseEntry, h]

theorem stopEntry_of_none {s : State} (h : s.pwr.entry = none) (by_ : Nat) : stopEntry s by_ = s :=
  refuseEntry_of_none h _ _ _ _ _

/-- A stopped entry is gone. -/
theorem stopEntry_entry (s : State) (by_ : Nat) : (stopEntry s by_).pwr.entry = none := by
  unfold stopEntry refuseEntry
  split
  · assumption
  · rfl

theorem unIdle_of_not_idle {s : State} (h : pwrState s ≠ 1) : unIdle s = s := by simp [unIdle, h]

/-- A source that the state does not have, or that is not enabled, wakes nothing (R529). -/
theorem wakeAt_of_off {s : State} {src : Nat} (h : sourceIn src (pwrState s) = false ∨ getF s rPwrWake src src = 0 ∨ s.pwr.vauxOk = false) (t : Stamp) :
    wakeAt s src t = s := by
  rcases h with h | h | h <;> simp [wakeAt, h]

/-! ### Replacement plans (R237) -/

/-- A plan that is valid and finds its pages is accepted. -/
theorem planCode_ok {s : State} {p r off a : Nat} {mine : Bool} (ha : regionAddr s p r off 64 = some a)
    (hv : planInvalid s p r off mine a = false) (hn : planNeed s a ≤ freeCount s p) : planCode s p r off mine = 0 := by
  simp [planCode, ha, hv, hn]

end Sys2Proof.Laws
end

