-- ==== Sys2Proof/Tests/Setup.lean ====
section
/-! SUPPORT. Small states that the tests and the witnesses are built from. -/

namespace Sys2Proof.Tests

open Sys2Proof.Machine

/-- The part after reset with tick 5 running from 1 ms to the boundary at 2 ms. -/
def ticking : State := modTick State.reset fun u => { u with
  running := true, begun := true, tick := 5, epoch := 5, base := 1000000, nextNum := 6, nextAt := some 2000000 }

/-- A state's alignment mode. -/
def mode (s : State) (m : Nat) : State := setF s (rTck .TCK_CFG) 33 32 m

/-- A LIVE request in slot `c`, owned by its home die, in stage `st` of polder `p`. -/
def live (s : State) (c p st : Nat) (src : Src) (desc : List Word := []) : State :=
  modDie (setCtx s c { Ctx.empty with st := .live, gen := 1, polder := p, stage := st, src := src, desc := desc, pin := 5, admitted := 4 })
    (homeDie c) fun d => { d with owns := d.owns ++ [⟨c, 1, none⟩] }

/-- A stage of kind `k` on every die. -/
def stage (num : Nat) (succ : Option Nat) (kind : StageKind) (object : Nat) : Stage :=
  { num := num, succ := succ, kind := kind, object := object, entries := 16, dies := [0, 1, 2, 3], firstPart := 0, parts := 4 }

/-- Polder `p` ACTIVE with stages and the entry points 0, which takes every kind. -/
def polder (s : State) (p : Nat) (stages : List Stage) : State :=
  setPolder s p { Polder.none with st := .active, stages := stages, entries := [⟨0, 0, 1, 65535⟩], seqSlots := [4, 4, 4, 4] }

/-- Connection `c` of polder `p`, kind `kind`, on port 0, ESTABLISHED, its port on. -/
def connection (s : State) (c p kind : Nat) (st : ConnState := .established) : State :=
  setConn (setF (wrW (modFab s fun f => { f with connArr := 4096 }) (4096 + 64 * c)
    (BitVec.ofNat 64 (p * 2 ^ 52 + kind * 2 ^ 49))) (rPortCfg 0) 37 36 1) c { Conn.fresh with st := st }

/-- A collection of polder 1 with one item, BF16 codes of 64 components and degree 1: descriptor at 64, segment table at 1024, partition
table at 2048 (partition 2 on die 1), version record at 4096, whose code and adjacency pages are zeros. Its mutation word 0 is `m`. -/
def collection (s : State) (n : Nat) (m : Word) : State :=
  wrWords (wrWords (wrWords (wrWords (wrWords (wrWords
    { s with colls := [(n, { Coll.none with polder := 1, desc := 64, writer := true })] }
    64 [BitVec.ofNat 64 (64 * 2 ^ 24 + 256), 0, BitVec.ofNat 64 (4 * 2 ^ 48 + 1), 0, 0, 0, 1024, 2048, m, 16 * 2 ^ 16, 1])
    1024 [4096, 0]) (2048 + 32) [1, 0]) 4096 [0, 0, 8192, 8256, 0, 0, 0, 0]) 8192 [mkPte false 65536]) 8256 [mkPte false 131072]

/-- A pair whose first part is `a` is `a` and its second part. -/
theorem fst_pair {α β : Type} {x : α × β} {a : α} (h : x.1 = a) : x = (a, x.2) := by
  rw [← h]

/-- A pair whose second part is `b` is its first part and `b`. -/
theorem snd_pair {α β : Type} {x : α × β} {b : β} (h : x.2 = b) : x = (x.1, b) := by
  rw [← h]

/-- An option that is not none is its own content. -/
theorem some_get {α : Type} {o : Option α} (h : o.isSome = true) : o = some (o.get h) := by
  simp

/-- A quadruple whose last part is 0. -/
theorem last_zero {α : Type} {x : α × Nat × Nat × Nat} (h : x.2.2.2 = 0) : x = (x.1, x.2.1, x.2.2.1, 0) := by
  rw [← h]

/-- A pair whose first part is an option that is not none, of a pair. -/
theorem start_pair {α β γ : Type} {x : Option (α × β) × γ} (h : x.1.isSome = true) : x = (some ((x.1.get h).1, (x.1.get h).2), x.2) :=
  Prod.ext (by simp) rfl

/-- A triple whose middle part is 0. -/
theorem mid_zero {α β : Type} {x : α × Nat × β} (h : x.2.1 = 0) : x = (x.1, 0, x.2.2) := by
  rw [← h]

/-- A triple is its parts. -/
theorem triple {α β γ : Type} {x : α × β × γ} : x = (x.1, x.2.1, x.2.2) := rfl

end Sys2Proof.Tests
end

