-- ==== Sys2Proof/Tests/Slice0.lean ====
section
/-! SUPPORT. Tests: the well-formedness check, and worked examples of the manual. -/

namespace Sys2Proof.Tests

open Sys2Proof.Machine

set_option Elab.async false

theorem test_reset_queue : State.reset.pending = [] := by decide

/-! ### Well-formed and ill-formed commands -/

def plainPacket : Packet := ⟨0, 0, 0, 0, 0, false, false, 0, []⟩
def plainMessage : FabMsg := ⟨0, 0, 0, 0, 0, 0, 0, 0, []⟩
def blankRec : BsuRec := Vector.replicate 8 0

theorem test_wf_accepts : [Instr.epochFreeze [(1, 0), (2, 1)] [(255, 0)], .stepStart 0 1 0, .scan 0 0 blankRec 262143,
    .unitWrite 0 0 16383 [1] none 0, .flashRead 0 0 none (some 17) 0, .rdS 0 64 0 0, .sub plainMessage 0, .sendOnly plainPacket 0, .tickBoundary].all Instr.wf
    = true := by decide
theorem test_wf_epoch_freeze_order : (Instr.wf (.epochFreeze [(2, 0), (1, 0)] [])) = false := by decide +kernel
theorem test_wf_epoch_freeze_number : (Instr.wf (.epochFreeze [] [(256, 0)])) = false := by decide +kernel
theorem test_wf_step_bound : (Instr.wf (.stepStart 0 0 0)) = false := by decide +kernel
theorem test_wf_sub_partition : (Instr.wf (.subRequest 0 0 65535 0)) = false := by decide +kernel
theorem test_wf_walk_partition : (Instr.wf (.walkStart 0 65535 0 0)) = false := by decide +kernel
theorem test_wf_scan_segment : (Instr.wf (.scan 0 0 blankRec 262144)) = false := by decide +kernel
theorem test_wf_shadow_segment : (Instr.wf (.shadow 0 0 blankRec 262144)) = false := by decide +kernel
theorem test_wf_filter_segment : (Instr.wf (.filter 0 0 blankRec 262144)) = false := by decide +kernel
theorem test_wf_prune_item : (Instr.wf (.prune 0 0 blankRec 0 4096)) = false := by decide +kernel
theorem test_wf_edgescan_consolidated : (Instr.wf (.edgescan 0 0 blankRec 262144 0 0)) = false := by decide +kernel
theorem test_wf_edgescan_segment : (Instr.wf (.edgescan 0 0 blankRec 0 262144 0)) = false := by decide +kernel
theorem test_wf_copy_pages : (Instr.wf (.copy 0 0 blankRec [])) = false := by decide +kernel
theorem test_wf_copy_pages_top : (Instr.wf (.copy 0 0 blankRec (List.replicate 4097 0))) = false := by decide +kernel
theorem test_wf_scan_list_segment : (Instr.wf (.scanSegmentList 0 262144 false)) = false := by decide +kernel
theorem test_wf_patrol_line : (Instr.wf (.patrolScrub 0 1610612736 0)) = false := by decide +kernel
theorem test_wf_recall_line : (Instr.wf (.recallTimeout 4398046511104 0)) = false := by decide +kernel
theorem test_wf_flash_ladder_low : (Instr.wf (.flashRead 0 0 none (some 0) 0)) = false := by decide +kernel
theorem test_wf_flash_ladder_high : (Instr.wf (.flashRead 0 0 none (some 18) 0)) = false := by decide +kernel
theorem test_wf_unit_write_empty : (Instr.wf (.unitWrite 0 0 0 [] none 0)) = false := by decide +kernel
theorem test_wf_unit_write_end : (Instr.wf (.unitWrite 0 0 16384 [1] none 0)) = false := by decide +kernel
theorem test_wf_gc_lun : (Instr.wf (.garbageCollection 2048 [] 0)) = false := by decide +kernel
theorem test_wf_gc_pages : (Instr.wf (.garbageCollection 0 [2, 2] 0)) = false := by decide +kernel
theorem test_wf_refresh_block : (Instr.wf (.blockRefresh 268435456 [] 0)) = false := by decide +kernel
theorem test_wf_erase_block : (Instr.wf (.blockErase 268435456)) = false := by decide +kernel
theorem test_wf_program_block : (Instr.wf (.programFailure 268435456 0)) = false := by decide +kernel
theorem test_wf_erase_failure_block : (Instr.wf (.eraseFailure 268435456)) = false := by decide +kernel
theorem test_wf_failed_lun : (Instr.wf (.lunFailed 2048)) = false := by decide +kernel
theorem test_wf_read_ladder : (Instr.wf (.read 0 [none, some 18] 0)) = false := by decide +kernel
theorem test_wf_frame_bytes : (Instr.wf (.ethernetFrame 0 false none 0 63 true true 0)) = false := by decide +kernel
theorem test_wf_pfc_order : (Instr.wf (.pfcFrame 0 0 [(1, 0), (1, 0)] 0)) = false := by decide +kernel
theorem test_wf_packet_bytes : (Instr.wf (.sendOnly { plainPacket with payload := List.replicate 4097 0 } 0)) = false := by decide +kernel
theorem test_wf_message_attempt : (Instr.wf (.sub { plainMessage with attempt := 4 } 0)) = false := by decide +kernel
theorem test_wf_message_epoch : (Instr.wf (.prepare { plainMessage with epoch := 281474976710656 })) = false := by decide +kernel
theorem test_wf_pool_ladder : (Instr.wf (.poolRead plainMessage [some 18] 0)) = false := by decide +kernel
theorem test_wf_training_reserves : (Instr.wf (.bmlTraining 0 ⟨255, 1, [8], 0, 560, 0, 3⟩ 0)) = false := by decide +kernel
theorem test_wf_data_flit_bytes : (Instr.wf (.dataFlit 0 (List.replicate 255 0) 0)) = false := by decide +kernel
theorem test_wf_idle_flit_bytes : (Instr.wf (.idleFlit 0 [])) = false := by decide +kernel
theorem test_wf_nak_flit_bytes : (Instr.wf (.nakFlit 0 [] 0)) = false := by decide +kernel
theorem test_wf_init_flit_bytes : (Instr.wf (.initFlit 0 [] 0)) = false := by decide +kernel
theorem test_wf_line_address : (Instr.wf (.rdS 0 65 0 0)) = false := by decide +kernel
theorem test_wf_owned_line_address : (Instr.wf (.rdO 0 1 0 0)) = false := by decide +kernel
theorem test_wf_write_data : (Instr.wf (.wrLine 0 0 0 [] 0)) = false := by decide +kernel
theorem test_wf_drop_address : (Instr.wf (.drop 0 1 0 0)) = false := by decide +kernel
theorem test_wf_write_back_data : (Instr.wf (.wbKeep 0 0 0 [] 0)) = false := by decide +kernel
theorem test_wf_write_back_drop_address : (Instr.wf (.wbDrop 0 1 0 (List.replicate 64 0) 0)) = false := by decide +kernel
theorem test_wf_snoop_address : (Instr.wf (.snpAck 0 1 0)) = false := by decide +kernel
theorem test_wf_snoop_data : (Instr.wf (.snpData 0 0 [] 0)) = false := by decide +kernel
theorem test_wf_wake_pulse : (Instr.wf (.wakeN 1 0)) = false := by decide +kernel
theorem test_wf_sensor_count : (Instr.wf (.sensorSample ⟨[], [], 0, 0, 0, 0⟩ 0)) = false := by decide +kernel
theorem test_wf_reset_pulse : (Instr.wf (.partReset 1 0)) = false := by decide +kernel
theorem test_wf_vin_pulse : (Instr.wf (.vinFault 1 0)) = false := by decide +kernel
theorem test_wf_vaux_pulse : (Instr.wf (.vauxLoss 1 0)) = false := by decide +kernel

/-! ### Worked examples of the manual -/

/-- The example after R8: shard 42, local id 0x3_0000_0010, lowest byte first. -/
theorem test_global_id_bytes :
    rdBytes (wrW State.reset 4096 (BitVec.ofNat 64 (42 * 2 ^ 40 + 0x300000010))) 4096 8 = [0x10, 0, 0, 0, 3, 0x2A, 0, 0] := by decide +kernel

/-- The example after R29: C2.X17, W301 and S07.B42. -/
theorem test_block_numbers : unitNo 2 0 17 = 0x2011 ∧ unitNo 2 1 45 = 0x212D ∧ unitNo 1 10 42 = 0x1A2A := by decide

/-- The example after R45: a 31 µs step in a window that ends at 92 µs fits from 55 µs and not from 62 µs. -/
def earlyTick : State := modTick State.reset fun u => { u with running := true, begun := true, nextAt := some 100000, nextNum := 1 }
theorem test_step_fits : fits earlyTick 55000 31000 = true ∧ fits earlyTick 62000 31000 = false := by decide +kernel

/-- The example after R266: the striped row 1,010 of S03, and back from the PC address. -/
def stripedRow : State := setReg State.reset (rowReg 3 1010) 1
theorem test_striped_line : pcOf stripedRow 0x5FAC123456 = (3, 1010, 61, 0x5EB04856) := by decide +kernel
theorem test_striped_back : ofPc stripedRow 3 61 0x5EB04856 = 0x5FAC123456 := by decide +kernel

/-- The example after R161: a code in bank-local row 12 of S07, frame offset 0x2_0000 and record offset 0x4820. -/
theorem test_bank_local_page : pcOf State.reset 0xA84C3A4820 = (7, 12, 45, 12 * 0x180000 + 0x24820) := by decide +kernel

/-- The examples after R312 and R325: E4M3 values, exponents, a block and its failures. -/
def ratio (n d : Nat) : F32 := f32OfRat false n d
theorem test_e4m3_values : e4m3Dec 0x5C = ratio 24 1 ∧ e4m3Dec 0x7E = ratio 448 1 ∧ e4m3Dec 1 = ratio 1 512 := by decide +kernel
theorem test_scale_exponents :
    scaleFor (fmax .e4m3) (ratio 57 10) 0 = -6 ∧ scaleFor (fmax .e4m3) (ratio 3400 1) 0 = 3 ∧ scaleFor (fmax .e4m3) (ratio 61 10) 0 = -6 := by
  decide +kernel
def block (s : Int) (xs : List F32) : QBlock := quantBlock .e4m3 (pow2 s) xs
theorem test_block_scale :
    (block (-6) [ratio 5 1, ratio 43 10]).b = ratio 3 4 ∧ (block (-6) [ratio 5 1, ratio 43 10]).q = [ratio 416 1, ratio 352 1] := by decide +kernel
theorem test_block_failures : (block (-6) [ratio 3400 1]).tooBig = true ∧ (block 3 [ratio 5 1]).tooSmall = true := by decide +kernel

/-- The merge example after R213, its scores in hundredths: items a to j are 1 to 10, the lists in arrival order 5, 2, 0. -/
def entry (score : Int) (pos id : Nat) : Entry := ⟨f32OfNatInt score, pos, id⟩
def plist (src : Nat) (es : List Entry) (full : Bool) (kth : F32) (tie left : Nat) (sum : Int) (r : EndReason) : PList :=
  ⟨src, es, full, left, f32OfNatInt sum, tie, kth, r, 0, false, [src], 0⟩
def mergeExample : Merged := mergeLists 4 (fun l _ => l.src)
  [plist 5 [entry 30 4 7, entry 35 5 8, entry 60 8 9, entry 70 11 10] true (f32OfNatInt 70) 0 3 240 .budget,
   plist 2 [entry 35 1 5, entry 50 0 6] false f32NaN 0 0 0 .exhausted,
   plist 0 [entry 20 3 1, entry 35 7 2, entry 50 2 3, entry 50 9 4] true (f32OfNatInt 50) 1 6 410 .budget]
theorem test_merge_order : mergeExample.out.entries.map (fun e => (e.id, e.src)) = [(1, 0), (7, 5), (2, 0), (5, 2)] := by decide +kernel
theorem test_merge_tallies : mergeExample.out.tie = 1 ∧ mergeExample.out.leftCount = 15 ∧ mergeExample.out.leftSum = f32OfNatInt 965
    ∧ mergeExample.out.selSum = f32OfNatInt 120 := by decide +kernel

/-- The rerank example after R213: a NaN score is dropped and the later copy of an id removed. -/
def rerankExample : Merged := mergeLists 3 (fun l _ => l.src)
  [plist 0 [entry (-31) 0 1, entry (-24) 1 2, entry (-24) 2 3, entry (-29) 3 2, entry (-10) 4 4, ⟨f32NaN, 5, 5⟩] true f32NaN 0 0 0 .exhausted]
theorem test_rerank_order : rerankExample.out.entries.map (·.id) = [1, 2, 3] ∧ rerankExample.nans = 1 ∧ rerankExample.dups = 1 := by decide +kernel
theorem test_rerank_tallies : rerankExample.out.leftCount = 1 ∧ rerankExample.out.leftSum = f32OfNatInt (-10)
    ∧ rerankExample.out.selSum = f32OfNatInt (-84) ∧ rerankExample.out.tie = 0 := by decide +kernel

/-- The queue of the walk example after R194 (limit 6, scores in hundredths): item 34 goes before the equal scores found later; item 35, not
expanded, falls out. -/
def queueItem (score : Int) (pos id : Nat) (e : Bool) : QEntry := ⟨f32OfNatInt score, pos, id, e⟩
def queueExample : List QEntry := [queueItem 40 4 31 false, queueItem 55 5 32 false, queueItem 60 1 21 true, queueItem 60 3 23 true, queueItem 75 2 22 false]
theorem test_queue_order : (queueInsert 6 queueExample (queueItem 55 6 34 false)).1.map (·.id) = [31, 32, 34, 21, 23, 22] := by decide +kernel
theorem test_queue_full : ((queueInsert 6 (queueExample ++ [queueItem 90 0 10 true]) (queueItem 120 7 35 false)).2,
    (queueInsert 6 (queueExample ++ [queueItem 90 0 10 true]) (queueItem 55 6 34 false)).2) = (true, false) := by decide +kernel

/-- The second walk example after R194 with its crest clocks at 0.8 GHz in place of 2.1: 51.2 µs becomes 134.4 µs beside 12.8 µs of memory, and
batch 0 likewise (ns, rounded up). -/
theorem test_walk_bounds : boundNs [] (20 * 4 * 160) (20 * 16 * 4 * 24 * 896) 0 1 = 147200
    ∧ boundNs [] (68 * 160) (256 * 64 * 66 + 16 * (1024 * 768 + 16 * 896)) 0 1 = 78720 := by decide +kernel

/-- The replacement example after R240: pages of a run with PQ8 m 16, degree 32, 8-byte attributes, seg_log2 22. -/
def runColl : State :=
  wrWords { State.reset with colls := [(3, { Coll.none with desc := 64 })] } 64
    [BitVec.ofNat 64 (5 * 2 ^ 38 + 768 * 2 ^ 24 + 16 * 2 ^ 16 + 32 * 2 ^ 8 + 1 * 32 + 1), BitVec.ofNat 64 (22 * 2 ^ 35), BitVec.ofNat 64 (2 ^ 48 + 40 * 2 ^ 22)]
theorem test_run_pages : runPages runColl (getColl runColl 3) 39 = 11800 ∧ cSegments runColl (getColl runColl 3) = 40 := by decide +kernel

/-! ### Effects on a small state -/

/-- VIN_COLLAPSE ends in OFF with its cause recorded; a boundary then does nothing (R521, R537, R551). -/
def answer (c : Instr) (s : State) : State := match exec c s with | .next u => u | _ => s
theorem test_collapse_off : pwrState (answer .vinCollapse ticking) = 4 ∧ getF (answer .vinCollapse ticking) ⟨.PWR_FATAL, 0, 0⟩ 2 0 = 3 := by decide +kernel
theorem test_off_ignores_boundary : (answer .tickBoundary (answer .vinCollapse ticking)).tick.running = false := by decide +kernel

/-- TICK_BOUNDARY: tick and epoch advance together, and the next boundary is a period later (R36, R46). -/
theorem test_boundary : (answer .tickBoundary ticking).tick.tick = 6 ∧ (answer .tickBoundary ticking).tick.epoch = 6
    ∧ (answer .tickBoundary ticking).tick.nextAt = some 2100000 := by decide +kernel

/-- STEP_START in the berm waits; in the window it starts (R42). -/
theorem test_step_in_berm : (answer (.stepStart 0x212D 4000 1995000) ticking).tick.steps = [] := by decide +kernel

/-- An unmapped write is recorded with its address (R516). -/
theorem test_unmapped : getReg (answer (.unmappedAccess .reeve 0x7FFFFFFFFFFFFF00#64 true) ticking) ⟨.RV_BADADDR, 0, 0⟩ = 0x7FFFFFFFFFFFFF00#64 := by
  decide +kernel

/-- PWR_CAP outside 600 to 2,400 W is discarded (R545). -/
theorem test_cap_range : getF (answer (.registerWrite .reeve (BitVec.ofNat 32 (regAddr ⟨.PWR_CAP, 0, 0⟩)) (BitVec.ofNat 64 (599 * 2 ^ 52)) 0) ticking)
    ⟨.PWR_CAP, 0, 0⟩ 63 52 = 2400 := by decide +kernel

end Sys2Proof.Tests
end

