-- ==== Sys2Proof/Tests/Witness01.lean ====
section
/-! SUPPORT. Witnesses: for each clause of a statement, a state and operands that meet its hypotheses. -/

namespace Sys2Proof.Tests

open Sys2Proof.Machine

set_option Elab.async false

theorem witness_StepTakesFront_2 : ∃ s : State, (s.pending = []) :=
  ⟨State.reset, by
    (repeat' apply And.intro) <;> first | with_reducible rfl | decide +kernel | rfl⟩

theorem witness_TickStartStop_1 : ∃ (s : State) (n : BitVec 48) (t : Stamp), (alive s = true) ∧ (s.tick.running = false) ∧ (inRanges .TCK_CFG (tckCfg s) = true) ∧ (alignMode s = 0) ∧ (s.tick.epoch < n.toNat) :=
  ⟨State.reset, 1, 0, by
    (repeat' apply And.intro) <;> first | with_reducible rfl | decide +kernel | rfl⟩

theorem witness_TickStartStop_2 : ∃ (s : State) (n : BitVec 48) (t : Stamp), (alive s = true) ∧ (s.tick.running = false) ∧ (inRanges .TCK_CFG (tckCfg s) = true) ∧ (alignMode s = 2) ∧ (s.tick.epoch < n.toNat) :=
  ⟨mode State.reset 2, 1, 0, by
    (repeat' apply And.intro) <;> first | with_reducible rfl | decide +kernel | rfl⟩

theorem witness_TickStartStop_3 : ∃ (s : State) (n : BitVec 48) (t : Stamp), (alive s = true) ∧ (s.tick.running = false) ∧ (inRanges .TCK_CFG (tckCfg s) = true) ∧ (alignMode s = 1) :=
  ⟨mode State.reset 1, 0, 0, by
    (repeat' apply And.intro) <;> first | with_reducible rfl | decide +kernel | rfl⟩

theorem witness_TickStartStop_4 : ∃ s : State, (alive s = true) ∧ (s.tick.running = true) :=
  ⟨ticking, by
    (repeat' apply And.intro) <;> first | with_reducible rfl | decide +kernel | rfl⟩

theorem witness_TickStartStop_5 : ∃ s : State, (alive s = true) ∧ (s.tick.running = false) :=
  ⟨State.reset, by
    (repeat' apply And.intro) <;> first | with_reducible rfl | decide +kernel | rfl⟩

theorem witness_TickStartStop_6 : ∃ (s : State) (n : BitVec 48) (t : Stamp), (alive s = true) ∧ (s.tick.running = true) :=
  ⟨ticking, 1, 1500000, by
    (repeat' apply And.intro) <;> first | with_reducible rfl | decide +kernel | rfl⟩

theorem witness_TickStartStop_7 : ∃ (s : State) (n : BitVec 48) (t : Stamp), (alive s = true) ∧ (s.tick.running = false) ∧ ((inRanges .TCK_CFG (tckCfg s) = false ∨ (alignMode s ≠ 1 ∧ n.toNat ≤ s.tick.epoch))) :=
  ⟨State.reset, 0, 0, by
    (repeat' apply And.intro) <;> first | with_reducible rfl | decide +kernel | rfl⟩

theorem witness_TickStartStop_8 : ∃ s : State, (s.tick.stopReq = true) ∧ (s.polders.all (fun e => e.1 = 0 || e.2.st = .absent) = true) ∧ (s.img.loading = none) ∧ (s.img.planning = none) :=
  ⟨modTick ticking fun u => { u with stopReq := true }, by
    (repeat' apply And.intro) <;> first | with_reducible rfl | decide +kernel | rfl⟩

theorem witness_TickStartStop_9 : ∃ s : State, (s.tick.stopReq = true) ∧ (s.polders.all (fun e => e.1 = 0 || e.2.st = .absent) = false ∨ s.img.loading.isSome = true ∨ s.img.planning.isSome = true) :=
  ⟨{ modTick ticking (fun u => { u with stopReq := true }) with img := { State.reset.img with planning := some ⟨0, 6, 1, 0, 0⟩ } }, by
    (repeat' apply And.intro) <;> first | with_reducible rfl | decide +kernel | rfl⟩

theorem witness_BoundaryOrder_1 : ∃ (s : State) (b : Stamp), (alive s = true) ∧ (s.tick.running = true) ∧ (s.tick.begun = true) ∧ (s.tick.bermAt.isSome = true) ∧ (s.tick.frozen = true) ∧ (s.tick.nextAt = some b) :=
  ⟨modTick ticking fun u => { u with bermAt := some 1992000, frozen := true }, 2000000, by
    (repeat' apply And.intro) <;> first | with_reducible rfl | decide +kernel | rfl⟩

theorem witness_BermAndFreeze_1 : ∃ (s r : State) (b : Stamp), (alive s = true) ∧ (s.tick.running = true) ∧ (s.tick.begun = true) ∧ (s.tick.bermAt = none) ∧ (s.tick.nextAt = some b) ∧ (r = at_ s (b - bermNs s)) :=
  ⟨ticking, at_ ticking (2000000 - bermNs ticking), 2000000, by
    (repeat' apply And.intro) <;> first | with_reducible rfl | decide +kernel | rfl⟩

theorem witness_BermAndFreeze_2 : ∃ (s r : State) (b : Stamp) (late tabs : List (Nat × Nat)), (alive s = true) ∧ (s.tick.running = true) ∧ (s.tick.begun = true) ∧ (s.tick.bermAt.isSome = true) ∧ (s.tick.frozen = false) ∧ (s.tick.nextAt = some b) ∧ (r = at_ s (b - us)) :=
  ⟨modTick ticking fun u => { u with bermAt := some 1992000 }, at_ (modTick ticking fun u => { u with bermAt := some 1992000 }) (2000000 - us), 2000000, [(1, 0)], [(2, 1)], by
    (repeat' apply And.intro) <;> first | with_reducible rfl | decide +kernel | rfl⟩

theorem witness_StepStart_1 : ∃ (s : State) (unit : BitVec 16) (bound : Nat) (t n : Stamp), (alive s = true) ∧ (s.tick.running = true) ∧ (s.tick.begun = true) ∧ (s.tick.nextAt = some n) ∧ (unitBusy s unit t = false) :=
  ⟨ticking, 0x8600, 10, 1200000, 2000000, by
    (repeat' apply And.intro) <;> first | with_reducible rfl | decide +kernel | rfl⟩

theorem witness_Alignment_1 : ∃ (s : State) (t : Stamp), (alive s = true) ∧ (alignMode s = 2) ∧ (s.tick.running = true) ∧ (s.tick.begun = false) ∧ (s.tick.nextAt = none) :=
  ⟨mode (modTick ticking fun u => { u with begun := false, nextAt := none }) 2, 1500000, by
    (repeat' apply And.intro) <;> first | with_reducible rfl | decide +kernel | rfl⟩

theorem witness_Alignment_2 : ∃ s : State, (alive s = true) ∧ (s.tick.running = true) ∧ (s.tick.unjudged = true) ∧ (s.tick.align = .aligned) ∧ (2 ≤ s.tick.bad) :=
  ⟨modTick ticking fun u => { u with unjudged := true, align := .aligned, bad := 2 }, by
    (repeat' apply And.intro) <;> first | with_reducible rfl | decide +kernel | rfl⟩

theorem witness_Alignment_3 : ∃ s : State, (alive s = true) ∧ (s.tick.running = true) ∧ (s.tick.unjudged = true) ∧ (s.tick.align = .aligned) ∧ (s.tick.bad < 2) :=
  ⟨modTick ticking fun u => { u with unjudged := true, align := .aligned, bad := 1 }, by
    (repeat' apply And.intro) <;> first | with_reducible rfl | decide +kernel | rfl⟩

theorem witness_Alignment_4 : ∃ s : State, (alive s = true) ∧ (s.tick.align = .unaligned) ∧ (8 ≤ s.tick.good) ∧ (s.tick.mismatch = false) :=
  ⟨modTick ticking fun u => { u with align := .unaligned, good := 8 }, by
    (repeat' apply And.intro) <;> first | with_reducible rfl | decide +kernel | rfl⟩

theorem witness_Alignment_5 : ∃ s : State, (alive s = true) ∧ (s.tick.align = .acquiring) ∧ (s.tick.begun = true) ∧ (alignMode s = 2) ∧ (8 ≤ s.tick.good) :=
  ⟨mode (modTick ticking fun u => { u with align := .acquiring, good := 8 }) 2, by
    (repeat' apply And.intro) <;> first | with_reducible rfl | decide +kernel | rfl⟩

theorem witness_Alignment_6 : ∃ s : State, (alive s = true) ∧ (s.tick.align = .acquiring) ∧ (s.tick.begun = true) ∧ (alignMode s = 1) ∧ (1 ≤ s.tick.good) :=
  ⟨mode (modTick ticking fun u => { u with align := .acquiring, good := 1 }) 1, by
    (repeat' apply And.intro) <;> first | with_reducible rfl | decide +kernel | rfl⟩

theorem witness_Alignment_7 : ∃ (s : State) (p e : Stamp), (alive s = true) ∧ (alignMode s = 2) ∧ (s.tick.nextAt = some p) ∧ (s.tick.align = .unaligned) ∧ (s.tick.mismatch = false) ∧ (s.tick.hasRef = true) ∧ (alignTol s < s.tick.offset.natAbs) ∧ (s.tick.stretch = none) ∧ (s.tick.edge = some e) :=
  ⟨mode (modTick ticking fun u => { u with align := .unaligned, hasRef := true, offset := -1001, edge := some 1990000 }) 2, 2000000, 1990000, by
    (repeat' apply And.intro) <;> first | with_reducible rfl | decide +kernel | rfl⟩

theorem witness_Alignment_8 : ∃ (s : State) (port : Port) (ns : Nat) (t : Stamp), (alive s = true) ∧ (port.val = fld (tckCfg s) 36 35) ∧ (s.tick.nextAt.isSome = true) :=
  ⟨ticking, 0, 1, 1500000, by
    (repeat' apply And.intro) <;> first | with_reducible rfl | decide +kernel | rfl⟩

end Sys2Proof.Tests
end

