-- ==== Sys2Proof/Tests/Witness02.lean ====
section
/-! SUPPORT. Witnesses: for each clause of a statement, a state and operands that meet its hypotheses. -/

namespace Sys2Proof.Tests

open Sys2Proof.Machine

set_option Elab.async false

/-- Ring 0 of port 0 enabled, with one command announced. -/
def ring : State := modRing (setF (setF State.reset ⟨.BML_RING_CFG, 0, 0⟩ 0 0 1) ⟨.BML_RING_CFG, 0, 0⟩ 51 42 99) 0 0 fun g => { g with cmdProd := 1 }

/-- A request of polder 1 whose SELECT stage on die 0 is done and goes on to a FETCH stage on the dies given. -/
def done (dies : List Nat) (last : Bool := false) : State :=
  modWork (live (polder ticking 1 [stage 0 (if last then none else some 1) .select 0, { stage 1 none .fetch 0 with dies := dies }]) 3 1 0 (.conn 2)) 3
    fun w => { w with done := true }

/-- The link from a die to another ACTIVE, with one message on its way, which holds a reserve of the receiver. -/
def carrying (s : State) (a b : Nat) (m : LinkMsg) : State :=
  { setF s (linkReg .MEM_LINK_STS a b) 1 0 2 with flight := [⟨a, b, m, some (1, 0)⟩] }

/-- A request of polder 1 on die 0, with a message in flight between dies. -/
def flying (a b : Nat) (m : LinkMsg) : State := carrying (live (polder ticking 1 [stage 0 none .select 0]) 3 1 0 (.conn 2)) a b m

/-- The part once a link has delivered its message. -/
def taken (s : State) (a b : Nat) (c : LinkClass) : State := ((takeFlight s a b c).map (·.2)).getD s

/-- A request that die 0 is handing to die 1. -/
def handing : State :=
  modDie (live ticking 3 1 0 (.conn 2)) 0 fun d => { d with owns := [⟨3, 1, some ⟨1, 7, 1, 0, false⟩⟩] }

/-- A walk request on die 0 of collection 0, whose partition 2 die 1 walks. -/
def walking : State :=
  wrW (wrW { live (polder ticking 1 [{ stage 0 none .walk 0 with dies := [0] }]) 3 1 0 (.conn 2) with colls := [(0, { Coll.none with polder := 1, desc := 64 })] }
    (64 + 56) 8192) (8192 + 32) 1

/-- A sub-request that die 1 holds for die 0. -/
def subbed (n : Nat) : State := modDie (live ticking 3 1 0 (.conn 2)) 1 fun d => { d with subs := [⟨3, 1, 7, 0, 2, [], [], true, n, 0⟩] }

/-- A completion waits for a connection, or for a ring. -/
def completing (src : Src) : State := { connection ticking 2 1 1 with pend := [⟨src, [], none, false, none⟩] }

/-- Context 3 LIVE with a work that covers nothing. -/
def requested : State := live ticking 3 1 0 (.conn 2)

/-- A connection of kind 1 that holds one message. -/
def heard : State := modPort (connection ticking 2 1 1) 0 fun p => { p with inbox := [(2, [0x55])] }

/-- A shut sluice while the tick runs. -/
def shut : State := setF ticking rPwrState 3 3 1

/-- A context that is past its stale limit, seen from its home die, or owned only by another. -/
def stale : State := modTick (modCtx requested 3 fun k => { k with pin := 0 }) fun u => { u with epoch := 2000 }

def staleAway : State := modDie (modDie stale 0 fun d => { d with owns := [] }) 1 fun d => { d with owns := [⟨3, 1, none⟩] }

/-- A die that has taken handoff 7 of a context already, and a state with context 3 walking on slot 0 of walk unit 0. -/
def again (m : LinkMsg) : State := modDie (flying 1 0 m) 0 fun d => { d with last := [(3, 7)] }

theorem witness_IntakeToDike_1 : ∃ (s r r1 : State) (n : Port) (ring : Fin 64) (t : Stamp), (r = at_ s t) ∧ (alive r = true) ∧ (ringOn r n.val ring.val = true) ∧ ((getBml r n.val).gone = false) ∧ (toePath r n.val = true) ∧ 
  let i := cmdCons r n.val ring.val
  let g := getRing r n.val ring.val
  let a := (getReg r ⟨.BML_RING_CMD, n.val, ring.val⟩).toNat + 256 * (i % cmdSize r n.val ring.val)
  (i ≠ g.cmdProd) ∧ (dist32 i (g.cplCons + g.freed) < cplSize r n.val ring.val) ∧ (hostAccess r none a 256 false = (.ok, r1)) :=
  by
    refine ⟨ring, ring, _, 0, 0, 0, rfl, ?_, ?_, ?_, ?_, ?_, ?_, fst_pair ?_⟩ <;> decide +kernel

theorem witness_IntakeToDike_2 : ∃ (s r : State) (c : ConnNo) (t : Stamp) (bs : List Byte), (r = at_ s t) ∧ (alive r = true) ∧ (connHears r c.val 1 = true) ∧ (inFront r c.val = some bs) ∧ (toePath r (connPort r c.val) = true) :=
  ⟨heard, heard, 2, 0, [0x55], by
    (repeat' apply And.intro) <;> first | with_reducible rfl | decide +kernel | rfl⟩

theorem witness_IntakeToDike_3 : ∃ (s : State) (src : Src) (d : List Word) (p : Nat) (t : Stamp) (toe line ix : Nat), ((getPolder s p).st ≠ .absent) ∧ (intakeCode s src d p ≠ 0) :=
  ⟨polder ticking 1 [], .conn 2, [], 1, 0, 0, 0, 0, by
    (repeat' apply And.intro) <;> first | with_reducible rfl | decide +kernel | rfl⟩

theorem witness_IntakeToDike_4a : ∃ (s r : State) (src : Src) (d : List Word) (p : Nat) (t : Stamp) (toe line ix : Nat), ((getPolder s p).st ≠ .absent) ∧ (intakeCode s src d p = 0) ∧ (r = dikeFill (unIdle s) p t) ∧ ((getPolder r p).st = .draining) :=
  ⟨setPolder (polder ticking 1 []) 1 { (getPolder (polder ticking 1 []) 1) with st := .draining }, dikeFill (unIdle (setPolder (polder ticking 1 []) 1 { (getPolder (polder ticking 1 []) 1) with st := .draining })) 1 0, .conn 2, [0x7F00010000010000], 1, 0, 0, 0, 0, by
    (repeat' apply And.intro) <;> first | with_reducible rfl | decide +kernel | rfl⟩

theorem witness_IntakeToDike_4b : ∃ (s r : State) (src : Src) (d : List Word) (p : Nat) (t : Stamp) (toe line ix : Nat), ((getPolder s p).st ≠ .absent) ∧ (intakeCode s src d p = 0) ∧ (r = dikeFill (unIdle s) p t) ∧ 
  let cls := getReg r ⟨.PLD_CFG, p, 0⟩
  let permitted := if dClass d = 0 then fld cls 41 41 = 1 else if dClass d = 1 then fld cls 42 42 = 1 else fld cls 43 43 = 1
  ((getPolder r p).st ≠ .draining) ∧ (dKind d ≠ kCancel) ∧ (¬permitted) :=
  ⟨{ polder ticking 1 [] with colls := [(0, { Coll.none with polder := 1 })] }, dikeFill (unIdle ({ polder ticking 1 [] with colls := [(0, { Coll.none with polder := 1 })] })) 1 0, .conn 2, [0x0200010000010000, 0, 0, 0, 0, 0, 0, 0, 0x0020000000000000], 1, 0, 0, 0, 0, by
    (repeat' apply And.intro) <;> first | with_reducible rfl | decide +kernel | rfl⟩

theorem witness_IntakeToDike_4c : ∃ (s r : State) (src : Src) (d : List Word) (p : Nat) (t : Stamp) (toe line ix : Nat), ((getPolder s p).st ≠ .absent) ∧ (intakeCode s src d p = 0) ∧ (r = dikeFill (unIdle s) p t) ∧ 
  let cls := getReg r ⟨.PLD_CFG, p, 0⟩
  let permitted := if dClass d = 0 then fld cls 41 41 = 1 else if dClass d = 1 then fld cls 42 42 = 1 else fld cls 43 43 = 1
  ((getPolder r p).st ≠ .draining) ∧ ((dKind d = kCancel ∨ permitted)) :=
  ⟨polder ticking 1 [], dikeFill (unIdle (polder ticking 1 [])) 1 0, .conn 2, [0x7F00010000010000], 1, 0, 0, 0, 0, by
    (repeat' apply And.intro) <;> first | with_reducible rfl | decide +kernel | rfl⟩

theorem witness_BoundaryAborts_1 : ∃ (s : State) (c : CtxId), (alive s = true) ∧ ((getCtx s c.val).st = .live) ∧ ((getCtx s c.val).src ≠ .none) ∧ (dieLost s (homeDie c.val) = false) ∧ (homeEnded s c.val (getCtx s c.val).gen = false) ∧ ((getCtx s c.val).pin + getF s ⟨.PLD_CFG, (getCtx s c.val).polder, 0⟩ 63 54 ≤ s.tick.epoch) ∧ ((getCtx s c.val).admitted < s.tick.epoch) ∧ (((getDie s (homeDie c.val)).owns.any fun o => o.ctx = c.val && o.gen = (getCtx s c.val).gen) = true) :=
  ⟨stale, 3, by
    (repeat' apply And.intro) <;> first | with_reducible rfl | decide +kernel | rfl⟩

theorem witness_BoundaryAborts_2 : ∃ (s : State) (c : CtxId), (alive s = true) ∧ ((getCtx s c.val).st = .live) ∧ (dieLost s (homeDie c.val) = false) ∧ (homeEnded s c.val (getCtx s c.val).gen = false) ∧ ((getCtx s c.val).pin + getF s ⟨.PLD_CFG, (getCtx s c.val).polder, 0⟩ 63 54 ≤ s.tick.epoch) ∧ ((getCtx s c.val).admitted < s.tick.epoch) ∧ (((getDie s (homeDie c.val)).owns.any fun o => o.ctx = c.val && o.gen = (getCtx s c.val).gen) = false) ∧ (ownersOf s c.val (getCtx s c.val).gen ≠ []) :=
  ⟨staleAway, 3, by
    (repeat' apply And.intro) <;> first | with_reducible rfl | decide +kernel | rfl⟩

theorem witness_BoundaryAborts_3 : ∃ (s : State) (c : CtxId) (b : Nat), (alive s = true) ∧ ((getCtx s c.val).st = .live) ∧ ((getCtx s c.val).src ≠ .none) ∧ (dieLost s (homeDie c.val) = false) ∧ (homeEnded s c.val (getCtx s c.val).gen = false) ∧ (s.tick.epoch < (getCtx s c.val).pin + getF s ⟨.PLD_CFG, (getCtx s c.val).polder, 0⟩ 63 54) ∧ ((getCtx s c.val).deadline = some b) ∧ (b ≤ s.tick.epoch) ∧ (((getDie s (homeDie c.val)).owns.any fun o => o.ctx = c.val && o.gen = (getCtx s c.val).gen) = true) :=
  ⟨setF (modCtx requested 3 fun k => { k with deadline := some 5 }) ⟨.PLD_CFG, 1, 0⟩ 63 54 8, 3, 5, by
    (repeat' apply And.intro) <;> first | with_reducible rfl | decide +kernel | rfl⟩

theorem witness_BoundaryAborts_4 : ∃ (s : State) (p : PolderNo) (target : Word) (x : CancelReq), (alive s = true) ∧ ((s.sluice.cancels.find? fun x => x.polder = p.val && x.target = target && decide (x.elig ≤ s.tick.epoch)) = some x) :=
  ⟨{ live ticking 3 1 0 (.conn 2) with sluice := { ticking.sluice with cancels := [⟨1, 0, [], .conn 2, 0, 5, false⟩] } }, 1, 0, ⟨1, 0, [], .conn 2, 0, 5, false⟩, by
    (repeat' apply And.intro) <;> first | with_reducible rfl | decide +kernel | rfl⟩

theorem witness_BoundaryAborts_5 : ∃ (s : State) (c : CtxId) (r : ReeveDue), (alive s = true) ∧ ((s.reeve.filter fun r => r.ctx = c.val && decide (r.due ≤ s.tick.tick)) = [r]) ∧ (r.src ≠ .none) :=
  ⟨{ ticking with reeve := [⟨3, 1, .conn 2, Code.CANCELLED, [], 5⟩] }, 3, ⟨3, 1, .conn 2, Code.CANCELLED, [], 5⟩, by
    (repeat' apply And.intro) <;> first | with_reducible rfl | decide +kernel | rfl⟩

theorem witness_SluiceRows_1 : ∃ s : State, (alive s = true) ∧ (sluiceShut s = false) ∧ (s.tick.running = true) ∧ (s.tick.begun = true) ∧ (s.sluice.granted ≠ s.tick.tick) :=
  ⟨ticking, by
    (repeat' apply And.intro) <;> first | with_reducible rfl | decide +kernel | rfl⟩

theorem witness_SluiceRows_2 : ∃ s : State, (alive s = true) ∧ (sluiceShut s = true) ∧ (s.tick.running = true) ∧ (s.tick.begun = true) ∧ (s.sluice.granted ≠ s.tick.tick) :=
  ⟨shut, by
    (repeat' apply And.intro) <;> first | with_reducible rfl | decide +kernel | rfl⟩

theorem witness_SluiceRows_3 : ∃ (s : State) (p : PolderNo), (alive s = true) ∧ (s.tick.begun = true) :=
  ⟨ticking, 1, by
    (repeat' apply And.intro) <;> first | with_reducible rfl | decide +kernel | rfl⟩

theorem witness_HandoffRows_1 : ∃ (s r : State) (c : CtxId) (dst : Crest) (t : Stamp) (d : Nat) (nx : Stage), (r = at_ s t) ∧ (alive r = true) ∧ (activeOwner r c.val = some d) ∧ (succStage r c.val = some nx) ∧ (isLive r c.val = true) ∧ (stageReady r c.val = true) ∧ (awaitsOf r c.val = []) ∧ (firstRefusal r c.val = none) ∧ (handTarget r c.val d nx = some dst.val) :=
  ⟨done [1], done [1], 3, 1, 0, 0, { stage 1 none .fetch 0 with dies := [1] }, by
    (repeat' apply And.intro) <;> first | with_reducible rfl | decide +kernel | rfl⟩

theorem witness_HandoffRows_2 : ∃ (s r r1 : State) (src dst : Crest) (t : Stamp) (c g h n : Nat) (st : Stage), (r = at_ s t) ∧ (alive r = true) ∧ (takeFlight r src.val dst.val .hnd = some (.hnd c g h n, r1)) ∧ (linkFailed r1 dst.val src.val = false) ∧ ((getCtx r1 c).gen = g) ∧ (isDup (getDie r1 dst.val) c g h = false) ∧ (stageOf (getPolder r1 (getCtx r1 c).polder) n = some st) ∧ (isLive r1 c = true) :=
  ⟨flying 1 0 (.hnd 3 1 7 0), flying 1 0 (.hnd 3 1 7 0), taken (flying 1 0 (.hnd 3 1 7 0)) 1 0 .hnd, 1, 0, 0, 3, 1, 7, 0, stage 0 none .select 0, by
    (repeat' apply And.intro) <;> first | with_reducible rfl | decide +kernel | rfl⟩

theorem witness_HandoffRows_3 : ∃ (s r r1 : State) (src dst : Crest) (t : Stamp) (c g h n : Nat), (r = at_ s t) ∧ (alive r = true) ∧ (takeFlight r src.val dst.val .hnd = some (.hnd c g h n, r1)) ∧ (linkFailed r1 dst.val src.val = false) ∧ ((getCtx r1 c).gen = g) ∧ (isDup (getDie r1 dst.val) c g h = true) :=
  ⟨again (.hnd 3 1 7 0), again (.hnd 3 1 7 0), taken (again (.hnd 3 1 7 0)) 1 0 .hnd, 1, 0, 0, 3, 1, 7, 0, by
    (repeat' apply And.intro) <;> first | with_reducible rfl | decide +kernel | rfl⟩

theorem witness_HandoffRows_4 : ∃ (s r r1 : State) (src dst : Crest) (t : Stamp) (c g h : Nat), (r = at_ s t) ∧ (alive r = true) ∧ (takeFlight r src.val dst.val .hak = some (.hak c g h, r1)) ∧ ((getCtx r1 c).gen = g) ∧ (((getDie r1 dst.val).owns.any fun o => o.ctx = c && o.gen = g && o.handing.elim false (fun x => x.dst = src.val && x.h = h)) = true) :=
  ⟨carrying handing 1 0 (.hak 3 1 7), carrying handing 1 0 (.hak 3 1 7), taken (carrying handing 1 0 (.hak 3 1 7)) 1 0 .hak, 1, 0, 0, 3, 1, 7, by
    (repeat' apply And.intro) <;> first | with_reducible rfl | decide +kernel | rfl⟩

theorem witness_HandoffRows_5 : ∃ (s r : State) (die : Crest) (c : CtxId) (t : Stamp) (o : Own) (x : Handing), (r = at_ s t) ∧ (alive r = true) ∧ (((getDie r die.val).owns.find? fun o => o.ctx = c.val && o.gen = (getCtx r c.val).gen && o.handing.isSome) = some o) ∧ (o.handing = some x) ∧ (x.sentAt + hakWait ≤ t) ∧ (linkFailed r die.val x.dst = false) :=
  ⟨at_ handing hakWait, at_ handing hakWait, 0, 3, hakWait, ⟨3, 1, some ⟨1, 7, 1, 0, false⟩⟩, ⟨1, 7, 1, 0, false⟩, by
    (repeat' apply And.intro) <;> first | with_reducible rfl | decide +kernel | rfl⟩

theorem witness_HandoffRows_6 : ∃ (s r : State) (src dst : Crest) (c g n : Nat), (alive s = true) ∧ (dst.val < s.dies.length) ∧ (takeFlight s src.val dst.val .ctl = some (.abort c g none (some n), r)) ∧ ((getCtx r c).gen = g) ∧ ((getCtx r c).st = .live) ∧ ((getCtx r c).src ≠ .none) ∧ (n ≠ 0) ∧ (served n = false) ∧ (((getDie r dst.val).owns.any fun o => o.ctx = c && o.gen = g) = true) :=
  ⟨carrying requested 1 0 (.abort 3 1 none (some Code.CANCELLED)), taken (carrying requested 1 0 (.abort 3 1 none (some Code.CANCELLED))) 1 0 .ctl, 1, 0, 3, 1, Code.CANCELLED, by
    (repeat' apply And.intro) <;> first | with_reducible rfl | decide +kernel | rfl⟩

theorem witness_HandoffRows_7 : ∃ (s r : State) (src dst : Crest) (c g : Nat), (alive s = true) ∧ (dst.val < s.dies.length) ∧ (takeFlight s src.val dst.val .ctl = some (.abort c g none none, r)) ∧ ((getCtx r c).gen = g) :=
  ⟨carrying requested 1 0 (.abort 3 1 none none), taken (carrying requested 1 0 (.abort 3 1 none none)) 1 0 .ctl, 1, 0, 3, 1, by
    (repeat' apply And.intro) <;> first | with_reducible rfl | decide +kernel | rfl⟩

theorem witness_HandoffRows_8 : ∃ (s r : State) (src dst : Crest) (c g : Nat) (h code : Option Nat), (alive s = true) ∧ (takeFlight s src.val dst.val .ctl = some (.abort c g h code, r)) ∧ ((getCtx r c).gen ≠ g) :=
  ⟨carrying requested 1 0 (.abort 3 2 none none), taken (carrying requested 1 0 (.abort 3 2 none none)) 1 0 .ctl, 1, 0, 3, 2, none, none, by
    (repeat' apply And.intro) <;> first | with_reducible rfl | decide +kernel | rfl⟩

theorem witness_SubRequestRows_1 : ∃ (s r : State) (c : CtxId) (dst : Crest) (part : Nat) (t : Stamp) (d : Nat) (st : Stage), (r = at_ s t) ∧ (alive r = true) ∧ (pwrState r < 2) ∧ (activeOwner r c.val = some d) ∧ (getStage r c.val = some st) ∧ (isLive r c.val = true) ∧ (st.kind = .walk ∨ st.kind = .scan ∨ st.kind = .shadow) ∧ (dst.val ≠ d) ∧ (dieLost r dst.val = false) ∧ (cWalkDie r (getColl r st.object) part = dst.val) ∧ (part ∈ wantParts r c.val st) ∧ (((getDie r d).awaits.any fun a => a.ctx = c.val && a.gen = (getCtx r c.val).gen && a.part = part) = false) ∧ ((covered (if st.kind = .shadow then (getCtx r c.val).work.shadows else (getCtx r c.val).work.lists) (if st.kind = .walk then [part] else cPartSegs r (getColl r st.object) part) = false ∨ isMutation (dKind (getCtx r c.val).desc) = true)) :=
  ⟨walking, walking, 3, 1, 2, 0, 0, { stage 0 none .walk 0 with dies := [0] }, by
    (repeat' apply And.intro) <;> first | with_reducible rfl | decide +kernel | rfl⟩

theorem witness_SubRequestRows_2 : ∃ (s r r1 : State) (src dst : Crest) (t : Stamp) (c g h part owner : Nat), (r = at_ s t) ∧ (alive r = true) ∧ (takeFlight r src.val dst.val .hnd = some (.sub c g h part owner, r1)) ∧ (linkFailed r1 dst.val src.val = false) ∧ ((getCtx r1 c).gen = g) ∧ (isDup (getDie r1 dst.val) c g h = false) :=
  ⟨flying 0 1 (.sub 3 1 7 2 0), flying 0 1 (.sub 3 1 7 2 0), taken (flying 0 1 (.sub 3 1 7 2 0)) 0 1 .hnd, 0, 1, 0, 3, 1, 7, 2, 0, by
    (repeat' apply And.intro) <;> first | with_reducible rfl | decide +kernel | rfl⟩

theorem witness_SubRequestRows_3 : ∃ (s r : State) (die : Crest) (c : CtxId) (h : BitVec 16) (t : Stamp) (x : Sub) (ls sh : List PList), (r = at_ s t) ∧ (alive r = true) ∧ (pwrState r < 2) ∧ (((getDie r die.val).subs.find? fun x => x.ctx = c.val && x.h = h.toNat && x.sends = 0) = some x) ∧ (subResult r die.val x = some (ls, sh)) :=
  ⟨subbed 0, subbed 0, 1, 3, 7, 0, ⟨3, 1, 7, 0, 2, [], [], true, 0, 0⟩, [], [], by
    (repeat' apply And.intro) <;> first | with_reducible rfl | decide +kernel | rfl⟩

theorem witness_SubRequestRows_4 : ∃ (s r : State) (die : Crest) (c : CtxId) (h : BitVec 16) (t : Stamp) (x : Sub), (r = at_ s t) ∧ (alive r = true) ∧ (pwrState r < 2) ∧ (((getDie r die.val).subs.find? fun x => x.ctx = c.val && x.h = h.toNat && decide (0 < x.sends)) = some x) ∧ (x.sentAt + hakWait ≤ t) :=
  ⟨at_ (subbed 1) hakWait, at_ (subbed 1) hakWait, 1, 3, 7, hakWait, ⟨3, 1, 7, 0, 2, [], [], true, 1, 0⟩, by
    (repeat' apply And.intro) <;> first | with_reducible rfl | decide +kernel | rfl⟩

theorem witness_DieLoss_1 : ∃ (s : State) (d : Crest), (alive s = true) ∧ (dieLost s d.val = false) :=
  ⟨ticking, 1, by
    (repeat' apply And.intro) <;> first | with_reducible rfl | decide +kernel | rfl⟩

theorem witness_DieLoss_2 : ∃ (s r : State) (src home : Crest) (c g : Nat), (alive s = true) ∧ (takeFlight s src.val home.val .ctl = some (.finding c g, r)) ∧ ((getCtx r c).gen = g) ∧ (homeDie c = home.val) ∧ ((getCtx r c).st = .live) ∧ ((getCtx r c).src ≠ .none) :=
  ⟨flying 1 0 (.finding 3 1), taken (flying 1 0 (.finding 3 1)) 1 0 .ctl, 1, 0, 3, 1, by
    (repeat' apply And.intro) <;> first | with_reducible rfl | decide +kernel | rfl⟩

theorem witness_DieLoss_3 : ∃ (s : State) (d : Crest) (c : Nat), (alive s = true) ∧ (dieLost s d.val = true) ∧ ((getDie s d.val).lostDue ≤ s.tick.tick) ∧ (((s.ctxs.filter fun e => e.2.st = .live && homeDie e.1 = d.val).map (·.1)) = [c]) ∧ ((getCtx s c).st = .live) ∧ ((getCtx s c).src ≠ .none) :=
  ⟨modDie (live ticking 3 1 0 (.conn 2)) 0 fun d => { d with lost := true, lostDue := 5 }, 0, 3, by
    (repeat' apply And.intro) <;> first | with_reducible rfl | decide +kernel | rfl⟩

theorem witness_ContainedErrors_1 : ∃ (s : State) (c : CtxId) (w : Fin 512) (sl : Fin 16), (alive s = true) ∧ ((getCtx s c.val).st = .live) :=
  ⟨requested, 3, 0, 0, by
    (repeat' apply And.intro) <;> first | with_reducible rfl | decide +kernel | rfl⟩

theorem witness_ContainedErrors_2 : ∃ (s : State) (c : CtxId) (d : Crest), (alive s = true) ∧ ((getCtx s c.val).st = .live) :=
  ⟨requested, 3, 1, by
    (repeat' apply And.intro) <;> first | with_reducible rfl | decide +kernel | rfl⟩

theorem witness_ContainedErrors_3 : ∃ (s : State) (c : CtxId) (d : Crest), (alive s = true) ∧ ((getCtx s c.val).st = .live) :=
  ⟨requested, 3, 1, by
    (repeat' apply And.intro) <;> first | with_reducible rfl | decide +kernel | rfl⟩

theorem witness_ContainedErrors_4 : ∃ (s : State) (c : CtxId) (d : Crest), (alive s = true) ∧ ((getCtx s c.val).st = .live) :=
  ⟨requested, 3, 1, by
    (repeat' apply And.intro) <;> first | with_reducible rfl | decide +kernel | rfl⟩

theorem witness_ContainedErrors_5 : ∃ (s : State) (c : CtxId) (w : Fin 512) (sl : Fin 16) (x : Walk) (h : Nat), (alive s = true) ∧ ((getCtx s c.val).st = .live) ∧ (getWalk s (slotKey w.val sl.val) = some x) ∧ (x.ctx = c.val) ∧ (x.gen = (getCtx s c.val).gen) ∧ (x.sub = some h) :=
  ⟨{ requested with walks := [(slotKey 0 0, ⟨3, 1, 0, 2, none, some 7, .ready, 1, 1, 1, [], [], 5, [], [], [], [], 0, 0, 0, 0, 0, 0, .exhausted, 0⟩)] }, 3, 0, 0, ⟨3, 1, 0, 2, none, some 7, .ready, 1, 1, 1, [], [], 5, [], [], [], [], 0, 0, 0, 0, 0, 0, .exhausted, 0⟩, 7, by
    (repeat' apply And.intro) <;> first | with_reducible rfl | decide +kernel | rfl⟩

theorem witness_StagesAndRetirement_1 : ∃ (s r : State) (c : CtxId) (t : Stamp) (d : Nat) (nx : Stage), (r = at_ s t) ∧ (alive r = true) ∧ (pwrState r < 2) ∧ (activeOwner r c.val = some d) ∧ (succStage r c.val = some nx) ∧ (isLive r c.val = true) ∧ (stageReady r c.val = true) ∧ (awaitsOf r c.val = []) ∧ (firstRefusal r c.val = none) ∧ (hasCredit r (getCtx r c.val).polder nx d = true) ∧ ((nx.kind = .select → jobRoom r d = true)) :=
  ⟨done [0], done [0], 3, 0, 0, { stage 1 none .fetch 0 with dies := [0] }, by
    (repeat' apply And.intro) <;> first | with_reducible rfl | decide +kernel | rfl⟩

theorem witness_StagesAndRetirement_2 : ∃ (s r : State) (c : CtxId) (t : Stamp) (d : Nat) (st : Stage), (r = at_ s t) ∧ (alive r = true) ∧ (activeOwner r c.val = some d) ∧ (getStage r c.val = some st) ∧ (isLive r c.val = true) ∧ ((getCtx r c.val).work.refuse = none) ∧ (st.kind ≠ .lookup) ∧ (st.succ = none) ∧ (stageReady r c.val = true) ∧ (awaitsOf r c.val = []) ∧ ((getCtx r c.val).work.output = []) :=
  ⟨done [0] true, done [0] true, 3, 0, 0, stage 0 none .select 0, by
    (repeat' apply And.intro) <;> first | with_reducible rfl | decide +kernel | rfl⟩

theorem witness_StagesAndRetirement_3 : ∃ (s r : State) (n : Port) (t : Stamp) (p : Pending) (c : Nat), (r = at_ s t) ∧ (alive r = true) ∧ (nextPend r n.val [] r.pend = some p) ∧ (p.src = .conn c) ∧ ((getConn r c).st = .established) :=
  ⟨completing (.conn 2), completing (.conn 2), 0, 0, ⟨.conn 2, [], none, false, none⟩, 2, by
    (repeat' apply And.intro) <;> first | with_reducible rfl | decide +kernel | rfl⟩

theorem witness_StagesAndRetirement_4 : ∃ (s r r1 r2 : State) (n : Port) (t : Stamp) (p : Pending) (m q : Nat), (r = at_ s t) ∧ (alive r = true) ∧ (nextPend r n.val [] r.pend = some p) ∧ (p.src = .ring m q) ∧ 
  let i := cplProd r m q
  let size := cplSize r m q
  let a := (getReg r ⟨.BML_RING_CPL, m, q⟩).toNat + 64 * (i % size)
  let cfg := ringCfg r m q
  (hostAccess r none a 64 true = (.ok, r1)) ∧ (weirAsk r1 (fld cfg 63 52) wBmlWr m 64 0 (.flow (flowTag 8 (64 * m + q) i)) = (true, r2)) :=
  by
    refine ⟨completing (.ring 0 1), completing (.ring 0 1), _, _, 0, 0, ⟨.ring 0 1, [], none, false, none⟩, 0, 1, rfl, ?_, ?_, rfl, fst_pair ?_, fst_pair ?_⟩ <;> decide +kernel

end Sys2Proof.Tests
end

