-- ==== Sys2Proof/Tests/Witness03.lean ====
section
/-! SUPPORT. Witnesses: for each clause of a statement, a state and operands that meet its hypotheses. -/

namespace Sys2Proof.Tests

open Sys2Proof.Machine

set_option Elab.async false

/-- Polder 1 being staged, its activation due now. -/
def staged : State :=
  setF { ticking with img := { ticking.img with loading := some ⟨1, 0, 0, 0, [], some 5, some ⟨Polder.none, [], [], [], [], [], 0, [], 0, []⟩⟩ } }
    ⟨.IMG_STS, 0, 0⟩ 47 45 3

/-- A walk of partition 0 in walker slot 0 of die 0. -/
def aWalk (st : SlotState) : Walk := ⟨3, 1, 0, 0, none, none, st, 1, 1, 1, [], [], 5, [], [], [], [], 0, 0, 0, 0, 0, 0, .none, 0⟩

/-- A walk request of polder 1 on die 0, whose walker slot 0 takes stage 0 of polder 1. -/
def walkable : State :=
  setReg (collection (live (polder ticking 1 [{ stage 0 none .walk 0 with dies := [0] }]) 3 1 0 (.conn 2)) 0 0) ⟨.WLK_SLOT_CFG, 0, 0⟩
    (BitVec.ofNat 64 (2 ^ 52 + 1))

/-- The walk in its slot, in a step window. -/
def slotted (st : SlotState) : State := setWalk walkable 0 (aWalk st)

/-- A merge job of request 3 on die 0. -/
def merging : State := { live ticking 3 1 0 (.conn 2) with jobs := [⟨3, 1, 0, 0, [], []⟩] }

/-- Weir 0 with a bucket of 16 bytes and one unit of cost 8. -/
def weired : State :=
  setWeir (setF ticking ⟨.WEI_RATE, 0, 0⟩ 31 0 16) 0 { Weir.empty with tok := 16 * 2 ^ 20, queue := [⟨.flow 9, 8, 0, 0⟩] }

/-- A group staged for the next boundary. -/
def aGroup : Group := ⟨0, 0, 0, 6, [], [], [], [], [], none⟩

/-- A running plan of collection 0. -/
def aPlan (atomic : Bool) (r0 swap : Nat) : Plan := ⟨65536, atomic, 1, 1, 0, 1, r0, swap, 0, [], [], .running, 1, 0, 0⟩
def planned (atomic : Bool) (r0 swap : Nat) : State :=
  setColl (collection ticking 0 0) 0 { getColl (collection ticking 0 0) 0 with plan := some (aPlan atomic r0 swap) }

/-- Polder 1 draining, with nothing under way. -/
def draining : State := setPolder ticking 1 { Polder.none with st := .draining }

/-- A MUTATE request at the head of weir 0's queue. -/
def mutating : State :=
  setWeir (setF (live (polder ticking 1 []) 3 1 0 (.conn 2)) ⟨.WEI_RATE, 0, 0⟩ 31 0 16) 0
    { Weir.empty with tok := 16 * 2 ^ 20, queue := [⟨.mutate 3 1, 8, 0, 0⟩] }

/-- A LIVE request of a kind that walks: its descriptor is `d`. -/
def asking (s : State) (d : List Word) : State := modCtx s 3 fun k => { k with desc := d }

/-- A writer of a replicated collection, one group due. -/
def writerDue : State :=
  setColl (collection ticking 0 (BitVec.ofNat 64 (2 ^ 30))) 0 { getColl (collection ticking 0 0) 0 with groups := [aGroup] }

/-- A PLAN operation in progress, whose ATOMIC header for collection 0, of no items, lies at the start of region 0: 1 MiB on, 8 pages. -/
def planning : State :=
  { wrWords (wrWords (setPolder (wrWords (collection ticking 0 0) 80 [BitVec.ofNat 64 (4 * 2 ^ 48)]) 1
      { Polder.none with st := .active, regTab := 6144 }) 6144 [BitVec.ofNat 64 (2 ^ 60), 0x100000, 0x80000, 0])
      0x100000 [BitVec.ofNat 64 (2 ^ 44 + 4 * 2 ^ 40), 0, 0, 0, 0, 0] with img := { ticking.img with planning := some ⟨0, 5, 1, 0, 0⟩ } }

/-- The same of an absent polder. -/
def planless : State := { ticking with img := { ticking.img with planning := some ⟨0, 5, 1, 0, 0⟩ } }

theorem witness_PolderLife_1 : ∃ (s : State) (p : PolderNo) (abort : Bool) (t : Stamp), (alive s = true) ∧ (p.val ≠ 0) ∧ ((getPolder s p.val).st = .active) ∧ ((getPolder s p.val).unload = none) :=
  ⟨setPolder ticking 1 { Polder.none with st := .active }, 1, true, 0, by
    (repeat' apply And.intro) <;> first | with_reducible rfl | decide +kernel | rfl⟩

theorem witness_PolderLife_2 : ∃ (s : State) (p : PolderNo) (u : Nat) (abort : Bool), (alive s = true) ∧ ((getPolder s p.val).st = .active) ∧ ((getPolder s p.val).unload = some (u, abort)) ∧ (u ≤ s.tick.tick) :=
  ⟨setPolder ticking 1 { Polder.none with st := .active, unload := some (5, true) }, 1, 5, true, by
    (repeat' apply And.intro) <;> first | with_reducible rfl | decide +kernel | rfl⟩

theorem witness_PolderLife_3 : ∃ (s : State) (p : PolderNo), (alive s = true) ∧ ((getPolder s p.val).st = .draining) ∧ (liveOf s p.val = []) ∧ (completionWaits s p.val = false) ∧ (consolRuns s p.val = false) :=
  ⟨draining, 1, by
    (repeat' apply And.intro) <;> first | with_reducible rfl | decide +kernel | rfl⟩

theorem witness_PolderLife_4 : ∃ (s : State) (l : Loading) (q : LoadedPolder) (due : Nat), (alive s = true) ∧ (bootState s ≠ 0) ∧ (s.img.loading = some l) ∧ (l.due = some due) ∧ (l.staged = some q) ∧ (imgState s = 3) ∧ (due ≤ s.tick.tick) ∧ (s.tick.running = true) ∧ (s.tick.begun = true) :=
  ⟨setF staged ⟨.RV_BOOT, 0, 0⟩ 55 54 1, ⟨1, 0, 0, 0, [], some 5, some ⟨Polder.none, [], [], [], [], [], 0, [], 0, []⟩⟩, ⟨Polder.none, [], [], [], [], [], 0, [], 0, []⟩, 5, by
    (repeat' apply And.intro) <;> first | with_reducible rfl | decide +kernel | rfl⟩

theorem witness_RatesAndWeirs_1 : ∃ s : State, (alive s = true) ∧ (s.tick.begun = true) :=
  ⟨ticking, by
    (repeat' apply And.intro) <;> first | with_reducible rfl | decide +kernel | rfl⟩

theorem witness_RatesAndWeirs_2 : ∃ (s : State) (v : Word), (alive s = true) :=
  ⟨ticking, 0, by
    (repeat' apply And.intro) <;> first | with_reducible rfl | decide +kernel | rfl⟩

theorem witness_RatesAndWeirs_3 : ∃ (s : State) (w : Fin 16384) (v : Word), (alive s = true) :=
  ⟨ticking, 0, 0, by
    (repeat' apply And.intro) <;> first | with_reducible rfl | decide +kernel | rfl⟩

theorem witness_RatesAndWeirs_4 : ∃ (s : State) (t : Stamp), (alive s = true) :=
  ⟨ticking, 0, by
    (repeat' apply And.intro) <;> first | with_reducible rfl | decide +kernel | rfl⟩

theorem witness_RatesAndWeirs_5 : ∃ (s r : State) (w : Fin 16384) (t : Stamp) (u : WeirUnit) (us : List WeirUnit) (id : Nat), (alive s = true) ∧ (r = weirFill (at_ s t) w.val t) ∧ ((getWeir r w.val).queue = u :: us) ∧ (u.wheel ≤ t) ∧ (u.cost * 2 ^ 20 ≤ (getWeir r w.val).tok) ∧ (fits r t u.dur = true) ∧ (u.tag = .flow id) :=
  ⟨weired, weirFill (at_ weired 0) 0 0, 0, 0, ⟨.flow 9, 8, 0, 0⟩, [], 9, by
    (repeat' apply And.intro) <;> first | with_reducible rfl | decide +kernel | rfl⟩

theorem witness_RatesAndWeirs_6 : ∃ (s r : State) (w : Fin 16384) (t : Stamp) (u : WeirUnit) (us : List WeirUnit) (c g : Nat), (alive s = true) ∧ (r = weirFill (at_ s t) w.val t) ∧ ((getWeir r w.val).queue = u :: us) ∧ (u.wheel ≤ t) ∧ (u.cost * 2 ^ 20 ≤ (getWeir r w.val).tok) ∧ (fits r t u.dur = true) ∧ (u.tag = .mutate c g) ∧ (isLive r c = true) ∧ ((getCtx r c).gen = g) :=
  ⟨mutating, weirFill (at_ mutating 0) 0 0, 0, 0, ⟨.mutate 3 1, 8, 0, 0⟩, [], 3, 1, by
    (repeat' apply And.intro) <;> first | with_reducible rfl | decide +kernel | rfl⟩

theorem witness_Tokens_1a : ∃ (s : State) (w : Nat) (t : Stamp), ((getWeir s w).tok ≤ weirCap s w) :=
  ⟨weired, 0, 0, by
    (repeat' apply And.intro) <;> first | with_reducible rfl | decide +kernel | rfl⟩

theorem witness_WalkRows_1a : ∃ (s s1 : State) (c : CtxId) (part : Nat) (walker : Fin 512) (slot : Fin 16) (st : Stage), (alive s = true) ∧ (pwrState s < 2) ∧ 
  let k := getCtx s c.val
  let key := slotKey walker.val slot.val
  let die := cWalkDie s (getColl s (dColl k.desc)) part
  (getStage s c.val = some st) ∧ (isLive s c.val = true) ∧ (st.kind = .walk) ∧ (st.firstPart ≤ part) ∧ (part < st.firstPart + st.parts) ∧ (slotTakes s key k.polder k.stage die = true) ∧ (activeOwner s c.val = some die) ∧ (isMutation (dKind k.desc) = false) ∧ ((s.walks.any fun e => e.2.ctx = c.val && e.2.gen = k.gen && e.2.part = part && e.2.item.isNone) = false) ∧ ((k.work.lists.any (·.src = part)) = false) ∧ (dKind k.desc ≠ kSearch) ∧ (dKind k.desc ≠ kScan) :=
  ⟨walkable, walkable, 3, 0, 0, 0, { stage 0 none .walk 0 with dies := [0] }, by
    (repeat' apply And.intro) <;> first | with_reducible rfl | decide +kernel | rfl⟩

theorem witness_WalkRows_1b : ∃ (s s1 : State) (c : CtxId) (part : Nat) (walker : Fin 512) (slot : Fin 16) (st : Stage), (alive s = true) ∧ (pwrState s < 2) ∧ 
  let k := getCtx s c.val
  let key := slotKey walker.val slot.val
  let die := cWalkDie s (getColl s (dColl k.desc)) part
  let n := 2 * cDim s (getColl s (dColl k.desc))
  (getStage s c.val = some st) ∧ (isLive s c.val = true) ∧ (st.kind = .walk) ∧ (st.firstPart ≤ part) ∧ (part < st.firstPart + st.parts) ∧ (slotTakes s key k.polder k.stage die = true) ∧ (activeOwner s c.val = some die) ∧ (isMutation (dKind k.desc) = false) ∧ ((s.walks.any fun e => e.2.ctx = c.val && e.2.gen = k.gen && e.2.part = part && e.2.item.isNone) = false) ∧ ((k.work.lists.any (·.src = part)) = false) ∧ (dKind k.desc = kSearch ∨ dKind k.desc = kScan) ∧ (hostAccess s (some c.val) (operandOf s k) n false = (.ok, s1)) :=
  by
    refine ⟨asking walkable [0x0100010000010000], _, 3, 0, 0, 0, { stage 0 none .walk 0 with dies := [0] }, ?_, ?_, ?_, ?_, rfl, ?_, ?_, ?_, ?_, ?_, ?_, ?_, ?_, fst_pair ?_⟩ <;> decide +kernel

theorem witness_WalkRows_2 : ∃ (s r : State) (walker : Fin 512) (slot : Fin 16) (t : Stamp) (w : Walk), (r = at_ s t) ∧ (alive r = true) ∧ (pwrState r < 2) ∧ (mayRun r (walkerUnit walker.val) t = true) ∧ 
  let key := slotKey walker.val slot.val
  (getWalk r key = some w) ∧ (w.st = .setup) :=
  ⟨slotted .setup, at_ (slotted .setup) 0, 0, 0, 0, aWalk .setup, by
    (repeat' apply And.intro) <;> first | with_reducible rfl | decide +kernel | rfl⟩

theorem witness_WalkRows_3 : ∃ (s r : State) (walker : Fin 512) (slot : Fin 16) (t : Stamp) (w : Walk), (r = at_ s t) ∧ (alive r = true) ∧ (pwrState r < 2) ∧ (mayRun r (walkerUnit walker.val) t = true) ∧ 
  let key := slotKey walker.val slot.val
  (getWalk r key = some w) ∧ (w.st = .ready) :=
  ⟨slotted .ready, at_ (slotted .ready) 0, 0, 0, 0, aWalk .ready, by
    (repeat' apply And.intro) <;> first | with_reducible rfl | decide +kernel | rfl⟩

theorem witness_WalkRows_4 : ∃ (s r : State) (die : Crest) (c : CtxId) (t : Stamp) (j : Job), (r = at_ s t) ∧ (alive r = true) ∧ (pwrState r < 2) ∧ (mayRun r (unitNo die.val 2 0) t = true) ∧ ((r.jobs.find? fun j => j.ctx = c.val && j.gen = (getCtx r c.val).gen && j.die = die.val) = some j) ∧ (activeOwner r c.val = some die.val) :=
  ⟨merging, at_ merging 0, 0, 3, 0, ⟨3, 1, 0, 0, [], []⟩, by
    (repeat' apply And.intro) <;> first | with_reducible rfl | decide +kernel | rfl⟩

theorem witness_BatchOutcome_1 : ∃ (s : State) (key : Nat) (w : Walk) (a : WalkAcc), (a.w.err = 0) :=
  ⟨ticking, 0, aWalk .running, ⟨aWalk .running, 0, 0, 0, 0, false⟩, by
    (repeat' apply And.intro) <;> first | with_reducible rfl | decide +kernel | rfl⟩

theorem witness_BatchOutcome_2 : ∃ (s : State) (key : Nat) (w : Walk) (a : WalkAcc), (a.w.err ≠ 0) :=
  ⟨ticking, 0, aWalk .running, ⟨{ aWalk .running with err := 3 }, 0, 0, 0, 0, false⟩, by
    (repeat' apply And.intro) <;> first | with_reducible rfl | decide +kernel | rfl⟩

theorem witness_MutationRows_1 : ∃ (s r : State) (coll : CollNo) (t b : Stamp), (r = at_ s t) ∧ (alive r = true) ∧ (pwrState r < 2) ∧ 
  let co := getColl r coll.val
  let start := b - bermNs r - co.stepB - us
  ((mapGet r.colls coll.val).isSome = true) ∧ (co.writer = true) ∧ (mReplicated r co = false) ∧ (r.tick.running = true) ∧ (r.tick.begun = true) ∧ (r.tick.nextAt = some b) ∧ (co.stepTick ≠ some r.tick.tick) ∧ (r.now ≤ start) :=
  ⟨collection ticking 0 0, at_ (collection ticking 0 0) 0, 0, 0, 2000000, by
    (repeat' apply And.intro) <;> first | with_reducible rfl | decide +kernel | rfl⟩

theorem witness_MutationRows_2 : ∃ (s s' : State) (coll : CollNo) (seg m : Nat), (alive s = true) ∧ (pwrState s < 2) ∧ 
  let co := getColl s coll.val
  let dead := deadSet s co seg (cResolve s co seg s.tick.epoch)
  ((mapGet s.colls coll.val).isSome = true) ∧ (seg < cSegments s co) ∧ (co.writer = true) ∧ ((co.consol.any (·.seg = seg)) = false) ∧ (0 < mConsolRatio s co) ∧ (mConsolRatio s co * cSegSize s co seg ≤ dead.length * 65536) ∧ (takeMseq s co = (s', m)) :=
  by
    refine ⟨collection ticking 0 0, _, 0, 0, 0, ?_, ?_, ?_, ?_, ?_, ?_, ?_, ?_, snd_pair ?_⟩ <;> decide +kernel

theorem witness_MutationRows_3 : ∃ (s r : State) (coll : CollNo) (t : Stamp), (r = at_ s t) ∧ (alive r = true) ∧ (pwrState r < 2) ∧ ((mapGet r.colls coll.val).isSome = true) ∧ ((getColl r coll.val).writer = false) ∧ (r.tick.running = true) ∧ (r.tick.begun = true) :=
  ⟨setColl ticking 0 { Coll.none with polder := 1, writer := false }, at_ (setColl ticking 0 { Coll.none with polder := 1, writer := false }) 0, 0, 0, by
    (repeat' apply And.intro) <;> first | with_reducible rfl | decide +kernel | rfl⟩

theorem witness_MutationRows_4 : ∃ (s : State) (coll : CollNo), (alive s = true) ∧ 
  let co := getColl s coll.val
  let n := s.tick.nextNum
  let due := dueGroups s coll.val n
  (co.writer = true) ∧ (mReplicated s co = true) ∧ (due ≠ []) ∧ ((due.all fun g => g.named = some n) = false) :=
  ⟨writerDue, 0, by
    (repeat' apply And.intro) <;> first | with_reducible rfl | decide +kernel | rfl⟩

theorem witness_ReplacementRows_1 : ∃ (s : State) (x : Planning), (alive s = true) ∧ (s.img.planning = some x) ∧ (x.due ≤ s.tick.tick) ∧ (planCode s x.polder x.region x.off true = 0) :=
  by
    refine ⟨planning, ⟨0, 5, 1, 0, 0⟩, by decide +kernel, by decide +kernel, by decide +kernel,
      Laws.planCode_ok (a := 0x100000) ?_ ?_ (Nat.le_trans (m := 0) ?_ (Nat.zero_le _))⟩ <;> decide +kernel

theorem witness_ReplacementRows_2 : ∃ (s : State) (x : Planning), (alive s = true) ∧ (s.img.planning = some x) ∧ (x.due ≤ s.tick.tick) ∧ (planCode s x.polder x.region x.off true ≠ 0) :=
  ⟨planless, ⟨0, 5, 1, 0, 0⟩, by
    (repeat' apply And.intro) <;> first | with_reducible rfl | decide +kernel | rfl⟩

theorem witness_ReplacementRows_3 : ∃ (s : State) (coll : CollNo) (p : Plan), (alive s = true) ∧ ((getColl s coll.val).plan = some p) ∧ (p.atomic = true) ∧ (p.st = .running) ∧ (p.swapAt = s.tick.epoch) ∧ (p.swaps = []) :=
  ⟨planned true 4 5, 0, aPlan true 4 5, by
    (repeat' apply And.intro) <;> first | with_reducible rfl | decide +kernel | rfl⟩

theorem witness_ReplacementRows_4 : ∃ (s : State) (coll : CollNo) (p : Plan), (alive s = true) ∧ ((getColl s coll.val).plan = some p) ∧ (p.atomic = false) ∧ (p.st = .running) ∧ (p.r0 < s.tick.epoch) ∧ (p.rollAt ≠ s.tick.epoch) :=
  ⟨planned false 4 5, 0, aPlan false 4 5, by
    (repeat' apply And.intro) <;> first | with_reducible rfl | decide +kernel | rfl⟩

end Sys2Proof.Tests
end

