-- ==== Sys2Proof/Tests/Witness04.lean ====
section
/-! SUPPORT. Witnesses: for each clause of a statement, a state and operands that meet its hypotheses. -/

namespace Sys2Proof.Tests

open Sys2Proof.Machine

set_option Elab.async false

/-- A command record of polder 1. -/
def aRec (op : Nat) (f : RecForm) : BsuRec := ⟨(recOf op 1 0 f).toArray, rfl⟩

/-- Stack 0 with its BSUs on and row 0 a RECOMPUTE row that is not striped. -/
def bsuReady : State := setF (setF (collection ticking 0 0) ⟨.MEM_BSU_CFG, 0, 0⟩ 0 0 1) (rowReg 0 0) 1 0 2

/-- Request 3 in stage `k` of polder 1, its query read, and batches of up to 4. -/
def scanning (k : StageKind) : State :=
  let s := live (polder bsuReady 1 [stage 0 none k 0]) 3 1 0 (.conn 2) [0x0200010000010000, 0, 0, 0, 0, 0, 0, 0, 0x0020000000000000]
  modWork (setF s ⟨.MEM_BSU_CFG, 0, 0⟩ 15 8 4) 3 fun w => { w with query := List.replicate 64 0 }

/-- The record of a SCAN command for one query of `k` 1 over one page. -/
def scanRec : BsuRec := aRec 1 { queries := 1, k := 1, pages := 1, setup := 260 }

/-- A query and a list of request 3, and a SCAN command of polder 1 with one page of `n` records. -/
def aQuery : BsuQuery := ⟨3, 1, 5, List.replicate 64 0, []⟩
def aCmd (n : Nat) : BsuCmd :=
  ⟨.scan, scanRec.toList, [(3, 1)], 0, [BitVec.ofNat 64 (2 ^ 49 + n * 2 ^ 36)], .queries [aQuery], 0, .lists [BsuList.start 3]⟩

/-- Commands of the other rows. -/
def filtering : BsuCmd := { aCmd 1 with op := .filter, out := .pass [(3, [])] }
def pruning : BsuCmd := { aCmd 1 with op := .prune, arg := .anchor 0 1 [] [], out := .nothing, pages := [] }
def filling : BsuCmd := { aCmd 1 with op := .fill, head := (aRec 8 { count := 1 }).toList, arg := .none, out := .nothing, pages := [] }
def sweeping : BsuCmd := { aCmd 1 with op := .edgescan, arg := .dead 0 0 [1], out := .ids [] }

/-- The command queued in pseudo-channel 0, whose window 0 polder 1 owns. -/
def queued : State := setF (setBsu (scanning .scan) 0 0 { getBsu bsuReady 0 0 with queue := [aCmd 1] }) ⟨.MEM_BSU_WIN, 0, 0⟩ 11 0 1

/-- A SCAN request on die 0 whose segment 0 has been scanned whole. -/
def scanned : State :=
  let s := scanning .scan
  setBsu s 0 0 { getBsu s 0 0 with results := [{ aCmd 1 with pages := pageList s (getColl s 0) 0 (cResolve s (getColl s 0) 0 5) .codes 0 0 }] }

/-- Request 3 in a BAG stage: model 0 has one feature of table 0, whose one row lies in pseudo-channel 0; the stream at 65536 names it. -/
def bagged : State :=
  let s := setF (setF ticking ⟨.MEM_BSU_CFG, 0, 0⟩ 0 0 1) (rowReg 0 0) 1 0 2
  let s := live (polder s 1 [stage 0 none .bag 0]) 3 1 0 (.conn 2) [0x0300010000010000, 0, 0, 0, 12 * 2 ^ 32, 0, 0, 0, 3 * 2 ^ 40]
  let s := { s with models := [(0, ⟨1, 512, [.bag [BitVec.ofNat 64 (2 ^ 45)]], [], [], [], [], [], [], [], 0⟩)],
                    tables := [(0, ⟨1, 1024, [], [], [], none, 0, [], [], []⟩)] }
  let s := wrWords (wrWords (wrWords (wrWords s 8192 [8256, 0, 0, 0, 0, 0, 0, 0, mkPte false 131072]) 4096 [0, 0, 8192, 0]) 1024
    [BitVec.ofNat 64 (2 ^ 41 + 8 * 2 ^ 24), 0, 0, 0, 0, 4096]) 65536 [1]
  setPolder (wrWords s 16384 [0, 65536, 65536, 0]) 1 { getPolder s 1 with regTab := 16384 }

/-- Pseudo-channel 0 whose slot of window 0 is used, and one with a refresh waiting. -/
def usedSlot : State := setBsu queued 0 0 { getBsu queued 0 0 with used := some (5, 0), segEnd := 1002000 }

/-- A change of a row's code that waits for a guard. -/
def pending : State := { ticking with eccPend := [(3, true)] }

theorem witness_BsuScans_1 : ∃ (s r : State) (st : Stack) (p : Pc) (rec : BsuRec) (seg : Nat) (e : BsuOp × Instr) (c : BsuCmd), (e ∈ [(BsuOp.scan, Instr.scan st p rec seg), (.shadow, .shadow st p rec seg), (.filter, .filter st p rec seg)]) ∧ (alive s = true) ∧ (pwrState s < 2) ∧ 
  let h := rec.toList
  let batch := batchOf s (getColl s (recColl h)) seg (min (recQueries h) (getF s ⟨.MEM_BSU_CFG, st.val, 0⟩ 15 8)) e.1
      (scanJobs s st.val p.val (recPolder h) (recColl h) seg e.1)
  (r = (if e.1 = .filter then s else batch.foldl loadQuery s)) ∧ (scanCmd r e.1 st.val p.val seg h batch = some c) ∧ (bsuOn r st.val = true) ∧ (reservedOp (recOpcode h) = false) ∧ (pagesCode r st.val e.1 (c.pages.map pagePc) = 0) :=
  by
    refine ⟨scanning .scan, _, 0, 0, scanRec, 0, (.scan, .scan 0 0 scanRec 0), _, ?_, ?_, ?_, rfl, some_get ?_, ?_, ?_, ?_⟩ <;> first | exact .head _ | decide +kernel

theorem witness_BsuScans_2 : ∃ (s r : State) (st p : Nat) (c : BsuCmd) (n : Nat) (ls : List BsuList), (c.op = .scan ∨ c.op = .shadow) ∧ (c.out = .lists ls) ∧ 
  let lines := segmentLines s st p c n
  (bsuRead (bump (bump s ⟨.BSU_CNT0, st, p⟩ 63 32 1) ⟨.BSU_CNT1, st, p⟩ 63 0 (64 * lines.length)) st p lines = (r, 0)) ∧ (c.done + n < recordsOf c.pages) :=
  by
    refine ⟨queued, _, 0, 0, aCmd 2, 1, [BsuList.start 3], ?_, rfl, snd_pair ?_, ?_⟩ <;> decide +kernel

theorem witness_BsuScans_3 : ∃ (s : State) (st p : Nat) (c : BsuCmd) (n : Nat) (xs : List (Nat × List Nat)), (c.op = .filter) ∧ (c.out = .pass xs) :=
  ⟨bsuReady, 0, 0, filtering, 1, [(3, [])], by
    (repeat' apply And.intro) <;> first | with_reducible rfl | decide +kernel | rfl⟩

theorem witness_BsuWrites_1 : ∃ (s : State) (st : Stack) (p : Pc) (rec : BsuRec) (x : CtxId) (item cons seg base : Nat) (pages : List Word) (e : Instr × Option BsuCmd) (c : BsuCmd), (e ∈ [(Instr.prune st p rec x item, pruneCmd s rec.toList x.val item), (.edgescan st p rec cons seg base, edgeCmd s st.val p.val rec.toList cons seg base), (.copy st p rec pages, copyCmd rec.toList pages), (.fill st p rec, fillCmd rec.toList)]) ∧ (alive s = true) ∧ (pwrState s < 2) ∧ (bsuOn s st.val = true) ∧ (e.2 = some c) ∧ (reservedOp (recOpcode rec.toList) = false) ∧ (pagesCode s st.val c.op (namedPages s c) = 0) :=
  by
    refine ⟨bsuReady, 0, 0, aRec 8 { count := 1 }, 3, 0, 0, 0, 0, [], (.fill 0 0 (aRec 8 { count := 1 }), fillCmd (aRec 8 { count := 1 }).toList), _, ?_, ?_, ?_, ?_,
      some_get ?_, ?_, ?_⟩ <;> first | exact .tail _ (.tail _ (.tail _ (.head _))) | decide +kernel

theorem witness_BsuWrites_2 : ∃ (s s1 r : State) (st : Stack) (p : Pc) (rec : BsuRec) (x : CtxId) (c : BsuCmd), (alive s = true) ∧ (pwrState s < 2) ∧ (isLive s x.val = true) ∧ (stageKindOf s x.val = some .bag) ∧ 
  let k := getCtx s x.val
  let a := operandOf s k
  (hostAccess s (some x.val) a (dOpBytes k.desc) false = (.ok, s1)) ∧ (r = (if operandAddr s k.desc ≤ a ∧ a < operandAddr s k.desc + dOpBytes k.desc then poolUse s1 (dPolder k.desc) (dOpRegion k.desc) (dOpOffset k.desc + (a - operandAddr s k.desc)) (dOpBytes k.desc) false else s1)) ∧ (poolCmd r st.val p.val rec.toList x.val (rdBytes r a (dOpBytes k.desc)) = some c) ∧ (bsuOn r st.val = true) ∧ (reservedOp (recOpcode rec.toList) = false) ∧ (pagesCode r st.val .pool (namedPages r c) = 0) :=
  by
    refine ⟨bagged, _, _, 0, 0, aRec 4 { count := 1, operand := 16 }, 3, _, ?_, ?_, ?_, ?_, fst_pair ?_, rfl, some_get ?_, ?_, ?_, ?_⟩ <;> decide +kernel

theorem witness_BsuWrites_3 : ∃ (s r : State) (st p : Nat) (c : BsuCmd) (i id : Nat) (code : List Byte) (cands : List PruneCand), (c.arg = .anchor i id code cands) ∧ 
  let co := getColl s (recColl c.head)
  let a := ofPc s st p (recTarget c.head)
  let bs := adjBytes (bsuGeom s co).degree (prune s co id cands)
  (bsuRead (bump s ⟨.BSU_CNT1, st, p⟩ 63 0 (64 * (linesOf a bs.length).length)) st p (linesOf a bs.length) = (r, 0)) :=
  by
    refine ⟨bsuReady, _, 0, 0, pruning, 0, 1, [], [], rfl, snd_pair ?_⟩ <;> decide +kernel

theorem witness_BsuWrites_4 : ∃ (s : State) (src dst : Nat), (lineOk s src = .clean) :=
  ⟨bsuReady, 0, 1, by
    (repeat' apply And.intro) <;> first | with_reducible rfl | decide +kernel | rfl⟩

theorem witness_BsuWrites_5 : ∃ (s : State) (src dst : Nat), (lineOk s src = .poisoned ∨ lineOk s src = .uncorrectable) :=
  ⟨poisonLine bsuReady 5, 5, 1, by
    (repeat' apply And.intro) <;> first | with_reducible rfl | decide +kernel | rfl⟩

theorem witness_BsuWrites_6 : ∃ (s : State) (st p : Nat) (c : BsuCmd) (n : Nat), (c.op = .fill) :=
  ⟨bsuReady, 0, 0, filling, 1, by
    (repeat' apply And.intro) <;> first | with_reducible rfl | decide +kernel | rfl⟩

theorem witness_BsuWrites_7 : ∃ (s : State) (st p : Nat) (c : BsuCmd) (n cons base : Nat) (ids ds : List Nat), (c.op = .edgescan) ∧ (c.out = .ids ids) ∧ (c.arg = .dead cons base ds) :=
  ⟨bsuReady, 0, 0, sweeping, 1, 0, 0, [], [1], by
    (repeat' apply And.intro) <;> first | with_reducible rfl | decide +kernel | rfl⟩

theorem witness_BsuRefusals_1 : ∃ (s : State) (st p : Nat) (c : BsuCmd), (bsuOn s st = true) ∧ (reservedOp (recOpcode c.head) = true) :=
  ⟨bsuReady, 0, 0, { filling with head := (aRec 9 { count := 1 }).toList }, by
    (repeat' apply And.intro) <;> first | with_reducible rfl | decide +kernel | rfl⟩

theorem witness_BsuRefusals_2 : ∃ (s : State) (st p : Nat) (c : BsuCmd), (bsuOn s st = true) ∧ (reservedOp (recOpcode c.head) = false) ∧ (c.op ≠ .fill) ∧ (((namedPages s c).any fun a => rowStriped s st (pcRow a)) = true) :=
  ⟨setF bsuReady (rowReg 0 0) 0 0 1, 0, 0, aCmd 1, by
    (repeat' apply And.intro) <;> first | with_reducible rfl | decide +kernel | rfl⟩

theorem witness_BsuRefusals_3 : ∃ (s : State) (st p : Nat) (c : BsuCmd), (bsuOn s st = true) ∧ (reservedOp (recOpcode c.head) = false) ∧ ((c.op = .fill ∨ ((namedPages s c).any fun a => rowStriped s st (pcRow a)) = false)) ∧ (((namedPages s c).any fun a => !rowRecompute s st (pcRow a)) = true) :=
  ⟨setF bsuReady (rowReg 0 0) 1 1 0, 0, 0, aCmd 1, by
    (repeat' apply And.intro) <;> first | with_reducible rfl | decide +kernel | rfl⟩

theorem witness_BsuRefusals_5 : ∃ (s : State) (st : Stack) (p : Pc) (rec : BsuRec) (c : BsuCmd), (alive s = true) ∧ (pwrState s < 2) ∧ (bsuOn s st.val = true) ∧ (fillCmd rec.toList = some c) ∧ (reservedOp (recOpcode rec.toList) = true) :=
  by
    refine ⟨bsuReady, 0, 0, aRec 9 { count := 1 }, _, ?_, ?_, ?_, some_get ?_, ?_⟩ <;> decide +kernel

theorem witness_BsuUpkeep_1 : ∃ (s r : State) (st : Stack) (p : Pc) (win : Nat) (t : Stamp) (c : BsuCmd), (r = at_ s t) ∧ (alive r = true) ∧ (pwrState r < 2) ∧ (r.tick.running = true) ∧ (r.tick.begun = true) ∧ (win < nWindows r) ∧ (r.tick.base ≤ t) ∧ (2 * us * win + 500 ≤ t - r.tick.base) ∧ (t - r.tick.base < 2 * us * (win + 1)) ∧ (bsuOn r st.val = true) ∧ (fits r (r.tick.base + 2 * us * win + 500) 1500 = true) ∧ 
  let b := takeRefresh r (getBsu r st.val p.val) r.tick.tick win (r.tick.base + 2 * us * win)
  (b.used ≠ some (r.tick.tick, win)) ∧ ((b.queue.find? fun c => recPolder c.head = winOwner r st.val win) = some c) ∧ (segmentReady r c (segmentLen r c) = true) ∧ 
  let u := setBsu r st.val p.val
      { b with run := some c, segEnd := r.tick.base + 2 * us * (win + 1), used := some (r.tick.tick, win), window := win }
  (pagesCode u st.val c.op (namedFrom u c c.done (segmentLen r c)) = 0) :=
  ⟨queued, at_ queued 1000500, 0, 0, 0, 1000500, aCmd 1, by
    (repeat' apply And.intro) <;> first | with_reducible rfl | decide +kernel | rfl⟩

theorem witness_BsuUpkeep_2 : ∃ (s r : State) (st : Stack) (p : Pc) (win : Nat) (t : Stamp), (r = at_ s t) ∧ ((takeRefresh r (getBsu r st.val p.val) r.tick.tick win (r.tick.base + 2 * us * win)).used = some (r.tick.tick, win)) :=
  ⟨usedSlot, at_ usedSlot 1000500, 0, 0, 0, 1000500, by
    (repeat' apply And.intro) <;> first | with_reducible rfl | decide +kernel | rfl⟩

theorem witness_BsuUpkeep_3 : ∃ (s : State) (c : CtxId) (seg die : Nat) (sh : Bool), (alive s = true) ∧ (pwrState s < 2) ∧ 
  let k := getCtx s c.val
  let co := getColl s (dColl k.desc)
  let op := if sh then BsuOp.shadow else .scan
  let rs := segResults s c.val seg op
  let pages := codePages s co seg k.pin
  (isLive s c.val = true) ∧ (scansIn s c.val sh = true) ∧ (seg < cSegments s co) ∧ ((pages.all fun g => rs.any fun r => r.1 = g.1 && r.2.1.pages.any fun e => pagePc e = g.2) = true) ∧ ((pages.head?).elim (cWalkDie s co (cSegPart s co seg)) (fun g => g.1 / 64 / 5) = die) ∧ (activeOwner s c.val = some die) :=
  ⟨scanned, 3, 0, 0, false, by
    (repeat' apply And.intro) <;> first | with_reducible rfl | decide +kernel | rfl⟩

theorem witness_BsuUpkeep_4 : ∃ (s r : State) (st : Stack) (p : Pc) (t : Stamp) (l : Nat) (ls : List Nat), (r = at_ s t) ∧ (alive r = true) ∧ (inGuard r t = true) ∧ ((getBsu r st.val p.val).scrub = l :: ls) :=
  ⟨setBsu ticking 0 0 { getBsu ticking 0 0 with scrub := [7] }, at_ (setBsu ticking 0 0 { getBsu ticking 0 0 with scrub := [7] }) 1000100, 0, 0, 1000100, 7, [], by
    (repeat' apply And.intro) <;> first | with_reducible rfl | decide +kernel | rfl⟩

theorem witness_BsuUpkeep_5 : ∃ (s r : State) (st : Stack) (line : Nat) (fix : List (Nat × Nat)) (t : Stamp), (r = at_ s t) ∧ (alive r = true) ∧ (fld (getReg r ⟨.MEM_SCRUB_CFG, st.val, 0⟩) 0 0 = 1) ∧ (inGuard r t = true) ∧ (line + 1 < stackBytes / 64) ∧ 
  let l := st.val * (stackBytes / 64) + line
  (memLost r (l * 64) = false) ∧ (lineOk r l = .corrected fix) :=
  ⟨{ setF ticking ⟨.MEM_SCRUB_CFG, 0, 0⟩ 0 0 1 with chk := [(5, 1)] }, at_ ({ setF ticking ⟨.MEM_SCRUB_CFG, 0, 0⟩ 0 0 1 with chk := [(5, 1)] }) 1000100, 0, 5, [], 1000100, by
    (repeat' apply And.intro) <;> first | with_reducible rfl | decide +kernel | rfl⟩

theorem witness_BsuUpkeep_6a : ∃ (s r : State) (st : Stack) (p : Pc) (t : Stamp), (r = at_ s t) ∧ (alive r = true) ∧ (inGuard r t = false) ∧ 
  let b := getBsu r st.val p.val
  ((b.segEnd ≤ t ∨ b.used = none)) :=
  ⟨ticking, at_ ticking 1000600, 0, 0, 1000600, by
    (repeat' apply And.intro) <;> first | with_reducible rfl | decide +kernel | rfl⟩

theorem witness_BsuUpkeep_6b : ∃ (s r : State) (st : Stack) (p : Pc) (t : Stamp), (r = at_ s t) ∧ (alive r = true) ∧ (inGuard r t = false) ∧ 
  let b := getBsu r st.val p.val
  (r.tick.running = true) ∧ (r.tick.begun = true) ∧ (inBerm r t = false) ∧ (t < b.segEnd) ∧ (b.used = some (r.tick.tick, (t - r.tick.base) / (2 * us))) :=
  ⟨usedSlot, at_ usedSlot 1000600, 0, 0, 1000600, by
    (repeat' apply And.intro) <;> first | with_reducible rfl | decide +kernel | rfl⟩

theorem witness_BsuUpkeep_7 : ∃ (s : State) (st : Stack) (row : Fin 1024) (v : Bool), (alive s = true) ∧ (inGuard s s.now = true) ∧ (mapGet s.eccPend (st.val * 1024 + row.val) = some v) :=
  ⟨pending, 0, 3, true, by
    (repeat' apply And.intro) <;> first | with_reducible rfl | decide +kernel | rfl⟩

end Sys2Proof.Tests
end

