-- ==== Sys2Proof/Tests/Witness05.lean ====
section
/-! SUPPORT. Witnesses: for each clause of a statement, a state and operands that meet its hypotheses. -/

namespace Sys2Proof.Tests

open Sys2Proof.Machine

set_option Elab.async false

/-- Model 0 of polder 1 with the operators `ops`, served by tile 0 of die 0: one head of 64 components, its descriptor at 512. -/
def aModel (ops : List ModelOp) : Model :=
  ⟨1, 512, ops, [⟨0, [0, 1, 2], 16, 1, 4096, []⟩], [], [], [], [], [], [], 0⟩
def tiled (ops : List ModelOp) : State :=
  let s := wrW (live (polder ticking 1 [stage 0 none .encode 0]) 3 1 0 (.conn 2)) 512 (BitVec.ofNat 64 (2 ^ 26 + 2 ^ 19))
  { setReg s ⟨.TEN_CFG, 0, 0⟩ (BitVec.ofNat 64 (2 ^ 52 + 1)) with models := [(0, aModel ops)] }

/-- A pass of one row in slot 0 of die 0. -/
def aPass : Pass := { Pass.start 3 1 0 0 5 with rows := 1 }
def passing (ops : List ModelOp) (p : Pass) : State := setPass (tiled ops) 0 p

/-- A weight of one component. -/
def aWeight : Weights := ⟨1, 1, .bf16, 0, none, 0, none⟩

/-- A training step in slot 0 of die 0. -/
def training (t : Train) : State := { tiled [] with trains := [(0, t)] }
def aStep (loss : BitVec 32) (optim : List Nat) (rec_ : Nat) : Train := ⟨3, 1, 0, 0, 0, [], loss, 0, 0, optim, rec_⟩

/-- Table 0 of polder 1: one row of width 8; its descriptor at 1024, version record at 4096, page tables at 8192, page at 131072; and a hot
list of that row at 65536, in region 0 of the polder. -/
def aTable : Table := ⟨1, 1024, [], [], [], none, 0, [], [], []⟩
def tabled (ops : List ModelOp) : State :=
  let s := { tiled ops with tables := [(0, aTable)] }
  let s := wrWords (wrWords (wrWords (wrWords s 8192 [8256, 0, 0, 0, 0, 0, 0, 0, mkPte false 131072]) 4096 [0, 0, 8192, 0]) 1024 [BitVec.ofNat 64 (8 * 2 ^ 24), 0, 0, 0, 0, 4096])
    65536 [BitVec.ofNat 64 (2 ^ 40)]
  setPolder (wrWords s 16384 [0, 65536, 65536, 0]) 1 { getPolder s 1 with regTab := 16384 }

theorem witness_TensorJobs_1 : ∃ (s r : State) (die : Crest) (tile : Fin 64) (op : Nat) (slots : List (Fin 96)) (t : Stamp) (j : JobAt) (w : Weights) (ads : List Nat) (k0 : Nat)
      (p0 : Pass) (rest : List (Nat × Pass)), (r = at_ s t) ∧ (alive r = true) ∧ (pwrState r < 2) ∧ (jobAt r die.val tile.val t = some j) ∧ ((opAt j.model op).bind slicedWeights = some (w, ads)) ∧ 
  let all := jobPasses r die.val j (slots.map (·.val))
  let fwd := all.filter fun e => e.2.back.isNone && opReady r j.model e.2 op
      && !(((opAt j.model op).map isItemOp).getD false && decide (e.2.cands.length < e.2.ids.length))
  let back := all.filter fun e => e.2.back = some op
  (fwd ++ back = (k0, p0) :: rest) :=
  by
    refine ⟨passing [.linear .input aWeight []] aPass, at_ (passing [.linear .input aWeight []] aPass) 0, 0, 0, 0, [0], 0, _, aWeight, [], 0, aPass, [], rfl, ?_, ?_, some_get ?_, ?_, ?_⟩ <;> decide +kernel

theorem witness_TensorJobs_2 : ∃ (s r : State) (die : Crest) (tile : Fin 64) (op : Nat) (slots : List (Fin 96)) (t : Stamp) (j : JobAt) (o : ModelOp) (k0 : Nat)
      (p0 : Pass) (rest : List (Nat × Pass)), (r = at_ s t) ∧ (alive r = true) ∧ (pwrState r < 2) ∧ (jobAt r die.val tile.val t = some j) ∧ (opAt j.model op = some o) ∧ (isVectorOp o = true) ∧ 
  let all := jobPasses r die.val j (slots.map (·.val))
  let fwd := all.filter fun e => e.2.back.isNone && opReady r j.model e.2 op
  let back := all.filter fun e => e.2.back = some op
  (fwd ++ back = (k0, p0) :: rest) :=
  by
    refine ⟨passing [.l2norm .input] aPass, at_ (passing [.l2norm .input] aPass) 0, 0, 0, 0, [0], 0, _, .l2norm .input, 0, aPass, [], rfl, ?_, ?_, some_get ?_, ?_, ?_, ?_⟩ <;> decide +kernel

theorem witness_TensorJobs_3 : ∃ (s r : State) (die : Crest) (tile : Fin 64) (op key : Nat) (slot : Fin 96) (t : Stamp) (j : JobAt) (p p' : Pass) (tok : Weights) (pos : Option Weights), (r = at_ s t) ∧ (alive r = true) ∧ (pwrState r < 2) ∧ (jobAt r die.val tile.val t = some j) ∧ (jobPasses r die.val j [slot.val] = [(key, p)]) ∧ (opAt j.model op = some (.embed tok pos)) ∧ (opReady r j.model p op = true) ∧ (p.back = none) ∧ 
  let u := noteJob r die.val tile.val 2 slot.val p.layer
  (firstCode (weightCode u j.model tok :: pos.toList.map (weightCode u j.model)) = 0) ∧ (getPass u key = some p') :=
  by
    refine ⟨passing [.embed aWeight (some aWeight)] aPass, at_ (passing [.embed aWeight (some aWeight)] aPass) 0, 0, 0, 0, 0, 0, 0, _, aPass, _, aWeight, some aWeight, rfl, ?_, ?_, some_get ?_, ?_, ?_, ?_, ?_, ?_, some_get ?_⟩ <;> decide +kernel

theorem witness_TensorJobs_4 : ∃ (s r u : State) (die : Crest) (tile : Fin 64) (op key layer qCol kCol vCol : Nat) (x : Operand) (slot : Fin 96) (t : Stamp) (j : JobAt) (p : Pass), (r = at_ s t) ∧ (alive r = true) ∧ (pwrState r < 2) ∧ (jobAt r die.val tile.val t = some j) ∧ (jobPasses r die.val j [slot.val] = [(key, p)]) ∧ (opAt j.model op = some (.attention x layer qCol kCol vCol)) ∧ (opReady r j.model p op = true) ∧ (p.back = none) ∧ 
  let a := mapGetD p.appended op 0
  let n := min j.group.rowsMax (p.rows - a)
  let r1 := noteJob r die.val tile.val 3 slot.val layer
  (n ≠ 0) ∧ (((((operandRows r1 j.model p x).drop a).take n).zipIdx.foldl (fun acc e => (List.range (mKvHeads r1 j.model)).foldl (appendOne j.model key layer kCol vCol (a + e.2) e.1) acc) (some r1)) = some u) :=
  by
    refine ⟨passing [.attention .input 0 0 0 0] aPass, at_ (passing [.attention .input 0 0 0 0] aPass) 0, _, 0, 0, 0, 0, 0, 0, 0, 0, .input, 0, 0, _, aPass, rfl, ?_, ?_, some_get ?_, ?_, ?_, ?_, ?_, ?_, some_get ?_⟩ <;> decide +kernel

theorem witness_TensorJobs_5 : ∃ (s r : State) (die : Crest) (tile : Fin 64), (alive s = true) ∧ (pwrState s < 2) ∧ (getF s ⟨.TEN_STS, die.val, tile.val⟩ 63 61 = 4) ∧ ((tileGroup s die.val tile.val = none ∧ r = s) ∨ (∃ n m g, tileGroup s die.val tile.val = some (n, m, g) ∧ loadTile s m g tile.val = some r)) :=
  by
    refine ⟨setF (tiled []) ⟨.TEN_STS, 0, 0⟩ 63 61 4, _, 0, 0, ?_, ?_, ?_, .inr ⟨0, aModel [], ⟨0, [0, 1, 2], 16, 1, 4096, []⟩, ?_, some_get ?_⟩⟩ <;> decide +kernel

theorem witness_TensorJobs_6 : ∃ (s : State) (die tile : Nat) (err : TileErr) (k : State → State), (err.corrected = 0) ∧ (err.kind ≠ 0) :=
  ⟨ticking, 0, 0, ⟨0, 1⟩, id, by
    (repeat' apply And.intro) <;> first | with_reducible rfl | decide +kernel | rfl⟩

theorem witness_TensorAttention_1 : ∃ (s r : State) (die : Crest) (tile : Fin 64) (op key layer qCol kCol vCol head qb : Nat) (x : Operand) (slot : Fin 96) (t : Stamp) (j : JobAt) (p : Pass)
      (a : AttnRun) (done skip : Nat), (r = at_ s t) ∧ (alive r = true) ∧ (pwrState r < 2) ∧ (jobAt r die.val tile.val t = some j) ∧ (jobPasses r die.val j [slot.val] = [(key, p)]) ∧ (opAt j.model op = some (.attention x layer qCol kCol vCol)) ∧ (opReady r j.model p op = true) ∧ (p.back = none) ∧ (p.rows ≤ mapGetD p.appended op 0) ∧ (head < mHeads r j.model) ∧ (qb < qBlocks p) ∧ (mapGet p.blocks (blockKey op head qb) = none) ∧ 
  let r1 := noteJob r die.val tile.val 4 slot.val layer
  let ids := blockRows p qb
  let qs := ids.map fun i => (i, headPart r1 j.model p true qCol head i ((nth? (operandRows r1 j.model p x) i).getD []))
  let zero := List.replicate (mHeadDim r1 j.model) (0 : F32)
  let r0 := mapGetD p.attn (blockKey op head qb) ⟨0, ids.map fun _ => f32NegInf, ids.map fun _ => 0, ids.map fun _ => zero⟩
  (attnGo r1 j.model p layer (kvHead r1 j.model head) qb qs (qBlocks p + 1) j.group.kbJob r0 (0, 0, 0) = (a, done, skip, 0)) :=
  by
    refine ⟨passing [.attention .input 0 0 0 0] ({ aPass with appended := [(0, 1)] }), at_ (passing [.attention .input 0 0 0 0] ({ aPass with appended := [(0, 1)] })) 0, 0, 0, 0, 0, 0, 0, 0, 0, 0, 0, .input, 0, 0, _, { aPass with appended := [(0, 1)] }, _, _, _, rfl, ?_, ?_, some_get ?_, ?_, ?_, ?_, ?_, ?_, ?_, ?_, by decide +kernel, last_zero ?_⟩ <;> decide +kernel

theorem witness_TensorAttention_2 : ∃ (s r : State) (die : Crest) (tile : Fin 64) (op key layer qCol kCol vCol head qb : Nat) (x : Operand) (slot : Fin 96) (t : Stamp) (j : JobAt) (p : Pass), (r = at_ s t) ∧ (alive r = true) ∧ (pwrState r < 2) ∧ (jobAt r die.val tile.val t = some j) ∧ (jobPasses r die.val j [slot.val] = [(key, p)]) ∧ (opAt j.model op = some (.attention x layer qCol kCol vCol)) ∧ (p.back = some op) ∧ (head < mHeads r j.model) ∧ (qb < qBlocks p) ∧ ((((mapGet p.attn (backKey op head qb)).map (·.next)).getD 0) < qBlocks p) ∧ ((∀ q < qb, qBlocks p ≤ ((mapGet p.attn (backKey op head q)).map (·.next)).getD 0)) ∧ 
  let m := j.model
  let r1 := noteJob r die.val tile.val 5 slot.val layer
  let ids := blockRows p qb
  let rows := operandRows r1 m p x
  let qs := ids.map fun i => headPart r1 m p true qCol head i ((nth? rows i).getD [])
  let dos := ids.map fun i => (((nth? (gradRows p op) i).getD []).drop (head * mHeadDim r1 m)).take (mHeadDim r1 m)
  ∃ (kb done skip : Nat) (q : Pass), (backGo r1 m p op head layer qb qs dos (mapGetD p.blocks (blockKey op head qb) []) (mapGetD p.attn (blockKey op head qb) ⟨0, [], [], []⟩) (qBlocks p + 1) j.group.kbJob (((mapGet p.attn (backKey op head qb)).map (·.next)).getD 0) (p, 0, 0) = (kb, q, done, skip)) ∧ 
  let u := bump (bump (bump r1 ⟨.TEN_CNT2, die.val, tile.val⟩ 63 32 done) ⟨.TEN_CNT0, die.val, tile.val⟩ 31 0 skip)
      ⟨.TEN_CNT1, die.val, tile.val⟩ 63 0 (done * 5 * (mHeadDim r1 m / 64))
  (((List.range kb).map (kvCode u m p layer (kvHead u m head))).find? (· ≠ 0) = none) :=
  by
    refine ⟨passing [.attention .input 0 0 0 0] ({ aPass with appended := [(0, 1)], back := some 0 }), at_ (passing [.attention .input 0 0 0 0] ({ aPass with appended := [(0, 1)], back := some 0 })) 0, 0, 0, 0, 0, 0, 0, 0, 0, 0, 0, .input, 0, 0, _, { aPass with appended := [(0, 1)], back := some 0 }, rfl, ?_, ?_, some_get ?_, ?_, ?_, ?_, ?_, ?_, ?_, ?_, _, _, _, _, rfl, ?_⟩ <;> decide +kernel

theorem witness_TensorAttention_3 : ∃ (s r : State) (die : Crest) (tile : Fin 64) (slot : Fin 96) (ad : Fin 16) (t : Stamp) (j : JobAt) (tr : Train) (x : Nat), (r = at_ s t) ∧ (alive r = true) ∧ (pwrState r < 2) ∧ (jobAt r die.val tile.val t = some j) ∧ (mapGet r.trains (passKey die.val slot.val) = some tr) ∧ (tr.adapter = ad.val) ∧ (getPass r (passKey die.val slot.val) = none) ∧ (tr.optim = []) ∧ (dItems (getCtx r tr.ctx).desc ≤ tr.ran) ∧ (earlierStep r j.num ad.val tr.seq = false) ∧ (f32Finite tr.loss = false) ∧ (x = passKey die.val slot.val) :=
  by
    refine ⟨training (aStep 0x7FC00000 [] 0), at_ (training (aStep 0x7FC00000 [] 0)) 0, 0, 0, 0, 0, 0, _, aStep 0x7FC00000 [] 0, 0, rfl, ?_, ?_, some_get ?_, ?_, ?_, ?_, ?_, ?_, ?_, ?_, ?_⟩ <;> decide +kernel

theorem witness_TensorAttention_4 : ∃ (s r : State) (die : Crest) (tile : Fin 64) (slot : Fin 96) (ad : Fin 16) (t : Stamp) (j : JobAt) (tr : Train), (r = at_ s t) ∧ (alive r = true) ∧ (pwrState r < 2) ∧ (jobAt r die.val tile.val t = some j) ∧ (mapGet r.trains (passKey die.val slot.val) = some tr) ∧ (tr.adapter = ad.val) ∧ (getPass r (passKey die.val slot.val) = none) ∧ (tr.optim ≠ []) ∧ (tr.optim.contains j.gi = false) ∧ (earlierStep r j.num ad.val tr.seq = false) ∧ (tr.newRec ≠ 0) ∧ (f32Finite tr.loss = true) ∧ 
  let n := noteJob r die.val tile.val 6 slot.val 0
  let gt := groupTiles j.model die.val
  let ixs := optSlice (adpSize n j.model ad.val) gt j.gi
  (((List.range (adpSize n j.model ad.val)).any fun i => !f32Finite (mapGetD tr.acc i 0)) = false) ∧ ∃ u, (optAccess n j.model tr ixs = (.ok, u)) ∧ ((tr.optim ++ [j.gi]).length < gt) :=
  by
    refine ⟨training (aStep 0 [1] 64), at_ (training (aStep 0 [1] 64)) 0, 0, 0, 0, 0, 0, _, aStep 0 [1] 64, rfl, ?_, ?_, some_get ?_, ?_, ?_, ?_, ?_, ?_, ?_, ?_, by decide +kernel, ?_, _, fst_pair ?_, ?_⟩ <;> decide +kernel

theorem witness_TensorAttention_5 : ∃ (s : State) (c : CtxId) (die : Crest) (slot : Fin 96) (m : Model), (alive s = true) ∧ (pwrState s < 2) ∧ 
  let k := getCtx s c.val
  let key := passKey die.val slot.val
  (getModel s (stageModel s c.val) = some m) ∧ (isLive s c.val = true) ∧ (stageKindOf s c.val = some .encode) ∧ (activeOwner s c.val = some die.val) ∧ ((groupOn m die.val).isSome = true) ∧ (k.work.done = false) ∧ ((s.passes.any (fun e => e.2.ctx = c.val && e.2.gen = k.gen) || s.trains.any (fun e => e.2.ctx = c.val && e.2.gen = k.gen)) = false) ∧ (slotFree s key = true) ∧ (seqUsed s die.val k.polder < ((nth? (getPolder s k.polder).seqSlots die.val).getD 0)) :=
  ⟨tiled [.linear .input aWeight []], 3, 0, 0, aModel [.linear .input aWeight []], by
    (repeat' apply And.intro) <;> first | with_reducible rfl | decide +kernel | rfl⟩

theorem witness_TableRows_1 : ∃ (s : State) (by_ : Requester) (die : Crest) (tile : Fin 64) (a off : Nat) (num : Nat) (m : Model) (g : TileGroup) (tb : Table), (alive s = true) ∧ (by_ ≠ .i3c) ∧ ((∀ h, by_ = .host h → blockOpen s h.val (unitNo die.val 4 0) = true)) ∧ 
  let r := setF s ⟨.EMB_HOT_CTL, die.val, 0⟩ 5 0 tile.val
  let p := fld (getReg r ⟨.TEN_CFG, die.val, tile.val⟩) 63 52
  let reg := getF r ⟨.EMB_HOT_ADDR, die.val, 0⟩ 59 48
  (off = getF r ⟨.EMB_HOT_ADDR, die.val, 0⟩ 47 0) ∧ (regionAddr r p reg off 64 = some a) ∧ (tileGroup r die.val tile.val = some (num, m, g)) ∧ 
  let w := rdW r a
  let n := fld w 55 40
  let rows := (List.range n).map fun i => leNat (rdBytes r (a + 64 + 4 * i) 4)
  (getTable r (fld w 63 56) = some tb) ∧ ((regionAddr r p reg off (64 + 4 * n)).isSome = true) ∧ (off % 64 = 0) ∧ (tb.polder = p) ∧ (p ≠ 0) ∧ (n ≠ 0) ∧ (n ≤ 16384) ∧ ((rows.any fun x => decide (tRows r tb ≤ x)) = false) ∧ (n * tStride r tb ≤ g.hotBytes) :=
  by
    refine ⟨tabled [], .reeve, 0, 0, 65536, 0, 0, aModel [], ⟨0, [0, 1, 2], 16, 1, 4096, []⟩, aTable, ?_, ?_, (fun _ e => nomatch e), ?_⟩
    on_goal 3 => repeat' apply And.intro
    all_goals decide +kernel

theorem witness_TableRows_2 : ∃ (s : State) (die : Crest) (tile : Fin 64) (h : HotLoad), (alive s = true) ∧ (s.tick.begun = true) ∧ ((s.hotAsk.find? fun h => h.die = die.val && h.tile = tile.val) = some h) :=
  ⟨{ ticking with hotAsk := [⟨0, 0, 0, [0]⟩] }, 0, 0, ⟨0, 0, 0, [0]⟩, by
    (repeat' apply And.intro) <;> first | with_reducible rfl | decide +kernel | rfl⟩

theorem witness_TableRows_3 : ∃ (s : State) (die : Crest) (tile : Fin 64) (row : BitVec 32) (h : Hot) (tb : Table) (a : Nat), (alive s = true) ∧ (pwrState s < 2) ∧ (mapGet s.hots (die.val * 64 + tile.val) = some h) ∧ (row.toNat ∈ h.rows) ∧ (mapGet h.fetched row.toNat = none) ∧ (getTable s h.table = some tb) ∧ (rowAddr s tb (tResolve s tb (h.validFrom row.toNat)) die.val row.toNat = some a) ∧ (rangeCode s a (tRowBytes s tb) = 0) :=
  ⟨{ tabled [] with hots := [(0, ⟨0, [0], 5, [], []⟩)] }, 0, 0, 0, ⟨0, [0], 5, [], []⟩, aTable, 131072, by
    (repeat' apply And.intro) <;> first | with_reducible rfl | decide +kernel | rfl⟩

theorem witness_TableRows_4 : ∃ (s : State) (die : Crest) (slot : Fin 96) (tab : CollNo) (row : BitVec 32) (p : Pass) (tb : Table) (m : Model) (fs : List Word) (ops : List ModelOp), (alive s = true) ∧ (pwrState s < 2) ∧ (mapGet s.passes (die.val * 96 + slot.val) = some p) ∧ (getTable s tab.val = some tb) ∧ (getModel s p.model = some m) ∧ (m.ops = .bag fs :: ops) ∧ ((p.bags.any fun b => (bagRows s ((nth? fs b.1).getD 0) b.2).contains (tab.val, row.toNat)) = true) ∧ (fld (getReg s ⟨.EMB_CFG, die.val, 0⟩) 0 0 = 1) ∧ (aheadUsed s die.val + tStride s tb ≤ fld (getReg s ⟨.EMB_CFG, die.val, 0⟩) 63 48 * 1024) ∧ ((s.ahead.any fun x => x.die = die.val && x.slot = slot.val && x.table = tab.val && x.row = row.toNat) = false) :=
  ⟨setPass (setReg (tabled [.bag [BitVec.ofNat 64 (2 ^ 45)]]) ⟨.EMB_CFG, 0, 0⟩ (BitVec.ofNat 64 (2 ^ 48 + 1))) 0 { aPass with bags := [(0, [7])] }, 0, 0, 0, 0, { aPass with bags := [(0, [7])] }, aTable, aModel [.bag [BitVec.ofNat 64 (2 ^ 45)]], [BitVec.ofNat 64 (2 ^ 45)], [], by
    (repeat' apply And.intro) <;> first | with_reducible rfl | decide +kernel | rfl⟩

theorem witness_TableRows_5 : ∃ (s r r1 r2 : State) (tab : CollNo) (t b : Stamp) (tb : Table) (jobs : List Nat), (r = at_ s t) ∧ (alive r = true) ∧ (pwrState r < 2) ∧ (getTable r tab.val = some tb) ∧ (r.tick.running = true) ∧ (r.tick.begun = true) ∧ (r.tick.nextAt = some b) ∧ (tb.stepTick ≠ some r.tick.tick) ∧ 
  let start := b - bermNs r - tb.stepB - us
  (r.now ≤ start) ∧ (judgeUpdates (at_ r start) tb (withinMax (at_ r start) (tApplyMax r tb) 0 (tableJobs (at_ r start) tab.val)) = (false, r1, jobs)) ∧ (accAccess r1 tb jobs = (false, r2)) :=
  by
    have hj : ∀ s t, judgeUpdates s t [] = (false, s, []) := fun _ _ => rfl
    have ha : ∀ s t, accAccess s t [] = (false, s) := fun _ _ => rfl
    have h : withinMax (at_ (at_ (tabled []) 0) (2000000 - bermNs (at_ (tabled []) 0) - aTable.stepB - us)) (tApplyMax (at_ (tabled []) 0) aTable) 0
        (tableJobs (at_ (at_ (tabled []) 0) (2000000 - bermNs (at_ (tabled []) 0) - aTable.stepB - us)) (0 : CollNo).val) = [] := by decide +kernel
    refine ⟨tabled [], at_ (tabled []) 0, _, _, 0, 0, 2000000, aTable, [], rfl, ?_, ?_, ?_, ?_, ?_, ?_, ?_, ?_,
      (congrArg (judgeUpdates _ _) h).trans (hj _ _), ha _ _⟩ <;> decide +kernel

theorem witness_TableRows_6 : ∃ (s r : State) (tab : CollNo) (t : Stamp) (tb : Table), (r = at_ s t) ∧ (alive r = true) ∧ (pwrState r < 2) ∧ (getTable r tab.val = some tb) ∧ (r.tick.running = true) ∧ (tb.stepTick ≠ some r.tick.tick) :=
  ⟨tabled [], at_ (tabled []) 0, 0, 0, aTable, by
    (repeat' apply And.intro) <;> first | with_reducible rfl | decide +kernel | rfl⟩

end Sys2Proof.Tests
end

