-- ==== Sys2Proof/Tests/Witness06.lean ====
section
/-! SUPPORT. Witnesses: for each clause of a statement, a state and operands that meet its hypotheses. -/

namespace Sys2Proof.Tests

open Sys2Proof.Machine

set_option Elab.async false

/-- Polder 1 with region 0 at 1 MiB and region 1 at 2 MiB, 64 KiB each, in HBM; region 2 of 64 KiB in host 0's window; region 3 a SHARED
region of two 64 KiB buffers which host 0 may write; and a list of one entry `e` at 64 on the mover of die 0. -/
def regioned (e : List Word) : State :=
  wrWords (wrWords (setPolder ticking 1 { Polder.none with st := .active, regTab := 16384 }) 16384
    [0, 2 ^ 20, 65536, 0, 0, 2 ^ 21, 65536, 0, 2 ^ 62, 2 ^ 22, 65536, 0, BitVec.ofNat 64 (3 * 2 ^ 61 + 2 ^ 48), BitVec.ofNat 64 (3 * 2 ^ 20), 196608, 0])
    64 ((if e.isEmpty then 0 else BitVec.ofNat 64 (2 ^ 51)) :: [0, 0, 0, 0, 0, 0, 0] ++ e)
def aList (begun : Bool) (host : Option Nat) : MovList := ⟨1, 64, host, 0, 0, begun, false⟩
def moving (e : List Word) (begun : Bool) (host : Option Nat) : State := setMovers (regioned e) 0 [aList begun host]

/-- A COPY of one tile from region 0 to region 1, and a PUBLISH of one tile of region 2 into region 3 at a version. -/
def copyEntry : List Word := [BitVec.ofNat 64 (2 ^ 32 + 2 ^ 16), 0, 0, 0]
def publishEntry (v : Nat) : List Word := [BitVec.ofNat 64 (2 ^ 60 + 2 * 2 ^ 44 + 3 * 2 ^ 32 + 2 ^ 16), 0, 0, BitVec.ofNat 64 v]

/-- The regions that those entries name. -/
def reg0 : Region := ⟨0, false, 0, 0, 0, 0, 2 ^ 20, 65536, 0⟩
def reg1 : Region := ⟨0, false, 0, 0, 0, 0, 2 ^ 21, 65536, 0⟩
def reg2 : Region := ⟨2, false, 0, 0, 0, 0, 2 ^ 22, 65536, 0⟩
def reg3 : Region := ⟨3, false, 0, 0, 0, 1, 3 * 2 ^ 20, 196608, 0⟩

theorem witness_MoverRows_1 : ∃ (s : State) (die : Crest) (by_ : Requester), (alive s = true) ∧ (by_ ≠ .i3c) ∧ ((∀ h, by_ = .host h → blockOpen s h.val (movUnit die.val) = true)) :=
  ⟨ticking, 0, .reeve, by decide +kernel, by decide +kernel, fun _ e => by cases e⟩

theorem witness_MoverRows_2a : ∃ (s r u : State) (die : Crest) (t : Stamp) (l : MovList) (ls : List MovList), (r = at_ s t) ∧ (alive r = true) ∧ (pwrState r < 2) ∧ (movers r die.val = l :: ls) ∧ (l.begun = false) ∧ (listAccess r (waiterOf true die.val) l.addr = (.ok, u)) ∧ (listEntries u l.addr = 0) :=
  by
    refine ⟨moving [] false none, at_ (moving [] false none) 0, _, 0, 0, aList false none, [], rfl, ?_, ?_, ?_, ?_, fst_pair ?_, ?_⟩ <;> decide +kernel

theorem witness_MoverRows_2b : ∃ (s r u : State) (die : Crest) (t : Stamp) (l : MovList) (ls : List MovList), (r = at_ s t) ∧ (alive r = true) ∧ (pwrState r < 2) ∧ (movers r die.val = l :: ls) ∧ (l.begun = false) ∧ (listAccess r (waiterOf true die.val) l.addr = (.ok, u)) ∧ 
  let e := movEntry u l
  (listEntries u l.addr ≠ 0) ∧ (e.op = 0) ∧ (copyOk u l.polder e = true) :=
  by
    refine ⟨moving copyEntry false none, at_ (moving copyEntry false none) 0, _, 0, 0, aList false none, [], rfl, ?_, ?_, ?_, ?_, fst_pair ?_, ?_, ?_, ?_⟩ <;> decide +kernel

theorem witness_MoverRows_2c : ∃ (s r u : State) (die : Crest) (t : Stamp) (l : MovList) (ls : List MovList), (r = at_ s t) ∧ (alive r = true) ∧ (pwrState r < 2) ∧ (movers r die.val = l :: ls) ∧ (l.begun = false) ∧ (listAccess r (waiterOf true die.val) l.addr = (.ok, u)) ∧ 
  let e := movEntry u l
  (listEntries u l.addr ≠ 0) ∧ (e.op = 0) ∧ (copyOk u l.polder e = false) :=
  by
    refine ⟨moving [BitVec.ofNat 64 (2 ^ 58 + 2 ^ 32 + 2 ^ 16)] false none, at_ (moving [BitVec.ofNat 64 (2 ^ 58 + 2 ^ 32 + 2 ^ 16)] false none) 0, _, 0, 0, aList false none, [], rfl, ?_, ?_, ?_, ?_, fst_pair ?_, ?_, ?_, ?_⟩ <;> decide +kernel

theorem witness_MoverRows_3 : ∃ (s r u v : State) (die : Crest) (bad : Bool) (t : Stamp) (l : MovList) (ls : List MovList) (gs gd : Region), (r = at_ s t) ∧ (alive r = true) ∧ (pwrState r < 2) ∧ (movers r die.val = l :: ls) ∧ (l.begun = true) ∧ 
  let e := movEntry r l
  (regionOf r l.polder e.src = some gs) ∧ (regionOf r l.polder e.dst = some gd) ∧ (gs.tier ≠ 2) ∧ (gd.tier ≠ 2) ∧ (e.op = 0) ∧ ((bad = true → gs.tier ≠ 1)) ∧ 
  let src (i : Nat) : Nat := gs.addr (srcByte e l.tile i)
  let dst := gd.addr (e.dstOff + 65536 * l.tile)
  (fits r t (accessBound die.val (src 0) + accessBound die.val dst + 256) = true) ∧ (linesAccess r (waiterOf true die.val) (ascending ((List.range 2048).map fun i => lineOf (src (32 * i)))) false = (.ok, u)) ∧ (tileAccess u (waiterOf true die.val) dst 65536 true = (.ok, v)) :=
  by
    refine ⟨moving copyEntry true none, at_ (moving copyEntry true none) 0, _, _, 0, false, 0, aList true none, [], reg0, reg1, rfl, ?_, ?_, ?_, rfl, ?_, ?_, ?_, ?_, ?_, ?_, ?_, Laws.linesAccess_quiet ?_ ?_ ?_ _ _ _, Laws.linesAccess_quiet ?_ ?_ ?_ _ _ _⟩ <;> decide +kernel

theorem witness_MoverRows_4 : ∃ s : State, (alive s = true) ∧ (s.tick.begun = true) :=
  ⟨ticking, by
    (repeat' apply And.intro) <;> first | with_reducible rfl | decide +kernel | rfl⟩

theorem witness_Publication_1a : ∃ (s r u v : State) (die : Crest) (t : Stamp) (l : MovList) (ls : List MovList) (h : Nat) (gs gd : Region), (r = at_ s t) ∧ (alive r = true) ∧ (pwrState r < 2) ∧ (movers r die.val = l :: ls) ∧ (l.begun = false) ∧ (listAccess r (waiterOf true die.val) l.addr = (.ok, u)) ∧ 
  let e := movEntry u l
  (listEntries u l.addr ≠ 0) ∧ (e.op = 1) ∧ (l.host = some h) ∧ (regionOf u l.polder e.src = some gs) ∧ (regionOf u l.polder e.dst = some gd) ∧ (e.format = 0) ∧ (e.srcOff % 65536 = 0) ∧ (e.dstOff % 65536 = 0) ∧ (gs.tier = 2) ∧ (gs.host = h) ∧ (gd.tier = 3) ∧ (bits gd.writers h h = 1) ∧ (e.arg ≠ 0) ∧ (e.srcOff + 65536 * e.tiles ≤ gs.bytes) ∧ (e.dstOff + 65536 * e.tiles ≤ (gd.bytes - 65536) / 2) ∧ (pendingPub u l.polder e.dst = none) ∧ (rdN u gd.base < e.arg) ∧ (tileAccess u (waiterOf true die.val) (bufAddr gd (1 - activeBuf u gd)) ((gd.bytes - 65536) / 2) true = (.ok, v)) :=
  by
    refine ⟨moving (publishEntry 1) false (some 0), at_ (moving (publishEntry 1) false (some 0)) 0, _, _, 0, 0, aList false (some 0), [], 0, reg2, reg3, rfl, ?_, ?_, ?_, ?_, fst_pair ?_, ?_, ?_, ?_, ?_, ?_, ?_, ?_, by decide +kernel, ?_, ?_, ?_, ?_, ?_, ?_, ?_, ?_, by decide +kernel, fst_pair ?_⟩ <;> decide +kernel

theorem witness_Publication_1b : ∃ (s r u v : State) (die : Crest) (t : Stamp) (l : MovList) (ls : List MovList) (h : Nat) (gs gd : Region), (r = at_ s t) ∧ (alive r = true) ∧ (pwrState r < 2) ∧ (movers r die.val = l :: ls) ∧ (l.begun = false) ∧ (listAccess r (waiterOf true die.val) l.addr = (.ok, u)) ∧ 
  let e := movEntry u l
  (listEntries u l.addr ≠ 0) ∧ (e.op = 1) ∧ (l.host = some h) ∧ (regionOf u l.polder e.src = some gs) ∧ (regionOf u l.polder e.dst = some gd) ∧ (e.format = 0) ∧ (e.srcOff % 65536 = 0) ∧ (e.dstOff % 65536 = 0) ∧ (gs.tier = 2) ∧ (gs.host = h) ∧ (gd.tier = 3) ∧ (bits gd.writers h h = 1) ∧ (e.arg ≠ 0) ∧ (e.srcOff + 65536 * e.tiles ≤ gs.bytes) ∧ (e.dstOff + 65536 * e.tiles ≤ (gd.bytes - 65536) / 2) ∧ (pendingPub u l.polder e.dst = none) ∧ (e.arg < rdN u gd.base) :=
  by
    refine ⟨wrW (moving (publishEntry 1) false (some 0)) (3 * 2 ^ 20) 2, at_ (wrW (moving (publishEntry 1) false (some 0)) (3 * 2 ^ 20) 2) 0, _, moving [] false none, 0, 0, aList false (some 0), [], 0, reg2, reg3, rfl, ?_, ?_, ?_, ?_, fst_pair ?_, ?_, ?_, ?_, ?_, ?_, ?_, ?_, by decide +kernel, ?_, ?_, ?_, ?_, ?_, ?_, ?_, ?_, ?_⟩ <;> decide +kernel

theorem witness_Publication_2 : ∃ (s r : State) (p : PolderNo) (reg : Fin 4096) (x : PubPend) (g : Region) (c : Nat), (alive s = true) ∧ (pendingPub s p.val reg.val = some x) ∧ (regionOf s p.val reg.val = some g) ∧ (x.commit = some c) ∧ (c ≤ s.tick.epoch) ∧ (tileAccess s (waiterOf true g.die) g.base 64 true = (.ok, r)) :=
  by
    refine ⟨{ regioned [] with pubs := [⟨1, 3, 7, 0, 65536, some 5⟩] }, _, 1, 3, ⟨1, 3, 7, 0, 65536, some 5⟩, reg3, 5, ?_, ?_, ?_, ?_, ?_, fst_pair ?_⟩ <;> decide +kernel

theorem witness_HostWindows_1 : ∃ (s r : State) (h : Port) (t : Stamp), (r = at_ s t) ∧ (alive r = true) ∧ (2 ≤ bmlState r h.val) ∧ (getF r ⟨.BML_HB_CFG, h.val, 0⟩ 23 20 ≤ hbMissed r h.val t) :=
  ⟨modBml (setF (setF ticking ⟨.BML_LINK_STS, 0, 0⟩ 5 4 2) ⟨.BML_HB_CFG, 0, 0⟩ 23 20 1) 0 fun p => { p with unans := [(1, 0)] }, at_ (modBml (setF (setF ticking ⟨.BML_LINK_STS, 0, 0⟩ 5 4 2) ⟨.BML_HB_CFG, 0, 0⟩ 23 20 1) 0 fun p => { p with unans := [(1, 0)] }) 1900000000, 0, 1900000000, by
    (repeat' apply And.intro) <;> first | with_reducible rfl | decide +kernel | rfl⟩

theorem witness_HostWindows_2 : ∃ (s : State) (h : Port), (alive s = true) ∧ ((getWin s h.val).st = .recovering) ∧ (s.mirror.any (inWindow s h.val) = false) ∧ (s.tick.begun = true) ∧ (s.now = s.tick.base) :=
  ⟨modWin (modTick ticking fun u => { u with base := 0 }) 0 fun w => { w with st := .recovering }, 0, by
    (repeat' apply And.intro) <;> first | with_reducible rfl | decide +kernel | rfl⟩

theorem witness_HostWindows_3 : ∃ (s : State) (h : Port), (alive s = true) ∧ ((getWin s h.val).st = .closed) ∧ (attachedTo s h.val = true) ∧ (hwSize s h.val ≠ 0) ∧ (s.tick.begun = true) ∧ (s.now = s.tick.base) :=
  ⟨setF (setReg (modTick ticking fun u => { u with base := 0 }) ⟨.MEM_HW_SIZE, 0, 0⟩ 65536) ⟨.BML_LINK_STS, 0, 0⟩ 3 3 1, 0, by
    (repeat' apply And.intro) <;> first | with_reducible rfl | decide +kernel | rfl⟩

theorem witness_HostWindows_4 : ∃ (s : State) (st : Stack), (alive s = true) ∧ (s.noMirror.contains st.val = true) ∧ (getF s ⟨.MEM_CTL_STS, st.val, 0⟩ 1 0 ≠ 3) ∧ (dieLost s (st.val / 5) = false) ∧ 
  let m := 5 * ((st.val / 5 + 1) % 4) + st.val % 5
  (dieLost s ((st.val / 5 + 1) % 4) = false) ∧ (getF s ⟨.MEM_CTL_STS, m, 0⟩ 1 0 ≠ 3) :=
  ⟨{ ticking with noMirror := [3] }, 3, by
    (repeat' apply And.intro) <;> first | with_reducible rfl | decide +kernel | rfl⟩

theorem witness_HostWindows_5 : ∃ (s r : State) (line : Nat) (t : Stamp), (r = at_ s t) ∧ (alive r = true) :=
  ⟨ticking, at_ ticking 0, 7, 0, by
    (repeat' apply And.intro) <;> first | with_reducible rfl | decide +kernel | rfl⟩

theorem witness_HostWindows_6 : ∃ (s : State) (t : Stamp), (alive s = true) :=
  ⟨ticking, 0, by
    (repeat' apply And.intro) <;> first | with_reducible rfl | decide +kernel | rfl⟩

end Sys2Proof.Tests
end

