-- ==== Sys2Proof/Tests/Witness07.lean ====
section
/-! SUPPORT. Witnesses: for each clause of a statement, a state and operands that meet its hypotheses. -/

namespace Sys2Proof.Tests

open Sys2Proof.Machine

set_option Elab.async false

/-- Namespace 3 of polder 1, of 8,192 units, whose map version at 4096 maps unit 0. -/
def aNs (newest : Nat) : FlashNs := ⟨1, true, 0, false, 8192, 0, newest, 0, true⟩
def mapped : State :=
  let s := modFss (setPolder ticking 1 { Polder.none with st := .active, regTab := 16384 }) fun f => { f with nss := [(3, aNs 4096)] }
  wrWords (wrWords (wrW (wrW s 131072 (2 ^ 63)) 8192 (mkPte false 131072)) 4096 [0, 0, 8192, 0]) 16384 [0, 2 ^ 20, 65536, 0]

/-- A running flash list of one entry `w` on toe die 0. -/
def aFlash : FlashList := ⟨1, 64, none, 0, 0, some 1000000, 5, none, false⟩
def listed (w : Nat) : State := setLists (wrWords mapped 64 [BitVec.ofNat 64 (2 ^ 51), 0, 0, 0, 0, 0, 0, 0, BitVec.ofNat 64 w]) 0 [aFlash]
def anEntry (op units : Nat) : FlEntry := ⟨op, 3, 0, units, 1, 0, false⟩

/-- Channel 0 in use with one target whose LUNs have no blocks left, and block 0 as given. -/
def flashing (b : FlashBlk) : State :=
  setBlk (setReg (setF (setF ticking ⟨.FSS_STS, 0, 0⟩ 1 0 2) ⟨.FSS_CH_STS, 0, 0⟩ 1 0 2) ⟨.FSS_CH_CFG, 0, 0⟩ (BitVec.ofNat 64 (2 ^ 62 + 2 ^ 54))) 0 b
def closedBlk : FlashBlk := { FlashBlk.fresh with st := .closed }

/-- A FETCH request with candidate 0, on a collection. -/
def fetching : State :=
  modWork (collection (live (polder ticking 1 [stage 0 none .fetch 0]) 3 1 0 (.conn 2)) 0 0) 3 fun w => { w with cands := [0] }

/-- A write of unit 0 of namespace 3. -/
def aWrite (c : Option Nat) : FlashWr := ⟨1, 0, 3, 0, none, none, none, c, none⟩

/-- The write due at epoch 5, and room for map pages. -/
def writing (c : Option Nat) : State :=
  modFss ticking fun f => { f with nss := [(3, aNs 0)], wrs := [aWrite c], mapBase := 2 ^ 24, mapBytes := 4 * 65536 }

/-- The same as the polder's own, which maps nothing. -/
def ownNs : FlashNs := { aNs 0 with isHost := false }

/-- The state whose collection 0 keeps full vectors in namespace 3, which maps nothing. -/
def fullOf (s : State) : State :=
  wrW (modFss s fun f => { f with nss := [(3, ownNs)] }) (64 + 24) (BitVec.ofNat 64 (2 ^ 60 + 3 * 2 ^ 48))

/-- An INSERT of item 0 in its flash stage, with an open block, and its unit passed by the weir. -/
def inserting : State :=
  let s := setBlk (setReg (setF (setF ticking ⟨.FSS_STS, 0, 0⟩ 1 0 2) ⟨.FSS_CH_STS, 0, 0⟩ 1 0 2) ⟨.FSS_CH_CFG, 0, 0⟩ (BitVec.ofNat 64 (2 ^ 62 + 2 ^ 54))) 0
    { FlashBlk.fresh with st := .open_ }
  let s := collection (live (polder s 1 [stage 0 none .flashWr 0]) 3 1 0 (.conn 2) [0x1000010000010000, 0, 0, 0, 0, 0, 0, 0, 2 ^ 48]) 0 0
  let s := setReg s ⟨.WEI_CFG, 0, 0⟩ (BitVec.ofNat 64 (2 ^ 52 + 2 * 2 ^ 48 + 1))
  fullOf (setWeir (modWork s 3 fun w => { w with weir := 2 }) 0 { Weir.empty with passed := [.flow (flowTag 2 3 0)] })

theorem witness_FlashAccess_1 : ∃ (s r : State) (ns : Fin 4096) (u : Nat) (o : Option Nat) (t : Stamp) (n : FlashNs), (r = at_ s t) ∧ (alive r = true) ∧ (getNs r ns.val = some n) ∧ (entryMapped (mapEntry r n.newest u) = true) :=
  ⟨mapped, at_ mapped 0, 3, 0, none, 0, aNs 4096, by
    (repeat' apply And.intro) <;> first | with_reducible rfl | decide +kernel | rfl⟩

theorem witness_FlashAccess_2 : ∃ (s r v x : State) (ns : Fin 4096) (u : Nat) (c : CtxId) (o : Option Nat) (t : Stamp) (n : FlashNs) (code : Nat) (bs : List Byte), (r = at_ s t) ∧ (alive r = true) ∧ 
  let k := getCtx r c.val
  let co := getColl r (dColl k.desc)
  let plain := if cFullNs r co = ns.val then ((wantVecs r c.val).filter fun x => x.2.1 = u).map fun x => (x.1, co, x.2.2) else []
  let train := ((wantTrain r c.val).filter fun x => cFullNs r x.2.1 = ns.val && x.2.2.1 = u).map fun x => (x.1, x.2.1, x.2.2.2)
  let want := plain ++ train
  (isLive r c.val = true) ∧ (want.isEmpty = false) ∧ ((activeOwner r c.val).isNone = false) ∧ (getNs r ns.val = some n) ∧ (n.isHost = false) ∧ (n.polder = k.polder) ∧ (n.bound = true) ∧ 
  let ver := resolveFrom r k.pin chainFuel n.newest
  let w := mapEntry r ver u
  ((if entryMapped w then flashAsk r k.polder wFlashRd (locCh (entryLoc w)) (flowTag 1 c.val u) else (true, r)) = (true, v)) ∧ (readUnit v ns.val ver u o = (x, code, bs)) :=
  by
    refine ⟨fullOf fetching, at_ (fullOf fetching) 0, _, _, 3, 0, 3, none, 0, ownNs, _, _, rfl, ?_, ?_, ?_, ?_, ?_, ?_, ?_, ?_, fst_pair ?_, triple⟩ <;> decide +kernel

theorem witness_FlashAccess_3 : ∃ (s r : State) (io : Nat) (t : Stamp), (r = at_ s t) ∧ (alive r = true) ∧ (io < 8192) ∧ (isLive r io = true) ∧ (wantVecs r io ≠ []) ∧ ((getCtx r io).work.since + ioLimit r ≤ t) :=
  ⟨fetching, at_ fetching 5000000, 3, 5000000, by
    (repeat' apply And.intro) <;> first | with_reducible rfl | decide +kernel | rfl⟩

theorem witness_FlashAccess_4 : ∃ (s r : State) (ns : Fin 4096) (u off : Nat) (data : List Byte) (t : Stamp) (n : FlashNs), (r = at_ s t) ∧ (alive r = true) ∧ (getNs r ns.val = some n) :=
  ⟨mapped, at_ mapped 0, 3, 1, 0, [1], 0, aNs 4096, by
    (repeat' apply And.intro) <;> first | with_reducible rfl | decide +kernel | rfl⟩

theorem witness_FlashAccess_5 : ∃ (s r v x : State) (ns : Fin 4096) (u off : Nat) (data old : List Byte) (c : CtxId) (t : Stamp) (n : FlashNs), (r = at_ s t) ∧ (alive r = true) ∧ 
  let k := getCtx r c.val
  let items := itemsIn r c.val u
  (standsIn r c.val .flashWr = true) ∧ (isMutation (dKind k.desc) = true) ∧ (dKind k.desc ≠ kDelete) ∧ (k.work.weir = 2) ∧ (cFull r (getColl r (dColl k.desc)) = true) ∧ (cFullNs r (getColl r (dColl k.desc)) = ns.val) ∧ (items.isEmpty = false) ∧ (getNs r ns.val = some n) ∧ (n.isHost = false) ∧ (n.polder = k.polder) ∧ (n.bound = true) ∧ ((r.fss.wrs.any fun w => w.ns = ns.val && w.unit = u && w.hold.isSome) = false) ∧ (readUnit r ns.val n.newest u (some 1) = (v, 0, old)) ∧ (writeUnit v k.polder ns.val u 0 (layVecs v c.val old items) (some (c.val, k.gen)) none (some (c.val, k.gen)) (flowTag 2 c.val u) = (x, true, 0)) :=
  by
    refine ⟨inserting, at_ inserting 1000000, _, _, 3, 0, 0, [], _, 3, 1000000, ownNs, rfl, ?_, ?_, ?_, ?_, ?_, ?_, ?_, ?_, by decide +kernel, rfl, ?_, rfl, ?_, mid_zero ?_, snd_pair ?_⟩ <;> decide +kernel

theorem witness_FlashAccess_6 : ∃ s : State, (alive s = true) ∧ (inBerm s s.now = true) :=
  ⟨at_ ticking 1999000, by
    (repeat' apply And.intro) <;> first | with_reducible rfl | decide +kernel | rfl⟩

theorem witness_FlashAccess_7 : ∃ (s r : State) (q : Nat) (t : Stamp) (w : FlashWr), (r = at_ s t) ∧ (alive r = true) ∧ ((r.fss.wrs.find? fun w => w.seq = q && w.commit.isNone) = some w) :=
  ⟨writing none, at_ (writing none) 0, 1, 0, aWrite none, by
    (repeat' apply And.intro) <;> first | with_reducible rfl | decide +kernel | rfl⟩

theorem witness_FlashUpkeep_1 : ∃ (s r : State) (lun b : Nat) (bad : List Nat) (t : Stamp), (r = at_ s t) ∧ (alive r = true) ∧ (2 ≤ fssState r) ∧ (lun ∈ goodLuns r) ∧ (freeBlocks r lun < getF r ⟨.FSS_CFG, 0, 0⟩ 31 24) ∧ 
  let u := { r with fss := { r.fss with gc := insertUniq lun r.fss.gc } }
  ((r.fss.blks.any fun e => blockLun e.1 = lun && refreshDue u e.1 t) = false) ∧ (gcVictim u lun = some b) :=
  ⟨flashing closedBlk, at_ (flashing closedBlk) 0, 0, 0, [], 0, by
    (repeat' apply And.intro) <;> first | with_reducible rfl | decide +kernel | rfl⟩

theorem witness_FlashUpkeep_2 : ∃ (s r : State) (b : Nat) (bad : List Nat) (t : Stamp), (r = at_ s t) ∧ (alive r = true) ∧ (2 ≤ fssState r) ∧ (refreshDue r b t = true) :=
  ⟨flashing { closedBlk with refresh := true }, at_ (flashing { closedBlk with refresh := true }) 0, 0, [], 0, by
    (repeat' apply And.intro) <;> first | with_reducible rfl | decide +kernel | rfl⟩

theorem witness_FlashUpkeep_3 : ∃ (s : State) (b : Nat), (alive s = true) ∧ (2 ≤ fssState s) ∧ ((getBlk s b).st = .closed) ∧ (validPages s b = []) ∧ ((s.fss.wrs.any fun w => locBlock w.loc = b || w.reloc.elim false (fun src => locBlock src = b)) = false) :=
  ⟨flashing closedBlk, 0, by
    (repeat' apply And.intro) <;> first | with_reducible rfl | decide +kernel | rfl⟩

theorem witness_FlashUpkeep_4 : ∃ (s r : State) (b : Nat) (t : Stamp), (r = at_ s t) ∧ (alive r = true) ∧ (2 ≤ fssState r) ∧ ((getBlk r b).st ≠ .free) :=
  ⟨flashing closedBlk, at_ (flashing closedBlk) 0, 0, 0, by
    (repeat' apply And.intro) <;> first | with_reducible rfl | decide +kernel | rfl⟩

theorem witness_FlashUpkeep_5 : ∃ (s : State) (b : Nat), (alive s = true) ∧ (2 ≤ fssState s) ∧ ((getBlk s b).st = .closed) :=
  ⟨flashing closedBlk, 0, by
    (repeat' apply And.intro) <;> first | with_reducible rfl | decide +kernel | rfl⟩

theorem witness_FlashUpkeep_6 : ∃ (s : State) (l : Nat), (alive s = true) ∧ (s.fss.badLuns.contains l = false) ∧ (l < 2048) :=
  ⟨ticking, 2047, by
    (repeat' apply And.intro) <;> first | with_reducible rfl | decide +kernel | rfl⟩

theorem witness_FlashUpkeep_7 : ∃ (s : State) (ch : Fin 32), (alive s = true) :=
  ⟨ticking, 31, by
    (repeat' apply And.intro) <;> first | with_reducible rfl | decide +kernel | rfl⟩

theorem witness_FlashUpkeep_8 : ∃ s : State, (alive s = true) ∧ (2 ≤ fssState s) ∧ (s.fss.ckptTick + getF s ⟨.FSS_CFG, 0, 0⟩ 47 32 ≤ s.tick.tick ∨ getF s ⟨.FSS_CKPT, 0, 0⟩ 63 32 ≤ s.fss.ckptNew) :=
  ⟨modFss (flashing closedBlk) fun f => { f with ckptNew := 2 ^ 32 }, by
    (repeat' apply And.intro) <;> first | with_reducible rfl | decide +kernel | rfl⟩

theorem witness_FlashUpkeep_9 : ∃ (s : State) (v : Word), (alive s = true) ∧ (inRanges .FSS_CFG v = true) :=
  ⟨ticking, regReset .FSS_CFG, by
    (repeat' apply And.intro) <;> first | with_reducible rfl | decide +kernel | rfl⟩

theorem witness_FlashListsAndCommit_1 : ∃ (s : State) (n : Port) (by_ : Requester), (alive s = true) ∧ (by_ ≠ .i3c) ∧ ((∀ h, by_ = .host h → blockOpen s h.val (unitNo (4 + n.val) 0 0) = true)) :=
  ⟨ticking, 0, .reeve, by decide +kernel, by decide +kernel, fun _ e => nomatch e⟩

theorem witness_FlashListsAndCommit_2 : ∃ (s r u v : State) (n : Port) (ok : List (Option Nat)) (t : Stamp) (l : FlashList) (e : FlEntry) (i code : Nat), (r = at_ s t) ∧ (alive r = true) ∧ (startFl r n.val (fun op => op = 0 || decide (2 < op)) = (some (l, e), u)) ∧ (unitLoop (fun s i => readStep s n.val l.polder e l.epoch i ((nth? ok i).getD none)) e.units e.units u l.unit = (v, i, code)) :=
  ⟨listed (0 * 2 ^ 60 + 3 * 2 ^ 48 + 2 ^ 16), at_ (listed (0 * 2 ^ 60 + 3 * 2 ^ 48 + 2 ^ 16)) 0, _, _, 0, [none], 0, _, _, _, _, rfl, by decide +kernel, start_pair (by decide +kernel), rfl⟩

theorem witness_FlashListsAndCommit_3 : ∃ (s r u v : State) (n : Port) (t : Stamp) (l : FlashList) (e : FlEntry) (i code : Nat), (r = at_ s t) ∧ (alive r = true) ∧ (startFl r n.val (fun op => op = 1) = (some (l, e), u)) ∧ (unitLoop (fun s i => writeStep s n.val l.polder e i (some n.val)) e.units e.units u l.unit = (v, i, code)) :=
  ⟨listed (1 * 2 ^ 60 + 3 * 2 ^ 48 + 2 ^ 16), at_ (listed (1 * 2 ^ 60 + 3 * 2 ^ 48 + 2 ^ 16)) 0, _, _, 0, 0, _, _, _, _, rfl, by decide +kernel, start_pair (by decide +kernel), rfl⟩

theorem witness_FlashListsAndCommit_4 : ∃ (s r u : State) (n : Port) (t : Stamp) (l : FlashList) (e : FlEntry), (r = at_ s t) ∧ (alive r = true) ∧ (startFl r n.val (fun op => op = 2) = (some (l, e), u)) :=
  ⟨listed (2 * 2 ^ 60 + 3 * 2 ^ 48 + 2 ^ 16), at_ (listed (2 * 2 ^ 60 + 3 * 2 ^ 48 + 2 ^ 16)) 0, _, 0, 0, _, _, rfl, by decide +kernel, start_pair (by decide +kernel)⟩

theorem witness_FlashListsAndCommit_5 : ∃ s r : State, (alive s = true) ∧ 
  let s0 := { s with fss := { s.fss with wrs := s.fss.wrs.filter fun w => !w.hold.elim false (holdGone s) } }
  let ws := s0.fss.wrs.filter fun w => w.hold.isNone && w.commit.elim false fun c => decide (c ≤ s.tick.epoch)
  let ms := s.fss.marks.filter fun m => decide (m.commit ≤ s.tick.epoch)
  let ups := (sortedChanges ws ms).foldl (applyChange s0) []
  (ws ≠ []) ∧ (ms = []) ∧ (((ascending (ups.map (·.1.1))).foldl (fun (acc : Option State) ns => acc.bind fun s' => publishMap s' ns s.tick.epoch ((ups.filter fun x => x.1.1 = ns).map fun x => (x.1.2, x.2))) (some s0)) = some r) :=
  by
    refine ⟨writing (some 5), _, ?_, ?_, ?_, some_get ?_⟩ <;> decide +kernel

theorem witness_FlashListsAndCommit_6 : ∃ (s r : State) (t : Stamp) (x : LogRec), (r = at_ s t) ∧ (alive r = true) ∧ ((r.fss.log.find? fun y => !y.written) = some x) ∧ (x.epoch ≤ r.tick.tick) :=
  ⟨modFss ticking fun f => { f with log := [⟨5, 1, [], [], false⟩] }, at_ (modFss ticking fun f => { f with log := [⟨5, 1, [], [], false⟩] }) 0, 0, ⟨5, 1, [], [], false⟩, by
    (repeat' apply And.intro) <;> first | with_reducible rfl | decide +kernel | rfl⟩

end Sys2Proof.Tests
end

