-- ==== Sys2Proof/Tests/Witness08.lean ====
section
/-! SUPPORT. Witnesses: for each clause of a statement, a state and operands that meet its hypotheses. -/

namespace Sys2Proof.Tests

open Sys2Proof.Machine

set_option Elab.async false

/-- Port 0 on with connection 2, of a kind, ESTABLISHED, its context cached. -/
def talking (kind : Nat) (f : Conn → Conn := id) : State :=
  modConn (modPort (connection (setPolder (wrWords (wrW ticking 24 1) 16384 [0, 2 ^ 20, 65536, 0]) 1 { Polder.none with st := .active, regTab := 16384 })
    2 1 kind) 0 fun p => { p with cache := [2] }) 2 f

/-- A packet and an Acknowledge of connection 2 for a PSN. -/
def aPacket (psn : BitVec 24) : Packet := ⟨2, psn, 0, 4, 0, true, false, 0, [1, 2, 3, 4]⟩
def anAck (psn : BitVec 24) : AckPacket := ⟨2, psn, false, 0⟩

/-- The connection with one packet unacknowledged, and with a send entry at its head. -/
def waiting (k : Conn) : Conn := { k with next := 1, alloc := 1 }
def sending (w0 w1 w2 : Word) : State := wrWords (talking 0 fun k => { k with sqProd := 1 }) (2 ^ 20) [w0, w1, w2, 1]

theorem witness_PortRows_1 : ∃ (s : State) (n : Port) (v : Word), (alive s = true) ∧ ((fld v 37 36 = 1 ∨ fld v 37 36 = 2)) ∧ (portFieldsOk v = true) ∧ (s.toeLost.contains n.val = false) ∧ (portMode s n.val = 0) :=
  ⟨ticking, 0, setFld (setFld (regReset .AFT_PORT_CFG) 63 52 5) 37 36 1, by
    (repeat' apply And.intro) <;> first | with_reducible rfl | decide +kernel | rfl⟩

theorem witness_PortRows_2 : ∃ (s : State) (n : Port) (l : Fin 8), (alive s = true) ∧ (portOn s n.val = true) ∧ 
  let h := if portMode s n.val = 2 then l.val / 4 else 0
  (halfState s n.val h = 1) :=
  ⟨setF (talking 0) (rPortSts 0) 49 48 1, 0, 7, by
    (repeat' apply And.intro) <;> first | with_reducible rfl | decide +kernel | rfl⟩

theorem witness_PortRows_3 : ∃ (s : State) (n : Port) (h : Fin 2), (alive s = true) ∧ (halfState s n.val h.val = 1) :=
  ⟨setF (talking 0) (rPortSts 0) 49 48 1, 0, 0, by
    (repeat' apply And.intro) <;> first | with_reducible rfl | decide +kernel | rfl⟩

theorem witness_PortRows_4 : ∃ (s r : State) (n : Port) (aft : Bool) (vlan : Option (BitVec 12)) (pcp : Fin 8) (bytes : Nat) (fcs icrc : Bool) (t : Stamp), (r = at_ s t) ∧ (alive r = true) ∧ (portOn r n.val = true) :=
  ⟨talking 0, at_ (talking 0) 0, 0, false, none, 0, 64, true, true, 0, by
    (repeat' apply And.intro) <;> first | with_reducible rfl | decide +kernel | rfl⟩

theorem witness_PortRows_5 : ∃ (s r : State) (n : Port) (h : Fin 2) (quanta : List (Fin 8 × BitVec 16)) (t : Stamp), (r = at_ s t) ∧ (alive r = true) ∧ (portOn r n.val = true) :=
  ⟨talking 0, at_ (talking 0) 0, 0, 0, [(0, 0xFFFF), (7, 0)], 0, by
    (repeat' apply And.intro) <;> first | with_reducible rfl | decide +kernel | rfl⟩

theorem witness_PortRows_6 : ∃ (s : State) (n : Port) (v : Word), (alive s = true) ∧ (portMode s n.val = 0) :=
  ⟨ticking, 0, regReset .AFT_PFC_CFG, by
    (repeat' apply And.intro) <;> first | with_reducible rfl | decide +kernel | rfl⟩

theorem witness_PortRows_7 : ∃ (s : State) (n : Port), (alive s = true) ∧ (s.tick.begun = true) ∧ (getF s ⟨.AFT_GATE_CTL, n.val, 0⟩ 1 1 = 1) :=
  ⟨setF ticking ⟨.AFT_GATE_CTL, 0, 0⟩ 1 1 1, 0, by
    (repeat' apply And.intro) <;> first | with_reducible rfl | decide +kernel | rfl⟩

theorem witness_PacketArrival_1 : ∃ (cmd : Packet → Stamp → Instr) (op : PktOp), ((cmd, op) ∈ ([(.sendFirst, .first), (.sendMiddle, .middle), (.sendLast, .last), (.sendLastWithImmediate, .lastImm), (.sendOnly, .only), (.sendOnlyWithImmediate, .onlyImm)] : List ((Packet → Stamp → Instr) × PktOp))) ∧ ∃ (s r : State) (p : Packet) (t : Stamp), (r = at_ s t) ∧ (alive r = true) ∧ 
  let n := connPort r p.conn.val
  (portOn r n = true) ∧ ((getPort r n).cache.contains p.conn.val = true) ∧ (((getPort r n).parked.any (·.1 = p.conn.val)) = false) :=
  by
    refine ⟨.sendOnly, .only, by simp, talking 1, at_ (talking 1) 0, aPacket 0, 0, rfl, ?_, ?_, ?_, ?_⟩ <;> decide +kernel

theorem witness_PacketArrival_2 : ∃ (w : Fin 32) (cmd : AckPacket → Stamp → Instr) (kind wait : Nat), ((cmd, kind, wait) ∈ ([(.ack, 0, 0), (fun p => .rnrNak p w, 1, w.val), (.nakSequence, 2, 0)] : List ((AckPacket → Stamp → Instr) × Nat × Nat))) ∧ ∃ (s r : State) (p : AckPacket) (t : Stamp), (r = at_ s t) ∧ (alive r = true) ∧ 
  let n := connPort r p.conn.val
  (portOn r n = true) ∧ ((getPort r n).cache.contains p.conn.val = true) ∧ (((getPort r n).parked.any (·.1 = p.conn.val)) = false) :=
  by
    refine ⟨31, .ack, 0, 0, by simp, talking 1, at_ (talking 1) 0, anAck 0, 0, rfl, ?_, ?_, ?_, ?_⟩ <;> decide +kernel

theorem witness_PacketArrival_3a : ∃ (s : State) (p : AckPacket), (alive s = true) ∧ 
  let n := connPort s p.conn.val
  (portOn s n = true) ∧ ((getPort s n).cache.contains p.conn.val = true) ∧ (((getPort s n).parked.any (·.1 = p.conn.val)) = false) ∧ 
  let u := peerSeen (modPort (unIdle s) n fun y => { y with frames := y.frames.drop 1 }) p.conn.val s.now
  let done (kind : Nat) : State :=
      retryHeld (modPort (cacheUse u p.conn.val) n fun y => { y with held := y.held ++ [(p.conn.val, .ack kind 0 p)] }) p.conn.val s.now
  (lostMembers s (done 3) = []) :=
  ⟨talking 1, anAck 0, by
    (repeat' apply And.intro) <;> first | with_reducible rfl | decide +kernel | rfl⟩

theorem witness_PacketArrival_4 : ∃ (s r : State) (c : ConnNo) (t : Stamp), (r = at_ s t) ∧ (alive r = true) ∧ 
  let n := connPort r c.val
  let p := getPort r n
  (portOn r n = true) ∧ ((p.parked.any (·.1 = c.val)) = true) ∧ (p.cache.length < 2048) ∧ 
  let u := modPort r n fun x => { x with cache := c.val :: x.cache.filter (fun y => y ≠ c.val && (none : Option Nat) ≠ some y), parked := x.parked.filter (·.1 ≠ c.val), held := x.held ++ p.parked.filter (·.1 = c.val) }
  let done := retryHeld (bumpAft u .AFT_CNT4 n 31 0 1) c.val t
  (lostMembers r done = []) :=
  ⟨modPort (talking 1) 0 fun p => { p with cache := [], parked := [(2, .send .only (aPacket 0))] }, at_ (modPort (talking 1) 0 fun p => { p with cache := [], parked := [(2, .send .only (aPacket 0))] }) 0, 2, 0, by
    (repeat' apply And.intro) <;> first | with_reducible rfl | decide +kernel | rfl⟩

theorem witness_ReceiverSequence_1a : ∃ (s : State) (c : Nat) (op : PktOp) (p : Packet) (t : Stamp), ((getConn s c).st = .established) ∧ (op.isFirst = false) ∧ (p.ecnCe = false) ∧ 
  let k := getConn s c
  let behind := (k.epsn % 2 ^ 24 + 2 ^ 24 - p.psn.toNat) % 2 ^ 24
  (behind = 0) :=
  ⟨talking 1, 2, .last, aPacket 0, 0, by
    (repeat' apply And.intro) <;> first | with_reducible rfl | decide +kernel | rfl⟩

theorem witness_ReceiverSequence_1b : ∃ (s : State) (c : Nat) (op : PktOp) (p : Packet) (t : Stamp), ((getConn s c).st = .established) ∧ (op.isFirst = false) ∧ (p.ecnCe = false) ∧ 
  let k := getConn s c
  let behind := (k.epsn % 2 ^ 24 + 2 ^ 24 - p.psn.toNat) % 2 ^ 24
  (1 ≤ behind) ∧ (behind ≤ 2 ^ 23) :=
  ⟨talking 1 fun k => { k with epsn := 8388608 }, 2, .last, aPacket 0, 0, by
    (repeat' apply And.intro) <;> first | with_reducible rfl | decide +kernel | rfl⟩

theorem witness_ReceiverSequence_1c : ∃ (s : State) (c : Nat) (op : PktOp) (p : Packet) (t : Stamp), ((getConn s c).st = .established) ∧ (op.isFirst = false) ∧ (p.ecnCe = false) ∧ 
  let k := getConn s c
  let behind := (k.epsn % 2 ^ 24 + 2 ^ 24 - p.psn.toNat) % 2 ^ 24
  (2 ^ 23 < behind) ∧ (k.seqNak = none) :=
  ⟨talking 1 fun k => { k with epsn := 8388609 }, 2, .last, aPacket 0, 0, by
    (repeat' apply And.intro) <;> first | with_reducible rfl | decide +kernel | rfl⟩

theorem witness_ReceiverSequence_2 : ∃ (s : State) (c : Nat) (op : PktOp) (p : Packet) (t : Stamp), ((getConn s c).st = .closed) :=
  ⟨ticking, 2, .only, aPacket 0, 0, by
    (repeat' apply And.intro) <;> first | with_reducible rfl | decide +kernel | rfl⟩

theorem witness_AckRules_1a : ∃ (s : State) (c wait q : Nat) (p : AckPacket) (t : Stamp), ((getConn s c).st = .established) ∧ (p.incarn.toNat = (getConn s c).incarn) ∧ (p.becn = false) ∧ (unaIndex (getConn s c) p.psn.toNat = some q) ∧ 
  let k := getConn s c
  (k.rnrPsn ≠ q) ∧ (1 < rnrRetry s (connPort s c)) :=
  ⟨talking 1 fun k => { waiting k with rnrPsn := 9 }, 2, 0, 0, anAck 0, 0, by
    (repeat' apply And.intro) <;> first | with_reducible rfl | decide +kernel | rfl⟩

theorem witness_AckRules_1b : ∃ (s : State) (c wait q : Nat) (p : AckPacket) (t : Stamp), ((getConn s c).st = .established) ∧ (p.incarn.toNat = (getConn s c).incarn) ∧ (p.becn = false) ∧ (unaIndex (getConn s c) p.psn.toNat = some q) ∧ 
  let k := getConn s c
  (k.nakAt = none) ∧ ((getConn (shrink s c) c).nakAt = none) :=
  ⟨talking 1 waiting, 2, 0, 0, anAck 0, 0, by
    (repeat' apply And.intro) <;> first | with_reducible rfl | decide +kernel | rfl⟩

theorem witness_AckRules_2 : ∃ (s : State) (c kind wait : Nat) (p : AckPacket) (t : Stamp), ((getConn s c).st = .established) ∧ (ackOwn (getConn s c) kind p = false) :=
  ⟨talking 1, 2, 0, 0, ⟨2, 0, false, 1⟩, 0, by
    (repeat' apply And.intro) <;> first | with_reducible rfl | decide +kernel | rfl⟩

theorem witness_ConnectionTimers_1a : ∃ (s r : State) (c : ConnNo) (t : Stamp), (r = at_ s t) ∧ (alive r = true) ∧ 
  let k := getConn r c.val
  let n := connPort r c.val
  (k.st = .established) ∧ (k.una ≠ k.next) ∧ (k.advAt + rtoNs r n ≤ t) ∧ 
  let u := bumpAft r .AFT_CNT0 n 31 0 1
  (k.timeouts + 1 < retryMax u n) ∧ (lostMembers r (modConn (shrink u c.val) c.val fun k' => { k' with timeouts := k'.timeouts + 1, cur := k'.una, advAt := t, paid := false }) = []) :=
  ⟨talking 1 waiting, at_ (talking 1 waiting) 200000, 2, 200000, by
    (repeat' apply And.intro) <;> first | with_reducible rfl | decide +kernel | rfl⟩

theorem witness_ConnectionTimers_1b : ∃ (s r : State) (c : ConnNo) (t : Stamp), (r = at_ s t) ∧ (alive r = true) ∧ 
  let k := getConn r c.val
  let n := connPort r c.val
  (k.st = .established) ∧ (k.una ≠ k.next) ∧ (k.advAt + rtoNs r n ≤ t) ∧ 
  let u := bumpAft r .AFT_CNT0 n 31 0 1
  let lost := loseConn u c.val 2 Code.CONN_LOST
  (retryMax u n ≤ k.timeouts + 1) ∧ (lostMembers r lost = []) :=
  ⟨talking 1 fun k => { waiting k with timeouts := 6 }, at_ (talking 1 fun k => { waiting k with timeouts := 6 }) 200000, 2, 200000, by
    (repeat' apply And.intro) <;> first | with_reducible rfl | decide +kernel | rfl⟩

theorem witness_ConnectionTimers_2 : ∃ (s r : State) (c : ConnNo) (t u : Stamp), (r = at_ s t) ∧ (alive r = true) ∧ ((getConn r c.val).rnrUntil = some u) ∧ (u ≤ t) :=
  ⟨talking 1 fun k => { k with rnrUntil := some 7 }, at_ (talking 1 fun k => { k with rnrUntil := some 7 }) 7, 2, 7, 7, by
    (repeat' apply And.intro) <;> first | with_reducible rfl | decide +kernel | rfl⟩

theorem witness_ConnectionTimers_3 : ∃ (s r : State) (c : ConnNo) (t f : Stamp), (r = at_ s t) ∧ (alive r = true) ∧ ((getConn r c.val).ackFrom = some f) ∧ (f + ackNs r (connPort r c.val) ≤ t) ∧ ((getConn r c.val).unacked ≠ 0) :=
  ⟨talking 1 fun k => { k with ackFrom := some 0, unacked := 1 }, at_ (talking 1 fun k => { k with ackFrom := some 0, unacked := 1 }) 4000, 2, 4000, 0, by
    (repeat' apply And.intro) <;> first | with_reducible rfl | decide +kernel | rfl⟩

theorem witness_ConnectionTimers_4 : ∃ (s : State) (c : ConnNo), (alive s = true) ∧ ((getConn s c.val).st = .connecting) ∧ ((getConn s c.val).ackTick ≠ some s.tick.tick) ∧ (portOn s (connPort s c.val) = true) :=
  ⟨talking 1 fun k => { k with st := .connecting }, 2, by
    (repeat' apply And.intro) <;> first | with_reducible rfl | decide +kernel | rfl⟩

theorem witness_ConnectionTimers_5a : ∃ (s r : State) (n : Port) (i : Fin 1024) (tick : BitVec 48) (t : Stamp), (r = at_ s t) ∧ (alive r = true) ∧ (portOn r n.val = true) ∧ (peerValid r n.val i.val = true) ∧ 
  let u := setPeer r n.val i.val { getPeer r n.val i.val with st := 2, last := tickOf r t }
  let own := tickOf u t
  (tick.toNat = own ∨ tick.toNat = own + 1 ∨ tick.toNat + 1 = own) :=
  ⟨talking 1, at_ (talking 1) 0, 0, 0, 6, 0, by
    (repeat' apply And.intro) <;> first | with_reducible rfl | decide +kernel | rfl⟩

theorem witness_ConnectionTimers_5b : ∃ (s r : State) (n : Port) (i : Fin 1024) (tick : BitVec 48) (t : Stamp), (r = at_ s t) ∧ (alive r = true) ∧ (portOn r n.val = true) ∧ (peerValid r n.val i.val = true) ∧ 
  let u := setPeer r n.val i.val { getPeer r n.val i.val with st := 2, last := tickOf r t }
  let own := tickOf u t
  (u.tick.running = true) ∧ (u.tick.begun = true) ∧ (tick.toNat ≠ own) ∧ (tick.toNat ≠ own + 1) ∧ (tick.toNat + 1 ≠ own) :=
  ⟨talking 1, at_ (talking 1) 0, 0, 0, 7, 0, by
    (repeat' apply And.intro) <;> first | with_reducible rfl | decide +kernel | rfl⟩

theorem witness_ConnectionTimers_6 : ∃ (s : State) (n : Port), (alive s = true) ∧ (portOn s n.val = true) ∧ (s.tick.running = true) ∧ (s.tick.begun = true) ∧ ((getPort s n.val).kaTick ≠ some s.tick.tick) :=
  ⟨talking 1, 0, by
    (repeat' apply And.intro) <;> first | with_reducible rfl | decide +kernel | rfl⟩

theorem witness_ConnectionTimers_7 : ∃ (s : State) (n : Port) (i : Fin 1024), (alive s = true) ∧ (peerDue s n.val i.val = true) :=
  ⟨setPeer ticking 0 0 ⟨2, 2, 0⟩, 0, 0, by
    (repeat' apply And.intro) <;> first | with_reducible rfl | decide +kernel | rfl⟩

theorem witness_ConnectionTimers_8 : ∃ (s : State) (n : Port), (alive s = true) ∧ 
  let c := getF s ⟨.AFT_CONN_SEL, n.val, 0⟩ 17 0
  ((getConn s c).st = .lost) ∧ (connPort s c = n.val) ∧ ((getConn s c).reopen = false) :=
  ⟨setF (talking 1 fun k => { k with st := .lost }) ⟨.AFT_CONN_SEL, 0, 0⟩ 17 0 2, 0, by
    (repeat' apply And.intro) <;> first | with_reducible rfl | decide +kernel | rfl⟩

theorem witness_ConnectionTimers_9 : ∃ (s : State) (c : ConnNo), (alive s = true) ∧ (s.tick.begun = true) ∧ ((getConn s c.val).reopen = true) ∧ ((getConn s c.val).st = .lost) :=
  ⟨talking 1 fun k => { k with st := .lost, reopen := true }, 2, by
    (repeat' apply And.intro) <;> first | with_reducible rfl | decide +kernel | rfl⟩

theorem witness_SendQueue_1a : ∃ (s : State) (n : Port) (by_ : Requester) (v : Word), (alive s = true) ∧ (by_ ≠ .i3c) ∧ ((∀ h, by_ = .host h → blockOpen s h.val (unitNo (4 + n.val) 1 0) = true)) ∧ 
  let r := unIdle s
  let c := fld v 63 46
  let rq := fld v 45 45 = 1
  let k := getConn r c
  let cons := if rq then k.rqCons else k.sqCons
  let size := if rq then rqSize r c else sqSize r c
  let ahead := (fld v 15 0 + 65536 - cons % 65536) % 65536
  let granted := (hostOf by_).elim true fun h =>
      r.img.ranges.any fun x => x.1 = h && decide (x.2.1 ≤ connPolder r c) && decide (connPolder r c ≤ x.2.2)
  (k.st = .established) ∧ (connKind r c = 0) ∧ (connPort r c = n.val) ∧ (granted = true) ∧ (ahead ≤ size) :=
  by
    refine ⟨talking 0, 0, .reeve, BitVec.ofNat 64 (2 * 2 ^ 46 + 1), ?_, ?_, (fun _ e => nomatch e), ?_⟩
    on_goal 3 => repeat' apply And.intro
    all_goals decide +kernel

theorem witness_SendQueue_1b : ∃ (s : State) (n : Port) (by_ : Requester) (v : Word), (alive s = true) ∧ (by_ ≠ .i3c) ∧ ((∀ h, by_ = .host h → blockOpen s h.val (unitNo (4 + n.val) 1 0) = true)) ∧ 
  let r := unIdle s
  let c := fld v 63 46
  let rq := fld v 45 45 = 1
  let k := getConn r c
  let cons := if rq then k.rqCons else k.sqCons
  let size := if rq then rqSize r c else sqSize r c
  let ahead := (fld v 15 0 + 65536 - cons % 65536) % 65536
  let granted := (hostOf by_).elim true fun h =>
      r.img.ranges.any fun x => x.1 = h && decide (x.2.1 ≤ connPolder r c) && decide (connPolder r c ≤ x.2.2)
  (k.st = .closed ∨ connKind r c ≠ 0 ∨ connPort r c ≠ n.val ∨ granted = false ∨ size < ahead) :=
  by
    refine ⟨ticking, 0, .reeve, 0, ?_, ?_, (fun _ e => nomatch e), ?_⟩ <;> decide +kernel

theorem witness_SendQueue_2 : ∃ (s r u : State) (c : ConnNo) (t : Stamp), (r = at_ s t) ∧ (alive r = true) ∧ (headReady r c.val = true) ∧ 
  let a := sqEntry r c.val (getConn r c.val).sqCons
  (hostAccess r (some (connWho c.val)) a 32 false = (.ok, u)) ∧ (fld (rdW u a) 63 60 = 2) ∧ (fld (rdW u (a + 16)) 60 60 = 0) :=
  by
    refine ⟨sending (BitVec.ofNat 64 (2 * 2 ^ 60)) (BitVec.ofNat 64 (0 * 2 ^ 32)) 0, at_ (sending (BitVec.ofNat 64 (2 * 2 ^ 60)) (BitVec.ofNat 64 (0 * 2 ^ 32)) 0) 0, _, 2, 0, rfl, ?_, ?_, fst_pair ?_, ?_, ?_⟩ <;> decide +kernel

theorem witness_SendQueue_3a : ∃ (s r u w : State) (c : ConnNo) (t : Stamp) (d : Nat), (r = at_ s t) ∧ (alive r = true) ∧ (headReady r c.val = true) ∧ 
  let a := sqEntry r c.val (getConn r c.val).sqCons
  (hostAccess r (some (connWho c.val)) a 32 false = (.ok, u)) ∧ (fld (rdW u (a + 16)) 60 60 = 0) ∧ 
  let n := fld (rdW u (a + 8)) 63 32
  (n ≠ 0) ∧ (n ≤ 2 ^ 24) ∧ (regionAddr u (connPolder u c.val) (fld (rdW u a) 59 48) (fld (rdW u a) 47 0) n = some d) ∧ (hostAccess u (some (connWho c.val)) d n false = (.ok, w)) ∧ (fld (rdW u a) 63 60 = 0) :=
  by
    refine ⟨sending (BitVec.ofNat 64 (0 * 2 ^ 60)) (BitVec.ofNat 64 (16 * 2 ^ 32)) 0, at_ (sending (BitVec.ofNat 64 (0 * 2 ^ 60)) (BitVec.ofNat 64 (16 * 2 ^ 32)) 0) 0, _, _, 2, 0, 2 ^ 20, rfl, ?_, ?_, fst_pair ?_, ?_, ?_, ?_, ?_, fst_pair ?_, ?_⟩ <;> decide +kernel

theorem witness_SendQueue_3b : ∃ (s r u w : State) (c : ConnNo) (t : Stamp) (d : Nat), (r = at_ s t) ∧ (alive r = true) ∧ (headReady r c.val = true) ∧ 
  let a := sqEntry r c.val (getConn r c.val).sqCons
  (hostAccess r (some (connWho c.val)) a 32 false = (.ok, u)) ∧ (fld (rdW u (a + 16)) 60 60 = 0) ∧ 
  let n := fld (rdW u (a + 8)) 63 32
  (n ≠ 0) ∧ (n ≤ 2 ^ 24) ∧ (regionAddr u (connPolder u c.val) (fld (rdW u a) 59 48) (fld (rdW u a) 47 0) n = some d) ∧ (hostAccess u (some (connWho c.val)) d n false = (.ok, w)) ∧ (fld (rdW u a) 63 60 = 1) :=
  by
    refine ⟨sending (BitVec.ofNat 64 (1 * 2 ^ 60)) (BitVec.ofNat 64 (16 * 2 ^ 32)) 0, at_ (sending (BitVec.ofNat 64 (1 * 2 ^ 60)) (BitVec.ofNat 64 (16 * 2 ^ 32)) 0) 0, _, _, 2, 0, 2 ^ 20, rfl, ?_, ?_, fst_pair ?_, ?_, ?_, ?_, ?_, fst_pair ?_, ?_⟩ <;> decide +kernel

theorem witness_SendQueue_4 : ∃ (s : State) (c : ConnNo), (alive s = true) ∧ (headReady s c.val = true) ∧ 
  let a := sqEntry s c.val (getConn s c.val).sqCons
  (fld (rdW s (a + 16)) 60 60 = 1) ∧ (chainCode s c.val (rdW s (a + 16)) = 0) ∧ (chainMet s (rdW s (a + 16)) (rdW s (a + 24)) = true) :=
  ⟨sending (BitVec.ofNat 64 (0 * 2 ^ 60)) (BitVec.ofNat 64 (16 * 2 ^ 32)) (BitVec.ofNat 64 (2 ^ 60 + 2 * 2 ^ 42)), 2, by
    (repeat' apply And.intro) <;> first | with_reducible rfl | decide +kernel | rfl⟩

theorem witness_SendQueue_5 : ∃ (s r u : State) (n : Port) (h : Fin 2) (t : Stamp) (sent : Option Nat), (r = at_ s t) ∧ (alive r = true) ∧ (portOn r n.val = true) ∧ (halfState r n.val h.val = 2) ∧ 
  let mine := (r.fab.conns.filter fun e => connPort r e.1 = n.val && connHalf r e.1 = h.val && sendable r e.1 t).map (·.1)
  let last := mapGetD (getPort r n.val).rr h.val 0
  let order := mine.filter (fun c => last < c) ++ mine.filter (fun c => c ≤ last)
  (tryEgress r t ((List.range 8).reverse.flatMap fun k => order.filter fun c => connClass r c = k) = (u, sent)) :=
  by
    refine ⟨setF (talking 1) (rPortSts 0) 49 48 2, at_ (setF (talking 1) (rPortSts 0) 49 48 2) 0, _, 0, 0, 0, _, rfl, ?_, ?_, ?_, Prod.mk.eta.symm⟩ <;> decide +kernel

end Sys2Proof.Tests
end

