-- ==== Sys2Proof/Tests/Witness09.lean ====
section
/-! SUPPORT. Witnesses: for each clause of a statement, a state and operands that meet its hypotheses. -/

namespace Sys2Proof.Tests

open Sys2Proof.Machine

set_option Elab.async false

/-- A message of connection 2 with two arguments. -/
def aMsg (a0 a1 : Word) : FabMsg := ⟨2, 0, 9, 0, 3, 1, a0, a1, []⟩

/-- A FAN-OUT request on die 0, with the shard map that gives shard 0 to this part. -/
def fanning (g : Option Gather) : State :=
  let s := modWork (live (polder (connection ticking 2 1 2) 1 [stage 0 none .fanout 0]) 3 1 0 (.conn 5)) 3 fun w => { w with gather := g }
  modFab s fun f => { f with maps := [⟨1, 0, [⟨0, 0, 0, [0]⟩]⟩] }

/-- A shard connection of polder 1, with a change prepared, or proposed. -/
def preparedChange (commit : Option Nat) (doubt : Bool) : Prepared := ⟨1, 2, 9, 2, [], [], commit, doubt⟩
def preparing (p : Prepared) : State := modFab (connection ticking 2 1 3) fun f => { f with prep := some p }
def aProposal (refused : Bool) : Proposal := ⟨1, 2, 9, [], [], [4], [4], refused⟩
def proposing (p : Proposal) : State := modFab (connection ticking 2 1 3) fun f => { f with prop := some p }

/-- A pool connection of polder 1, with word 4 of its descriptor. -/
def pooling (w : Nat) : State :=
  modFss (wrW (connection (polder ticking 1 []) 2 1 4) (4096 + 64 * 2 + 32) (BitVec.ofNat 64 w)) fun f => { f with nss := [(3, ⟨1, true, 0, false, 16, 0, 0, 0, true⟩)] }

/-- The message waits in port 0 for connection 2. -/
def hearing (s : State) (m : FabMsg) (type : Nat) : State := modPort s 0 fun p => { p with inbox := [(2, msgBytes m type)] }

/-- A coordinator's list request heard, and member, shard and pool connections that hear message `m`. -/
def gathering : State := hearing (fanning (some ⟨0, [], []⟩)) (aMsg 0 0) mList
def member (type : Nat) : State := hearing (connection ticking 2 1 2) (aMsg 0 0) type
def changing (p : Prepared) (type : Nat) : State := hearing (preparing p) (aMsg 1 2) type
def proposer (type : Nat) : State := hearing (proposing (aProposal false)) (aMsg 1 2) type
def asked (maps : List ShardMap) : State :=
  hearing (modFab (connection ticking 2 1 3) fun f => { f with maps := maps }) (aMsg 1 2) mStatus
def writerSide (type : Nat) : State := hearing (collection (connection ticking 2 1 3) 0 0) (aMsg 0 0) type
def offered : FabMsg := { aMsg 1 2 with origin := 4 }
def offering : State := hearing (connection ticking 2 1 3) offered mPrepare
def relaying : State := hearing (pooling (2 * 2 ^ 46 + 2 ^ 45)) (aMsg 0 0) mPoolRead

theorem witness_CollectiveRows_1a : ∃ (s r : State) (c : CtxId) (t : Stamp) (m : ShardMap) (e0 : MapEntry), (r = at_ s t) ∧ (alive r = true) ∧ 
  let k := getCtx r c.val
  (standsIn r c.val .fanout = true) ∧ (k.work.done = false) ∧ (k.src.isMember = false) ∧ (r.tick.align = .unaligned ∨ r.tick.align = .acquiring) :=
  ⟨modTick (fanning none) fun u => { u with align := .unaligned }, at_ (modTick (fanning none) fun u => { u with align := .unaligned }) 0, 3, 0, ⟨1, 0, []⟩, ⟨0, 0, 0, []⟩, by
    (repeat' apply And.intro) <;> first | with_reducible rfl | decide +kernel | rfl⟩

theorem witness_CollectiveRows_1b : ∃ (s r : State) (c : CtxId) (t : Stamp) (m : ShardMap) (e0 : MapEntry), (r = at_ s t) ∧ (alive r = true) ∧ 
  let k := getCtx r c.val
  (standsIn r c.val .fanout = true) ∧ (k.work.done = false) ∧ (k.src.isMember = false) ∧ (r.tick.align ≠ .unaligned) ∧ (r.tick.align ≠ .acquiring) ∧ (mapAtEpoch r k.pin = some m) ∧ 
  let own := cShard r (getColl r (dColl k.desc))
  (entryOfShard (some m) own = some e0) :=
  ⟨fanning none, at_ (fanning none) 0, 3, 0, ⟨1, 0, [⟨0, 0, 0, [0]⟩]⟩, ⟨0, 0, 0, [0]⟩, by
    (repeat' apply And.intro) <;> first | with_reducible rfl | decide +kernel | rfl⟩

theorem witness_CollectiveRows_2 : ∃ (s r : State) (m : FabMsg) (t : Stamp), (r = at_ s t) ∧ (alive r = true) ∧ (toePath r (connPort r m.conn.val) = true) ∧ (hears r m 2 mSub = true) :=
  ⟨member mSub, at_ (member mSub) 0, aMsg 0 0, 0, by
    (repeat' apply And.intro) <;> first | with_reducible rfl | decide +kernel | rfl⟩

theorem witness_CollectiveRows_3 : ∃ (s r : State) (m : FabMsg) (t : Stamp) (g : Gather), (r = at_ s t) ∧ (alive r = true) ∧ (hears r m 2 mList = true) ∧ 
  let u := takeInbox r m.conn.val
  let c := m.context.val
  ((getCtx u c).work.gather = some g) ∧ (isLive u c = true) ∧ ((getCtx u c).gen = m.gen.toNat) ∧ (g.attempt = m.attempt) ∧ (m.origin.toNat = myNode u) :=
  ⟨gathering, at_ gathering 0, aMsg 0 0, 0, ⟨0, [], []⟩, by
    (repeat' apply And.intro) <;> first | with_reducible rfl | decide +kernel | rfl⟩

theorem witness_CollectiveRows_4 : ∃ (s : State) (m : FabMsg), (alive s = true) ∧ (hears s m 2 mAbort = true) :=
  ⟨member mAbort, aMsg 0 0, by
    (repeat' apply And.intro) <;> first | with_reducible rfl | decide +kernel | rfl⟩

theorem witness_CollectiveRows_5 : ∃ (s : State) (coll : CollNo), (alive s = true) ∧ ((mapGet s.colls coll.val).isNone = false) :=
  ⟨collection ticking 0 0, 0, by
    (repeat' apply And.intro) <;> first | with_reducible rfl | decide +kernel | rfl⟩

theorem witness_MapChange_1 : ∃ (s : State) (m : FabMsg), (alive s = true) ∧ (m.origin.toNat ≠ myNode s) ∧ (hears s m 3 mPrepare = true) :=
  ⟨offering, offered, by
    (repeat' apply And.intro) <;> first | with_reducible rfl | decide +kernel | rfl⟩

theorem witness_MapChange_2a : ∃ (s : State) (m : FabMsg) (p : Proposal), (alive s = true) ∧ (s.fab.prop = some p) ∧ (hears s m 3 mPrepared = true) ∧ (p.new_ = m.arg1.toNat) :=
  ⟨proposer mPrepared, aMsg 1 2, aProposal false, by
    (repeat' apply And.intro) <;> first | with_reducible rfl | decide +kernel | rfl⟩

theorem witness_MapChange_2b : ∃ (s : State) (m : FabMsg) (p : Proposal), (alive s = true) ∧ (s.fab.prop = some p) ∧ (hears s m 3 mRefuse = true) :=
  ⟨proposer mRefuse, aMsg 1 2, aProposal false, by
    (repeat' apply And.intro) <;> first | with_reducible rfl | decide +kernel | rfl⟩

theorem witness_MapChange_3a : ∃ (s : State) (p : Proposal), (alive s = true) ∧ (s.fab.prop = some p) ∧ 
  let inTime := decide (s.tick.nextNum < p.at_) || (s.tick.nextNum = p.at_ && !inBerm s s.now)
  let all := p.parts.all p.yes.contains
  (p.refused = false) ∧ (all = true) ∧ (inTime = true) :=
  ⟨proposing (aProposal false), aProposal false, by
    (repeat' apply And.intro) <;> first | with_reducible rfl | decide +kernel | rfl⟩

theorem witness_MapChange_3b : ∃ (s : State) (p : Proposal), (alive s = true) ∧ (s.fab.prop = some p) ∧ 
  let inTime := decide (s.tick.nextNum < p.at_) || (s.tick.nextNum = p.at_ && !inBerm s s.now)
  (p.refused = true ∨ inTime = false) :=
  ⟨proposing (aProposal true), aProposal true, by
    (repeat' apply And.intro) <;> first | with_reducible rfl | decide +kernel | rfl⟩

theorem witness_MapChange_4 : ∃ (s r : State) (m : FabMsg) (p : Prepared) (t : Stamp), (r = at_ s t) ∧ (alive r = true) ∧ (hears r m 3 mCommit = true) ∧ 
  let u := takeInbox r m.conn.val
  (u.fab.prep = some p) ∧ (p.new_ = m.arg1.toNat) ∧ (p.doubt = false) :=
  ⟨changing (preparedChange none false) mCommit, at_ (changing (preparedChange none false) mCommit) 0, aMsg 1 2, preparedChange none false, 0, by
    (repeat' apply And.intro) <;> first | with_reducible rfl | decide +kernel | rfl⟩

theorem witness_MapChange_5 : ∃ (s : State) (m : FabMsg) (p : Prepared), (alive s = true) ∧ (hears s m 3 mMapAbort = true) ∧ 
  let u := takeInbox s m.conn.val
  (u.fab.prep = some p) ∧ (p.new_ = m.arg1.toNat) ∧ (p.commit = none) :=
  ⟨changing (preparedChange none false) mMapAbort, aMsg 1 2, preparedChange none false, by
    (repeat' apply And.intro) <;> first | with_reducible rfl | decide +kernel | rfl⟩

theorem witness_MapChange_6 : ∃ (s : State) (p : Prepared), (alive s = true) ∧ (s.fab.prep = some p) ∧ (p.commit = none) ∧ (beforeFreeze s p.at_ s.now = false) :=
  ⟨modTick (preparing (preparedChange none false)) fun u => { u with nextNum := 10 }, preparedChange none false, by
    (repeat' apply And.intro) <;> first | with_reducible rfl | decide +kernel | rfl⟩

theorem witness_MapChange_7 : ∃ (s : State) (p : Prepared), (alive s = true) ∧ (s.fab.prep = some p) ∧ (p.doubt = true) ∧ (p.commit = none) ∧ (s.fab.statusAt ≠ some s.tick.tick) :=
  ⟨preparing (preparedChange none true), preparedChange none true, by
    (repeat' apply And.intro) <;> first | with_reducible rfl | decide +kernel | rfl⟩

theorem witness_MapChange_8a : ∃ (s : State) (m : FabMsg), (alive s = true) ∧ (hears s m 3 mStatus = true) ∧ 
  let u := takeInbox s m.conn.val
  ∃ x, (u.fab.maps.find? (fun x => x.version = m.arg1.toNat) = some x) :=
  by
    refine ⟨asked [⟨2, 0, []⟩], aMsg 1 2, ?_, ?_, ⟨2, 0, []⟩, ?_⟩ <;> decide +kernel

theorem witness_MapChange_8b : ∃ (s : State) (m : FabMsg), (alive s = true) ∧ (hears s m 3 mStatus = true) ∧ 
  let u := takeInbox s m.conn.val
  (u.fab.maps.find? (fun x => x.version = m.arg1.toNat) = none) :=
  ⟨asked [], aMsg 1 2, by
    (repeat' apply And.intro) <;> first | with_reducible rfl | decide +kernel | rfl⟩

theorem witness_MapChange_9 : ∃ (s : State) (m : FabMsg) (p : Prepared), (alive s = true) ∧ (hears s m 3 mOutcome = true) ∧ 
  let u := takeInbox s m.conn.val
  (u.fab.prep = some p) ∧ (p.doubt = true) :=
  ⟨changing (preparedChange none true) mOutcome, aMsg 1 2, preparedChange none true, by
    (repeat' apply And.intro) <;> first | with_reducible rfl | decide +kernel | rfl⟩

theorem witness_ReplicasAndPools_1a : ∃ (s : State) (m : FabMsg) (coll : CollNo), (alive s = true) ∧ ((mapGet s.colls coll.val).isNone = false) ∧ (hears s m 3 mReplStage = true) :=
  ⟨writerSide mReplStage, aMsg 0 0, 0, by
    (repeat' apply And.intro) <;> first | with_reducible rfl | decide +kernel | rfl⟩

theorem witness_ReplicasAndPools_1b : ∃ (s : State) (m : FabMsg) (coll : CollNo), (alive s = true) ∧ ((mapGet s.colls coll.val).isNone = false) ∧ (hears s m 3 mReplStaged = true) :=
  ⟨writerSide mReplStaged, aMsg 0 0, 0, by
    (repeat' apply And.intro) <;> first | with_reducible rfl | decide +kernel | rfl⟩

theorem witness_ReplicasAndPools_1c : ∃ (s : State) (m : FabMsg) (coll : CollNo), (alive s = true) ∧ ((mapGet s.colls coll.val).isNone = false) ∧ (hears s m 3 mReplDefer = true) :=
  ⟨writerSide mReplDefer, aMsg 0 0, 0, by
    (repeat' apply And.intro) <;> first | with_reducible rfl | decide +kernel | rfl⟩

theorem witness_ReplicasAndPools_2 : ∃ (s r : State) (m : FabMsg) (coll : CollNo) (t : Stamp), (r = at_ s t) ∧ (alive r = true) ∧ (hears r m 3 mReplCommit = true) ∧ ((mapGet r.colls coll.val).isNone = false) :=
  ⟨writerSide mReplCommit, at_ (writerSide mReplCommit) 0, aMsg 0 0, 0, 0, by
    (repeat' apply And.intro) <;> first | with_reducible rfl | decide +kernel | rfl⟩

theorem witness_ReplicasAndPools_3a : ∃ (s r : State) (m : FabMsg) (okSteps : List (Option Nat)) (t : Stamp), (r = at_ s t) ∧ (alive r = true) ∧ (connRelayEn r m.conn.val = false) ∧ 
  let u := takeInbox r m.conn.val
  (connPoolNs u m.conn.val = 0) :=
  ⟨hearing (pooling 0) (aMsg 0 16) mPoolRead, at_ (hearing (pooling 0) (aMsg 0 16) mPoolRead) 0, aMsg 0 16, [], 0, by
    (repeat' apply And.intro) <;> first | with_reducible rfl | decide +kernel | rfl⟩

theorem witness_ReplicasAndPools_3b : ∃ (s r : State) (m : FabMsg) (okSteps : List (Option Nat)) (t : Stamp), (r = at_ s t) ∧ (alive r = true) ∧ (connRelayEn r m.conn.val = false) ∧ 
  let u := takeInbox r m.conn.val
  let first := m.arg0.toNat
  let units := m.arg1.toNat % 65536
  ∃ n, (connPoolNs u m.conn.val ≠ 0) ∧ (getNs u (connPoolNs u m.conn.val) = some n) ∧ (n.isHost = true) ∧ (n.bound = true) ∧ (n.polder = connPolder u m.conn.val) ∧ (units ≠ 0) ∧ (first + units ≤ n.units) :=
  by
    refine ⟨hearing (pooling 3) (aMsg 0 16) mPoolRead, at_ (hearing (pooling 3) (aMsg 0 16) mPoolRead) 0, aMsg 0 16, [], 0, rfl, ?_, ?_, ⟨1, true, 0, false, 16, 0, 0, 0, true⟩, ?_, ?_, ?_, ?_, ?_, ?_, ?_⟩ <;> decide +kernel

theorem witness_ReplicasAndPools_4 : ∃ (s r : State) (m : FabMsg) (t : Stamp), (r = at_ s t) ∧ (alive r = true) ∧ (hears r m 4 mPoolDone = true) :=
  ⟨hearing (pooling 0) (aMsg 0 0) mPoolDone, at_ (hearing (pooling 0) (aMsg 0 0) mPoolDone) 0, aMsg 0 0, 0, by
    (repeat' apply And.intro) <;> first | with_reducible rfl | decide +kernel | rfl⟩

theorem witness_ReplicasAndPools_5 : ∃ (s r : State) (c : ConnNo) (bytes : List Byte) (t : Stamp), (r = at_ s t) ∧ (alive r = true) ∧ (connHears r c.val 4 = true) ∧ (inFront r c.val = some bytes) ∧ (connRelayEn r c.val = true) ∧ ((getConn r (connRelay r c.val)).st = .established) :=
  ⟨relaying, at_ relaying 0, 2, msgBytes (aMsg 0 0) mPoolRead, 0, by
    (repeat' apply And.intro) <;> first | with_reducible rfl | decide +kernel | rfl⟩

end Sys2Proof.Tests
end

