-- ==== Sys2Proof/Tests/Witness10.lean ====
section
/-! SUPPORT. Witnesses: for each clause of a statement, a state and operands that meet its hypotheses. -/

namespace Sys2Proof.Tests

open Sys2Proof.Machine

set_option Elab.async false

/-- Port 0 in a link state, host access on. -/
def linked (st : Nat) (f : BmlPort → BmlPort := id) : State := modBml (setF (setF ticking ⟨.BML_LINK_STS, 0, 0⟩ 5 4 st) ⟨.BML_CFG, 0, 0⟩ 0 0 1) 0 f

/-- The first 246 bytes of a flit of a kind with sequence number `seq`. -/
def aBody (kind seq : Nat) : List Byte := leBytes 6 (kind * 2 ^ 46 + seq * 2 ^ 36) ++ List.replicate 240 0

/-- Host 0 with a 64 KiB window at 0, OPEN. -/
def windowed : State := modWin (setReg (linked 2) ⟨.MEM_HW_SIZE, 0, 0⟩ 65536) 0 fun w => { w with st := .open_ }

theorem flit_opens : openFlit (sealFlit (aBody 0 0)) = some (aBody 0 0) := by decide +kernel

theorem mem_heard {s : State} {h : Nat} (h1 : bmlState s h = 2) (h2 : getF s ⟨.BML_CFG, h, 0⟩ 0 0 = 1) (h3 : (getWin s h).st ≠ .recovering) :
    memHeard s h = (true, unIdle s) := by
  simp [memHeard, h1, h2, h3]

theorem csr_heard {s : State} {h : Nat} (h1 : bmlState s h = 2) (h2 : getF s ⟨.BML_CFG, h, 0⟩ 0 0 = 1) : csrHeard s h = (true, s) := by
  simp [csrHeard, h1, h2]

/-- Host 0 granted the block of a register. -/
def granted (g : Reg) : State := setPolder (linked 2) 1 { Polder.none with st := .active, grants := [(0, regAddr g / 0x10000)] }

/-- Ring 0 of port 0 on. -/
def ringed : State := setF (granted ⟨.BML_RING_CFG, 0, 0⟩) ⟨.BML_RING_CFG, 0, 0⟩ 0 0 1

theorem witness_LinkTraining_1a : ∃ (s r : State) (n : Port) (tr : BmlTrain) (t : Stamp), (r = at_ s t) ∧ (alive r = true) ∧ (bmlState r n.val = 1) ∧ 
  let lanes := alignLanes r n.val tr.lanesOk.toNat
  (lanes = 0) :=
  ⟨linked 1, at_ (linked 1) 0, 0, ⟨0xEE, 1, [8, 8, 8, 8], 0, 560, 0, 3⟩, 0, by
    (repeat' apply And.intro) <;> first | with_reducible rfl | decide +kernel | rfl⟩

theorem witness_LinkTraining_1b : ∃ (s r : State) (n : Port) (tr : BmlTrain) (t : Stamp), (r = at_ s t) ∧ (alive r = true) ∧ (bmlState r n.val = 1) ∧ 
  let lanes := alignLanes r n.val tr.lanesOk.toNat
  (lanes ≠ 0) ∧ (initOk tr = false) :=
  ⟨linked 1, at_ (linked 1) 0, 0, ⟨255, 1, [8, 8, 8, 8], 0, 560, 0, 2⟩, 0, by
    (repeat' apply And.intro) <;> first | with_reducible rfl | decide +kernel | rfl⟩

theorem witness_LinkTraining_1c : ∃ (s r : State) (n : Port) (tr : BmlTrain) (t : Stamp), (r = at_ s t) ∧ (alive r = true) ∧ (bmlState r n.val = 1) ∧ 
  let lanes := alignLanes r n.val tr.lanesOk.toNat
  (lanes ≠ 0) ∧ (initOk tr = true) :=
  ⟨linked 1, at_ (linked 1) 0, 0, ⟨255, 1, [8, 8, 8, 8], 0, 560, 0, 3⟩, 0, by
    (repeat' apply And.intro) <;> first | with_reducible rfl | decide +kernel | rfl⟩

theorem witness_LinkTraining_2 : ∃ (s r : State) (n : Port) (t : Stamp), (r = at_ s t) ∧ (alive r = true) ∧ (mayTrain r n.val t = true) :=
  ⟨linked 0, at_ (linked 0) 0, 0, 0, by
    (repeat' apply And.intro) <;> first | with_reducible rfl | decide +kernel | rfl⟩

theorem witness_LinkTraining_3 : ∃ (s r : State) (n : Port) (t : Stamp) (v k : Nat), (r = at_ s t) ∧ (alive r = true) ∧ (bmlState r n.val = 2) ∧ ((getBml r n.val).nakSame = some (v, k)) ∧ (8 ≤ k) :=
  ⟨linked 2 fun p => { p with nakSame := some (0, 8) }, at_ (linked 2 fun p => { p with nakSame := some (0, 8) }) 0, 0, 0, 0, 8, by
    (repeat' apply And.intro) <;> first | with_reducible rfl | decide +kernel | rfl⟩

theorem witness_LinkTraining_4 : ∃ (s r : State) (n : Port) (t : Stamp), (r = at_ s t) ∧ (alive r = true) ∧ (bmlState r n.val = 3) ∧ ((getBml r n.val).since + 2000 * us ≤ t) :=
  ⟨linked 3, at_ (linked 3) 2000000, 0, 2000000, by
    (repeat' apply And.intro) <;> first | with_reducible rfl | decide +kernel | rfl⟩

theorem witness_LinkTraining_5 : ∃ (s r : State) (n : Port) (bytes f : List Byte) (t : Stamp), (r = at_ s t) ∧ (alive r = true) ∧ (bmlState r n.val = 1 ∨ bmlState r n.val = 3) ∧ (openFlit bytes = some f) ∧ (hdKind (flitHead f) = 3) :=
  by
    refine ⟨linked 1, at_ (linked 1) 0, 0, sealFlit (aBody 3 0), aBody 3 0, 0, rfl, ?_, ?_, ?_, ?_⟩ <;> decide +kernel

theorem witness_LinkTraining_6 : ∃ (s r : State) (n : Port) (t : Stamp), (r = at_ s t) ∧ (alive r = true) ∧ (bmlState r n.val = 2) ∧ ((getBml r n.val).missing = true) ∧ ((getBml r n.val).nakAt + us ≤ t) :=
  ⟨linked 2 fun p => { p with missing := true }, at_ (linked 2 fun p => { p with missing := true }) 1000, 0, 1000, by
    (repeat' apply And.intro) <;> first | with_reducible rfl | decide +kernel | rfl⟩

theorem witness_LinkTraining_7 : ∃ (cmd : Port → Word → Instr) (name : RegName), ((cmd, name) ∈ ([(.bmlCrdWrite, .BML_CRD), (.bmlHbCfgWrite, .BML_HB_CFG)] : List ((Port → Word → Instr) × RegName))) ∧ ∃ (s : State) (n : Port) (v : Word), (alive s = true) :=
  ⟨.bmlCrdWrite, .BML_CRD, by simp, ticking, 0, 0, by decide +kernel⟩

theorem witness_FlitRows_1a : ∃ (s r : State) (n : Port) (bytes f : List Byte) (t : Stamp), (r = at_ s t) ∧ (alive r = true) ∧ (bmlState r n.val = 2) ∧ (openFlit bytes = some f) ∧ (hdKind (flitHead f) = 0) ∧ (hdSeq (flitHead f) = (getBml r n.val).rxNext) ∧ ((getBml (settle ((takeData r n.val bytes).2.foldl (takeMsg n.val t) (takeData r n.val bytes).1)) n.val).rxNext ≠ (getBml r n.val).rxNext) :=
  by
    refine ⟨linked 2, at_ (linked 2) 0, 0, sealFlit (aBody 0 0), aBody 0 0, 0, rfl, ?_, ?_, flit_opens, ?_, ?_, by unfold takeData; rw [flit_opens]; decide +kernel⟩ <;> decide +kernel

theorem witness_FlitRows_1b : ∃ (s r : State) (n : Port) (bytes f : List Byte) (t : Stamp), (r = at_ s t) ∧ (alive r = true) ∧ (bmlState r n.val = 2) ∧ (openFlit bytes = some f) ∧ (hdKind (flitHead f) = 0) ∧ (hdSeq (flitHead f) ≠ (getBml r n.val).rxNext) :=
  by
    refine ⟨linked 2, at_ (linked 2) 0, 0, sealFlit (aBody 0 1023), aBody 0 1023, 0, rfl, ?_, ?_, ?_, ?_, ?_⟩ <;> decide +kernel

theorem witness_FlitRows_2 : ∃ (s : State) (n : Port) (bytes f : List Byte), (alive s = true) ∧ (bmlState s n.val = 2) ∧ (openFlit bytes = some f) ∧ (hdKind (flitHead f) = 1) :=
  by
    refine ⟨linked 2, 0, sealFlit (aBody 1 0), aBody 1 0, ?_, ?_, ?_, ?_⟩ <;> decide +kernel

theorem witness_FlitRows_3a : ∃ (s r : State) (n : Port) (bytes f : List Byte) (t : Stamp), (r = at_ s t) ∧ (alive r = true) ∧ (bmlState r n.val = 2) ∧ (openFlit bytes = some f) ∧ (hdKind (flitHead f) = 2) ∧ 
  let v := hdAck (flitHead f)
  let u := readHeader r n.val (flitHead f)
  ∃ k, ((getBml u n.val).nakSame = some (v, k)) ∧ ∃ t0, ((getBml u n.val).resent = some (v, t0)) ∧ (t < t0 + us) :=
  by
    refine ⟨linked 2 fun p => { p with nakSame := some (0, 1), resent := some (0, 0) }, at_ (linked 2 fun p => { p with nakSame := some (0, 1), resent := some (0, 0) }) 999, 0, sealFlit (aBody 2 0), aBody 2 0, 999, rfl, ?_, ?_, ?_, ?_, 1, ?_, 0, ?_, ?_⟩ <;> decide +kernel

theorem witness_FlitRows_3b : ∃ (s r : State) (n : Port) (bytes f : List Byte) (t : Stamp), (r = at_ s t) ∧ (alive r = true) ∧ (bmlState r n.val = 2) ∧ (openFlit bytes = some f) ∧ (hdKind (flitHead f) = 2) ∧ 
  let u := readHeader r n.val (flitHead f)
  ((getBml u n.val).nakSame = none) ∧ ((getBml u n.val).resent = none) :=
  by
    refine ⟨linked 2, at_ (linked 2) 0, 0, sealFlit (aBody 2 0), aBody 2 0, 0, rfl, ?_, ?_, ?_, ?_, ?_, ?_⟩ <;> decide +kernel

theorem witness_FlitRows_4 : ∃ (r : State) (n : Port) (bytes : List Byte), (bmlState r n.val = 2) ∧ (openFlit bytes = none) :=
  ⟨linked 2, 0, [], by
    (repeat' apply And.intro) <;> first | with_reducible rfl | decide +kernel | rfl⟩

theorem witness_HostLines_1a : ∃ (data : List Byte) (cmd : Port → BitVec 48 → BitVec 16 → Stamp → Instr) (type : Nat) (body : List Byte), ((cmd, type, body) ∈ ([(.rdS, 1, []), (.rdO, 2, []), (fun h a g t => .wrLine h a g data t, 3, data), (.drop, 4, [])] : List ((Port → BitVec 48 → BitVec 16 → Stamp → Instr) × Nat × List Byte))) ∧ ∃ (s r : State) (h : Port) (addr : BitVec 48) (tag : BitVec 16) (t : Stamp), (r = at_ s t) ∧ (alive r = true) ∧ (memHeard r h.val = (true, unIdle r)) ∧ 
  let u := meterFill (wakeAt (unIdle r) 2 t) h.val t
  let q : HostReq := ⟨h.val, type, addr.toNat / 64, tag.toNat, body, false⟩
  (reqWaits u q (getBml u h.val).waitq = true) :=
  by
    refine ⟨[], .rdS, 1, [], by simp, modBml windowed 0 fun p => { p with waitq := [⟨0, 1, 7, 0, [], false⟩] }, at_ (modBml windowed 0 fun p => { p with waitq := [⟨0, 1, 7, 0, [], false⟩] }) 0, 0, 7 * 64, 5, 0, rfl, ?_, mem_heard ?_ ?_ ?_, ?_⟩ <;> decide +kernel

theorem witness_HostLines_1b : ∃ (data : List Byte) (cmd : Port → BitVec 48 → BitVec 16 → Stamp → Instr) (type : Nat) (body : List Byte), ((cmd, type, body) ∈ ([(.rdS, 1, []), (.rdO, 2, []), (fun h a g t => .wrLine h a g data t, 3, data), (.drop, 4, [])] : List ((Port → BitVec 48 → BitVec 16 → Stamp → Instr) × Nat × List Byte))) ∧ ∃ (s r : State) (h : Port) (addr : BitVec 48) (tag : BitVec 16) (t : Stamp), (r = at_ s t) ∧ (alive r = true) ∧ (memHeard r h.val = (true, unIdle r)) ∧ 
  let u := meterFill (wakeAt (unIdle r) 2 t) h.val t
  let q : HostReq := ⟨h.val, type, addr.toNat / 64, tag.toNat, body, false⟩
  (reqWaits u q (getBml u h.val).waitq = false) :=
  by
    refine ⟨[], .rdS, 1, [], by simp, windowed, at_ (windowed) 0, 0, 7 * 64, 5, 0, rfl, ?_, mem_heard ?_ ?_ ?_, ?_⟩ <;> decide +kernel

theorem witness_HostLines_2a : ∃ (keep : Bool) (s r : State) (h : Port) (addr : BitVec 48) (tag : BitVec 16) (data : List Byte) (t : Stamp), (r = at_ s t) ∧ (alive r = true) ∧ (memHeard r h.val = (true, unIdle r)) ∧ 
  let u := unIdle r
  let line := addr.toNat / 64
  let reason := memReason u h.val line false
  (reason ≠ 0) :=
  by
    refine ⟨false, linked 2, at_ (linked 2) 0, 0, 7 * 64, 5, [], 0, rfl, ?_, mem_heard ?_ ?_ ?_, ?_⟩ <;> decide +kernel

theorem witness_HostLines_2b : ∃ (keep : Bool) (s r : State) (h : Port) (addr : BitVec 48) (tag : BitVec 16) (data : List Byte) (t : Stamp), (r = at_ s t) ∧ (alive r = true) ∧ (memHeard r h.val = (true, unIdle r)) ∧ 
  let u := unIdle r
  let line := addr.toNat / 64
  let reason := memReason u h.val line false
  (reason = 0) ∧ (holdsOwned u h.val line = false) :=
  by
    refine ⟨false, windowed, at_ (windowed) 0, 0, 7 * 64, 5, [], 0, rfl, ?_, mem_heard ?_ ?_ ?_, ?_, ?_⟩ <;> decide +kernel

theorem witness_HostLines_2c : ∃ (keep : Bool) (s r : State) (h : Port) (addr : BitVec 48) (tag : BitVec 16) (data : List Byte) (t : Stamp), (r = at_ s t) ∧ (alive r = true) ∧ (memHeard r h.val = (true, unIdle r)) ∧ 
  let u := unIdle r
  let line := addr.toNat / 64
  let reason := memReason u h.val line false
  (reason = 0) ∧ (holdsOwned u h.val line = true) :=
  by
    refine ⟨false, { windowed with dir := [(7, 128)] }, at_ ({ windowed with dir := [(7, 128)] }) 0, 0, 7 * 64, 5, [], 0, rfl, ?_, mem_heard ?_ ?_ ?_, ?_, ?_⟩ <;> decide +kernel

theorem witness_HostLines_3a : ∃ (s r : State) (h : Port) (addr : BitVec 48) (x : Recall) (t : Stamp), (r = at_ s t) ∧ (alive r = true) ∧ (memHeard r h.val = (true, unIdle r)) ∧ 
  let u := unIdle r
  let line := addr.toNat / 64
  ((getWin u h.val).recalls.find? (·.line = line) = some x) ∧ (x.kind = 0x2A) :=
  by
    refine ⟨modWin { windowed with dir := [] } 0 fun w => { w with recalls := [⟨7, 0, 0x2A, 0, false, []⟩] }, at_ (modWin { windowed with dir := [] } 0 fun w => { w with recalls := [⟨7, 0, 0x2A, 0, false, []⟩] }) 0, 0, 7 * 64, ⟨7, 0, 0x2A, 0, false, []⟩, 0, rfl, ?_, mem_heard ?_ ?_ ?_, ?_, ?_⟩ <;> decide +kernel

theorem witness_HostLines_3b : ∃ (s r : State) (h : Port) (addr : BitVec 48) (x : Recall) (t : Stamp), (r = at_ s t) ∧ (alive r = true) ∧ (memHeard r h.val = (true, unIdle r)) ∧ 
  let u := unIdle r
  let line := addr.toNat / 64
  ((getWin u h.val).recalls.find? (·.line = line) = some x) ∧ (x.kind ≠ 0x2A) ∧ (holdsOwned u h.val line = true) :=
  by
    refine ⟨modWin { windowed with dir := [(7, 128)] } 0 fun w => { w with recalls := [⟨7, 0, 0x29, 0, false, []⟩] }, at_ (modWin { windowed with dir := [(7, 128)] } 0 fun w => { w with recalls := [⟨7, 0, 0x29, 0, false, []⟩] }) 0, 0, 7 * 64, ⟨7, 0, 0x29, 0, false, []⟩, 0, rfl, ?_, mem_heard ?_ ?_ ?_, ?_, ?_, ?_⟩ <;> decide +kernel

theorem witness_HostRows_1 : ∃ (s : State) (h : Port) (addr : BitVec 32) (tag : BitVec 16), (alive s = true) ∧ (csrHeard s h.val = (true, s)) :=
  by
    refine ⟨linked 2, 0, 0, 0, ?_, csr_heard ?_ ?_⟩ <;> decide +kernel

theorem witness_HostRows_2a : ∃ (s r : State) (h : Port) (addr : BitVec 32) (v : Word) (t : Stamp), (r = at_ s t) ∧ (alive r = true) ∧ (csrHeard r h.val = (true, r)) ∧ ∃ g, (target r (.host h) addr.toNat = .reg g) ∧ (hostWrites g.name = true) :=
  by
    refine ⟨granted ⟨.RV_BOOT, 0, 0⟩, at_ (granted ⟨.RV_BOOT, 0, 0⟩) 0, 0, BitVec.ofNat 32 (regAddr ⟨.RV_BOOT, 0, 0⟩), 0, 0, rfl, ?_, csr_heard ?_ ?_, ⟨.RV_BOOT, 0, 0⟩, ?_, ?_⟩ <;> decide +kernel

theorem witness_HostRows_2b : ∃ (s r : State) (h : Port) (addr : BitVec 32) (v : Word) (t : Stamp), (r = at_ s t) ∧ (alive r = true) ∧ (csrHeard r h.val = (true, r)) ∧ ∃ g, (target r (.host h) addr.toNat = .reg g) ∧ (hostWrites g.name = false) :=
  by
    refine ⟨granted ⟨.PWR_CAP, 0, 0⟩, at_ (granted ⟨.PWR_CAP, 0, 0⟩) 0, 0, BitVec.ofNat 32 (regAddr ⟨.PWR_CAP, 0, 0⟩), 0, 0, rfl, ?_, csr_heard ?_ ?_, ⟨.PWR_CAP, 0, 0⟩, ?_, ?_⟩ <;> decide +kernel

theorem witness_HostRows_2c : ∃ (s r : State) (h : Port) (addr : BitVec 32) (v : Word) (t : Stamp), (r = at_ s t) ∧ (alive r = true) ∧ (csrHeard r h.val = (true, r)) ∧ ∃ p, (target r (.host h) addr.toNat = .refused p) :=
  by
    refine ⟨linked 2, at_ (linked 2) 0, 0, 0, 0, 0, rfl, ?_, csr_heard ?_ ?_, 0, ?_⟩ <;> decide +kernel

theorem witness_HostRows_3 : ∃ (s r : State) (n : Port) (t due : Stamp), (r = at_ s t) ∧ (alive r = true) ∧ (bmlState r n.val = 2) ∧ ((getBml r n.val).hbNext = some due) ∧ (due ≤ t) :=
  ⟨linked 2 fun p => { p with hbNext := some 9 }, at_ (linked 2 fun p => { p with hbNext := some 9 }) 9, 0, 9, 9, by
    (repeat' apply And.intro) <;> first | with_reducible rfl | decide +kernel | rfl⟩

theorem witness_HostRows_4 : ∃ (s r : State) (n : Port) (seq : BitVec 32) (t : Stamp), (r = at_ s t) ∧ (alive r = true) ∧ (bmlState r n.val = 2) :=
  ⟨linked 2, at_ (linked 2) 0, 0, 1, 0, by
    (repeat' apply And.intro) <;> first | with_reducible rfl | decide +kernel | rfl⟩

theorem witness_HostRows_5 : ∃ (s : State) (n : Port), (alive s = true) ∧ (bmlState s n.val = 2) ∧ ((getBml s n.val).hbSeen = true) ∧ (getF s ⟨.BML_LINK_STS, n.val, 0⟩ 3 3 = 0) :=
  ⟨linked 2 fun p => { p with hbSeen := true }, 0, by
    (repeat' apply And.intro) <;> first | with_reducible rfl | decide +kernel | rfl⟩

theorem witness_HostRows_6a : ∃ (s r : State) (n : Port) (ring : Fin 64) (index : BitVec 32) (t : Stamp), (r = at_ s t) ∧ (alive r = true) ∧ (csrHeard r n.val = (true, r)) ∧ (blockOpen r n.val (unitNo (4 + n.val) 2 0) = true) ∧ 
  let u := wakeAt (unIdle r) 2 r.now
  let g := getRing u n.val ring.val
  (ringOn u n.val ring.val = true) ∧ (g.wipe = []) ∧ ((getBml u n.val).gone = false) ∧ (dist32 index.toNat g.cmdProd < 2 ^ 31) ∧ (dist32 index.toNat (cmdCons u n.val ring.val) ≤ cmdSize u n.val ring.val) :=
  by
    refine ⟨ringed, at_ (ringed) 0, 0, 0, 1, 0, rfl, ?_, csr_heard ?_ ?_, ?_, ?_, ?_, ?_, ?_, ?_⟩ <;> decide +kernel

theorem witness_HostRows_6b : ∃ (s r : State) (n : Port) (ring : Fin 64) (index : BitVec 32) (t : Stamp), (r = at_ s t) ∧ (alive r = true) ∧ (csrHeard r n.val = (true, r)) ∧ (blockOpen r n.val (unitNo (4 + n.val) 2 0) = true) ∧ 
  let u := wakeAt (unIdle r) 2 r.now
  let g := getRing u n.val ring.val
  (ringOn u n.val ring.val = true) ∧ (g.wipe = []) ∧ ((getBml u n.val).gone = false) ∧ (dist32 index.toNat g.cplCons < 2 ^ 31) ∧ (dist32 index.toNat (cplProd u n.val ring.val) = 0 ∨ 2 ^ 31 ≤ dist32 index.toNat (cplProd u n.val ring.val)) :=
  by
    refine ⟨ringed, at_ (ringed) 0, 0, 0, 0, 0, rfl, ?_, csr_heard ?_ ?_, ?_, ?_, ?_, ?_, ?_, ?_⟩ <;> decide +kernel

end Sys2Proof.Tests
end

