-- ==== Sys2Proof/Tests/Witness11.lean ====
section
/-! SUPPORT. Witnesses: for each clause of a statement, a state and operands that meet its hypotheses. -/

namespace Sys2Proof.Tests

open Sys2Proof.Machine

set_option Elab.async false

/-- An empty image being staged, with the bytes that its owner gave. -/
def staging (image : List Byte) : Loading := ⟨1, 4, 0, 0, image, none, none⟩
def loading_ (image : List Byte) : State :=
  setF { ticking with img := { ticking.img with loading := some (staging image) } } rImgSts 47 45 2

/-- An owner record whose key is the point of the scalar 1, signed with the nonce 1. -/
def claiming : State :=
  ([0x4f5a4645, 0x47422ce1f2d1176b, 0xf240a463e5e6bcf8, 0xa033eb2d817d0377, 0x96c298d84539a1f4, 0x9b7f1afee242e34f,
    0x169e0f7c4aebe78e, 0xce5e316b5733ce2b, 0xf551bf376840b6cb, 0x47422ce1f2d1176b, 0xf240a463e5e6bcf8, 0xa033eb2d817d0377,
    0x96c298d84539a1f4, 0x8c1a2c4c4b2be060, 0x5acababfcc5ac0c1, 0xb4fa14ed20cd22e9, 0x819634d7a2f0cdfb] : List Nat).zipIdx.foldl
    (fun s e => setReg s ⟨.RV_CLAIM_DATA, 0, e.2⟩ (BitVec.ofNat 64 e.1)) ticking

theorem image_read {x : Access2 × State × List Byte} {bs : List Byte} (h : x.1 = .ok) (hb : x.2.2 = bs) : x = (.ok, x.2.1, bs) := by
  rw [← h, ← hb]

theorem attest_fits {s : State} (h : (s.polders.filter fun e => e.2.st ≠ .absent).length = 0) (hl : 4496 ≤ imgLen s) : attestLen s ≤ imgLen s := by
  have h2 : Config.certBytes < 4097 := Config.certLen.isLt
  simp only [attestLen, h]
  omega

theorem some_pair {α β : Type} {o : Option (α × β)} (h : o.isSome = true) : o = some ((o.get h).1, (o.get h).2) := by
  simp

theorem witness_ImageOperations_1a : ∃ (s r : State) (by_ : Requester) (t : Stamp), (r = at_ s t) ∧ (alive r = true) ∧ ((∀ h, by_ = .host h → blockOpen r h.val imgUnit = true)) ∧ (imgBusy r = true) :=
  ⟨loading_ [], at_ (loading_ []) 0, .reeve, 0, rfl, by decide +kernel, (fun _ h => by cases h), by decide +kernel⟩

theorem witness_ImageOperations_1b : ∃ (s r : State) (by_ : Requester) (t : Stamp), (r = at_ s t) ∧ (alive r = true) ∧ ((∀ h, by_ = .host h → blockOpen r h.val imgUnit = true)) ∧ 
  let n := reqNum by_
  (imgBusy r = false) ∧ (bootState r ≠ 2) ∧ (r.tick.running = true) ∧ (inRequester r n (imgSrc r) (imgLen r) = true) :=
  by
    refine ⟨ticking, at_ (ticking) 0, .reeve, 0, rfl, ?_, (fun _ h => by cases h), ?_, ?_, ?_, ?_⟩ <;> decide +kernel

theorem witness_ImageOperations_1c : ∃ (s r : State) (by_ : Requester) (t : Stamp), (r = at_ s t) ∧ (alive r = true) ∧ ((∀ h, by_ = .host h → blockOpen r h.val imgUnit = true)) ∧ 
  let p := imgArgPolder r
  (imgBusy r = false) ∧ (bootState r ≠ 2) ∧ (p ≠ 0) ∧ ((getPolder r p).st = .active) :=
  by
    refine ⟨setF (polder ticking 3 []) ⟨.IMG_ARG, 0, 0⟩ 63 52 3, at_ (setF (polder ticking 3 []) ⟨.IMG_ARG, 0, 0⟩ 63 52 3) 0, .reeve, 0, rfl, ?_, (fun _ h => by cases h), ?_, ?_, ?_, ?_⟩ <;> decide +kernel

theorem witness_ImageOperations_1d : ∃ (s r : State) (by_ : Requester) (t : Stamp), (r = at_ s t) ∧ (alive r = true) ∧ ((∀ h, by_ = .host h → blockOpen r h.val imgUnit = true)) ∧ (imgBusy r = false) ∧ (bootState r ≠ 2) ∧ (r.tick.running = true) :=
  by
    refine ⟨ticking, at_ (ticking) 0, .reeve, 0, rfl, ?_, (fun _ h => by cases h), ?_, ?_, ?_⟩ <;> decide +kernel

theorem witness_ImageOperations_2a : ∃ (s r : State) (t : Stamp) (l : Loading), (r = at_ s t) ∧ (alive r = true) ∧ (r.img.loading = some l) ∧ (imgState r = 2) ∧ ∃ u bs, (imgRead r l.addr l.image.length = (.ok, u, bs)) ∧ (imgHash bs ≠ imgHash l.image) :=
  by
    refine ⟨loading_ (leBytes 16 0 ++ leBytes 129 129), at_ (loading_ (leBytes 16 0 ++ leBytes 129 129)) 0, 0, staging (leBytes 16 0 ++ leBytes 129 129), rfl, ?_, rfl, ?_, _, _, image_read ?_ rfl, ?_⟩ <;> decide +kernel

theorem witness_ImageOperations_2b : ∃ (s r : State) (t : Stamp) (l : Loading), (r = at_ s t) ∧ (alive r = true) ∧ (r.img.loading = some l) ∧ (imgState r = 2) ∧ ∃ u bs v q, (imgRead r l.addr l.image.length = (.ok, u, bs)) ∧ (imgHash bs = imgHash l.image) ∧ (stageImage u l.image t = some (v, q)) :=
  by
    refine ⟨loading_ [], at_ (loading_ []) 0, 0, staging [], rfl, ?_, rfl, ?_, _, [], _, _, image_read ?_ ?_, rfl, some_pair ?_⟩ <;> decide +kernel

theorem witness_ImageOperations_3a : ∃ (s : State) (by_ : Requester), (alive s = true) ∧ ((∀ h, by_ = .host h → blockOpen s h.val imgUnit = true)) ∧ (imgBusy s = false) ∧ 
  let n := reqNum by_
  (inRequester s n (imgSrc s) 32 = true) ∧ (inRequester s n (imgSrc s + 64) (imgLen s) = true) ∧ (attestLen s ≤ imgLen s) :=
  by
    refine ⟨setF ticking ⟨.IMG_LEN, 0, 0⟩ 40 0 10000000, .reeve, ?_, (fun _ h => by cases h), ?_, ?_, ?_, attest_fits ?_ ?_⟩ <;> decide +kernel

theorem witness_ImageOperations_3b : ∃ (s : State) (by_ : Requester), (alive s = true) ∧ ((∀ h, by_ = .host h → blockOpen s h.val imgUnit = true)) ∧ (imgBusy s = false) ∧ 
  let n := reqNum by_
  (inRequester s n (imgSrc s) (imgLen s) = true) :=
  by
    refine ⟨ticking, .reeve, ?_, (fun _ h => by cases h), ?_, ?_⟩ <;> decide +kernel

theorem witness_ImageOperations_4a : ∃ (s : State) (by_ : Requester), (alive s = true) ∧ ((∀ h, by_ = .host h → blockOpen s h.val rvUnit = true)) ∧ 
  let bs := claimBytes s
  (bs.take 4 ≠ ascii "EFZO") :=
  ⟨ticking, .reeve, by decide +kernel, (fun _ h => by cases h), by decide +kernel⟩

theorem witness_ImageOperations_4b : ∃ (s : State) (by_ : Requester), (alive s = true) ∧ ((∀ h, by_ = .host h → blockOpen s h.val rvUnit = true)) ∧ 
  let bs := claimBytes s
  let key := (bs.drop 8).take 64
  (by_ = .i3c) ∧ (s.img.owner = List.replicate 32 0) ∧ (bs.take 4 = ascii "EFZO") ∧ (bs.drop 136 = List.replicate 56 0) ∧ (ecdsaVerify (sha256 (bs.take 72)) (key.take 32) (key.drop 32) ((bs.drop 72).take 32) ((bs.drop 104).take 32) = true) :=
  by
    refine ⟨claiming, .i3c, ?_, (fun _ h => by cases h), rfl, ?_, ?_, ?_, ?_⟩ <;> decide +kernel

theorem witness_BootAndLinks_1a : ∃ (s : State) (puf stacksUp flash : Bool) (bad : List (Fin 8 × Fin 8)) (ms : BitVec 32), (pwrState s = 4) ∧ ∃ src t, (s.pwr.wake = some (src, t)) ∧ (s.pwr.vinOk = true) ∧ (s.pwr.vauxOk = true) ∧ (s.pwr.resetN = true) :=
  by
    refine ⟨modPwr (setF State.reset rPwrState 2 0 4) (fun p => { p with wake := some (1, 0), vinOk := true, vauxOk := true, resetN := true }),
      true, true, true, [], 0, ?_, 1, 0, ?_, ?_, ?_, ?_⟩ <;> decide +kernel

theorem witness_BootAndLinks_1b : ∃ (s : State) (puf stacksUp flash : Bool) (bad : List (Fin 8 × Fin 8)) (ms : BitVec 32), (pwrState s = 4) ∧ (s.pwr.wake = none) ∧ (s.pwr.railsUp = false) :=
  ⟨modPwr (setF State.reset rPwrState 2 0 4) (fun p => { p with railsUp := false }), true, true, true, [], 0, by
    (repeat' apply And.intro) <;> first | with_reducible rfl | decide +kernel | rfl⟩

theorem witness_BootAndLinks_2 : ∃ (s : State) (stacksUp flash : Bool) (bad : List (Fin 8 × Fin 8)) (ms : BitVec 32), (pwrState s ≠ 4) ∧ (alive s = true) ∧ (getReg s rRvBoot = 0) :=
  ⟨ticking, true, true, [], 0, by
    (repeat' apply And.intro) <;> first | with_reducible rfl | decide +kernel | rfl⟩

theorem witness_BootAndLinks_3 : ∃ (s : State) (a b : Fin 8), (alive s = true) ∧ (linkEnds a.val b.val = true) ∧ (linkState s a.val b.val < 2) ∧ (bootState s = 0) ∧ 
  let u := failLink s a.val b.val
  (bootState u = 0) ∧ (lostMembers s (setReg u ⟨.RV_BOOT, 0, 0⟩ (BitVec.ofNat 64 (8 * 2 ^ 56 + 3 * 2 ^ 54 + 4 * 2 ^ 50))) = []) :=
  ⟨ticking, 0, 4, by
    (repeat' apply And.intro) <;> first | with_reducible rfl | decide +kernel | rfl⟩

theorem witness_BootAndLinks_4 : ∃ (s : State) (a b : Fin 8), (alive s = true) ∧ (linkEnds a.val b.val = true) :=
  ⟨ticking, 0, 4, by
    (repeat' apply And.intro) <;> first | with_reducible rfl | decide +kernel | rfl⟩

theorem witness_BootAndLinks_5a : ∃ (s : State) (a b : Fin 8) (v : Word), (alive s = true) ∧ (linkEnds a.val b.val = true) ∧ (getF s ⟨.MEM_LINK_CFG, a.val, b.val⟩ 16 16 = 0) ∧ (fld v 16 16 = 0) :=
  ⟨ticking, 0, 4, 0, by
    (repeat' apply And.intro) <;> first | with_reducible rfl | decide +kernel | rfl⟩

theorem witness_BootAndLinks_5b : ∃ (s : State) (a b : Fin 8) (v : Word), (alive s = true) ∧ (linkEnds a.val b.val = true) ∧ (getF s ⟨.MEM_LINK_CFG, a.val, b.val⟩ 16 16 = 0) ∧ (fld v 16 16 = 1) :=
  ⟨ticking, 0, 4, 65536, by
    (repeat' apply And.intro) <;> first | with_reducible rfl | decide +kernel | rfl⟩

theorem witness_BootAndLinks_6 : ∃ (s : State) (st : Stack) (p : Pc), (alive s = true) :=
  ⟨ticking, 0, 0, by
    (repeat' apply And.intro) <;> first | with_reducible rfl | decide +kernel | rfl⟩

theorem witness_BootAndLinks_7 : ∃ (s : State) (d : Crest) (st : Stack), (alive s = true) :=
  ⟨ticking, 0, 0, by
    (repeat' apply And.intro) <;> first | with_reducible rfl | decide +kernel | rfl⟩

theorem witness_RegisterRows_1a : ∃ (s r : State) (addr : BitVec 32) (v : Word) (t : Stamp) (g : Reg), (r = at_ s t) ∧ (alive r = true) ∧ (target r .reeve addr.toNat = .reg g) ∧ (g.name ∈ ([.PLD_CTX, .WLK_SLOT_CFG, .MEM_BSU_CFG, .TEN_SEQ_SEL, .NUM_SCL_SEL, .EMB_LOAD_SEL, .MEM_MOV_ADDR, .FSS_LIST_ADDR, .MEM_SCRUB_CFG, .PWR_CAP, .PWR_WAKE, .IMG_SRC, .IMG_LEN, .IMG_ARG, .RV_CLAIM_DATA] : List RegName)) ∧ 
  let w := written g.name (if sealed_ r g then [.RW] else [.RW, .RWL]) (getReg r g) v
  (inRanges g.name w = true) :=
  by
    refine ⟨ticking, at_ (ticking) 0, BitVec.ofNat 32 (regAddr ⟨.IMG_SRC, 0, 0⟩), 64, 0, ⟨.IMG_SRC, 0, 0⟩, rfl, ?_, ?_, ?_, ?_⟩ <;> decide +kernel

theorem witness_RegisterRows_1b : ∃ (s r : State) (addr : BitVec 32) (v : Word) (t : Stamp) (g : Reg), (r = at_ s t) ∧ (alive r = true) ∧ (target r .reeve addr.toNat = .reg g) ∧ (g.name ∈ ([.PLD_CTX, .WLK_SLOT_CFG, .MEM_BSU_CFG, .TEN_SEQ_SEL, .NUM_SCL_SEL, .EMB_LOAD_SEL, .MEM_MOV_ADDR, .FSS_LIST_ADDR, .MEM_SCRUB_CFG, .PWR_CAP, .PWR_WAKE, .IMG_SRC, .IMG_LEN, .IMG_ARG, .RV_CLAIM_DATA] : List RegName)) ∧ 
  let w := written g.name (if sealed_ r g then [.RW] else [.RW, .RWL]) (getReg r g) v
  (inRanges g.name w = false) :=
  by
    refine ⟨ticking, at_ (ticking) 0, BitVec.ofNat 32 (regAddr ⟨.IMG_SRC, 0, 0⟩), 63, 0, ⟨.IMG_SRC, 0, 0⟩, rfl, ?_, ?_, ?_, ?_⟩ <;> decide +kernel

theorem witness_RegisterRows_2 : ∃ (s : State) (by_ : Requester) (addr : Word) (isWrite : Bool), (alive s = true) ∧ (place addr.toNat = .unmapped) :=
  ⟨ticking, .reeve, 0x7FFFFFFFFFFFFFFF, true, by
    (repeat' apply And.intro) <;> first | with_reducible rfl | decide +kernel | rfl⟩

theorem witness_RegisterRows_3a : ∃ (s k : State) (h : Port) (unit : Nat), (blockOpen s h.val unit = true) :=
  ⟨setPolder ticking 1 { Polder.none with st := .active, grants := [(2, 5)] }, ticking, 2, 5, by
    (repeat' apply And.intro) <;> first | with_reducible rfl | decide +kernel | rfl⟩

theorem witness_RegisterRows_3b : ∃ (s k : State) (h : Port) (unit : Nat), (blockOpen s h.val unit = false) :=
  ⟨ticking, ticking, 2, 5, by
    (repeat' apply And.intro) <;> first | with_reducible rfl | decide +kernel | rfl⟩

end Sys2Proof.Tests
end

