-- ==== Sys2Proof/Tests/Witness12.lean ====
section
/-! SUPPORT. Witnesses: for each clause of a statement, a state and operands that meet its hypotheses. -/

namespace Sys2Proof.Tests

open Sys2Proof.Machine

set_option Elab.async false

/-- The part in a power state, with a change of its power fields. -/
def powered (st : Nat) (f : Power → Power := id) : State := modPwr (setF ticking rPwrState 2 0 st) f

/-- An entry into SLEEP from boundary `b`. -/
def entering (b : Nat) : Entering := ⟨2, false, b, none⟩

/-- A reading in which nothing is hot but one junction. -/
def sensors (tj : Int) : Sensors := ⟨[tj], [40], 12000, 10, 100, 100⟩

theorem witness_PowerStates_1a : ∃ (cmd : Requester → Stamp → Instr) (target : Nat), ((cmd, target) ∈ ([(.enterSleep, 2), (.enterDeep, 3), (.enterOff, 4)] : List ((Requester → Stamp → Instr) × Nat))) ∧ ∃ (s r : State) (by_ : Requester) (t : Stamp), (r = at_ s t) ∧ (alive r = true) ∧ ((∀ h, by_ = .host h → blockOpen r h.val pwrUnit = true)) ∧ (r.pwr.entry = none) ∧ (pwrState r < target) ∧ (r.tick.running = true) :=
  by
    refine ⟨.enterSleep, 2, by simp, ticking, at_ (ticking) 0, .reeve, 0, rfl, ?_, (fun _ h => by cases h), ?_, ?_, ?_⟩ <;> decide +kernel

theorem witness_PowerStates_1b : ∃ (cmd : Requester → Stamp → Instr) (target : Nat), ((cmd, target) ∈ ([(.enterSleep, 2), (.enterDeep, 3), (.enterOff, 4)] : List ((Requester → Stamp → Instr) × Nat))) ∧ ∃ (s r : State) (by_ : Requester) (t : Stamp), (r = at_ s t) ∧ (alive r = true) ∧ ((∀ h, by_ = .host h → blockOpen r h.val pwrUnit = true)) ∧ (target ≤ pwrState r) :=
  ⟨.enterSleep, 2, by simp, powered 2, at_ (powered 2) 0, .reeve, 0, rfl, by decide +kernel, (fun _ h => by cases h), by decide +kernel⟩

theorem witness_PowerStates_2 : ∃ (s : State) (e : Entering), (alive s = true) ∧ (s.pwr.entry = some e) ∧ (e.abort = false) ∧ (e.b ≤ s.tick.tick) ∧ (firstRefuser (entryCkpt s e) e.target e.b false = none) :=
  ⟨powered 0 fun p => { p with entry := some (entering 5) }, entering 5, by
    (repeat' apply And.intro) <;> first | with_reducible rfl | decide +kernel | rfl⟩

theorem witness_PowerStates_3 : ∃ (s : State) (e : Entering) (reason kind who : Nat), (alive s = true) ∧ (s.pwr.entry = some e) ∧ (e.abort = false) ∧ (e.b + drainTicks s ≤ s.tick.tick) ∧ (firstRefuser s e.target e.b false = some (reason, kind, who)) :=
  by
    refine ⟨modPwr (setF (live (polder ticking 1 [stage 0 none .fanout 0]) 3 1 0 (.conn 5)) ⟨.PWR_CTL, 0, 0⟩ 23 16 1) (fun p => { p with entry := some (entering 4) }), entering 4, 3, 1, 1, ?_, rfl, ?_, ?_, ?_⟩ <;> decide +kernel

theorem witness_PowerStates_4 : ∃ (s r : State) (t : Stamp), (r = at_ s t) ∧ (alive r = true) ∧ (pwrState r ≠ 4) :=
  ⟨ticking, at_ (ticking) 0, 0, by
    (repeat' apply And.intro) <;> first | with_reducible rfl | decide +kernel | rfl⟩

theorem witness_PowerStates_5a : ∃ (s r : State) (src : Fin 7) (t : Stamp), (r = at_ s t) ∧ (sourceIn src.val (pwrState r) = true) ∧ (getF r rPwrWake src.val src.val = 1) ∧ (r.pwr.vauxOk = true) ∧ (pwrState r = 4) ∧ (r.pwr.vinOk = false) :=
  ⟨setF (powered 4 fun p => { p with vinOk := false }) rPwrWake 0 0 1, at_ (setF (powered 4 fun p => { p with vinOk := false }) rPwrWake 0 0 1) 0, 0, 0, by
    (repeat' apply And.intro) <;> first | with_reducible rfl | decide +kernel | rfl⟩

theorem witness_PowerStates_5b : ∃ (s r : State) (src : Fin 7) (t : Stamp), (r = at_ s t) ∧ (sourceIn src.val (pwrState r) = true) ∧ (getF r rPwrWake src.val src.val = 1) ∧ (r.pwr.vauxOk = true) ∧ (pwrState r ≠ 4 ∨ r.pwr.vinOk = true) ∧ (r.pwr.wake = none) :=
  by
    refine ⟨setF (powered 2) rPwrWake 0 0 1, at_ (setF (powered 2) rPwrWake 0 0 1) 0, 0, 0, rfl, ?_, ?_, ?_, .inl ?_, rfl⟩ <;> decide +kernel

theorem witness_PowerStates_6 : ∃ (s r : State) (t0 t : Stamp), (r = at_ s t) ∧ (pwrState r = 4) ∧ (r.pwr.vinOk = true) ∧ (r.pwr.vauxOk = true) ∧ (r.pwr.wake = none) ∧ (getF r rPwrWake 0 0 = 1) :=
  ⟨setF (powered 4) rPwrWake 0 0 1, at_ (setF (powered 4) rPwrWake 0 0 1) 0, 0, 0, by
    (repeat' apply And.intro) <;> first | with_reducible rfl | decide +kernel | rfl⟩

theorem witness_PowerStates_7 : ∃ (s r : State) (t : Stamp), (r = at_ s t) ∧ (alive r = true) ∧ (getF r rPwrWake 63 32 ≠ 0) ∧ (r.pwr.entered + getF r rPwrWake 63 32 * 1000 * us ≤ t) :=
  ⟨setF (powered 2) rPwrWake 63 32 1, at_ (setF (powered 2) rPwrWake 63 32 1) 1000000, 1000000, by
    (repeat' apply And.intro) <;> first | with_reducible rfl | decide +kernel | rfl⟩

theorem witness_PowerStates_8 : ∃ (s : State) (src : Nat) (t : Stamp), (alive s = true) ∧ (s.pwr.wake = some (src, t)) ∧ (pwrState s = 2) ∧ (s.tick.running = true) ∧ (t + 10 * us ≤ s.tick.base) :=
  ⟨modTick (powered 2 fun p => { p with wake := some (1, 0) }) fun u => { u with base := 10000 }, 1, 0, by
    (repeat' apply And.intro) <;> first | with_reducible rfl | decide +kernel | rfl⟩

theorem witness_PowerStates_9 : ∃ (s r : State) (t : Stamp), (r = at_ s t) ∧ (alive r = true) ∧ (pwrState r = 3) ∧ (r.pwr.wake.isSome = true) ∧ (r.img.sched = none) ∧ 
  let a := setPower (noteWake r) 0
  (getF a ⟨.FSS_CFG, 0, 0⟩ 0 0 = 0) ∧ 
  let b := (List.range 4).foldl (fun s n => if fld (getPort s n).kept 37 36 = 0 then s else doPortMode s n (getPort s n).kept) a
  (b.img.sched = none) :=
  ⟨powered 3 fun p => { p with wake := some (1, 0) }, at_ (powered 3 fun p => { p with wake := some (1, 0) }) 0, 0, by
    (repeat' apply And.intro) <;> first | with_reducible rfl | decide +kernel | rfl⟩

theorem witness_OperatingPoints_1a : ∃ (s : State) (by_ : Requester) (target : Fin 4), (alive s = true) ∧ ((∀ h, by_ = .host h → blockOpen s h.val pwrUnit = true)) ∧ (opFloor s < target.val) :=
  ⟨setF ticking rPwrOp 5 4 1, .reeve, 2, by decide +kernel, (fun _ h => by cases h), by decide +kernel⟩

theorem witness_OperatingPoints_1b : ∃ (s : State) (by_ : Requester) (target : Fin 4), (alive s = true) ∧ ((∀ h, by_ = .host h → blockOpen s h.val pwrUnit = true)) ∧ (target.val ≤ opFloor s) ∧ (s.pwr.goal = opWanted s) ∧ (pwrState s = 0) ∧ 
  let u := setF s rPwrOp 1 0 target.val
  (pwrState u = 0) :=
  by
    refine ⟨modPwr ticking fun p => { p with goal := opWanted ticking }, .reeve, 0, ?_, (fun _ h => nomatch h), ?_, ?_, ?_, ?_⟩ <;> decide +kernel

theorem witness_OperatingPoints_2 : ∃ (s r : State) (t : Stamp), (r = at_ s t) ∧ (alive r = true) ∧ (r.tick.running = false ∨ inBerm r t = true) :=
  ⟨modTick ticking fun u => { u with running := false }, at_ (modTick ticking fun u => { u with running := false }) 0, 0, rfl, by decide +kernel, .inl rfl⟩

theorem witness_OperatingPoints_3a : ∃ (s r : State) (m : Sensors) (t : Stamp), (r = at_ s t) ∧ (r.pwr.railsUp = true) ∧ (m.iin ≤ 70) ∧ 
  let tj := maxInt m.tj
  let ts := maxInt m.ts
  (tj ≤ 105) ∧ (ts ≤ 95) :=
  ⟨ticking, at_ (ticking) 0, sensors 50, 0, by
    (repeat' apply And.intro) <;> first | with_reducible rfl | decide +kernel | rfl⟩

theorem witness_OperatingPoints_3b : ∃ (s r : State) (m : Sensors) (t : Stamp), (r = at_ s t) ∧ (r.pwr.railsUp = true) ∧ (m.iin ≤ 70) ∧ 
  let tj := maxInt m.tj
  let ts := maxInt m.ts
  (115 < tj ∨ 105 < ts) :=
  by
    refine ⟨ticking, at_ (ticking) 0, sensors 116, 0, rfl, ?_, ?_, .inl ?_⟩ <;> decide +kernel

theorem witness_OperatingPoints_4 : ∃ (s r : State) (t a : Stamp), (r = at_ s t) ∧ (alive r = true) ∧ (r.pwr.emergAt = some a) ∧ (r.pwr.emergOn = false) ∧ (a + 1000 * us ≤ t) :=
  ⟨powered 0 fun p => { p with emergAt := some 0, emergOn := false }, at_ (powered 0 fun p => { p with emergAt := some 0, emergOn := false }) 1000000, 1000000, 0, by
    (repeat' apply And.intro) <;> first | with_reducible rfl | decide +kernel | rfl⟩

theorem witness_OperatingPoints_5 : ∃ (s r : State) (t : Stamp), (r = at_ s t) ∧ (alive r = true) ∧ (r.pwr.stepAt = none) ∧ (pwrState r = 0) ∧ (r.pwr.hot = true) ∧ (r.pwr.goal < opFloor r) :=
  ⟨setF (powered 0 fun p => { p with hot := true, stepAt := none, goal := 0 }) rPwrOp 5 4 3, at_ (setF (powered 0 fun p => { p with hot := true, stepAt := none, goal := 0 }) rPwrOp 5 4 3) 0, 0, by
    (repeat' apply And.intro) <;> first | with_reducible rfl | decide +kernel | rfl⟩

theorem witness_OperatingPoints_6a : ∃ (s r : State) (t : Stamp), (r = at_ s t) ∧ (pwrState r ≠ 4) ∧ ∃ (cause : FatalCause), (cause ≠ .thermal) ∧ (cause ≠ .current) :=
  ⟨ticking, at_ (ticking) 0, 0, rfl, by decide +kernel, .supply, by simp, by simp⟩

theorem witness_SupplyAndPins_1 : ∃ (s r : State) (t0 t : Stamp), (r = at_ s t) ∧ (t0 + 10 * us ≤ t) :=
  ⟨ticking, at_ (ticking) 10000, 0, 10000, by
    (repeat' apply And.intro) <;> first | with_reducible rfl | decide +kernel | rfl⟩

theorem witness_SupplyAndPins_3 : ∃ (s : State) (autoon : Bool) (a : Fin 4), (s.pwr.vauxOk = false) :=
  ⟨powered 4 fun p => { p with vauxOk := false }, true, 0, by
    (repeat' apply And.intro) <;> first | with_reducible rfl | decide +kernel | rfl⟩

theorem witness_SupplyAndPins_4 : ∃ (s r : State) (t0 t : Stamp), (r = at_ s t) ∧ (t0 + 100 * us ≤ t) ∧ (pwrState r = 4) :=
  ⟨powered 4, at_ (powered 4) 100000, 0, 100000, by
    (repeat' apply And.intro) <;> first | with_reducible rfl | decide +kernel | rfl⟩

theorem witness_SupplyAndPins_5 : ∃ s : State, (pwrState s ≠ 4) :=
  ⟨ticking, by
    (repeat' apply And.intro) <;> first | with_reducible rfl | decide +kernel | rfl⟩

theorem witness_SupplyAndPins_6 : ∃ (s r : State) (t0 t : Stamp), (r = at_ s t) ∧ (t0 + 10 * us ≤ t) :=
  ⟨ticking, at_ (ticking) 10000, 0, 10000, by
    (repeat' apply And.intro) <;> first | with_reducible rfl | decide +kernel | rfl⟩

theorem witness_SupplyAndPins_7a : ∃ s : State, (pwrState s = 4) ∧ ∃ src, (s.pwr.woken = some src) :=
  ⟨powered 4 fun p => { p with woken := some 0 }, by decide +kernel, 0, by
    (repeat' apply And.intro) <;> first | with_reducible rfl | decide +kernel | rfl⟩

theorem witness_SupplyAndPins_7b : ∃ s : State, (pwrState s = 4) ∧ (s.pwr.woken = none) :=
  ⟨powered 4, by
    (repeat' apply And.intro) <;> first | with_reducible rfl | decide +kernel | rfl⟩

end Sys2Proof.Tests
end

