-- ==== Sys2Proof/Tests/Witness13.lean ====
section
/-! SUPPORT. Witnesses: for each clause of a statement, a state and operands that meet its hypotheses. -/

namespace Sys2Proof.Tests

open Sys2Proof.Machine

set_option Elab.async false

/-- OFF with its rails down and one waiting command. -/
def offWith (c : Instr) : State := { modPwr (setF State.reset rPwrState 2 0 4) (fun p => { p with railsUp := false }) with pending := [c] }

theorem witness_OffStays_1 : ∃ (s u : State), (Off s) ∧ (step s = .next u) :=
  ⟨offWith .resetNRise, _, ⟨by decide +kernel, by decide +kernel, by simp [offWith, isBoot, modPwr, setF, setReg, State.reset]⟩, rfl⟩

theorem witness_OffStays_2 : ∃ (s : State) (c : Instr), (alive s = false) ∧ (supplyEvent c = false) :=
  ⟨offWith .resetNRise, .stateEntry, by
    (repeat' apply And.intro) <;> first | with_reducible rfl | decide +kernel | rfl⟩

theorem witness_CrestSleeps_1 : ∃ (s : State) (c : Instr), (2 ≤ pwrState s) ∧ (crestWork c = true) :=
  ⟨setF ticking rPwrState 2 0 2, .merge 0 0 1, by
    (repeat' apply And.intro) <;> first | with_reducible rfl | decide +kernel | rfl⟩

theorem witness_LineStriping_2 : ∃ o : Nat, (o < rowBytes) :=
  ⟨rowBytes - 1, by
    (repeat' apply And.intro) <;> first | with_reducible rfl | decide +kernel | rfl⟩

theorem witness_LineStriping_3 : ∃ p f : Nat, (p < 64) ∧ (f < frameBytes) :=
  ⟨63, frameBytes - 1, by
    (repeat' apply And.intro) <;> first | with_reducible rfl | decide +kernel | rfl⟩

theorem witness_LineStriping_4 : ∃ hi p : Nat, (hi < 6144) ∧ (p < 64) :=
  ⟨6143, 63, by
    (repeat' apply And.intro) <;> first | with_reducible rfl | decide +kernel | rfl⟩

theorem witness_MemoryBytes_1a : ∃ (m : List Host.Cell) (a : Nat) (bs : List Byte), ∃ x, (x < a ∨ a + bs.length ≤ x) :=
  ⟨[], 4, [1, 2], 3, by
    (repeat' apply And.intro) <;> first | with_reducible rfl | decide +kernel | rfl⟩

theorem witness_MemoryBytes_1b : ∃ (m : List Host.Cell) (a : Nat) (bs : List Byte), (Memory.wf m = true) :=
  ⟨[(0, 1)], 0, [0], by
    (repeat' apply And.intro) <;> first | with_reducible rfl | decide +kernel | rfl⟩

end Sys2Proof.Tests
end

