-- ==== Sys2Proof/Proofs/StepStart.lean ====
section
/-! PROOFS. STEP_START (R42): the two things the step of a free unit can do, start or wait, and the condition that decides between them. -/

namespace Sys2Proof.Proofs

open Sys2Proof.Machine Sys2Proof.Laws

theorem exec_stepStart (unit : BitVec 16) (bound : Nat) (t : Stamp) (s : State) :
    exec (.stepStart unit bound t) s = .next (onPart (at_ s t) fun s => doStepStart s unit bound t) := rfl

/-- R42's condition, while ticks run and the next boundary is at `n`. -/
theorem fits_iff {s : State} {n : Stamp} (hrun : s.tick.running = true) (hbeg : s.tick.begun = true) (hnext : s.tick.nextAt = some n)
    (t : Stamp) (bound : Nat) : fits s t bound = true ↔ t + bound ≤ n - bermNs s := by
  simp [fits, bermStart, hrun, hbeg, hnext]

section
variable {s : State} {unit : BitVec 16} {bound : Nat} {t : Stamp}

/-- A step that fits, of a free unit, runs until its bound and the free value drawn for it (R45). -/
theorem doStepStart_starts (hrun : s.tick.running = true) (hbeg : s.tick.begun = true)
    (hfit : fits s t bound = true) (hfree : unitBusy s unit t = false) :
    doStepStart s unit bound t = { s with
      fresh := s.fresh + 1
      tick := { s.tick with
        steps := s.tick.steps.filter (fun x => decide (t < x.endAt)) ++ [⟨unit, t + bound + Config.stepLate s.fresh, false⟩] } } := by
  simp [doStepStart, drawFresh, modTick, hrun, hbeg, hfit, hfree]

/-- A step that does not fit joins those that wait for a boundary. -/
theorem doStepStart_waits (hrun : s.tick.running = true) (hbeg : s.tick.begun = true) (hfit : fits s t bound = false) :
    doStepStart s unit bound t = { s with tick := { s.tick with waiting := s.tick.waiting ++ [⟨unit, bound⟩] } } := by
  simp [doStepStart, modTick, hrun, hbeg, hfit]

end

/-- Settles O6: the part acts, and whether the step fits before the berm decides between a start and a wait. -/
theorem stepStart : Obligations.StepStart := by
  unfold Obligations.StepStart
  intro s unit bound t n halive hrun hbeg hnext hfree
  have hfits : fits (at_ s t) t bound = true ↔ t + bound ≤ n - bermNs s := fits_iff hrun hbeg hnext t bound
  rw [exec_stepStart, onPart_alive ((alive_at s t).trans halive)]
  refine congrArg Host.Outcome.next ?_
  by_cases h : t + bound ≤ n - bermNs s
  · have hstart := doStepStart_starts (s := at_ s t) hrun hbeg (hfits.2 h) hfree
    exact hstart.trans (if_pos h).symm
  · have hwait := doStepStart_waits (s := at_ s t) (unit := unit) hrun hbeg (Bool.eq_false_iff.2 (mt hfits.1 h))
    exact hwait.trans (if_neg h).symm

end Sys2Proof.Proofs
end

