-- ==== Sys2Proof/Proofs/LineStriping.lean ====
section
/-! PROOFS. The striping of a row (R265, R266): where each map sends a byte written by its group, its place in the group and its place in the granule. XOR with a fixed hash is its own inverse on the 64 places of a group, so the maps undo each other. -/

namespace Sys2Proof.Proofs

open Sys2Proof.Machine

theorem bits_lt (w hi lo : Nat) : bits w hi lo < 2 ^ (hi + 1 - lo) :=
  Nat.mod_lt _ (Nat.two_pow_pos _)

/-- The hash of R265 names one of the 64 pseudo-channels. -/
theorem stripeHash_lt (x : Nat) : stripeHash x < 64 := by
  have hlow : Nat.xor (bits x 5 0) (bits x 11 6) < 2 ^ 6 := Nat.xor_lt_two_pow (bits_lt x 5 0) (bits_lt x 11 6)
  have hbit : bits x 12 12 < 2 := bits_lt x 12 12
  exact Nat.xor_lt_two_pow (n := 6) hlow (by omega)

theorem xor_stripeHash_lt {p : Nat} (hp : p < 64) (hi : Nat) : Nat.xor p (stripeHash hi) < 64 :=
  Nat.xor_lt_two_pow (n := 6) hp (stripeHash_lt hi)

theorem xor_stripeHash_cancel (p hi : Nat) : Nat.xor (Nat.xor p (stripeHash hi)) (stripeHash hi) = p :=
  Nat.xor_xor_cancel_right p (stripeHash hi)

/-- R265 for byte `b` of granule `lo` of group `hi`. -/
theorem stripeTo_granule (hi : Nat) {lo b : Nat} (hlo : lo < 64) (hb : b < 256) :
    stripeTo ((hi * 64 + lo) * 256 + b) = (Nat.xor lo (stripeHash hi), hi * 256 + b) := by
  have hgranule : ((hi * 64 + lo) * 256 + b) / 256 = hi * 64 + lo := by omega
  have hgroup : (hi * 64 + lo) / 64 = hi := by omega
  have hplace : (hi * 64 + lo) % 64 = lo := by omega
  have hbyte : ((hi * 64 + lo) * 256 + b) % 256 = b := by omega
  simp only [stripeTo, hgranule, hgroup, hplace, hbyte]

/-- R266 for byte `b` of the granule that group `hi` has in a pseudo-channel. -/
theorem stripeFrom_granule (p hi : Nat) {b : Nat} (hb : b < 256) :
    stripeFrom p (hi * 256 + b) = (hi * 64 + Nat.xor p (stripeHash hi)) * 256 + b := by
  have hgroup : (hi * 256 + b) / 256 = hi := by omega
  have hbyte : (hi * 256 + b) % 256 = b := by omega
  simp only [stripeFrom, hgroup, hbyte]

theorem stripeFrom_stripeTo (o : Nat) : stripeFrom (stripeTo o).1 (stripeTo o).2 = o := by
  have hb : o % 256 < 256 := Nat.mod_lt _ (by decide)
  calc stripeFrom (stripeTo o).1 (stripeTo o).2
      = (o / 256 / 64 * 64 + Nat.xor (Nat.xor (o / 256 % 64) (stripeHash (o / 256 / 64))) (stripeHash (o / 256 / 64))) * 256 + o % 256 :=
        stripeFrom_granule _ (o / 256 / 64) hb
    _ = o := by rw [xor_stripeHash_cancel, Nat.div_add_mod', Nat.div_add_mod']

theorem stripeTo_stripeFrom {p : Nat} (hp : p < 64) (f : Nat) : stripeTo (stripeFrom p f) = (p, f) := by
  have hb : f % 256 < 256 := Nat.mod_lt _ (by decide)
  calc stripeTo (stripeFrom p f)
      = (Nat.xor (Nat.xor p (stripeHash (f / 256))) (stripeHash (f / 256)), f / 256 * 256 + f % 256) :=
        stripeTo_granule (f / 256) (xor_stripeHash_lt hp _) hb
    _ = (p, f) := by rw [xor_stripeHash_cancel, Nat.div_add_mod']

theorem stripeTo_lt {o : Nat} (ho : o < rowBytes) : (stripeTo o).1 < 64 ∧ (stripeTo o).2 < frameBytes := by
  constructor
  · exact xor_stripeHash_lt (Nat.mod_lt _ (by decide)) _
  · show o / 256 / 64 * 256 + o % 256 < frameBytes
    unfold rowBytes at ho
    unfold frameBytes
    omega

theorem stripeFrom_lt {p f : Nat} (hp : p < 64) (hf : f < frameBytes) : stripeFrom p f < rowBytes := by
  have hplace := xor_stripeHash_lt hp (f / 256)
  show (f / 256 * 64 + Nat.xor p (stripeHash (f / 256))) * 256 + f % 256 < rowBytes
  unfold frameBytes at hf
  unfold rowBytes
  omega

/-- The one granule that a group has in a pseudo-channel. -/
theorem stripeTo_fst_eq_iff (g p : Nat) :
    (stripeTo (g * 256)).1 = p ↔ g = g / 64 * 64 + Nat.xor p (stripeHash (g / 64)) := by
  have hto : (stripeTo (g * 256)).1 = Nat.xor (g % 64) (stripeHash (g / 64)) := by
    simp [stripeTo]
  rw [hto]
  constructor
  · rintro rfl
    rw [xor_stripeHash_cancel, Nat.div_add_mod']
  · intro hg
    have hplace : g % 64 = Nat.xor p (stripeHash (g / 64)) := by omega
    rw [hplace, xor_stripeHash_cancel]

/-- Each group fills every pseudo-channel once (R266). -/
theorem existsUnique_granule {p : Nat} (hp : p < 64) (hi : Nat) :
    ∃ g, g / 64 = hi ∧ (stripeTo (g * 256)).1 = p ∧ ∀ g', g' / 64 = hi → (stripeTo (g' * 256)).1 = p → g' = g := by
  have hplace := xor_stripeHash_lt hp hi
  have hgroup : (hi * 64 + Nat.xor p (stripeHash hi)) / 64 = hi := by omega
  refine ⟨hi * 64 + Nat.xor p (stripeHash hi), hgroup, ?_, ?_⟩
  · rw [stripeTo_fst_eq_iff, hgroup]
  · rintro g' rfl hg'
    exact (stripeTo_fst_eq_iff g' p).1 hg'

/-- Settles O59: the two maps undo each other since XOR with the hash of a group does, and each lands in its range. -/
theorem lineStriping : Obligations.LineStriping := by
  unfold Obligations.LineStriping
  refine ⟨fun _ _ => rfl, fun o ho => ?_, fun p f hp hf => ?_, fun hi p _ hp => existsUnique_granule hp hi⟩
  · obtain ⟨hchannel, hframe⟩ := stripeTo_lt ho
    exact ⟨hchannel, hframe, stripeFrom_stripeTo o⟩
  · exact ⟨stripeFrom_lt hp hf, stripeTo_stripeFrom hp f⟩

end Sys2Proof.Proofs
end

