-- ==== Sys2Proof/Proofs/PowerGates.lean ====
section
/-! PROOFS. Which commands a part without rails, or asleep, takes (R34, R521): every command but those of the supplies and pins runs under
`onPart` or `onCrest`, so a dead part only notes the command's stamp; the crest dies' work runs under `onCrest`. -/

namespace Sys2Proof.Proofs

open Sys2Proof.Machine Sys2Proof.Laws

/-- `r` is `s` with the time moved by a command's stamp, if it has one. -/
def Stamped (s r : State) : Prop := r = s ∨ ∃ t, r = at_ s t

theorem Stamped.refl (s : State) : Stamped s s := .inl rfl

theorem Stamped.at_ (s : State) (t : Stamp) : Stamped s (at_ s t) := .inr ⟨t, rfl⟩

theorem Stamped.eq_now {s r : State} (h : Stamped s r) : ∃ t, s.now ≤ t ∧ r = { s with now := t } := by
  rcases h with rfl | ⟨t, rfl⟩
  · exact ⟨r.now, Nat.le_refl _, rfl⟩
  · exact ⟨max s.now t, Nat.le_max_left _ _, rfl⟩

theorem Stamped.alive {s r : State} (h : Stamped s r) : alive r = alive s := by
  rcases h with rfl | ⟨t, rfl⟩ <;> rfl

theorem Stamped.pwrState {s r : State} (h : Stamped s r) : pwrState r = pwrState s := by
  rcases h with rfl | ⟨t, rfl⟩ <;> rfl

/-- Each arm of the crest dies' work is the one guard `onCrest`. -/
theorem exec_of_crestWork {c : Instr} (h : crestWork c = true) (s : State) :
    ∃ r f, Stamped s r ∧ exec c s = .next (onCrest r f) := by
  cases c <;> first
    | exact absurd h Bool.noConfusion
    | refine ⟨_, _, ?_, rfl⟩; first | exact .at_ _ _ | exact .refl _

/-- Each arm of a command that is none of the supplies and pins is one of the two guards. -/
theorem exec_of_not_supplyEvent {c : Instr} (h : supplyEvent c = false) (s : State) :
    ∃ r f, Stamped s r ∧ (exec c s = .next (onPart r f) ∨ exec c s = .next (onCrest r f)) := by
  cases c <;> first
    | exact absurd h Bool.noConfusion
    | refine ⟨_, _, ?_, .inl rfl⟩; first | exact .at_ _ _ | exact .refl _
    | refine ⟨_, _, ?_, .inr rfl⟩; first | exact .at_ _ _ | exact .refl _

/-- A part without rails, or held in reset, only notes the stamp of such a command. -/
theorem exec_dead {s : State} {c : Instr} (hdead : alive s = false) (hc : supplyEvent c = false) :
    ∃ t, s.now ≤ t ∧ exec c s = .next { s with now := t } := by
  obtain ⟨r, f, hr, hexec⟩ := exec_of_not_supplyEvent hc s
  have hdead' : alive r = false := hr.alive.trans hdead
  obtain ⟨t, ht, rfl⟩ := hr.eq_now
  refine ⟨t, ht, ?_⟩
  rcases hexec with h | h
  · rw [h, onPart_dead hdead']
  · rw [h, onCrest_asleep (.inl hdead')]

/-- Settles O57: crest work is guarded by `onCrest`, which leaves a part in SLEEP or deeper as it is. -/
theorem crestSleeps : Obligations.CrestSleeps := by
  unfold Obligations.CrestSleeps
  intro s c hsleep hwork
  obtain ⟨r, f, hr, hexec⟩ := exec_of_crestWork hwork s
  have hasleep : 2 ≤ pwrState r := hr.pwrState ▸ hsleep
  obtain ⟨t, ht, rfl⟩ := hr.eq_now
  exact ⟨t, ht, by rw [hexec, onCrest_asleep (.inr hasleep)]⟩

end Sys2Proof.Proofs
end

