-- ==== Sys2Proof/Proofs/OffStays.lean ====
section
/-! PROOFS. OFF is left only by a boot (R514, R521): what each supply, pin and wake event keeps of a part that is OFF. -/

namespace Sys2Proof.Proofs

open Sys2Proof.Machine Sys2Proof.Laws

/-- What OFF keeps from `s` to `u`: the power state with the rails as they are, the commands that wait, and what R521 says outlives it. -/
structure OffFrame (s u : State) : Prop where
  power : pwrState u = pwrState s
  rails : u.pwr.railsUp = s.pwr.railsUp
  pending : u.pending = s.pending
  nor : u.img.nor = s.img.nor
  fss : u.fss = s.fss
  mem : u.mem = s.mem
  ctxs : u.ctxs = s.ctxs
  polders : u.polders = s.polders

namespace OffFrame

variable {s u v : State}

theorem refl (s : State) : OffFrame s s := ⟨rfl, rfl, rfl, rfl, rfl, rfl, rfl, rfl⟩

theorem trans (h : OffFrame s u) (h' : OffFrame u v) : OffFrame s v where
  power := h'.power.trans h.power
  rails := h'.rails.trans h.rails
  pending := h'.pending.trans h.pending
  nor := h'.nor.trans h.nor
  fss := h'.fss.trans h.fss
  mem := h'.mem.trans h.mem
  ctxs := h'.ctxs.trans h.ctxs
  polders := h'.polders.trans h.polders

theorem now (s : State) (t : Stamp) : OffFrame s { s with now := t } := ⟨rfl, rfl, rfl, rfl, rfl, rfl, rfl, rfl⟩

theorem at_ (s : State) (t : Stamp) : OffFrame s (at_ s t) := now s _

theorem modPwr (s : State) {f : Power → Power} (hf : (f s.pwr).railsUp = s.pwr.railsUp) : OffFrame s (modPwr s f) :=
  ⟨rfl, hf, rfl, rfl, rfl, rfl, rfl, rfl⟩

theorem setReg (s : State) {r : Reg} (v : Word) (hr : regAddr rPwrState ≠ regAddr r) : OffFrame s (setReg s r v) :=
  ⟨congrArg (fld · 2 0) (getReg_setReg_of_ne s v hr), rfl, rfl, rfl, rfl, rfl, rfl, rfl⟩

end OffFrame

theorem wake_regAddr_ne : regAddr rPwrState ≠ regAddr rPwrWake := by decide

theorem fatal_regAddr_ne : regAddr rPwrState ≠ regAddr ⟨.PWR_FATAL, 0, 0⟩ := by decide

section
variable {s : State}

/-- In OFF a wake event is at most noted; the operating point stays. -/
theorem wakeAt_offFrame (hoff : pwrState s = 4) (src : Nat) (t : Stamp) : OffFrame s (wakeAt s src t) := by
  have hnotSleep : (4 : Nat) ≠ 2 := by decide
  simp only [wakeAt, hoff, hnotSleep, if_false]
  split
  · exact .refl s
  · split
    · exact (OffFrame.setReg s _ wake_regAddr_ne).trans (.modPwr _ rfl)
    · split
      · exact .refl s
      · exact .modPwr s rfl

theorem doFatal_off (hoff : pwrState s = 4) (cause : Nat) : doFatal s cause = s := by simp [doFatal, hoff]

theorem doPartReset_offFrame (hoff : pwrState s = 4) (t0 t : Stamp) : OffFrame s (doPartReset s t0 t) := by
  simp only [doPartReset, hoff, if_true]
  split
  · exact .refl s
  · exact .modPwr s rfl

/-- With the rails down the rise of RESET_N trains no link. -/
theorem doResetRise_offFrame (hrails : s.pwr.railsUp = false) : OffFrame s (doResetRise s) := by
  have hdown : (modPwr s fun p => { p with resetN := true }).pwr.railsUp = false := hrails
  have hrise : OffFrame s (modPwr s fun p => { p with resetN := true }) := .modPwr s rfl
  simp only [doResetRise, hdown, Bool.false_eq_true, if_false]
  split
  · exact hrise.trans (.modPwr _ rfl)
  · exact hrise

theorem doVauxRise_offFrame (autoon : Bool) (addr : Nat) : OffFrame s (doVauxRise s autoon addr) := by
  unfold doVauxRise
  split
  · exact .refl s
  · exact (OffFrame.setReg s _ fatal_regAddr_ne).trans (.modPwr _ rfl)

theorem doVinFault_offFrame (hoff : pwrState s = 4) (t0 t : Stamp) : OffFrame s (doVinFault s t0 t) := by
  unfold doVinFault
  split
  · exact .refl s
  · have hdown : OffFrame s (modPwr s fun p => { p with vinOk := false, wake := none }) := .modPwr s rfl
    rw [doFatal_off (hdown.power.trans hoff)]
    exact hdown

theorem doVinCollapse_offFrame (hoff : pwrState s = 4) : OffFrame s (doVinCollapse s) := by
  have hdown : OffFrame s (modPwr s fun p => { p with vinOk := false, wake := none }) := .modPwr s rfl
  simp only [doVinCollapse, hdown.power.trans hoff, if_true]
  exact hdown

theorem doVauxLoss_offFrame (hoff : pwrState s = 4) (t0 t : Stamp) : OffFrame s (doVauxLoss s t0 t) := by
  simp only [doVauxLoss, hoff, if_true]
  split
  · exact .refl s
  · exact ((OffFrame.setReg s _ wake_regAddr_ne).trans (.setReg _ _ fatal_regAddr_ne)).trans (.modPwr _ rfl)

theorem doVinOk_offFrame (t : Stamp) : OffFrame s (doVinOk s t) := by
  have hin : OffFrame s (modPwr s fun p => { p with vinOk := true }) := .modPwr s rfl
  simp only [doVinOk]
  split
  · exact hin
  · split
    · exact hin.trans (.modPwr _ rfl)
    · split
      · exact hin.trans (.modPwr _ rfl)
      · exact hin

theorem doJtag_offFrame (op : JtagOp) : OffFrame s (doJtag s op) := by
  unfold doJtag
  exact .modPwr s rfl

/-- No supply, pin or wake event but a boot takes a part out of OFF. -/
theorem exec_supplyEvent_offFrame {c : Instr} (hoff : pwrState s = 4) (hrails : s.pwr.railsUp = false) (hboot : isBoot c = false)
    (hc : supplyEvent c = true) : ∃ u, exec c s = .next u ∧ OffFrame s u := by
  cases c with
  | partBoot pufOk badLinks stacksOk flashOk ms => exact absurd hboot Bool.noConfusion
  | wakeEvent src t => exact ⟨_, rfl, (OffFrame.at_ s t).trans (wakeAt_offFrame (s := at_ s t) hoff _ _)⟩
  | wakeN t0 t =>
    refine ⟨_, rfl, ?_⟩
    split
    · exact (OffFrame.at_ s t).trans (wakeAt_offFrame (s := at_ s t) hoff _ _)
    · exact .at_ s t
  | wake by_ t =>
    refine ⟨_, rfl, ?_⟩
    rw [if_pos hoff]
    split
    · exact (OffFrame.at_ s t).trans (wakeAt_offFrame (s := at_ s t) hoff _ _)
    · exact .at_ s t
  | sensorSample m t =>
    refine ⟨_, rfl, ?_⟩
    rw [hrails]
    exact .at_ s t
  | fatal cause t => exact ⟨_, congrArg Host.Outcome.next (doFatal_off (s := at_ s t) hoff _), .at_ s t⟩
  | watchdogExpiry t => exact ⟨_, congrArg Host.Outcome.next (doFatal_off (s := at_ s t) hoff _), .at_ s t⟩
  | partReset t0 t => exact ⟨_, rfl, (OffFrame.at_ s t).trans (doPartReset_offFrame (s := at_ s t) hoff _ _)⟩
  | resetNRise => exact ⟨_, rfl, doResetRise_offFrame hrails⟩
  | vauxRise autoon addr => exact ⟨_, rfl, doVauxRise_offFrame _ _⟩
  | vinFault t0 t => exact ⟨_, rfl, (OffFrame.at_ s t).trans (doVinFault_offFrame (s := at_ s t) hoff _ _)⟩
  | vinCollapse => exact ⟨_, rfl, doVinCollapse_offFrame hoff⟩
  | vauxLoss t0 t => exact ⟨_, rfl, (OffFrame.at_ s t).trans (doVauxLoss_offFrame (s := at_ s t) hoff _ _)⟩
  | vinEntersRange => exact ⟨_, rfl, doVinOk_offFrame _⟩
  | jtagInstruction op => exact ⟨_, rfl, doJtag_offFrame op⟩
  | _ => exact absurd hc Bool.noConfusion

theorem exec_offFrame {c : Instr} (hoff : pwrState s = 4) (hrails : s.pwr.railsUp = false) (hboot : isBoot c = false) :
    ∃ u, exec c s = .next u ∧ OffFrame s u := by
  cases hc : supplyEvent c with
  | true => exact exec_supplyEvent_offFrame hoff hrails hboot hc
  | false =>
    obtain ⟨t, -, hexec⟩ := exec_dead (s := s) (by simp [alive, hrails]) hc
    exact ⟨_, hexec, .now s t⟩

/-- What is kept is OFF again. -/
theorem OffFrame.off {u : State} (h : OffFrame s u) (hs : Off s) : Off u := by
  obtain ⟨hoff, hrails, hboots⟩ := hs
  exact ⟨h.power.trans hoff, h.rails.trans hrails, h.pending ▸ hboots⟩

end

/-- Settles O55: by the command in front of the queue; none waiting, the part idles. -/
theorem offStays : Obligations.OffStays := by
  unfold Obligations.OffStays
  refine ⟨fun s u hs hstep => ?_, fun s c => exec_dead⟩
  obtain ⟨hoff, hrails, hboots⟩ := hs
  cases hp : s.pending with
  | nil =>
    simp only [step, hp, Host.Outcome.next.injEq] at hstep
    subst hstep
    exact ⟨⟨hoff, hrails, hboots⟩, rfl, rfl, rfl, rfl, rfl⟩
  | cons c rest =>
    have hrest : Off { s with pending := rest } := ⟨hoff, hrails, fun c' hc' => hboots c' (by simp [hp, hc'])⟩
    obtain ⟨w, hexec, hframe⟩ := exec_offFrame (s := { s with pending := rest }) hoff hrails (hboots c (by simp [hp]))
    have hu : w = u := by simpa [step, hp, hexec] using hstep
    subst hu
    exact ⟨hframe.off hrest, hframe.nor, hframe.fss, hframe.mem, hframe.ctxs, hframe.polders⟩

end Sys2Proof.Proofs
end

