-- ==== Sys2Proof/Proofs/Guards.lean ====
section
/-! PROOFS. A command whose arm is guarded: what it does where the guard is met. -/

namespace Sys2Proof.Proofs

open Sys2Proof.Machine Sys2Proof.Laws

variable {c : Instr} {s r u : State} {f : State → State}

theorem exec_part (h : exec c s = .next (onPart r f)) (halive : alive r = true) (hf : f r = u) : exec c s = .next u := by
  rw [h, onPart_alive halive, hf]

theorem exec_crest (h : exec c s = .next (onCrest r f)) (halive : alive r = true) (hawake : pwrState r < 2) (hf : f r = u) :
    exec c s = .next u := by
  rw [h, onCrest_awake halive hawake, hf]

end Sys2Proof.Proofs
end

