-- ==== Sys2Proof/Proofs/TickStartStop.lean ====
section
/-! PROOFS. TICK_START, TICK_STOP and the judgement of a stop (R68, R72): one equation for each outcome. -/

namespace Sys2Proof.Proofs

open Sys2Proof.Machine Sys2Proof.Laws

theorem tckCfg_regAddr_ne : regAddr (rTck .TCK_CFG) ≠ regAddr rTckCtl := by decide

section
variable {s : State} {n : Nat} {t : Stamp}

/-- Writing the start number leaves TCK_CFG alone. -/
@[simp] theorem tckCfg_setF_ctl (s : State) (hi lo v : Nat) : tckCfg (setF s rTckCtl hi lo v) = tckCfg s :=
  getReg_setF_of_ne s hi lo v tckCfg_regAddr_ne

@[simp] theorem alignMode_setF_ctl (s : State) (hi lo v : Nat) : alignMode (setF s rTckCtl hi lo v) = alignMode s := by
  simp [alignMode]

@[simp] theorem periodNs_setF_ctl (s : State) (hi lo v : Nat) : periodNs (setF s rTckCtl hi lo v) = periodNs s := by
  simp [periodNs]

/-- The tick unit that a start leaves, where it is taken (R68). -/
def startedTick (s : State) (n : Nat) (t : Stamp) : TickUnit :=
  { s.tick with
    running := true, begun := false, nextNum := if alignMode s = 1 then s.tick.epoch + 1 else n
    nextAt := if alignMode s = 0 then some (t + periodNs s) else none, bermAt := none, frozen := false, late := [], lateTab := []
    stopReq := false, align := if alignMode s = 0 then .free else .acquiring, bad := 0, good := 0, hasRef := false, edge := none
    ref := none, ptpOff := none, ptpFresh := false, mismatch := false, unjudged := false, stretch := none, steps := [], waiting := [] }

/-- A start while the tick runs writes its number only. -/
theorem doTickStart_running (hrun : s.tick.running = true) : doTickStart s n t = setF s rTckCtl 63 16 n := by
  simp [doTickStart, hrun]

/-- A start out of range, or not past the last published epoch outside PTP mode, is refused. -/
theorem doTickStart_refused (hrun : s.tick.running = false)
    (hbad : inRanges .TCK_CFG (tckCfg s) = false ∨ (alignMode s ≠ 1 ∧ n ≤ s.tick.epoch)) :
    doTickStart s n t = setBit (setF s rTckCtl 63 16 n) rTckSts 6 := by
  rcases hbad with hbad | ⟨hmode, hle⟩
  · simp [doTickStart, hrun, hbad]
  · simp [doTickStart, hrun, hmode, hle]

/-- A sound start sets the tick unit going and changes no register but TCK_CTL. -/
theorem doTickStart_starts (hrun : s.tick.running = false) (hcfg : inRanges .TCK_CFG (tckCfg s) = true)
    (hnum : alignMode s ≠ 1 → s.tick.epoch < n) :
    doTickStart s n t = { setF s rTckCtl 63 16 n with tick := startedTick s n t } := by
  have hok : ¬((!inRanges .TCK_CFG (tckCfg s) || (alignMode s ≠ 1 && decide (n ≤ s.tick.epoch))) = true) := by simpa [hcfg] using hnum
  simp only [doTickStart, setF_tick, hrun, tckCfg_setF_ctl, alignMode_setF_ctl, periodNs_setF_ctl, Bool.false_eq_true, if_false]
  exact if_neg hok

end

/-- What every taken start leaves, whatever the mode. -/
theorem exec_tickStart_starts {s : State} {n : BitVec 48} {t : Stamp} (halive : alive s = true) (hrun : s.tick.running = false)
    (hcfg : inRanges .TCK_CFG (tckCfg s) = true) (hnum : alignMode s ≠ 1 → s.tick.epoch < n.toNat) :
    ∃ u, exec (.tickStart n t) s = .next u ∧ u.tick = startedTick s n.toNat t ∧ u.mem = s.mem
      ∧ ∀ r, regAddr r ≠ regAddr rTckCtl → getReg u r = getReg s r := by
  have hstart := doTickStart_starts (s := at_ s t) (n := n.toNat) (t := t) hrun hcfg hnum
  exact ⟨_, exec_part rfl halive hstart, rfl, rfl, fun r hr => getReg_setF_of_ne s _ _ _ hr⟩

section
variable {s : State}

theorem judgeStop_halts (hstop : s.tick.stopReq = true) (hpolders : s.polders.all (fun e => e.1 = 0 || e.2.st = .absent) = true)
    (hload : s.img.loading = none) (hplan : s.img.planning = none) : judgeStop s = haltTick s := by
  simp [judgeStop, hstop, hpolders, hload, hplan]

/-- A loaded polder, a LOAD or a PLAN keeps the tick running. -/
theorem judgeStop_refused (hstop : s.tick.stopReq = true)
    (hbusy : s.polders.all (fun e => e.1 = 0 || e.2.st = .absent) = false ∨ s.img.loading.isSome = true ∨ s.img.planning.isSome = true) :
    judgeStop s = modTick (setBit s rTckSts 7) fun u => { u with stopReq := false } := by
  rcases hbusy with h | h | h
  · simp [judgeStop, hstop, h]
  · simp [judgeStop, hstop, Option.isNone_eq_false_iff.2 h]
  · simp [judgeStop, hstop, Option.isNone_eq_false_iff.2 h]

end

/-- Settles O3: each outcome of a start, a stop and its judgement is one equation of the tick unit. -/
theorem tickStartStop : Obligations.TickStartStop := by
  unfold Obligations.TickStartStop
  refine ⟨?_, ?_, ?_, ?_, ?_, ?_, ?_, ?_, ?_⟩
  · intro s n t halive hrun hcfg hmode hnum
    obtain ⟨u, hexec, htick, hmem, hregs⟩ := exec_tickStart_starts (t := t) halive hrun hcfg fun _ => hnum
    refine ⟨u, hexec, ?_, ?_, ?_, ?_, ?_, ?_, ?_, hmem, hregs⟩ <;> simp [htick, startedTick, hmode]
  · intro s n t halive hrun hcfg hmode hnum
    obtain ⟨u, hexec, htick, hmem, hregs⟩ := exec_tickStart_starts (t := t) halive hrun hcfg fun _ => hnum
    refine ⟨u, hexec, ?_, ?_, ?_, ?_, ?_, ?_, ?_, hmem, hregs⟩ <;> simp [htick, startedTick, hmode]
  · intro s n t halive hrun hcfg hmode
    obtain ⟨u, hexec, htick, hmem, hregs⟩ := exec_tickStart_starts (n := n) (t := t) halive hrun hcfg fun h => absurd hmode h
    refine ⟨u, hexec, ?_, ?_, ?_, ?_, ?_, ?_, hmem, hregs⟩ <;> simp [htick, startedTick, hmode]
  · intro s halive hrun
    exact exec_part rfl halive (if_pos hrun)
  · intro s halive hrun
    exact exec_part rfl halive (if_neg (by simp [hrun]))
  · intro s n t halive hrun
    exact exec_part rfl halive (doTickStart_running (s := at_ s t) hrun)
  · intro s n t halive hrun hbad
    exact exec_part rfl halive (doTickStart_refused (s := at_ s t) hrun hbad)
  · intro s hstop hpolders hload hplan
    exact ⟨judgeStop_halts hstop hpolders hload hplan, rfl⟩
  · intro s hstop hbusy
    exact judgeStop_refused hstop hbusy

end Sys2Proof.Proofs
end

