-- ==== Sys2Proof/Proofs/Boundary.lean ====
section
/-! PROOFS. The boundary of a tick (R46): the berm notice, the freeze and the order of its actions. -/

namespace Sys2Proof.Proofs

open Sys2Proof.Machine Sys2Proof.Laws

theorem ite_not_bool (b : Bool) (x y : State) : (if (!b) = true then x else y) = if b = true then y else x := by
  cases b <;> rfl

/-- Publication at boundary `e`, after action 1's reports and counters. -/
def publishAt (s : State) (b : Stamp) (e : Nat) : State :=
  publishShardMap (publishAll (modTick (tickOut (turnCounts (refillAll (measure s b) b)) b) fun u => { u with epoch := e }) e) e

/-- The aborts and reclamation with a power entry, plans and the judgement of a stop. -/
def reclaimAt (x : State × Bool) : State :=
  let s4 := action4 (action3 x.1 x.2)
  judgeStop (writePlans (doPlanAccept (if x.2 then enterState s4 (x.1.pwr.entry.elim 0 (·.target)) else drainStep s4)))

/-- Activation, admissions and the start of steps, unless the tick stopped. -/
def startAt (s : State) (b : Stamp) : State :=
  if s.tick.running then action56 (doSleepExit (becomeReady (doActivate s))) b else s

section
variable {s : State} {b : Stamp}

theorem periodNs_at (s : State) (t : Stamp) : periodNs (at_ s t) = periodNs s := rfl

/-- A berm that was noticed is not noticed again. -/
theorem doBerm_of_noticed (hnoticed : s.tick.bermAt.isSome = true) : doBerm s = s := by
  unfold doBerm
  split
  · exact if_pos (.inr (.inr hnoticed))
  · rfl

/-- A frozen boundary is not frozen again. -/
theorem doFreeze_of_frozen (hfrozen : s.tick.frozen = true) (late tabs : List (Nat × Nat)) : doFreeze s late tabs = s := by
  unfold doFreeze
  split
  · exact if_pos (.inr (.inr hfrozen))
  · rfl

/-- The notice fixes the sluice's view of the LIVE contexts, and lets plans and a switch be seen. -/
theorem doBerm_notices (hrun : s.tick.running = true) (hbeg : s.tick.begun = true) (hnone : s.tick.bermAt = none) (hnext : s.tick.nextAt = some b) :
    let r := at_ s (b - bermNs s)
    doBerm s = switchOp (seePlans
      { r with tick := { r.tick with bermAt := some r.now }
               sluice := { r.sluice with bermLive := (r.ctxs.filter fun e => e.2.st = .live).map (·.1) } }) r.now := by
  simp only [doBerm, hnext, hrun, hbeg, hnone]
  rfl

/-- The freeze moves on the groups of every collection and table that it names. -/
theorem doFreeze_freezes (hrun : s.tick.running = true) (hbeg : s.tick.begun = true) (hnoticed : s.tick.bermAt.isSome = true)
    (hfrozen : s.tick.frozen = false) (hnext : s.tick.nextAt = some b) (late tabs : List (Nat × Nat)) :
    let r := at_ s (b - us)
    let late' := oneEach r.colls late
    let tabs' := oneEach r.tables tabs
    let f := late'.foldl (fun s x => moveGroups s x.1 s.tick.nextNum x.2) { r with tick := { r.tick with frozen := true, late := late', lateTab := tabs' } }
    doFreeze s late tabs = tabs'.foldl (fun s x => deferTab s.tick.nextNum s x.1 x.2) f := by
  simp only [doFreeze, hnext, hrun, hbeg, hfrozen, doBerm_of_noticed hnoticed]
  rfl

/-- A boundary whose notice and freeze are done: unloads, reports, counters and overruns, and then the rest of its actions. -/
theorem doBoundary_actions (hrun : s.tick.running = true) (hbeg : s.tick.begun = true) (hnoticed : s.tick.bermAt.isSome = true)
    (hfrozen : s.tick.frozen = true) (hnext : s.tick.nextAt = some b) :
    let s0 := modTick (at_ s b) fun u => { u with
      tick := s.tick.nextNum, base := b, begun := true, nextNum := s.tick.nextNum + 1, nextAt := some (b + periodNs s),
      bermAt := none, frozen := false, late := [], lateTab := [] }
    let s1 := countOverruns (takeReports (latchCounters ((poldersIn s0 .active).foldl doDraining s0))) b s.tick.tick
    doBoundary s = startAt (reclaimAt (abortCheck (publishAt s1 b s.tick.nextNum))) b := by
  intro s0 s1
  have hstart : doFreeze (doBerm s) [] [] = s := by rw [doBerm_of_noticed hnoticed, doFreeze_of_frozen hfrozen]
  have hgoes : ¬((!s.tick.running) = true) := by simp [hrun]
  unfold doBoundary
  rw [hnext]
  refine (if_neg hgoes).trans ?_
  rw [hstart]
  simp only [at_tick, periodNs_at, hbeg, if_true, s1, s0, publishAt]
  generalize abortCheck _ = x
  exact ite_not_bool _ _ _

end

/-- Settles O4: both rows run the boundary, whose notice and freeze are done. -/
theorem boundaryOrder : Obligations.BoundaryOrder := by
  unfold Obligations.BoundaryOrder
  intro s b halive hrun hbeg hnoticed hfrozen hnext r s0 s1 s2 s3 s4 s5 s6 s7
  have hs3 : s3 = abortCheck (publishAt s1 b s.tick.nextNum) := rfl
  have hs7 : startAt (reclaimAt s3) b = s7 := by clear_value s3; rfl
  have hactions : doBoundary s = s7 := by
    rw [← hs7, hs3]
    exact doBoundary_actions hrun hbeg hnoticed hfrozen hnext
  clear_value s7
  refine ⟨exec_part rfl halive (congrArg settle hactions), fun hstop => exec_part rfl halive (congrArg settle ?_)⟩
  exact (if_pos hstop).trans hactions

/-- Settles O5: the notice and the freeze each have one outcome where none was given before. -/
theorem bermAndFreeze : Obligations.BermAndFreeze := by
  unfold Obligations.BermAndFreeze
  refine ⟨?_, ?_⟩
  · rintro s r b halive hrun hbeg hnone hnext rfl
    exact exec_part rfl halive (doBerm_notices hrun hbeg hnone hnext)
  · rintro s r b late tabs halive hrun hbeg hnoticed hfrozen hnext rfl
    exact exec_part rfl halive (doFreeze_freezes hrun hbeg hnoticed hfrozen hnext late tabs)

end Sys2Proof.Proofs
end

