-- ==== Sys2Proof/Proofs/Alignment.lean ====
section
/-! PROOFS. The references of the timebase (R60 to R65, R420): what an edge, a missing edge, a realignment and a PTP message do. -/

namespace Sys2Proof.Proofs

open Sys2Proof.Machine Sys2Proof.Laws

section
variable {s : State} {t : Stamp}

/-- The first edge after a PIN start is the first boundary. -/
theorem doTickIn_first (hmode : alignMode s = 2) (hrun : s.tick.running = true) (hbeg : s.tick.begun = false) (hnext : s.tick.nextAt = none) :
    doTickIn s t = { s with tick := { s.tick with edge := some t, ref := some t, nextAt := some t } } := by
  simp [doTickIn, modTick, hmode, hrun, hbeg, hnext]

/-- A boundary without its reference while ALIGNED counts as bad; the third in a row loses the alignment. -/
theorem doAlignLost_aligned (hrun : s.tick.running = true) (hunjudged : s.tick.unjudged = true) (halign : s.tick.align = .aligned) :
    doAlignLost s = if 2 ≤ s.tick.bad then
        modTick (setBit s rTckSts 3) fun u => { u with good := 0, bad := u.bad + 1, unjudged := false, align := .unaligned }
      else modTick s fun u => { u with good := 0, bad := u.bad + 1, unjudged := false } := by
  have hthird : 3 ≤ s.tick.bad + 1 ↔ 2 ≤ s.tick.bad := by omega
  by_cases hbad : 2 ≤ s.tick.bad <;>
    simp [doAlignLost, judgeLate, alignMiss, modTick, setBit, setF, setReg, getReg, hrun, hunjudged, halign, hthird, hbad]

theorem doAlignRegained_good (halign : s.tick.align = .unaligned) (hgood : 8 ≤ s.tick.good) (hmatch : s.tick.mismatch = false) :
    doAlignRegained s = { s with tick := { s.tick with align := .aligned } } := by
  simp [doAlignRegained, modTick, halign, hgood, hmatch]

/-- ACQUIRING ends once the mode's good boundaries have come. -/
theorem doAcquiringExit_good (halign : s.tick.align = .acquiring) (hbeg : s.tick.begun = true)
    (hgood : (alignMode s = 2 ∧ 8 ≤ s.tick.good) ∨ (alignMode s = 1 ∧ 1 ≤ s.tick.good)) :
    doAcquiringExit s = { s with tick := { s.tick with align := .aligned } } :=
  if_pos ⟨halign, hbeg, hgood⟩

/-- In PIN mode the planned boundary moves to the first reference boundary at or after it, unless that lies too far. -/
theorem doRealign_pin {p e : Stamp} (hmode : alignMode s = 2) (hnext : s.tick.nextAt = some p) (halign : s.tick.align = .unaligned)
    (hmatch : s.tick.mismatch = false) (href : s.tick.hasRef = true) (htol : alignTol s < s.tick.offset.natAbs) (hstretch : s.tick.stretch = none)
    (hedge : s.tick.edge = some e) :
    let tr := e + cdiv (p - e) (periodNs s) * periodNs s
    doRealign s = if s.tick.base + 2 * periodNs s < tr then setBit s rTckSts 5
      else { s with tick := { s.tick with nextNum := s.tick.tick + 1, nextAt := some tr, stretch := some (tr - p, 0) } } := by
  have hfar : ¬s.tick.offset.natAbs ≤ alignTol s := Nat.not_le.2 htol
  simp [doRealign, hnext, halign, hmatch, href, hfar, hstretch, hmode, hedge, modTick]

/-- A message on the port that TCK_CFG names gives the offset, and begins nothing while a boundary is planned. -/
theorem doPtp_planned {port ns : Nat} (hport : port = fld (tckCfg s) 36 35) (hnext : s.tick.nextAt.isSome = true) :
    doPtp s port ns t = { s with tick := { s.tick with ptpOff := some ((ns : Int) - t), ptpFresh := true } } := by
  have hplanned : s.tick.nextAt.isNone = false := by simpa using hnext
  simp [doPtp, modTick, hport, hplanned]

end

/-- Settles O7: each row has one outcome under its rule's condition. -/
theorem alignment : Obligations.Alignment := by
  unfold Obligations.Alignment
  refine ⟨?_, ?_, ?_, ?_, ?_, ?_, ?_, ?_⟩
  · intro s t halive hmode hrun hbeg hnext
    exact exec_part rfl halive (doTickIn_first (s := at_ s t) hmode hrun hbeg hnext)
  · intro s halive hrun hunjudged halign hbad
    exact exec_part rfl halive ((doAlignLost_aligned hrun hunjudged halign).trans (if_pos hbad))
  · intro s halive hrun hunjudged halign hbad
    exact exec_part rfl halive ((doAlignLost_aligned hrun hunjudged halign).trans (if_neg (Nat.not_le.2 hbad)))
  · intro s halive halign hgood hmatch
    exact exec_part rfl halive (doAlignRegained_good halign hgood hmatch)
  · intro s halive halign hbeg hmode hgood
    exact exec_part rfl halive (doAcquiringExit_good halign hbeg (.inl ⟨hmode, hgood⟩))
  · intro s halive halign hbeg hmode hgood
    exact exec_part rfl halive (doAcquiringExit_good halign hbeg (.inr ⟨hmode, hgood⟩))
  · intro s p e halive hmode hnext halign hmatch href htol hstretch hedge
    exact exec_part rfl halive (doRealign_pin hmode hnext halign hmatch href htol hstretch hedge)
  · intro s port ns t halive hport hnext
    exact exec_part rfl halive (doPtp_planned (s := at_ s t) hport hnext)

end Sys2Proof.Proofs
end

