-- ==== Sys2Proof/Proofs/Admission.lean ====
section
/-! PROOFS. A descriptor's way from its ring or connection through intake and the dike (R78, R80, R112), and the grants and wait limits of the
sluice (R118, R120). -/

namespace Sys2Proof.Proofs

open Sys2Proof.Machine Sys2Proof.Laws

section
variable {s s1 : State}

/-- An announced entry of an enabled ring with room for its completion goes through intake (R483). -/
theorem doEntryRead_takes {n ring : Nat} (t : Stamp) (hon : ringOn s n ring = true) (hhere : (getBml s n).gone = false)
    (hpath : toePath s n = true) (hann : cmdCons s n ring ≠ (getRing s n ring).cmdProd)
    (hroom : dist32 (cmdCons s n ring) ((getRing s n ring).cplCons + (getRing s n ring).freed) < cplSize s n ring)
    (hacc : hostAccess s none ((getReg s ⟨.BML_RING_CMD, n, ring⟩).toNat + 256 * (cmdCons s n ring % cmdSize s n ring)) 256 false = (.ok, s1)) :
    let i := cmdCons s n ring
    let a := (getReg s ⟨.BML_RING_CMD, n, ring⟩).toNat + 256 * (i % cmdSize s n ring)
    doEntryRead s n ring t = intake (setF s1 ⟨.BML_RING_STS, n, ring⟩ 63 32 ((i + 1) % 2 ^ 32)) (.ring n ring)
      (entryDesc (leWords 32 (rdBytes s1 a 256))) (fld (ringCfg s n ring) 63 52) t n ring i := by
  simp only [doEntryRead, hon, hhere, hpath, hann, Nat.not_le.2 hroom, hacc, Bool.not_true, Bool.false_eq_true, or_self, if_false]

/-- The front message of a REQUEST connection goes through intake where its length fits its body (R78). -/
theorem doAftDescriptor_takes {c : Nat} {bs : List Byte} (t : Stamp) (hhears : connHears s c 1 = true) (hfront : inFront s c = some bs)
    (hpath : toePath s (connPort s c) = true) :
    let d := leWords (cdiv bs.length 8) bs
    let u := takeInbox s c
    doAftDescriptor s c t = if bs.length = 64 + 8 * dBody d then intake u (.conn c) d (connPolder u c) t (connPort u c) c 0
      else refuseIntake u (.conn c) d (connPolder u c) Code.BAD_DESCRIPTOR := by
  simp only [doAftDescriptor, hhears, hfront, hpath, Bool.not_true, Bool.false_eq_true, or_self, if_false, ne_eq, ite_not]

variable {src : Src} {d : List Word} {p : Nat}

theorem intake_refuses (hloaded : (getPolder s p).st ≠ .absent) (hcode : intakeCode s src d p ≠ 0) (t : Stamp) (toe line ix : Nat) :
    intake s src d p t toe line ix = refuseIntake s src d p (intakeCode s src d p) :=
  (if_neg hloaded).trans (if_pos hcode)

theorem intake_passes (hloaded : (getPolder s p).st ≠ .absent) (hcode : intakeCode s src d p = 0) (t : Stamp) (toe line ix : Nat) :
    intake s src d p t toe line ix = dikeArrive s src d p t toe line ix :=
  (if_neg hloaded).trans (if_neg (not_not.2 hcode))

/-- The class of a descriptor, as its polder's image permits it (R112). -/
def classPermitted (s : State) (d : List Word) (p : Nat) : Prop :=
  let cls := getReg s ⟨.PLD_CFG, p, 0⟩
  if dClass d = 0 then fld cls 41 41 = 1 else if dClass d = 1 then fld cls 42 42 = 1 else fld cls 43 43 = 1

end

@[simp] theorem connPolder_takeInbox (s : State) (c c' : Nat) : connPolder (takeInbox s c) c' = connPolder s c' := rfl
@[simp] theorem connPort_takeInbox (s : State) (c c' : Nat) : connPort (takeInbox s c) c' = connPort s c' := rfl

section
variable {s r : State} {src : Src} {d : List Word} {p : Nat} {t : Stamp} {toe line ix : Nat}

theorem dikeArrive_draining (hr : r = dikeFill (unIdle s) p t) (hst : (getPolder r p).st = .draining) :
    dikeArrive s src d p t toe line ix = dikeReport (bump r ⟨.SLU_CNT2, p, 0⟩ 63 32 1) src d p Code.POLDER_UNLOADED := by
  subst hr
  exact if_pos hst

/-- A class that the polder does not permit is denied; a CANCEL has no class. -/
theorem dikeArrive_denied (hr : r = dikeFill (unIdle s) p t) (hst : (getPolder r p).st ≠ .draining) (hkind : dKind d ≠ kCancel)
    (hdenied : ¬classPermitted r d p) :
    dikeArrive s src d p t toe line ix = dikeReport (bump r ⟨.DIK_CNT1, p, 0⟩ 31 0 1) src d p Code.CLASS_DENIED := by
  subst hr
  refine (if_neg hst).trans (if_pos ⟨hkind, ?_⟩)
  simp only [Bool.not_eq_true', decide_eq_false_iff_not]
  exact hdenied

/-- A permitted descriptor takes one token and goes to the sluice, or is dropped for lack of one. -/
theorem dikeArrive_permitted (hr : r = dikeFill (unIdle s) p t) (hst : (getPolder r p).st ≠ .draining)
    (hpermitted : dKind d = kCancel ∨ classPermitted r d p) :
    dikeArrive s src d p t toe line ix =
      if getF r ⟨.DIK_CFG, p, 0⟩ 63 32 = 0 ∨ (getDike r p).tok < 2 ^ 32 then dikeReport (bump r ⟨.DIK_CNT0, p, 0⟩ 31 0 1) src d p Code.DIKE_DROP
      else sluiceArrive (wakeAt (bump (setDike r p { getDike r p with tok := (getDike r p).tok - 2 ^ 32 }) ⟨.DIK_CNT0, p, 0⟩ 63 32 1) 3 t)
        src d p t toe line ix := by
  subst hr
  refine (if_neg hst).trans (if_neg ?_)
  rintro ⟨hkind, hdenied⟩
  rcases hpermitted with hcancel | hpermitted
  · exact hkind hcancel
  · simp only [Bool.not_eq_true', decide_eq_false_iff_not] at hdenied
    exact hdenied hpermitted

end

/-- Settles O8: a ring's entry and a connection's message each reach intake, which refuses or hands to the dike's table. -/
theorem intakeToDike : Obligations.IntakeToDike := by
  unfold Obligations.IntakeToDike
  refine ⟨?_, ?_, ?_, ?_⟩
  · rintro s r r1 n ring t rfl halive hon hhere hpath i g a hann hroom hacc
    exact exec_part rfl halive (congrArg settle (doEntryRead_takes t hon hhere hpath hann hroom hacc))
  · rintro s r c t bs rfl halive hhears hfront hpath
    exact exec_part rfl halive (congrArg settle (doAftDescriptor_takes t hhears hfront hpath))
  · intro s src d p t toe line ix hloaded hcode
    exact intake_refuses hloaded hcode t toe line ix
  · intro s r src d p t toe line ix hloaded hcode hr
    rw [intake_passes hloaded hcode]
    exact ⟨dikeArrive_draining hr, dikeArrive_denied hr, dikeArrive_permitted hr⟩

section
variable {s : State}

/-- The grants of a boundary that the sluice has not served: the procedure of R118, or none while the sluice is shut. -/
theorem doGrant_serves (hrun : s.tick.running = true) (hbeg : s.tick.begun = true) (hnew : s.sluice.granted ≠ s.tick.tick) :
    let r : State := { s with sluice := { s.sluice with granted := s.tick.tick } }
    doGrant s = if sluiceShut s then setUsed r 0 0 0 else sluiceGrant r :=
  if_neg (by simp [hrun, hbeg, hnew])

end

/-- Settles O10: at a boundary not served yet, whether the sluice is shut decides between the two outcomes. -/
theorem sluiceRows : Obligations.SluiceRows := by
  unfold Obligations.SluiceRows
  refine ⟨?_, ?_, ?_⟩
  · intro s halive hopen hrun hbeg hnew
    exact exec_part rfl halive ((doGrant_serves hrun hbeg hnew).trans (if_neg (by simp [hopen])))
  · intro s halive hshut hrun hbeg hnew
    exact exec_part rfl halive ((doGrant_serves hrun hbeg hnew).trans (if_pos hshut))
  · intro s p halive hbeg
    exact exec_part rfl halive (if_pos hbeg)

end Sys2Proof.Proofs
end

