-- ==== Sys2Proof/Proofs/RequestEnds.lean ====
section
/-! PROOFS. The ends of a request (R86, R92, R95, R100, R101): what each of the shared operations that end one leaves of the state, the
messages that go out, and `Ended` for each way a die ends a request. -/

namespace Sys2Proof.Proofs

open Sys2Proof.Machine Sys2Proof.Laws

/-! ### The dies' tables -/

theorem nth?_modAt_self {α : Type} (l : List α) (n : Nat) (f : α → α) : nth? (modAt l n f) n = (nth? l n).map f := by
  induction l generalizing n with
  | nil => rfl
  | cons x l ih =>
    cases n with
    | zero => rfl
    | succ n => exact ih n

theorem nth?_modAt_of_ne {α : Type} (l : List α) {n m : Nat} (f : α → α) (h : m ≠ n) : nth? (modAt l n f) m = nth? l m := by
  induction l generalizing n m with
  | nil => rfl
  | cons x l ih =>
    cases n with
    | zero =>
      cases m with
      | zero => exact absurd rfl h
      | succ m => rfl
    | succ n =>
      cases m with
      | zero => rfl
      | succ m => exact ih (fun hm => h (congrArg _ hm))

theorem nth?_isSome_of_lt {α : Type} (l : List α) {n : Nat} (h : n < l.length) : ∃ x, nth? l n = some x := by
  induction l generalizing n with
  | nil => exact absurd h (Nat.not_lt_zero _)
  | cons x l ih =>
    cases n with
    | zero => exact ⟨x, rfl⟩
    | succ n => exact ih (Nat.lt_of_succ_lt_succ h)

theorem nth?_map {α β : Type} (f : α → β) (l : List α) (n : Nat) : nth? (l.map f) n = (nth? l n).map f := by
  induction l generalizing n with
  | nil => rfl
  | cons x l ih =>
    cases n with
    | zero => rfl
    | succ n => exact ih n

/-- A die's table after a change of it: changed, or, where there is no such die, the empty one it was. -/
theorem getDie_modDie_self (s : State) (d : Nat) (f : DieCtx → DieCtx) :
    getDie (modDie s d f) d = f (getDie s d) ∨ (getDie (modDie s d f) d = DieCtx.fresh ∧ getDie s d = DieCtx.fresh) := by
  simp only [getDie, modDie, nth?_modAt_self]
  cases nth? s.dies d with
  | none => exact .inr ⟨rfl, rfl⟩
  | some x => exact .inl rfl

theorem getDie_modDie_of_lt {s : State} {d : Nat} (h : d < s.dies.length) (f : DieCtx → DieCtx) : getDie (modDie s d f) d = f (getDie s d) := by
  obtain ⟨x, hx⟩ := nth?_isSome_of_lt _ h
  simp [getDie, modDie, nth?_modAt_self, hx]

theorem getDie_modDie_of_ne (s : State) {d d' : Nat} (f : DieCtx → DieCtx) (h : d' ≠ d) : getDie (modDie s d f) d' = getDie s d' := by
  simp [getDie, modDie, nth?_modAt_of_ne _ _ h]

/-- A change of one die's table that keeps `lost` loses no die. -/
theorem dieLost_modDie (s : State) (d d' : Nat) {f : DieCtx → DieCtx} (hf : ∀ x, (f x).lost = x.lost) : dieLost (modDie s d f) d' = dieLost s d' := by
  unfold dieLost
  by_cases h : d' = d
  · subst h
    rcases getDie_modDie_self s d' f with he | ⟨he, he'⟩
    · rw [he, hf]
    · rw [he, he']
  · rw [getDie_modDie_of_ne s f h]

@[simp] theorem length_modAt {α : Type} (l : List α) (n : Nat) (f : α → α) : (modAt l n f).length = l.length := by
  induction l generalizing n with
  | nil => rfl
  | cons x l ih =>
    cases n with
    | zero => rfl
    | succ n => simp [modAt, ih]

/-! ### What the operations leave -/

/-- What a fold of steps keeps that each step keeps. -/
theorem foldl_keeps {α β : Type} (g : State → β) {f : State → α → State} (hf : ∀ s x, g (f s x) = g s) (l : List α) (s : State) :
    g (l.foldl f s) = g s := by
  induction l generalizing s with
  | nil => rfl
  | cons x l ih => exact (ih _).trans (hf s x)

/-- The running counters after one count for each of a list. -/
def bumpedCnt {α : Type} (r : α → Reg) (hi lo n : Nat) (l : List α) (cnt : Map Word) : Map Word :=
  l.foldl (fun cnt x =>
    let w := mapGetD cnt (regAddr (r x)) 0
    mapPut 0 cnt (regAddr (r x)) (setFld w hi lo (satAdd (hi + 1 - lo) (fld w hi lo) n))) cnt

theorem foldl_bump {α : Type} (r : α → Reg) (hi lo n : Nat) (l : List α) (s : State) :
    l.foldl (fun s x => bump s (r x) hi lo n) s = { s with cnt := bumpedCnt r hi lo n l s.cnt } := by
  induction l generalizing s with
  | nil => rfl
  | cons x l ih => exact ih _

theorem countEnd_eq (s : State) (p code : Nat) : ∃ c, countEnd s p code = { s with cnt := c } := by
  unfold countEnd
  split
  · split
    · exact ⟨_, rfl⟩
    · exact ⟨s.cnt, rfl⟩
  · simp only
    split
    · exact ⟨_, rfl⟩
    · exact ⟨_, rfl⟩

section
variable (s : State) (src : Src) (ws : List Word) (hold : Option Nat) (report : Bool) (ranked : Option Ranked) (p code : Nat)

@[simp] theorem pushPend_csr : (pushPend s src ws hold report ranked).csr = s.csr := by
  rcases pushPend_eq s src ws hold report ranked with h | h <;> rw [h]
@[simp] theorem pushPend_dies : (pushPend s src ws hold report ranked).dies = s.dies := by
  rcases pushPend_eq s src ws hold report ranked with h | h <;> rw [h]
@[simp] theorem pushPend_flight : (pushPend s src ws hold report ranked).flight = s.flight := by
  rcases pushPend_eq s src ws hold report ranked with h | h <;> rw [h]
@[simp] theorem countEnd_csr : (countEnd s p code).csr = s.csr := by
  obtain ⟨c, h⟩ := countEnd_eq s p code
  rw [h]
@[simp] theorem countEnd_dies : (countEnd s p code).dies = s.dies := by
  obtain ⟨c, h⟩ := countEnd_eq s p code
  rw [h]
@[simp] theorem countEnd_flight : (countEnd s p code).flight = s.flight := by
  obtain ⟨c, h⟩ := countEnd_eq s p code
  rw [h]

end

/-- Discarding units' work touches the units and the counters alone. -/
theorem dropUnits_eq (s : State) (c g : Nat) (on : Nat → Bool) :
    ∃ w j p t n, dropUnits s c g on = { s with walks := w, jobs := j, passes := p, trains := t, cnt := n } := by
  simp only [dropUnits, bumpAborted, foldl_bump]
  exact ⟨_, _, _, _, _, rfl⟩

theorem ctxRecord_code {s : State} {c code unit : Nat} (h : code ≠ 0) : (ctxRecord s c code unit).code = code := by
  simp [ctxRecord, h]

theorem ne_zero_of_not_served {code : Nat} (h : served code = false) : code ≠ 0 := by
  rintro rfl
  exact absurd h (by decide)

/-- Retiring a LIVE request that somebody waits for with a code that serves it not: its record is queued, its slot RETIRED, and the reeve
owes nothing for it. -/
theorem retire_eq {s : State} {c code unit : Nat} (hlive : (getCtx s c).st = .live) (hsrc : (getCtx s c).src ≠ .none)
    (hcode : served code = false) :
    ∃ n, retire s c code unit = { s with
      pend := s.pend ++ [⟨(getCtx s c).src, (ctxRecord s c code unit).words, (getCtx s c).work.wroteFl, false, none⟩]
      reeve := s.reeve.filter fun x => !(x.ctx = c && x.gen = (getCtx s c).gen)
      ctxs := mapSet s.ctxs c { getCtx s c with st := .retired }, cnt := n } := by
  have hrec : (ctxRecord s c code unit).code = code := ctxRecord_code (ne_zero_of_not_served hcode)
  simp only [retire, hlive, ne_eq, not_true_eq_false, if_false, hrec, hcode, Bool.false_eq_true, pushPend, hsrc]
  obtain ⟨n, hn⟩ := countEnd_eq (setCtx { s with
      pend := s.pend ++ [⟨(getCtx s c).src, (ctxRecord s c code unit).words, (getCtx s c).work.wroteFl, false, none⟩]
      reeve := s.reeve.filter fun x => !(x.ctx = c && x.gen = (getCtx s c).gen) } c { getCtx s c with st := .retired }) (getCtx s c).polder code
  exact ⟨n, hn⟩

/-! ### What `Ended` speaks of -/

/-- `u` differs from `s` in nothing that `Ended` speaks of, but that die `d` may own less; what is dead there stays dead. -/
structure EndFrame (d : Nat) (s u : State) : Prop where
  ctxs : u.ctxs = s.ctxs
  pend : u.pend = s.pend
  mem : u.mem = s.mem
  csr : u.csr = s.csr
  owns : ∀ o ∈ (getDie u d).owns, o ∈ (getDie s d).owns
  dead : ∀ x ∈ (getDie s d).dead, x ∈ (getDie u d).dead

namespace EndFrame

variable {d : Nat} {s u v : State}

theorem refl (d : Nat) (s : State) : EndFrame d s s := ⟨rfl, rfl, rfl, rfl, fun _ => id, fun _ => id⟩

theorem trans (h : EndFrame d s u) (h' : EndFrame d u v) : EndFrame d s v where
  ctxs := h'.ctxs.trans h.ctxs
  pend := h'.pend.trans h.pend
  mem := h'.mem.trans h.mem
  csr := h'.csr.trans h.csr
  owns o ho := h.owns o (h'.owns o ho)
  dead x hx := h'.dead x (h.dead x hx)

theorem foldl {α : Type} {f : State → α → State} (hf : ∀ s x, EndFrame d s (f s x)) (l : List α) (s : State) : EndFrame d s (l.foldl f s) := by
  induction l generalizing s with
  | nil => exact refl d s
  | cons x l ih => exact (hf s x).trans (ih _)

theorem modDie (s : State) (d' : Nat) {f : DieCtx → DieCtx} (howns : ∀ x, ∀ o ∈ (f x).owns, o ∈ x.owns) (hdead : ∀ x, ∀ y ∈ x.dead, y ∈ (f x).dead) :
    EndFrame d s (modDie s d' f) := by
  refine ⟨rfl, rfl, rfl, rfl, fun o ho => ?_, fun y hy => ?_⟩
  · by_cases hd : d = d'
    · subst hd
      rcases getDie_modDie_self s d f with he | ⟨he, he'⟩
      · exact howns _ o (he ▸ ho)
      · exact he' ▸ he ▸ ho
    · exact getDie_modDie_of_ne s f hd ▸ ho
  · by_cases hd : d = d'
    · subst hd
      rcases getDie_modDie_self s d f with he | ⟨he, he'⟩
      · exact he ▸ hdead _ y hy
      · rw [he, ← he']
        exact hy
    · rw [getDie_modDie_of_ne s f hd]
      exact hy

theorem sendMsg (d : Nat) (s : State) (a b : Nat) (m : LinkMsg) : EndFrame d s (sendMsg s a b m) := by
  obtain ⟨fl, h⟩ := sendMsg_eq s a b m
  rw [h]
  exact ⟨rfl, rfl, rfl, rfl, fun _ => id, fun _ => id⟩

theorem sendAborts (d : Nat) (s : State) (home c g : Nat) (code : Option Nat) : EndFrame d s (sendAborts s home c g code) := by
  refine foldl (fun s x => ?_) _ s
  split
  · exact refl d s
  · exact sendMsg d s _ _ _

theorem dropUnits (d : Nat) (s : State) (c g : Nat) (on : Nat → Bool) : EndFrame d s (dropUnits s c g on) := by
  obtain ⟨w, j, p, t, n, h⟩ := dropUnits_eq s c g on
  rw [h]
  exact ⟨rfl, rfl, rfl, rfl, fun _ => id, fun _ => id⟩

theorem dropWeirs (d : Nat) (s : State) (c g : Nat) : EndFrame d s (dropWeirs s c g) := ⟨rfl, rfl, rfl, rfl, fun _ => id, fun _ => id⟩

theorem dropDie (d : Nat) (s : State) (d' c g : Nat) : EndFrame d s (Machine.modDie s d' (dropDie c g)) :=
  modDie s d' (fun _ _ ho => (List.mem_filter.1 ho).1) (fun _ _ => id)

theorem markDead (d : Nat) (s : State) (d' c g : Nat) (h : Option Nat) : EndFrame d s (Machine.modDie s d' (markDead c g h)) := by
  refine modDie s d' (fun _ _ => id) fun x y hy => ?_
  cases heq : (y.ctx = c && y.gen = g && y.upTo = h : Bool) with
  | true =>
    simp only [Bool.and_eq_true, decide_eq_true_eq] at heq
    obtain ⟨⟨rfl, rfl⟩, rfl⟩ := heq
    exact List.mem_cons_self
  | false => exact List.mem_cons_of_mem _ (List.mem_filter.2 ⟨hy, by simp [heq]⟩)

end EndFrame

theorem getCtx_of_ctxs {s u : State} (h : u.ctxs = s.ctxs) (c : Nat) : getCtx u c = getCtx s c := by simp only [getCtx, h]

/-- What `EndFrame` keeps keeps `Ended`. -/
theorem ended_of_endFrame {s u v : State} {c code unit d : Nat} (h : Ended s u c code unit d) (hf : EndFrame d u v) : Ended s v c code unit d := by
  obtain ⟨hst, hgen, hpend, howns, hmem, hcsr⟩ := h
  have hctx : getCtx v c = getCtx u c := getCtx_of_ctxs hf.ctxs c
  exact ⟨hctx ▸ hst, hctx ▸ hgen, hf.pend.trans hpend, fun o ho => howns o (hf.owns o ho), hf.mem.trans hmem, hf.csr.trans hcsr⟩

/-- After a die drops a generation of a context it owns none of it. -/
theorem not_owns_dropDie (s : State) (d c g : Nat) : ∀ o ∈ (getDie (modDie s d (dropDie c g)) d).owns, ¬(o.ctx = c ∧ o.gen = g) := by
  intro o ho
  rcases getDie_modDie_self s d (dropDie c g) with he | ⟨he, -⟩
  · rw [he] at ho
    exact not_and_or.2 (by simpa using (List.mem_filter.1 ho).2)
  · rw [he] at ho
    exact absurd ho List.not_mem_nil

section
variable {s : State} {c code d : Nat}

/-- A die that ends a LIVE request queues its one record and owns it no more. -/
theorem endOnDie_ended (hlive : (getCtx s c).st = .live) (hsrc : (getCtx s c).src ≠ .none) (hcode : served code = false) :
    Ended s (endOnDie s d c code) c code (ctxUnit d) d := by
  obtain ⟨n, hretire⟩ := retire_eq (unit := ctxUnit d) hlive hsrc hcode
  have hdrop : Ended s (modDie (retire s c code (ctxUnit d)) d (dropDie c (getCtx s c).gen)) c code (ctxUnit d) d := by
    refine ⟨?_, ?_, ?_, not_owns_dropDie _ d c _, ?_, ?_⟩ <;> rw [hretire] <;> simp [getCtx, mapGetD_mapSet_self]
  exact ended_of_endFrame hdrop ((EndFrame.dropUnits d _ _ _ _).trans (.dropWeirs d _ _ _))

theorem endFromHome_eq (hlive : (getCtx s c).st = .live) (home : Nat) :
    endFromHome s home c code
      = sendAborts (modDie (endOnDie s home c code) home (markDead c (getCtx s c).gen none)) home c (getCtx s c).gen none :=
  if_neg (not_not.2 hlive)

theorem endFromHome_ended (hlive : (getCtx s c).st = .live) (hsrc : (getCtx s c).src ≠ .none) (hcode : served code = false) (home : Nat) :
    Ended s (endFromHome s home c code) c code (ctxUnit home) home := by
  rw [endFromHome_eq hlive]
  exact ended_of_endFrame (endOnDie_ended hlive hsrc hcode) ((EndFrame.markDead home _ _ _ _ _).trans (.sendAborts home _ _ _ _ _))

/-- A cause that a unit met ends the request on every die at once. -/
theorem endCtx_ended {unit : Nat} (hlive : (getCtx s c).st = .live) (hsrc : (getCtx s c).src ≠ .none) (hcode : served code = false) (d : Nat) :
    Ended s (endCtx s c code unit) c code unit d := by
  obtain ⟨n, hretire⟩ := retire_eq (unit := unit) hlive hsrc hcode
  have hdrop : Ended s (modDies (retire s c code unit) fun x => markDead c (getCtx s c).gen none (dropDie c (getCtx s c).gen x)) c code unit d := by
    refine ⟨?_, ?_, ?_, ?_, ?_, ?_⟩
    · rw [hretire]; simp [getCtx, mapGetD_mapSet_self]
    · rw [hretire]; simp [getCtx, mapGetD_mapSet_self]
    · rw [hretire]; rfl
    · intro o ho
      simp only [getDie, modDies, nth?_map] at ho
      cases hx : nth? (retire s c code unit).dies d with
      | none =>
        rw [hx] at ho
        exact absurd ho List.not_mem_nil
      | some x =>
        rw [hx] at ho
        exact not_and_or.2 (by simpa using (List.mem_filter.1 ho).2)
    · rw [hretire]; rfl
    · rw [hretire]; rfl
  have hend : endCtx s c code unit = dropWeirs (dropUnits
      (modDies (retire s c code unit) fun x => markDead c (getCtx s c).gen none (dropDie c (getCtx s c).gen x)) c (getCtx s c).gen fun _ => true)
      c (getCtx s c).gen := if_neg (not_not.2 hlive)
  rw [hend]
  exact ended_of_endFrame hdrop ((EndFrame.dropUnits d _ _ _ _).trans (.dropWeirs d _ _ _))

end

/-! ### The ABORTs that go out -/

/-- Nothing that decides whether an ABORT is sent differs between `s` and `u`, and no message flies in one that does not in the other. -/
structure LinkFrame (s u : State) : Prop where
  csr : u.csr = s.csr
  lost : ∀ d, dieLost u d = dieLost s d
  flight : u.flight = s.flight

namespace LinkFrame

variable {s u v : State}

theorem trans (h : LinkFrame s u) (h' : LinkFrame u v) : LinkFrame s v :=
  ⟨h'.csr.trans h.csr, fun d => (h'.lost d).trans (h.lost d), h'.flight.trans h.flight⟩

theorem linkFailed (h : LinkFrame s u) (a b : Nat) : linkFailed u a b = linkFailed s a b := by
  have hreg : getReg u (linkReg .MEM_LINK_STS a b) = getReg s (linkReg .MEM_LINK_STS a b) := by simp only [getReg, h.csr]
  unfold Machine.linkFailed linkState getF
  rw [hreg]

theorem modDie (s : State) (d : Nat) {f : DieCtx → DieCtx} (hf : ∀ x, (f x).lost = x.lost) : LinkFrame s (modDie s d f) :=
  ⟨rfl, fun d' => dieLost_modDie s d d' hf, rfl⟩

theorem dropUnits (s : State) (c g : Nat) (on : Nat → Bool) : LinkFrame s (dropUnits s c g on) := by
  obtain ⟨w, j, p, t, n, h⟩ := dropUnits_eq s c g on
  rw [h]
  exact ⟨rfl, fun _ => rfl, rfl⟩

theorem dropWeirs (s : State) (c g : Nat) : LinkFrame s (dropWeirs s c g) := ⟨rfl, fun _ => rfl, rfl⟩

/-- Retiring sends nothing. -/
theorem retire (s : State) (c code unit : Nat) : LinkFrame s (retire s c code unit) := by
  unfold Machine.retire
  simp only
  split
  · exact ⟨rfl, fun _ => rfl, rfl⟩
  · refine ⟨?_, fun d => ?_, ?_⟩ <;> simp [dieLost, getDie]

theorem dropDie (s : State) (d c g : Nat) : LinkFrame s (Machine.modDie s d (dropDie c g)) := modDie s d fun _ => rfl

theorem markDead (s : State) (d c g : Nat) (h : Option Nat) : LinkFrame s (Machine.modDie s d (markDead c g h)) := modDie s d fun _ => rfl

theorem endOnDie (s : State) (d c code : Nat) : LinkFrame s (endOnDie s d c code) := by
  unfold Machine.endOnDie
  exact (retire s c code _).trans ((dropDie _ d c _).trans ((dropUnits _ _ _ _).trans (dropWeirs _ _ _)))

end LinkFrame

/-- One ABORT a die that a message from the home die reaches, in ascending order (R92). -/
theorem foldl_abort_msgs (home c g : Nat) (code : Option Nat) (l : List Nat) (s : State) :
    (l.foldl (fun s d => if d = home ∨ dieLost s d then s else sendMsg s home d (.abort c g none code)) s).flight.map (fun f => (f.src, f.dst, f.msg))
      = s.flight.map (fun f => (f.src, f.dst, f.msg))
        ++ (l.filter fun d => d ≠ home && !dieLost s d && !dieLost s home && !linkFailed s home d).map fun d => (home, d, .abort c g none code) := by
  induction l generalizing s with
  | nil => simp
  | cons d l ih =>
    obtain ⟨fl, hsend⟩ := sendMsg_eq s home d (.abort c g none code)
    have hmsgs := sendMsg_msgs s home d (.abort c g none code)
    rw [List.foldl_cons, ih]
    by_cases hskip : d = home ∨ dieLost s d = true
    · have hout : (decide (d ≠ home) && !dieLost s d && !dieLost s home && !linkFailed s home d) = false := by
        rcases hskip with h | h <;> simp [h]
      simp only [if_pos hskip, List.filter_cons, hout, Bool.false_eq_true, if_false]
    · obtain ⟨hne, hlost⟩ := not_or.1 hskip
      rw [if_neg hskip, hmsgs]
      have hfilter : ∀ x, (decide (x ≠ home) && !dieLost (sendMsg s home d (.abort c g none code)) x
            && !dieLost (sendMsg s home d (.abort c g none code)) home && !linkFailed (sendMsg s home d (.abort c g none code)) home x)
          = (decide (x ≠ home) && !dieLost s x && !dieLost s home && !linkFailed s home x) := by
        intro x
        rw [hsend]
        rfl
      simp only [hfilter, List.append_assoc, List.filter_cons]
      cases hl : linkFailed s home d <;> cases hh : dieLost s home <;> simp [hne, hlost]

theorem sendAborts_reeve (s : State) (home c g : Nat) (code : Option Nat) : (sendAborts s home c g code).reeve = s.reeve := by
  refine foldl_keeps (·.reeve) (fun s d => ?_) _ s
  split
  · rfl
  · obtain ⟨fl, h⟩ := sendMsg_eq s home d (.abort c g none code)
    rw [h]

/-- After changes that send nothing, the ABORTs are those of the state before. -/
theorem sendAborts_sent {s u : State} (h : LinkFrame s u) (home c g : Nat) (code : Option Nat) :
    Sent s (sendAborts u home c g code) (abortsOf s home c g code) := by
  unfold Sent sendAborts abortsOf
  rw [foldl_abort_msgs, h.flight]
  simp only [h.lost, h.linkFailed]

theorem endFromHome_sent {s : State} {c : Nat} (hlive : (getCtx s c).st = .live) (home code : Nat) :
    Sent s (endFromHome s home c code) (abortsOf s home c (getCtx s c).gen none) := by
  rw [endFromHome_eq hlive]
  have hends : LinkFrame s (endOnDie s home c code) := .endOnDie s home c code
  exact sendAborts_sent (hends.trans (.markDead _ home c _ none)) home c _ none

end Sys2Proof.Proofs
end

