-- ==== Sys2Proof/Proofs/BoundaryAborts.lean ====
section
/-! PROOFS. Requests that the home die ends at a boundary (R56, R98 to R100), with the reeve's completions, and what the loss of a crest die ends
(R95). -/

namespace Sys2Proof.Proofs

open Sys2Proof.Machine Sys2Proof.Laws

section
variable {s : State} {c code : Nat}

/-- A pin older than its polder's limit is the cause, whatever else holds (R56, R100). -/
theorem boundaryCause_stalePin (hlive : (getCtx s c).st = .live) (hhome : dieLost s (homeDie c) = false)
    (hopen : homeEnded s c (getCtx s c).gen = false) (hpin : (getCtx s c).pin + getF s ⟨.PLD_CFG, (getCtx s c).polder, 0⟩ 63 54 ≤ s.tick.epoch)
    (hadm : (getCtx s c).admitted < s.tick.epoch) : boundaryCause s c = some Code.STALE_PIN := by
  simp [boundaryCause, hlive, hhome, hopen, hpin, hadm]

/-- A deadline that has come is the cause where the pin has not expired (R98, R100). -/
theorem boundaryCause_deadline {b : Nat} (hlive : (getCtx s c).st = .live) (hhome : dieLost s (homeDie c) = false)
    (hopen : homeEnded s c (getCtx s c).gen = false) (hpin : s.tick.epoch < (getCtx s c).pin + getF s ⟨.PLD_CFG, (getCtx s c).polder, 0⟩ 63 54)
    (hdl : (getCtx s c).deadline = some b) (hdue : b ≤ s.tick.epoch) : boundaryCause s c = some Code.DEADLINE := by
  simp [boundaryCause, hlive, hhome, hopen, Nat.not_le.2 hpin, hdl, hdue]

/-- A home die that owns the request ends it itself. -/
theorem abortHome_owned (hlive : (getCtx s c).st = .live) (hhome : dieLost s (homeDie c) = false)
    (hopen : homeEnded s c (getCtx s c).gen = false)
    (hown : ((getDie s (homeDie c)).owns.any fun o => o.ctx = c && o.gen = (getCtx s c).gen) = true) :
    abortHome s c code = endFromHome s (homeDie c) c code := by
  unfold abortHome
  rw [if_neg (by simp [hlive, hhome, hopen]), if_pos hown]

/-- The home die's own part of an end that it leaves to another die: it gives the reeve a copy of the record and drops what it holds. -/
def leaveToOwner (s : State) (c code : Nat) : State :=
  let g := (getCtx s c).gen
  let r : State := { s with reeve := s.reeve ++ [⟨c, g, (getCtx s c).src, code, (ctxRecord s c code (ctxUnit (homeDie c))).words, s.tick.nextNum⟩] }
  modDie r (homeDie c) fun d => markDead c g none (dropDie c g d)

theorem leaveToOwner_links (s : State) (c code : Nat) : LinkFrame s (leaveToOwner s c code) := by
  have hreeve : ∀ l, LinkFrame s { s with reeve := l } := fun l => ⟨rfl, fun _ => rfl, rfl⟩
  exact (hreeve _).trans (.modDie _ _ (f := fun d => markDead c (getCtx s c).gen none (dropDie c (getCtx s c).gen d)) fun _ => rfl)

theorem abortHome_elsewhere (hlive : (getCtx s c).st = .live) (hhome : dieLost s (homeDie c) = false)
    (hopen : homeEnded s c (getCtx s c).gen = false)
    (hown : ((getDie s (homeDie c)).owns.any fun o => o.ctx = c && o.gen = (getCtx s c).gen) = false)
    (howners : ownersOf s c (getCtx s c).gen ≠ []) :
    abortHome s c code = sendAborts (dropWeirs (dropUnits (leaveToOwner s c code) c (getCtx s c).gen fun x => x = homeDie c) c (getCtx s c).gen)
      (homeDie c) c (getCtx s c).gen (some code) := by
  have hkept : ∀ x y : State, (if (ownersOf s c (getCtx s c).gen).isEmpty then x else y) = y := fun x y =>
    if_neg fun h => howners (List.isEmpty_iff.1 h)
  unfold abortHome
  rw [if_neg (by simp [hlive, hhome, hopen]), if_neg (ne_true_of_eq_false hown)]
  exact congrArg (fun r => sendAborts (dropWeirs (dropUnits (modDie r _ _) _ _ _) _ _) _ _ _ _) (hkept _ _)

/-- The request of another die stays LIVE with nothing queued; the ABORTs carry the code. -/
theorem abortHome_elsewhere_kept (hlive : (getCtx s c).st = .live) (hhome : dieLost s (homeDie c) = false)
    (hopen : homeEnded s c (getCtx s c).gen = false)
    (hown : ((getDie s (homeDie c)).owns.any fun o => o.ctx = c && o.gen = (getCtx s c).gen) = false)
    (howners : ownersOf s c (getCtx s c).gen ≠ []) :
    let u := abortHome s c code
    (getCtx u c).st = .live ∧ u.pend = s.pend ∧ u.mem = s.mem ∧ u.csr = s.csr
      ∧ u.reeve = s.reeve ++ [⟨c, (getCtx s c).gen, (getCtx s c).src, code, (ctxRecord s c code (ctxUnit (homeDie c))).words, s.tick.nextNum⟩]
      ∧ Sent s u (abortsOf s (homeDie c) c (getCtx s c).gen (some code)) := by
  simp only [abortHome_elsewhere hlive hhome hopen hown howners]
  obtain ⟨w, j, p, t, n, hdrop⟩ := dropUnits_eq (leaveToOwner s c code) c (getCtx s c).gen fun x => x = homeDie c
  have hframe : EndFrame 0 (leaveToOwner s c code) (sendAborts (dropWeirs (dropUnits (leaveToOwner s c code) c (getCtx s c).gen
      fun x => x = homeDie c) c (getCtx s c).gen) (homeDie c) c (getCtx s c).gen (some code)) :=
    ((EndFrame.dropUnits 0 _ _ _ _).trans (.dropWeirs 0 _ _ _)).trans (.sendAborts 0 _ _ _ _ _)
  obtain ⟨hctxs, hpend, hmem, hcsr, -, -⟩ := hframe
  refine ⟨?_, hpend, hmem, hcsr, ?_, ?_⟩
  · rw [getCtx_of_ctxs hctxs]
    exact hlive
  · rw [sendAborts_reeve, hdrop]
    rfl
  · exact sendAborts_sent ((leaveToOwner_links s c code).trans ((LinkFrame.dropUnits _ _ _ _).trans (.dropWeirs _ _ _))) _ _ _ _

end

theorem pushPend_of_waited {src : Src} (hsrc : src ≠ .none) (s : State) (ws : List Word) :
    pushPend s src ws = { s with pend := s.pend ++ [⟨src, ws, none, false, none⟩] } := if_neg hsrc

/-- One record of the reeve becomes the request's completion (R100). -/
theorem reeveWrite_writes (s : State) {r : ReeveDue} (hsrc : r.src ≠ .none) :
    let u := reeveWrite s r
    u.reeve = s.reeve.erase r ∧ u.pend = s.pend ++ [⟨r.src, r.words, none, false, none⟩] ∧ u.mem = s.mem ∧ u.csr = s.csr
      ∧ ((getCtx s r.ctx).gen = r.gen ∧ (getCtx s r.ctx).st = .live → (getCtx u r.ctx).st = .retired) := by
  by_cases hl : (getCtx s r.ctx).gen = r.gen ∧ (getCtx s r.ctx).st = .live
  · obtain ⟨n, hn⟩ := countEnd_eq (setCtx { s with reeve := s.reeve.erase r } r.ctx { getCtx s r.ctx with st := .retired })
      (getCtx s r.ctx).polder r.code
    have hu : reeveWrite s r = pushPend { setCtx { s with reeve := s.reeve.erase r } r.ctx { getCtx s r.ctx with st := .retired } with cnt := n }
        r.src r.words := (if_pos hl).trans (congrArg (pushPend · r.src r.words) hn)
    rw [hu, pushPend_of_waited hsrc]
    exact ⟨rfl, rfl, rfl, rfl, fun _ => congrArg Ctx.st (getCtx_setCtx_self { s with reeve := s.reeve.erase r } r.ctx _)⟩
  · have hu : reeveWrite s r = pushPend { s with reeve := s.reeve.erase r } r.src r.words := if_neg hl
    rw [hu, pushPend_of_waited hsrc]
    exact ⟨rfl, rfl, rfl, rfl, fun h => absurd h hl⟩

/-- Settles O9: each cause is the one that R100's order finds, and whether the home die owns the request decides how it ends. -/
theorem boundaryAborts : Obligations.BoundaryAborts := by
  unfold Obligations.BoundaryAborts
  refine ⟨?_, ?_, ?_, ?_, ?_⟩
  · intro s c halive hlive hsrc hhome hopen hpin hadm hown
    refine ⟨_, exec_part rfl halive ((if_pos (boundaryCause_stalePin hlive hhome hopen hpin hadm)).trans (abortHome_owned hlive hhome hopen hown)), ?_⟩
    exact ⟨endFromHome_ended hlive hsrc rfl _, endFromHome_sent hlive _ _⟩
  · intro s c halive hlive hhome hopen hpin hadm hown howners
    exact ⟨_, exec_part rfl halive (if_pos (boundaryCause_stalePin hlive hhome hopen hpin hadm)),
      abortHome_elsewhere_kept hlive hhome hopen hown howners⟩
  · intro s c b halive hlive hsrc hhome hopen hpin hdl hdue hown
    refine ⟨_, exec_part rfl halive ((if_pos (boundaryCause_deadline hlive hhome hopen hpin hdl hdue)).trans (abortHome_owned hlive hhome hopen hown)), ?_⟩
    exact ⟨endFromHome_ended hlive hsrc rfl _, endFromHome_sent hlive _ _⟩
  · intro s p target x halive hfind hits r y
    refine exec_part rfl halive ?_
    simp only [doCancel, hfind]
    rfl
  · intro s c r halive hdue hsrc
    have hctx : r.ctx = c.val := by
      have hmem : r ∈ s.reeve.filter fun r => r.ctx = c.val && decide (r.due ≤ s.tick.tick) := hdue ▸ List.mem_singleton_self r
      exact of_decide_eq_true (Bool.and_elim_left (List.mem_filter.1 hmem).2)
    refine ⟨reeveWrite s r, exec_part rfl halive ?_, ?_⟩
    · simp only [doReeveCompletion, hdue, List.foldl_cons, List.foldl_nil]
    · rw [← hctx]
      exact reeveWrite_writes s hsrc

/-- Settles O13: at the notice every survivor acts; a finding ends its request from the home die, and the reeve what is homed on the lost die. -/
theorem dieLoss : Obligations.DieLoss := by
  unfold Obligations.DieLoss
  refine ⟨?_, ?_, ?_⟩
  · intro s d halive hlost owned s1 s2 s3 s4
    refine exec_part rfl halive (congrArg settle ?_)
    exact if_neg (by simp [hlost])
  · intro s r src home c g halive htake hgen hhome hlive hsrc
    subst hgen
    refine ⟨endFromHome r home.val c Code.DIE_LOST, exec_part rfl halive ?_, endFromHome_ended hlive hsrc rfl _, endFromHome_sent hlive _ _⟩
    simp only [doFinding, htake, hhome, and_self, if_true]
  · intro s d c halive hlost hdue hone hlive hsrc
    refine ⟨endCtx s c Code.DIE_LOST (ctxUnit d.val), exec_part rfl halive ?_, fun x => endCtx_ended hlive hsrc rfl x.val⟩
    have hhas : (getDie s d.val).lost = true := hlost
    simp only [doReeveLost, hhas, Nat.not_lt.2 hdue, hone, Bool.not_true, decide_false, Bool.or_self, Bool.false_eq_true, if_false,
      List.foldl_cons, List.foldl_nil]

end Sys2Proof.Proofs
end

