-- ==== Sys2Proof/Proofs/StepRules.lean ====
section
/-! PROOFS. What holds of every step: the front command is taken, every command completes, and what reset leaves (R34). -/

namespace Sys2Proof.Proofs

open Sys2Proof.Machine Sys2Proof.Laws

/-- Settles O1: `step` takes the queue apart. -/
theorem stepTakesFront : Obligations.StepTakesFront := by
  unfold Obligations.StepTakesFront
  refine ⟨fun s c => rfl, fun s h => ?_⟩
  simp [step, h]

/-- Settles O2: each arm of `exec` answers a next state. -/
theorem everyCommandCompletes : Obligations.EveryCommandCompletes := by
  unfold Obligations.EveryCommandCompletes
  intro c s
  cases c <;> exact ⟨_, rfl⟩

/-- Settles O58: the reset state's tables are empty, and so is its register file. -/
theorem afterReset : Obligations.AfterReset := by
  unfold Obligations.AfterReset
  exact ⟨rfl, rfl, rfl, rfl, rfl, rfl, rfl, rfl, rfl, rfl, by decide, by decide, getReg_of_csr rfl⟩

/-- Settles O56: VIN's collapse turns the part off. -/
theorem offReached : Obligations.OffReached := by
  unfold Obligations.OffReached
  refine ⟨_, rfl, ?_⟩
  unfold Off
  decide +kernel

end Sys2Proof.Proofs
end

