-- ==== Sys2Proof/Proofs/MemoryBytes.lean ====
section
/-! PROOFS. The byte store: what a run reads back. -/

namespace Sys2Proof.Proofs

open Sys2Proof.Machine Sys2Proof.Laws

/-- A run that was stored reads back: the bytes after its first leave the first alone. -/
theorem cellBytes_cellPut (m : List Host.Cell) (a : Nat) (bs : List Byte) : cellBytes (cellPut m a bs) a bs.length = bs := by
  induction bs generalizing m a with
  | nil => rfl
  | cons b bs ih =>
    have hfirst : cellGet (cellPut (cellSet m a b) (a + 1) bs) a = b := by
      rw [cellGet_cellPut_of_outside _ _ _ _ (.inl (Nat.lt_succ_self a)), cellGet_cellSet_self]
    exact congrArg₂ List.cons hfirst (ih (cellSet m a b) (a + 1))

/-- Settles O60. -/
theorem memoryBytes : Obligations.MemoryBytes := by
  unfold Obligations.MemoryBytes
  exact fun m a bs => ⟨cellBytes_cellPut m a bs, fun x hx => cellGet_cellPut_of_outside m a x bs hx, fun h => cellPut_wf h a bs⟩

end Sys2Proof.Proofs
end

