-- ==== Sys2Proof/Proofs/Tokens.lean ====
section
/-! PROOFS. The tokens of weirs and dikes (R107, R120). -/

namespace Sys2Proof.Proofs

open Sys2Proof.Machine Sys2Proof.Laws

@[simp] theorem getWeir_setWeir_self (s : State) (w : Nat) (v : Weir) : getWeir (setWeir s w v) w = v := mapGetD_mapSet_self _ _ _ _

@[simp] theorem getDike_setDike_self (s : State) (p : Nat) (v : Dike) : getDike (setDike s p v) p = v := mapGetD_mapSet_self _ _ _ _

theorem weirFill_tok (s : State) (w : Nat) (t : Stamp) : (getWeir (weirFill s w t) w).tok
    = min (weirCap s w) ((getWeir s w).tok + (t / us - (getWeir s w).last / us) * weirInc s w) :=
  congrArg Weir.tok (getWeir_setWeir_self _ w _)

/-- Settles O18: filling clips at the burst and never takes a token away below it. -/
theorem tokens : Obligations.Tokens := by
  unfold Obligations.Tokens
  refine ⟨fun s w t => ?_, fun s p t => getDike_setDike_self _ p _⟩
  rw [weirFill_tok]
  exact ⟨Nat.min_le_left _ _, fun h => Nat.le_min.2 ⟨h, Nat.le_add_right _ _⟩⟩

end Sys2Proof.Proofs
end

