-- ==== Sys2Proof/Proofs/BatchOutcome.lean ====
section
/-! PROOFS. What the end of a batch stores (R188, R199). -/

namespace Sys2Proof.Proofs

open Sys2Proof.Machine Sys2Proof.Laws

/-- The state with a batch's six counts made. -/
def countBatch (s : State) (key : Nat) (before : Walk) (a : WalkAcc) : State :=
  bump (bump (bump (bump (bump (bump s (slotReg .WLK_SLOT_EXP key) 63 0 (a.w.expand - before.expand)) (slotReg .WLK_SLOT_SCORE key) 63 0 a.scores)
    (slotReg .WLK_SLOT_CNT key) 31 0 a.lost) (slotReg .WLK_SLOT_ERR0 key) 63 32 a.bad) (slotReg .WLK_SLOT_ERR0 key) 31 0 a.nans)
    (slotReg .WLK_SLOT_ERR1 key) 63 32 (b2n a.full)

theorem endBatch_eq (s : State) (key : Nat) (before : Walk) (a : WalkAcc) : endBatch s key before a =
    if a.w.err ≠ 0 then failCtx (countBatch s key before a) a.w.ctx a.w.err
    else setWalk (countBatch s key before a) key { a.w with st := if a.w.reason = .none then .ready else .offering } := rfl

/-- Settles O20: the slot's counters change, then the walk is stored or the request ends. -/
theorem batchOutcome : Obligations.BatchOutcome := by
  unfold Obligations.BatchOutcome
  refine ⟨fun s key w a herr => ?_, fun s key w a herr => ?_⟩
  · rw [endBatch_eq, if_neg (not_not.2 herr)]
    exact ⟨mapGet_mapSet_self _ _ _, by simp [countBatch], by simp [countBatch], by simp [countBatch]⟩
  · exact ⟨countBatch s key w a, (endBatch_eq s key w a).trans (if_pos herr), by simp [countBatch], by simp [countBatch], by simp [countBatch]⟩

end Sys2Proof.Proofs
end

