-- ==== Sys2Proof/Proofs/MemoryReads.lean ====
section
/-! PROOFS. Reads that memory answers (R170, R364, R366): what the access notes of the lines leaves every byte, and every line's state, as
they were. -/

namespace Sys2Proof.Proofs

open Sys2Proof.Machine Sys2Proof.Laws

/-- `u` holds the bytes of `s`, and its lines, dies, requests and polders stand as in `s`: only MEM_ECC_LAST may differ among the registers. -/
structure ReadFrame (s u : State) : Prop where
  mem : u.mem = s.mem
  chk : u.chk = s.chk
  dies : u.dies = s.dies
  ctxs : u.ctxs = s.ctxs
  polders : u.polders = s.polders
  reg : ∀ r : Reg, (∀ st, st < 20 → regAddr r ≠ regAddr ⟨.MEM_ECC_LAST, st, 0⟩) → getReg u r = getReg s r

theorem regAddr_row_ne_eccLast {st row x : Nat} (_ : st < 20) (_ : row < 1024) (_ : x < 20) :
    regAddr (rowReg st row) ≠ regAddr ⟨.MEM_ECC_LAST, x, 0⟩ := by
  simp only [regAddr, rowReg, RegName.place, classAddr, regAt, unitNo]
  omega

theorem regAddr_pcFail_ne_eccLast {st x : Nat} (_ : st < 20) (_ : x < 20) : regAddr ⟨.MEM_PC_FAIL, st, 0⟩ ≠ regAddr ⟨.MEM_ECC_LAST, x, 0⟩ := by
  simp only [regAddr, RegName.place, classAddr, regAt, unitNo]
  omega

theorem regAddr_ctlSts_ne_eccLast {st x : Nat} (_ : st < 20) (_ : x < 20) : regAddr ⟨.MEM_CTL_STS, st, 0⟩ ≠ regAddr ⟨.MEM_ECC_LAST, x, 0⟩ := by
  simp only [regAddr, RegName.place, classAddr, regAt, unitNo]
  omega

/-- Whether a place in a stack counts as lost (R34, R373). -/
def lostIn (s : State) (x : Nat × Nat × Nat × Nat) : Bool :=
  decide (getF s ⟨.MEM_PC_FAIL, x.1, 0⟩ x.2.2.1 x.2.2.1 = 1) || decide (getF s ⟨.MEM_CTL_STS, x.1, 0⟩ 1 0 = 3)
    || ((nth? s.dies (x.1 / 5)).map (·.lost)).getD false

/-- The stack of an HBM address. -/
theorem stack_lt {a : Nat} (h : a < hbmEnd) : a / stackBytes < 20 := by
  simp only [hbmEnd, stackBytes] at *
  omega

theorem row_lt (a : Nat) : a % stackBytes / rowBytes < 1024 := by
  simp only [stackBytes, rowBytes]
  omega

namespace ReadFrame

variable {s u v : State}

theorem refl (s : State) : ReadFrame s s := ⟨rfl, rfl, rfl, rfl, rfl, fun _ _ => rfl⟩

theorem trans (h : ReadFrame s u) (h' : ReadFrame u v) : ReadFrame s v :=
  ⟨h'.mem.trans h.mem, h'.chk.trans h.chk, h'.dies.trans h.dies, h'.ctxs.trans h.ctxs, h'.polders.trans h.polders,
    fun r hr => (h'.reg r hr).trans (h.reg r hr)⟩

theorem of_csr (hmem : u.mem = s.mem) (hchk : u.chk = s.chk) (hdies : u.dies = s.dies) (hctxs : u.ctxs = s.ctxs)
    (hpolders : u.polders = s.polders) (hcsr : u.csr = s.csr) : ReadFrame s u :=
  ⟨hmem, hchk, hdies, hctxs, hpolders, fun r _ => by simp only [getReg, hcsr]⟩

theorem getF_row (h : ReadFrame s u) {a : Nat} (ha : a < hbmEnd) (hi lo : Nat) :
    getF u (rowReg (a / stackBytes) (a % stackBytes / rowBytes)) hi lo = getF s (rowReg (a / stackBytes) (a % stackBytes / rowBytes)) hi lo := by
  rw [getF, getF, h.reg _ fun st hst => regAddr_row_ne_eccLast (stack_lt ha) (row_lt a) hst]

theorem lineOk (h : ReadFrame s u) (line : Nat) : lineOk u line = lineOk s line := by
  unfold Machine.lineOk
  by_cases ha : line * 64 < hbmEnd
  · have hwin : lineHostwin u line = lineHostwin s line := by
      simp only [lineHostwin, rowHostwin, h.getF_row ha]
    have hstate : ∀ w, lineState u w line = lineState s w line := fun w => by
      have hdev : lineDev u line = lineDev s line := congrArg (mapGetD · line 0) h.chk
      unfold lineState
      rw [hdev]
    simp only [ha, if_true, hwin, hstate]
  · simp only [ha, if_false]

theorem memLost (h : ReadFrame s u) (a : Nat) : memLost u a = memLost s a := by
  unfold Machine.memLost
  by_cases ha : a < hbmEnd
  · have hpc : pcOf u a = pcOf s a := by
      have hstriped : rowStriped u (a / stackBytes) (a % stackBytes / rowBytes) = rowStriped s (a / stackBytes) (a % stackBytes / rowBytes) :=
        congrArg (fun v => decide (v = 1)) (h.getF_row ha 0 0)
      simp only [pcOf, hstriped]
    have hst : (pcOf s a).1 = a / stackBytes := rfl
    have hfail : getReg u ⟨.MEM_PC_FAIL, (pcOf s a).1, 0⟩ = getReg s ⟨.MEM_PC_FAIL, (pcOf s a).1, 0⟩ :=
      h.reg _ fun st h' => regAddr_pcFail_ne_eccLast (hst ▸ stack_lt ha) h'
    have hsts : getReg u ⟨.MEM_CTL_STS, (pcOf s a).1, 0⟩ = getReg s ⟨.MEM_CTL_STS, (pcOf s a).1, 0⟩ :=
      h.reg _ fun st h' => regAddr_ctlSts_ne_eccLast (hst ▸ stack_lt ha) h'
    have hcode : ∀ x : Nat × Nat × Nat × Nat, getReg u ⟨.MEM_PC_FAIL, x.1, 0⟩ = getReg s ⟨.MEM_PC_FAIL, x.1, 0⟩ →
        getReg u ⟨.MEM_CTL_STS, x.1, 0⟩ = getReg s ⟨.MEM_CTL_STS, x.1, 0⟩ → lostIn u x = lostIn s x := fun x h1 h2 => by
      unfold lostIn getF
      rw [h1, h2, h.dies]
    exact (if_pos ha).trans (((congrArg (lostIn u) hpc).trans (hcode _ hfail hsts)).trans (if_pos ha).symm)
  · simp only [ha, if_false]

theorem lineCode (h : ReadFrame s u) (line : Nat) : lineCode u line = lineCode s line := by
  simp only [Machine.lineCode, h.memLost, h.lineOk]

theorem rdB (h : ReadFrame s u) (a : Nat) : rdB u a = rdB s a := by
  simp only [Machine.rdB, h.mem, h.lineOk]

theorem rdBytes (h : ReadFrame s u) (a n : Nat) : rdBytes u a n = rdBytes s a n := by
  induction n generalizing a with
  | zero => rfl
  | succ n ih => exact congrArg₂ List.cons (h.rdB a) (ih (a + 1))

theorem foldl {α : Type} {f : State → α → State} (hf : ∀ s x, ReadFrame s (f s x)) (l : List α) (s : State) : ReadFrame s (l.foldl f s) := by
  induction l generalizing s with
  | nil => exact refl s
  | cons x l ih => exact (hf s x).trans (ih _)

/-! ### What an access notes -/

theorem queueScrub (s : State) (line : Nat) : ReadFrame s (queueScrub s line) := by
  unfold Machine.queueScrub
  simp only
  split
  · exact refl s
  · split
    · exact of_csr rfl rfl rfl rfl rfl rfl
    · exact of_csr rfl rfl rfl rfl rfl rfl

theorem bump (s : State) (r : Reg) (hi lo n : Nat) : ReadFrame s (bump s r hi lo n) := of_csr rfl rfl rfl rfl rfl rfl

theorem setEccLast (s : State) {st : Nat} (h : st < 20) (v : Word) : ReadFrame s (setReg s ⟨.MEM_ECC_LAST, st, 0⟩ v) :=
  ⟨rfl, rfl, rfl, rfl, rfl, fun _ hr => getReg_setReg_of_ne s v (hr st h)⟩

theorem noteEcc (s : State) {line : Nat} (h : line * 64 < hbmEnd) (kind : Nat) : ReadFrame s (noteEcc s line kind) := by
  have hlast := setEccLast s (stack_lt h) (BitVec.ofNat 64 (kind * 2 ^ 62 + line * 64))
  unfold Machine.noteEcc
  simp only
  split
  · exact hlast.trans (bump _ _ _ _ _)
  · split
    · exact hlast.trans (bump _ _ _ _ _)
    · exact hlast

/-- A line without an error code is at most corrected. -/
theorem touchWindow {line : Nat} (s : State) (h : Machine.lineCode s line = 0) : ReadFrame s (touchWindow s line) := by
  have hlost : Machine.memLost s (line * 64) = false := by
    cases hl : Machine.memLost s (line * 64) with
    | false => rfl
    | true => exact absurd ((if_pos hl).symm.trans h) (by decide)
  cases hok : Machine.lineOk s line with
  | clean => simpa [Machine.touchWindow, touchLine, hok, hlost] using refl s
  | corrected fix =>
    have hin : line * 64 < hbmEnd := by
      by_contra hout
      simp [Machine.lineOk, hout] at hok
    simpa [Machine.touchWindow, touchLine, hok, hlost] using (noteEcc s hin 1).trans (.queueScrub _ line)
  | poisoned => simp [Machine.lineCode, hlost, hok, Code.MEM_POISON] at h
  | uncorrectable => simp [Machine.lineCode, hlost, hok, Code.MEM_UNCORRECTABLE] at h

theorem foldl_touchWindow (l : List Nat) (s : State) (h : ∀ x ∈ l, Machine.lineCode s x = 0) : ReadFrame s (l.foldl Machine.touchWindow s) := by
  induction l generalizing s with
  | nil => exact refl s
  | cons x l ih =>
    have hx : ReadFrame s (Machine.touchWindow s x) := touchWindow s (h x List.mem_cons_self)
    exact hx.trans (ih _ fun y hy => (hx.lineCode y).trans (h y (List.mem_cons_of_mem x hy)))

theorem makeResident (s : State) (p r die tile : Nat) (w : Bool) : ReadFrame s (makeResident s p r die tile w) := by
  have hevict : ∀ x, ReadFrame s (evict s x) := fun x => by
    unfold evict
    simp only
    split <;> exact of_csr rfl rfl rfl rfl rfl rfl
  unfold Machine.makeResident
  simp only
  split
  · split
    · exact of_csr rfl rfl rfl rfl rfl rfl
    · exact refl s
  · split
    · split
      · exact (hevict _).trans (of_csr rfl rfl rfl rfl rfl rfl)
      · exact hevict _
    · exact refl s

theorem poolUse (s : State) (p r off n : Nat) (w : Bool) : ReadFrame s (poolUse s p r off n w) := by
  unfold Machine.poolUse
  split
  · split
    · refine foldl (fun s i => ?_) _ s
      unfold useTile
      split
      · exact of_csr rfl rfl rfl rfl rfl rfl
      · exact makeResident s _ _ _ _ _
    · exact refl s
  · exact refl s

end ReadFrame

theorem firstCode_eq_zero {l : List Nat} (h : firstCode l = 0) : ∀ x ∈ l, x = 0 := by
  intro x hx
  cases hf : l.find? (· ≠ 0) with
  | none => simpa using List.find?_eq_none.1 hf x hx
  | some y =>
    have hy : y ≠ 0 := by simpa using List.find?_some hf
    exact absurd ((congrArg (Option.getD · 0) hf).symm.trans h) hy

/-- A read that memory answers touched lines without an error. -/
theorem hostAccess_read_ok {s s1 : State} {c : Option Nat} {a n : Nat} (h : hostAccess s c a n false = (.ok, s1)) :
    s1 = (linesOf a n).foldl touchWindow s ∧ ∀ l ∈ linesOf a n, lineCode s l = 0 := by
  have hgo : hostAccess.go s c a n false (linesOf a n) = (.ok, s1) := by
    simp only [hostAccess] at h
    split at h
    · split at h
      · cases h
      · split at h
        · cases h
        · exact h
    · exact h
  simp only [hostAccess.go, Bool.not_false, Bool.true_or, List.filter_true, if_true] at hgo
  split at hgo
  · cases hgo
  · split at hgo
    · next hcode =>
      refine ⟨(congrArg Prod.snd hgo).symm, fun l hl => ?_⟩
      exact firstCode_eq_zero hcode _ (List.mem_map_of_mem hl)
    · cases hgo

theorem hostAccess_readFrame {s s1 : State} {c : Option Nat} {a n : Nat} (h : hostAccess s c a n false = (.ok, s1)) : ReadFrame s s1 := by
  obtain ⟨rfl, hcodes⟩ := hostAccess_read_ok h
  exact .foldl_touchWindow _ _ hcodes

/-- The state after a read of a request, where a read of its operand uses the pool. -/
def usedOperand (s s1 : State) (c a n : Nat) : State :=
  let d := (getCtx s c).desc
  if operandAddr s d ≤ a ∧ a < operandAddr s d + dOpBytes d then
    poolUse s1 (dPolder d) (dOpRegion d) (dOpOffset d + (a - operandAddr s d)) n false else s1

theorem usedOperand_readFrame {s s1 : State} {c a n : Nat} (h : hostAccess s (some c) a n false = (.ok, s1)) :
    ReadFrame s (usedOperand s s1 c a n) := by
  unfold usedOperand
  simp only
  split
  · exact (hostAccess_readFrame h).trans (.poolUse _ _ _ _ _ _)
  · exact hostAccess_readFrame h

/-- A read for a request that memory answers goes on with the bytes, which the access left as they were. -/
theorem withBytes_ok {s s1 : State} {c a n : Nat} (h : hostAccess s (some c) a n false = (.ok, s1)) (k : State → List Byte → State) :
    withBytes s c a n k = k (usedOperand s s1 c a n) (rdBytes (usedOperand s s1 c a n) a n) := by
  rw [(usedOperand_readFrame h).rdBytes]
  simp only [withBytes, h]
  rfl

/-- What goes on after a read may ask for anything that the access leaves as it was. -/
theorem withBytes_congr {s : State} {c a n : Nat} {k k' : State → List Byte → State} (h : ∀ u bs, ReadFrame s u → k u bs = k' u bs) :
    withBytes s c a n k = withBytes s c a n k' := by
  cases haccess : hostAccess s (some c) a n false with
  | mk res s1 =>
    cases res with
    | ok => rw [withBytes_ok haccess, withBytes_ok haccess, h _ _ (usedOperand_readFrame haccess)]
    | wait => simp only [withBytes, haccess]
    | code e => simp only [withBytes, haccess]

end Sys2Proof.Proofs
end

