-- ==== Sys2Proof/Proofs/BsuCommands.lean ====
section
/-! PROOFS. The controller's commands (R242 to R263): how a formed command is queued or refused, what the segments form, and the upkeep of the
banks. -/

namespace Sys2Proof.Proofs

open Sys2Proof.Machine Sys2Proof.Laws

/-! ### Forming and queueing -/

section
variable {s : State} {st p : Nat} {c : BsuCmd}

/-- A formed command of a controller that issues commands joins its unit's queue where nothing refuses it. -/
theorem submit_queued {cmd : Option BsuCmd} (hc : cmd = some c) (hon : bsuOn s st = true) (hop : reservedOp (recOpcode c.head) = false)
    (hpages : pagesCode s st c.op (namedPages s c) = 0) :
    submit s st p cmd = setBsu s st p { getBsu s st p with queue := (getBsu s st p).queue ++ [c] } := by
  simp only [hc, submit, hon, hop, hpages, Bool.not_true, Bool.false_eq_true, if_false, ne_eq, not_true_eq_false]

theorem submit_reserved (hon : bsuOn s st = true) (hop : reservedOp (recOpcode c.head) = true) :
    submit s st p (some c) = refuseCmd s st p c.reqs Code.BSU_LAYOUT := by
  simp only [submit, hon, hop, Bool.not_true, Bool.false_eq_true, if_false, if_true]

theorem submit_badPages {code : Nat} (hon : bsuOn s st = true) (hop : reservedOp (recOpcode c.head) = false)
    (hpages : pagesCode s st c.op (namedPages s c) = code) (hcode : code ≠ 0) : submit s st p (some c) = refuseCmd s st p c.reqs code := by
  simp only [submit, hon, hop, hpages, hcode, Bool.not_true, Bool.false_eq_true, if_false, ne_eq, not_false_eq_true, if_true]

end

/-- Whatever forms a command for a record takes its head from the record. -/
theorem scanCmd_fields {s : State} {op : BsuOp} {st p seg : Nat} {h : List Word} {batch : List Nat} {c : BsuCmd}
    (hform : scanCmd s op st p seg h batch = some c) :
    c.op = op ∧ c.head = h ∧ c.seg = seg ∧ c.done = 0 ∧ c.reqs = batch.map fun x => (x, (getCtx s x).gen) := by
  obtain ⟨-, hc⟩ := Option.ite_none_right_eq_some.1 hform
  cases hc
  exact ⟨rfl, rfl, rfl, rfl, List.map_map⟩

theorem pruneCmd_fields {s : State} {h : List Word} {x item : Nat} {c : BsuCmd} (hform : pruneCmd s h x item = some c) :
    c.head = h ∧ c.done = 0 := by
  simp only [pruneCmd] at hform
  split at hform
  · cases hform
  · obtain ⟨-, hc⟩ := Option.ite_none_right_eq_some.1 hform
    cases hc
    exact ⟨rfl, rfl⟩

theorem edgeCmd_fields {s : State} {st p cons seg base : Nat} {h : List Word} {c : BsuCmd} (hform : edgeCmd s st p h cons seg base = some c) :
    c.head = h ∧ c.done = 0 := by
  simp only [edgeCmd] at hform
  split at hform
  · cases hform
  · obtain ⟨-, hc⟩ := Option.ite_none_right_eq_some.1 hform
    cases hc
    exact ⟨rfl, rfl⟩

theorem copyCmd_fields {h pages : List Word} {c : BsuCmd} (hform : copyCmd h pages = some c) : c.head = h ∧ c.done = 0 := by
  obtain ⟨-, hc⟩ := Option.ite_none_right_eq_some.1 hform
  cases hc
  exact ⟨rfl, rfl⟩

theorem fillCmd_fields {h : List Word} {c : BsuCmd} (hform : fillCmd h = some c) : c.head = h ∧ c.done = 0 ∧ c.reqs = [] := by
  obtain ⟨-, hc⟩ := Option.ite_none_right_eq_some.1 hform
  cases hc
  exact ⟨rfl, rfl, rfl⟩

theorem poolCmd_fields {s : State} {st p x : Nat} {h : List Word} {bs : List Byte} {c : BsuCmd} (hform : poolCmd s st p h x bs = some c) :
    c.head = h ∧ c.op = .pool := by
  obtain ⟨-, hc⟩ := Option.ite_none_right_eq_some.1 hform
  cases hc
  exact ⟨rfl, rfl⟩

/-- What a scan's page list names. -/
theorem namedPages_scan {s : State} {c : BsuCmd} (h : c.op = .scan ∨ c.op = .shadow ∨ c.op = .filter) : namedPages s c = c.pages.map pagePc := by
  rcases h with h | h | h <;> simp only [namedPages, h]

/-- A command refused without requests is counted, and that is all. -/
theorem refuseCmd_nil (s : State) (st p code : Nat) :
    refuseCmd s st p [] code = bump (bump s ⟨.BSU_CNT3, st, p⟩ 31 0 1) ⟨.BSU_CNT0, st, p⟩ 31 0 1 := rfl

/-- Settles O25: the reserved opcode is found first, then the pages. -/
theorem bsuRefusals : Obligations.BsuRefusals := by
  unfold Obligations.BsuRefusals
  refine ⟨?_, ?_, ?_, ?_, ?_⟩
  · intro s st p c hon hop
    exact submit_reserved hon hop
  · intro s st p c hon hop hfill hstriped
    exact submit_badPages hon hop (if_pos ⟨hfill, hstriped⟩) (by decide)
  · intro s st p c hon hop hfill hopaque
    refine submit_badPages hon hop ((if_neg ?_).trans (if_pos hopaque)) (by decide)
    rintro ⟨hne, hstriped⟩
    rcases hfill with h | h
    · exact hne h
    · exact ne_true_of_eq_false h hstriped
  · intro s st p code
    rw [refuseCmd_nil]
    exact ⟨rfl, rfl, rfl⟩
  · intro s st p rec c halive hawake hon hform hop
    obtain ⟨hhead, -, hreqs⟩ := fillCmd_fields hform
    refine exec_crest rfl halive hawake ?_
    rw [hform, submit_reserved hon (hhead ▸ hop), hreqs, refuseCmd_nil]

/-! ### Scans, shadow scans and filters -/

theorem doScan_queued {s r : State} {op : BsuOp} {st p seg : Nat} {h : List Word} {c : BsuCmd} {batch : List Nat}
    (hop : op = .scan ∨ op = .shadow ∨ op = .filter)
    (hbatch : batch = batchOf s (getColl s (recColl h)) seg (min (recQueries h) (getF s ⟨.MEM_BSU_CFG, st, 0⟩ 15 8)) op
      (scanJobs s st p (recPolder h) (recColl h) seg op))
    (hr : r = if op = .filter then s else batch.foldl loadQuery s) (hform : scanCmd r op st p seg h batch = some c) (hon : bsuOn r st = true)
    (hres : reservedOp (recOpcode h) = false) (hpages : pagesCode r st op (c.pages.map pagePc) = 0) :
    doScan s op st p seg h = setBsu r st p { getBsu r st p with queue := (getBsu r st p).queue ++ [c] } := by
  obtain ⟨hcop, hhead, -⟩ := scanCmd_fields hform
  have hnamed : namedPages r c = c.pages.map pagePc := namedPages_scan (hcop ▸ hop)
  have hscan : doScan s op st p seg h = submit r st p (scanCmd r op st p seg h batch) := by
    subst hr hbatch
    rfl
  rw [hscan]
  exact submit_queued hform hon (hhead ▸ hres) (by rw [hcop, hnamed]; exact hpages)

/-- A segment without an error that is not its command's last keeps what it formed. -/
theorem runSegment_goesOn {s r u : State} {st p n : Nat} {c : BsuCmd} {out : BsuOut}
    (hread : bsuRead (bump (bump s ⟨.BSU_CNT0, st, p⟩ 63 32 1) ⟨.BSU_CNT1, st, p⟩ 63 0 (64 * (segmentLines s st p c n).length)) st p
      (segmentLines s st p c n) = (r, 0))
    (hform : formOut r st p c n = (u, out)) (hleft : c.done + n < workOf u c) :
    runSegment s st p c n = setBsu u st p { getBsu u st p with
      queue := modFirst (recPolder c.head) (fun _ => some { c with done := c.done + n, out := out }) (getBsu u st p).queue } := by
  simp only [runSegment, hread, hform, ne_eq, not_true_eq_false, if_false, hleft, if_true]

theorem formOut_lists {r : State} {st p n : Nat} {c : BsuCmd} {ls : List BsuList} (hop : c.op = .scan ∨ c.op = .shadow) (hout : c.out = .lists ls) :
    formOut r st p c n =
      let rs := (queriesOf c.arg).zip ls |>.map fun x =>
        scanRecs r st p (getColl r (recColl c.head)) c (recordsFrom (recReads r c) c.pages c.done n) x.1 x.2
      (bump r ⟨.BSU_CNT4, st, p⟩ 63 32 (rs.foldl (fun n r => n + r.2) 0), .lists (rs.map (·.1))) := by
  rcases hop with h | h <;> simp only [formOut, h, hout]

theorem workOf_scan {s : State} {c : BsuCmd} (hop : c.op = .scan ∨ c.op = .shadow) : workOf s c = recordsOf c.pages := by
  rcases hop with h | h <;> simp only [workOf, h]

/-- Settles O23. -/
theorem bsuScans : Obligations.BsuScans := by
  unfold Obligations.BsuScans
  refine ⟨?_, ?_, ?_⟩
  · intro s r st p rec seg e c he halive hawake h batch hr hform hon hres hpages
    obtain ⟨hcop, hhead, hseg, hdone, hreqs⟩ := scanCmd_fields hform
    refine ⟨?_, hcop, hhead, hseg, hdone, hreqs.trans ?_⟩
    · simp only [List.mem_cons, List.not_mem_nil, or_false] at he
      rcases he with rfl | rfl | rfl
      · exact exec_crest rfl halive hawake (doScan_queued (.inl rfl) rfl hr hform hon hres hpages)
      · exact exec_crest rfl halive hawake (doScan_queued (.inr (.inl rfl)) rfl hr hform hon hres hpages)
      · exact exec_crest rfl halive hawake (doScan_queued (.inr (.inr rfl)) rfl hr hform hon hres hpages)
    · rfl
  · intro s r st p c n ls hop hout co lines hread hleft rs u
    exact runSegment_goesOn hread (formOut_lists hop hout) ((workOf_scan hop).symm ▸ hleft)
  · intro s st p c n xs hop hout co recs
    simp only [formOut, hop, hout]
    rfl

/-! ### Pruning, copies, fills, edge scans and pools -/

/-- Settles O24. -/
theorem bsuWrites : Obligations.BsuWrites := by
  unfold Obligations.BsuWrites
  refine ⟨?_, ?_, ?_, ?_, ?_, ?_, ?_⟩
  · intro s st p rec x item cons seg base pages e c he halive hawake hon hform hres hpages
    simp only [List.mem_cons, List.not_mem_nil, or_false] at he
    rcases he with rfl | rfl | rfl | rfl
    · obtain ⟨hhead, hdone⟩ := pruneCmd_fields hform
      exact ⟨exec_crest rfl halive hawake (submit_queued hform hon (hhead ▸ hres) hpages), hhead, hdone⟩
    · obtain ⟨hhead, hdone⟩ := edgeCmd_fields hform
      exact ⟨exec_crest rfl halive hawake (submit_queued hform hon (hhead ▸ hres) hpages), hhead, hdone⟩
    · obtain ⟨hhead, hdone⟩ := copyCmd_fields hform
      exact ⟨exec_crest rfl halive hawake (submit_queued hform hon (hhead ▸ hres) hpages), hhead, hdone⟩
    · obtain ⟨hhead, hdone, -⟩ := fillCmd_fields hform
      exact ⟨exec_crest rfl halive hawake (submit_queued hform hon (hhead ▸ hres) hpages), hhead, hdone⟩
  · intro s s1 r st p rec x c halive hawake hlive hstage k a haccess hr hform hon hres hpages
    obtain ⟨hhead, hop⟩ := poolCmd_fields hform
    refine exec_crest rfl halive hawake ?_
    have hpool : doPool s st.val p.val rec.toList x.val = submit r st.val p.val (poolCmd r st.val p.val rec.toList x.val (rdBytes r a (dOpBytes k.desc))) := by
      subst hr
      unfold doPool
      rw [if_neg (by simp [hlive, hstage])]
      exact withBytes_ok haccess _
    rw [hpool]
    exact submit_queued hform hon (hhead ▸ hres) (hop ▸ hpages)
  · intro s r st p c i id code cands harg co a bs hread
    unfold pruneWrite
    rw [harg]
    simp only [bs, a, co] at hread ⊢
    simp only [hread, if_true]
  · intro s src dst h
    simp only [moveLine, h]
  · intro s src dst h
    rcases h with h | h <;> simp only [moveLine, h]
  · intro s st p c n hop granule
    unfold formOut
    simp only [hop]
    rfl
  · intro s st p c n cons base ids ds hop hout harg recs
    simp only [formOut, hop, hout, harg]
    rfl

/-! ### Segments, lists and the upkeep of the banks -/

section
variable {r : State} {st p win : Nat} {t : Stamp} {c : BsuCmd}

/-- The unit with a segment of `c` begun in a window of the tick (R243). -/
def begunSegment (r : State) (b : Bsu) (c : BsuCmd) (win : Nat) : Bsu :=
  { b with run := some c, segEnd := r.tick.base + 2 * us * (win + 1), used := some (r.tick.tick, win), window := win }

theorem doSegment_runs (hrun : r.tick.running = true) (hbegun : r.tick.begun = true) (hwin : win < nWindows r) (hbase : r.tick.base ≤ t)
    (hfrom : 2 * us * win + 500 ≤ t - r.tick.base) (hto : t - r.tick.base < 2 * us * (win + 1)) (hon : bsuOn r st = true)
    (hfits : fits r (r.tick.base + 2 * us * win + 500) 1500 = true)
    (hused : (takeRefresh r (getBsu r st p) r.tick.tick win (r.tick.base + 2 * us * win)).used ≠ some (r.tick.tick, win))
    (hcmd : ((takeRefresh r (getBsu r st p) r.tick.tick win (r.tick.base + 2 * us * win)).queue.find? fun c =>
      recPolder c.head = winOwner r st win) = some c)
    (hready : segmentReady r c (segmentLen r c) = true)
    (hpages : let u := setBsu r st p (begunSegment r (takeRefresh r (getBsu r st p) r.tick.tick win (r.tick.base + 2 * us * win)) c win)
      pagesCode u st c.op (namedFrom u c c.done (segmentLen r c)) = 0) :
    doSegment r st p win t
      = runSegment (setBsu r st p (begunSegment r (takeRefresh r (getBsu r st p) r.tick.tick win (r.tick.base + 2 * us * win)) c win)) st p c
          (segmentLen r c) := by
  unfold doSegment
  simp only [begunSegment] at hpages ⊢
  simp only [hrun, hbegun, hwin, hbase, hfrom, hto, hon, hfits, decide_true, Bool.and_self, Bool.not_true, Bool.false_or, decide_eq_false hused,
    Bool.false_eq_true, if_false, hcmd, hready, hpages, ne_eq, not_true_eq_false]

theorem doSegment_used (hused : (takeRefresh r (getBsu r st p) r.tick.tick win (r.tick.base + 2 * us * win)).used = some (r.tick.tick, win)) :
    doSegment r st p win t = r := by
  unfold doSegment
  simp only [hused, decide_true, Bool.or_true, if_true]

/-- Outside a guard a refresh waits only while a segment of this window runs. -/
theorem doRefresh_now (hguard : inGuard r t = false) (hidle : (getBsu r st p).segEnd ≤ t ∨ (getBsu r st p).used = none) :
    doRefresh r st p t = setBsu r st p { getBsu r st p with refEnd := t + 200 } := by
  unfold doRefresh
  rcases hidle with h | h
  · simp only [decide_eq_false (Nat.not_lt.2 h), Bool.false_and, Bool.false_eq_true, if_false, hguard]
  · simp only [h, reduceCtorEq, decide_false, Bool.and_false, Bool.false_and, Bool.false_eq_true, if_false, hguard]

theorem doRefresh_waits (hguard : inGuard r t = false) (hrun : r.tick.running = true) (hbegun : r.tick.begun = true) (hberm : inBerm r t = false)
    (hseg : t < (getBsu r st p).segEnd) (hused : (getBsu r st p).used = some (r.tick.tick, (t - r.tick.base) / (2 * us))) :
    doRefresh r st p t = setBsu r st p { getBsu r st p with refresh := (getBsu r st p).refresh ++ [t] } := by
  unfold doRefresh
  simp only [hrun, hbegun, hberm, Bool.not_false, Bool.and_self, if_true, hseg, hused, hguard, decide_true]

theorem doPatrol_corrected {line : Nat} {fix : List (Nat × Nat)} (hcfg : fld (getReg r ⟨.MEM_SCRUB_CFG, st, 0⟩) 0 0 = 1) (hguard : inGuard r t = true)
    (hline : line + 1 < stackBytes / 64) (hmem : memLost r ((st * (stackBytes / 64) + line) * 64) = false)
    (hok : lineOk r (st * (stackBytes / 64) + line) = .corrected fix) :
    doPatrol r st line t = rewriteLine (noteEcc r (st * (stackBytes / 64) + line) 1) (st * (stackBytes / 64) + line) := by
  have hon : (decide (fld (getReg r ⟨.MEM_SCRUB_CFG, st, 0⟩) 0 0 = 0) || !inGuard r t || decide (stackBytes / 64 ≤ line)
      || memLost r ((st * (stackBytes / 64) + line) * 64)) = false := by
    rw [hguard, hmem, hcfg, decide_eq_false (Nat.not_le.2 (Nat.lt_of_succ_lt hline))]
    rfl
  unfold doPatrol
  simp only [hon, Bool.false_eq_true, if_false, hok, Nat.ne_of_lt hline]

end

/-- The list of a segment whose every code page was scanned goes to the request on its owner's die (R254). -/
theorem doSegmentList_owner {s : State} {c seg die : Nat} {sh : Bool} (hlive : isLive s c = true) (hscans : scansIn s c sh = true)
    (hseg : seg < cSegments s (getColl s (dColl (getCtx s c).desc)))
    (hall : ((codePages s (getColl s (dColl (getCtx s c).desc)) seg (getCtx s c).pin).all fun g =>
      (segResults s c seg (if sh then .shadow else .scan)).any fun r => r.1 = g.1 && r.2.1.pages.any fun e => pagePc e = g.2) = true)
    (hdie : ((codePages s (getColl s (dColl (getCtx s c).desc)) seg (getCtx s c).pin).head?).elim
      (cWalkDie s (getColl s (dColl (getCtx s c).desc)) (cSegPart s (getColl s (dColl (getCtx s c).desc)) seg)) (fun g => g.1 / 64 / 5) = die)
    (howner : activeOwner s c = some die) :
    doSegmentList s c seg sh =
      let add (ls : List PList) : List PList :=
        if ls.any (fun x => x.covers.contains seg) then ls else ls ++ [segmentList s (getColl s (dColl (getCtx s c).desc)) seg
          (walkK s (getCtx s c)) ((segResults s c seg (if sh then .shadow else .scan)).map (·.2.2))]
      modWork (takeSegResults s c seg (if sh then .shadow else .scan)) c fun w =>
        if sh then { w with shadows := add w.shadows } else { w with lists := add w.lists } := by
  have howner' : ∀ op, activeOwner (takeSegResults s c seg op) c = some die := fun _ => howner
  unfold doSegmentList
  simp only [hlive, hscans, hseg, hall, hdie, howner', decide_true, Bool.and_self, Bool.not_true, Bool.false_eq_true, if_false, if_true]

/-- Settles O26. -/
theorem bsuUpkeep : Obligations.BsuUpkeep := by
  unfold Obligations.BsuUpkeep
  refine ⟨?_, ?_, ?_, ?_, ?_, ?_, ?_⟩
  · intro s r st p win t c hr halive hawake hrun hbegun hwin hbase hfrom hto hon hfits b hused hcmd hready u hpages
    subst hr
    exact exec_crest rfl halive hawake (doSegment_runs hrun hbegun hwin hbase hfrom hto hon hfits hused hcmd hready hpages)
  · intro s r st p win t hr hused
    subst hr
    refine congrArg Host.Outcome.next ?_
    unfold onCrest
    split
    · exact doSegment_used hused
    · rfl
  · intro s c seg die sh halive hawake k co op rs pages hlive hscans hseg hall hdie howner add
    refine exec_crest rfl halive hawake ?_
    exact doSegmentList_owner hlive hscans hseg hall hdie howner
  · intro s r st p t l ls hr halive hguard hscrub
    subst hr
    refine exec_part rfl halive ?_
    simp only [doScrub, hguard, Bool.not_true, Bool.false_eq_true, if_false, hscrub]
  · intro s r st line fix t hr halive hcfg hguard hline l hmem hok
    subst hr
    exact exec_part rfl halive (doPatrol_corrected hcfg hguard hline hmem hok)
  · intro s r st p t hr halive hguard b
    subst hr
    exact ⟨fun hidle => exec_part rfl halive (doRefresh_now hguard hidle),
      fun hrun hbegun hberm hseg hused => exec_part rfl halive (doRefresh_waits hguard hrun hbegun hberm hseg hused)⟩
  · intro s st row v halive hguard hpend
    refine exec_part rfl halive ?_
    simp only [doEccChange, hpend, hguard, Bool.not_true, Bool.false_eq_true, if_false]

end Sys2Proof.Proofs
end

