-- ==== Sys2Proof/Proofs/Handoffs.lean ====
section
/-! PROOFS. Handing a context over and the sub-requests of another die (R92, R94, R560, R561): what a message does where its sender, its
receiver and the slot's generation agree. -/

namespace Sys2Proof.Proofs

open Sys2Proof.Machine Sys2Proof.Laws

section
variable {s r : State} {c g h d dst src : Nat} {t : Stamp}

/-- The owner of a finished stage hands the context to the next stage's die. -/
theorem doHandoff_sends {nx : Stage} (howner : activeOwner s c = some d) (hnext : succStage s c = some nx) (hlive : isLive s c = true)
    (hready : stageReady s c = true) (hawaits : awaitsOf s c = []) (href : firstRefusal s c = none) (htarget : handTarget s c d nx = some dst) :
    doHandoff s c dst t = sendMsg
      (modDie (modCtx (carryLists (takeSearches s c d) c) c fun k => { k with hseq := nextH (getCtx s c) }) d fun x => { x with owns := x.owns.map fun o =>
        if o.ctx = c ∧ o.gen = (getCtx s c).gen then { o with handing := some ⟨dst, nextH (getCtx s c), 1, t, false⟩ } else o })
      d dst (.hnd c (getCtx s c).gen (nextH (getCtx s c)) nx.num) := by
  unfold doHandoff
  simp only [howner, hnext, hlive, hready, hawaits, href, htarget, List.isEmpty_nil, Bool.and_self, Bool.not_true, Bool.false_eq_true, if_false,
    ne_eq, not_true_eq_false]

theorem doHnd_enters {n : Nat} {st : Stage} (htake : takeFlight s src dst .hnd = some (.hnd c g h n, r)) (hlink : linkFailed r dst src = false)
    (hgen : (getCtx r c).gen = g) (hdup : isDup (getDie r dst) c g h = false)
    (hstage : stageOf (getPolder r (getCtx r c).polder) n = some st) (hlive : isLive r c = true) :
    doHnd s src dst t = sendMsg (enterStage (modDie r dst fun d => { d with last := mapSet d.last c h, owns := d.owns ++ [⟨c, g, none⟩] }) c dst st)
      dst src (.hak c g h) := by
  have hstage' : ∀ f, stageOf (getPolder (modDie r dst f) (getCtx (modDie r dst f) c).polder) n = some st := fun _ => hstage
  have hlive' : ∀ f, isLive (modDie r dst f) c = true := fun _ => hlive
  unfold doHnd
  simp only [htake, hlink, hgen, hdup, hstage', hlive', Bool.false_eq_true, if_false, if_true, ne_eq, not_true_eq_false]

theorem doHnd_duplicate {n : Nat} (htake : takeFlight s src dst .hnd = some (.hnd c g h n, r)) (hlink : linkFailed r dst src = false)
    (hgen : (getCtx r c).gen = g) (hdup : isDup (getDie r dst) c g h = true) : doHnd s src dst t = sendMsg r dst src (.hak c g h) := by
  unfold doHnd
  simp only [htake, hlink, hgen, hdup, Bool.false_eq_true, if_false, if_true, ne_eq, not_true_eq_false]

theorem doHnd_holdsSub {part owner : Nat} (htake : takeFlight s src dst .hnd = some (.sub c g h part owner, r)) (hlink : linkFailed r dst src = false)
    (hgen : (getCtx r c).gen = g) (hdup : isDup (getDie r dst) c g h = false) :
    doHnd s src dst t = sendMsg (modDie r dst fun d =>
      { d with last := mapSet d.last c h, subs := d.subs ++ [⟨c, g, h, owner, part, [], [], false, 0, t⟩] }) dst src (.hak c g h) := by
  unfold doHnd
  simp only [htake, hlink, hgen, hdup, Bool.false_eq_true, if_false, ne_eq, not_true_eq_false]

theorem doHak_handed (htake : takeFlight s src dst .hak = some (.hak c g h, r)) (hgen : (getCtx r c).gen = g)
    (hown : ((getDie r dst).owns.any fun o => o.ctx = c && o.gen = g && o.handing.elim false (fun x => x.dst = src && x.h = h)) = true) :
    doHak s src dst t = modDie r dst fun d =>
      { d with owns := d.owns.filter (fun o => !(o.ctx = c && o.gen = g)), handedTo := d.handedTo ++ [(c, g, src)] } := by
  unfold doHak
  simp only [htake, hgen, hown, ne_eq, not_true_eq_false, if_false, if_true]

theorem doHakTimeout_handing {o : Own} {x : Handing}
    (hown : ((getDie s d).owns.find? fun o => o.ctx = c && o.gen = (getCtx s c).gen && o.handing.isSome) = some o) (hx : o.handing = some x)
    (hdue : x.sentAt + hakWait ≤ t) (hlink : linkFailed s d x.dst = false) :
    doHakTimeout s d c t =
      if x.sends < 4 then
        sendMsg (modDie s d fun d => { d with owns := d.owns.map fun y =>
          if y = o then { o with handing := some { x with sends := x.sends + 1, sentAt := t } } else y })
          d x.dst (.hnd c (getCtx s c).gen x.h (((succStage s c).map (·.num)).getD 0))
      else endOnDie (sendMsg s d x.dst (.abort c (getCtx s c).gen (some x.h) none)) d c Code.HANDOFF_TIMEOUT := by
  have hsucc : ∀ f, succStage (modDie s d f) c = succStage s c := fun _ => rfl
  unfold doHakTimeout
  simp only [hown, hx, Nat.not_lt.2 hdue, hlink, hsucc, Bool.false_eq_true, if_false]

/-! ### ABORT -/

/-- What a die discards of a request for an ABORT of all of it. -/
def discardOn (s : State) (subs : List Sub) (dst c g : Nat) : State :=
  dropUnits (modDie (subs.foldl (fun s x => dropSub s dst c g x.h false) s) dst (dropDie c g)) c g fun x => x = dst

theorem dropSub_endFrame (d : Nat) (s : State) (die c g h : Nat) : EndFrame d s (dropSub s die c g h false) := by
  unfold dropSub
  refine (EndFrame.foldl (fun s e => ?_) _ s).trans (.modDie _ _ (fun _ _ => id) fun _ _ => id)
  exact ⟨rfl, rfl, rfl, rfl, fun _ => id, fun _ => id⟩

theorem discardOn_endFrame (s : State) (subs : List Sub) (d dst c g : Nat) : EndFrame d s (discardOn s subs dst c g) := by
  have hsubs : EndFrame d s (subs.foldl (fun s x => dropSub s dst c g x.h false) s) := .foldl (fun s x => dropSub_endFrame d s dst c g x.h) subs s
  exact hsubs.trans ((EndFrame.dropDie d _ dst c g).trans (.dropUnits d _ c g _))

theorem not_owns_discardOn (s : State) (subs : List Sub) (dst c g : Nat) :
    ∀ o ∈ (getDie (discardOn s subs dst c g) dst).owns, ¬(o.ctx = c ∧ o.gen = g) := by
  intro o ho
  exact not_owns_dropDie _ dst c g o ((EndFrame.dropUnits dst _ c g _).owns o ho)

/-- An ABORT that names no handoff: with a code, the die that owns the request ends it first. -/
theorem doAbort_whole {code : Option Nat} (htake : takeFlight s src dst .ctl = some (.abort c g none code, r)) (hgen : (getCtx r c).gen = g) :
    ∃ subs, doAbort s src dst = discardOn (modDie (match code with
      | some n => if ((getDie r dst).owns.any fun o => o.ctx = c && o.gen = g) = true then endOnDie r dst c n else r
      | none => r) dst (markDead c g none)) subs dst c g := by
  unfold doAbort
  simp only [htake, hgen, ne_eq, not_true_eq_false, if_false, Option.isNone_none, Bool.true_or, if_true]
  exact ⟨_, rfl⟩

theorem doAbort_otherGeneration {hn code : Option Nat} (htake : takeFlight s src dst .ctl = some (.abort c g hn code, r)) (hgen : (getCtx r c).gen ≠ g) :
    doAbort s src dst = r := by
  unfold doAbort
  simp only [htake, hgen, ne_eq, not_false_eq_true, if_true]

/-- Taking a message off a link changes the links alone. -/
theorem takeFlight_frame {cls : LinkClass} {m : LinkMsg} (h : takeFlight s src dst cls = some (m, r)) :
    r.ctxs = s.ctxs ∧ r.mem = s.mem ∧ r.dies = s.dies := by
  unfold takeFlight at h
  split at h
  · cases h
  · split at h
    · cases h
    · cases h
      exact ⟨rfl, rfl, rfl⟩

theorem endOnDie_dies_length (s : State) (d c code : Nat) : (endOnDie s d c code).dies.length = s.dies.length := by
  obtain ⟨w, j, p, t, n, hdrop⟩ := dropUnits_eq (modDie (retire s c code (ctxUnit d)) d (dropDie c (getCtx s c).gen)) c (getCtx s c).gen fun x => x = d
  have hretire : (retire s c code (ctxUnit d)).dies = s.dies := by
    unfold retire
    simp only
    split
    · rfl
    · simp
  have hdies : (endOnDie s d c code).dies = (modDie (retire s c code (ctxUnit d)) d (dropDie c (getCtx s c).gen)).dies := by
    unfold endOnDie dropWeirs
    simp only [hdrop]
  rw [hdies]
  exact (length_modAt _ _ _).trans (congrArg List.length hretire)

/-- What a die marks dead stays marked while the rest is discarded. -/
theorem dead_discardOn {u : State} (hdst : dst < u.dies.length) (subs : List Sub) :
    (⟨c, g, none⟩ : Dead) ∈ (getDie (discardOn (modDie u dst (markDead c g none)) subs dst c g) dst).dead := by
  refine (discardOn_endFrame _ subs dst dst c g).dead _ ?_
  rw [getDie_modDie_of_lt hdst]
  exact List.mem_cons_self

end

/-- Settles O11. -/
theorem handoffRows : Obligations.HandoffRows := by
  unfold Obligations.HandoffRows
  refine ⟨?_, ?_, ?_, ?_, ?_, ?_, ?_, ?_⟩
  · rintro s r c dst t d nx rfl halive howner hnext hlive hready hawaits href htarget
    exact exec_part rfl halive (doHandoff_sends howner hnext hlive hready hawaits href htarget)
  · rintro s r r1 src dst t c g h n st rfl halive htake hlink hgen hdup hstage hlive
    exact exec_part rfl halive (doHnd_enters htake hlink hgen hdup hstage hlive)
  · rintro s r r1 src dst t c g h n rfl halive htake hlink hgen hdup
    exact exec_part rfl halive (doHnd_duplicate htake hlink hgen hdup)
  · rintro s r r1 src dst t c g h rfl halive htake hgen hown
    exact exec_part rfl halive (doHak_handed htake hgen hown)
  · rintro s r die c t o x rfl halive hown hx hdue hlink
    exact exec_part rfl halive (doHakTimeout_handing hown hx hdue hlink)
  · intro s r src dst c g n halive hdst htake hgen hlive hsrc hn hcode hown
    obtain ⟨subs, habort⟩ := doAbort_whole htake hgen
    refine ⟨_, exec_part rfl halive habort, ?_⟩
    simp only [hown, if_true]
    have hended := endOnDie_ended (d := dst.val) hlive hsrc hcode
    have hlen : dst.val < (endOnDie r dst.val c n).dies.length := by
      rw [endOnDie_dies_length, (takeFlight_frame htake).2.2]
      exact hdst
    exact ⟨ended_of_endFrame hended ((EndFrame.markDead dst.val _ dst.val c g none).trans (discardOn_endFrame _ subs dst.val dst.val c g)),
      dead_discardOn hlen subs⟩
  · intro s r src dst c g halive hdst htake hgen
    obtain ⟨subs, habort⟩ := doAbort_whole htake hgen
    obtain ⟨hctxs, hmem, hdies⟩ := takeFlight_frame htake
    have hframe : EndFrame dst.val r (discardOn (modDie r dst.val (markDead c g none)) subs dst.val c g) :=
      (EndFrame.markDead dst.val _ dst.val c g none).trans (discardOn_endFrame _ subs dst.val dst.val c g)
    exact ⟨_, exec_part rfl halive habort, dead_discardOn (hdies ▸ hdst) subs, hframe.ctxs.trans hctxs, hframe.mem.trans hmem,
      not_owns_discardOn _ subs dst.val c g⟩
  · intro s r src dst c g h code halive htake hgen
    exact exec_part rfl halive (doAbort_otherGeneration htake hgen)

section
variable {s : State} {c d dst part : Nat} {t : Stamp}

/-- The owner asks another die for a partition's work that it has not asked for and does not hold. -/
theorem doSubRequest_sends {st : Stage} (howner : activeOwner s c = some d) (hstage : getStage s c = some st) (hlive : isLive s c = true)
    (hkind : st.kind = .walk ∨ st.kind = .scan ∨ st.kind = .shadow) (hdst : dst ≠ d) (hlost : dieLost s dst = false)
    (hserves : cWalkDie s (getColl s st.object) part = dst) (hwant : part ∈ wantParts s c st)
    (hasked : ((getDie s d).awaits.any fun a => a.ctx = c && a.gen = (getCtx s c).gen && a.part = part) = false)
    (hopen : covered (if st.kind = .shadow then (getCtx s c).work.shadows else (getCtx s c).work.lists)
        (if st.kind = .walk then [part] else cPartSegs s (getColl s st.object) part) = false ∨ isMutation (dKind (getCtx s c).desc) = true) :
    doSubRequest s c dst part t = sendMsg
      (modDie (modCtx s c fun k => { k with hseq := nextH (getCtx s c) }) d fun x =>
        { x with awaits := x.awaits ++ [⟨c, (getCtx s c).gen, dst, nextH (getCtx s c), part, 1, t, none⟩] })
      d dst (.sub c (getCtx s c).gen (nextH (getCtx s c)) part d) := by
  have hsplit : (decide (st.kind = .walk) || decide (st.kind = .scan) || decide (st.kind = .shadow)) = true := by
    rcases hkind with h | h | h <;> rw [h] <;> rfl
  have hneed : (!(covered (if st.kind = .shadow then (getCtx s c).work.shadows else (getCtx s c).work.lists)
        (if st.kind = .walk then [part] else cPartSegs s (getColl s st.object) part) && !isMutation (dKind (getCtx s c).desc))) = true := by
    rcases hopen with h | h <;> simp [h]
  unfold doSubRequest
  simp only [howner, hstage]
  refine if_pos ?_
  simp only [hlive, hsplit, hdst, hlost, hserves, hasked, hneed, List.contains_iff_mem.2 hwant, ne_eq, not_false_eq_true, decide_true, Bool.not_false, Bool.and_self]

end

/-- Settles O12. -/
theorem subRequestRows : Obligations.SubRequestRows := by
  unfold Obligations.SubRequestRows
  refine ⟨?_, ?_, ?_, ?_⟩
  · rintro s r c dst part t d st rfl halive hawake howner hstage hlive hkind hdst hlost hserves hwant hasked hopen
    exact exec_crest rfl halive hawake (doSubRequest_sends howner hstage hlive hkind hdst hlost hserves hwant hasked hopen)
  · rintro s r r1 src dst t c g h part owner rfl halive htake hlink hgen hdup
    exact exec_part rfl halive (doHnd_holdsSub htake hlink hgen hdup)
  · rintro s r die c h t x ls sh rfl halive hawake hsub hresult
    refine exec_crest rfl halive hawake ?_
    simp only [doReturn, hsub, hresult]
  · rintro s r die c h t x rfl halive hawake hsub hdue
    refine exec_crest rfl halive hawake ?_
    simp only [doResend, hsub, Nat.not_lt.2 hdue, if_false, Bool.or_eq_true, decide_eq_true_eq]

end Sys2Proof.Proofs
end

