-- ==== Sys2Proof/Proofs/ContainedErrors.lean ====
section
/-! PROOFS. A unit that loses a request's state (R199, R539). -/

namespace Sys2Proof.Proofs

open Sys2Proof.Machine Sys2Proof.Laws

section
variable {s : State} {c : Nat}

theorem doContained_readable (hlive : (getCtx s c).st = .live) (u : ErrUnit) :
    doContained s u c true
      = { loseUnit s u c (getCtx s c).gen with orphans := (loseUnit s u c (getCtx s c).gen).orphans ++ [(c, (getCtx s c).gen)] } :=
  if_neg (not_not.2 hlive)

/-- Without the id, the unit's die claims the request no longer. -/
theorem doContained_unreadable (hlive : (getCtx s c).st = .live) {u : ErrUnit} (hunit : ∀ w sl, u ≠ .walkerSlot w sl) :
    doContained s u c false = modDie (loseUnit s u c (getCtx s c).gen) (errDie u) fun x =>
      { x with owns := x.owns.filter fun o => !(o.ctx = c && o.gen = (getCtx s c).gen) } := by
  cases u with
  | walkerSlot w sl => exact absurd rfl (hunit w sl)
  | selectionJob d => exact if_neg (not_not.2 hlive)
  | contextSlot d => exact if_neg (not_not.2 hlive)

/-- A walker slot's loss that names nobody drops the sub-request that it walked for. -/
theorem doContained_walk {w : Fin 512} {sl : Fin 16} {x : Walk} {h : Nat} (hlive : (getCtx s c).st = .live)
    (hwalk : getWalk s (slotKey w.val sl.val) = some x) (hctx : x.ctx = c) (hgen : x.gen = (getCtx s c).gen) (hsub : x.sub = some h) :
    doContained s (.walkerSlot w sl) c false = modDie (loseUnit s (.walkerSlot w sl) c (getCtx s c).gen) (w.val / 128) fun x =>
      { x with subs := x.subs.filter fun y => !(y.ctx = c && y.gen = (getCtx s c).gen && y.h = h) } := by
  unfold doContained
  simp only [hlive, hwalk, hctx, hgen, hsub, Option.bind_some, and_self, if_true, ne_eq, not_true_eq_false, if_false, Bool.false_eq_true]
  rfl

end

theorem modAt_twice {α : Type} {f : α → α} (hf : ∀ x, f (f x) = f x) (l : List α) (n : Nat) : modAt (modAt l n f) n f = modAt l n f := by
  induction l generalizing n with
  | nil => rfl
  | cons x l ih =>
    cases n with
    | zero => exact congrArg (· :: l) (hf x)
    | succ n => exact congrArg (x :: ·) (ih n)

/-- A change of a die's table that does nothing more a second time. -/
theorem modDie_twice (s : State) (d : Nat) {f : DieCtx → DieCtx} (hf : ∀ x, f (f x) = f x) : modDie (modDie s d f) d f = modDie s d f :=
  congrArg (fun l => { s with dies := l }) (modAt_twice hf s.dies d)

/-- Settles O14. -/
theorem containedErrors : Obligations.ContainedErrors := by
  unfold Obligations.ContainedErrors
  refine ⟨?_, ?_, ?_, ?_, ?_⟩
  · intro s c w sl halive hlive
    exact exec_part rfl halive (doContained_readable hlive (.walkerSlot w sl))
  · intro s c d halive hlive
    exact exec_part rfl halive (doContained_readable hlive (.selectionJob d))
  · intro s c d halive hlive
    refine ⟨_, exec_part rfl halive (doContained_readable hlive (.contextSlot d)), exec_part rfl halive ?_, rfl⟩
    rw [doContained_unreadable hlive (by rintro w sl ⟨⟩)]
    exact modDie_twice s d.val fun x => by simp
  · intro s c d halive hlive
    refine exec_part rfl halive ?_
    rw [doContained_unreadable hlive (by rintro w sl ⟨⟩)]
    rfl
  · intro s c w sl x h halive hlive hwalk hctx hgen hsub
    refine exec_part rfl halive ?_
    rw [doContained_walk hlive hwalk hctx hgen hsub]
    rfl

end Sys2Proof.Proofs
end

