-- ==== Sys2Proof/Proofs/StagesAndRetirement.lean ====
section
/-! PROOFS. Stage passes, retirement and the writing of completions (R84, R86, R88, R484). -/

namespace Sys2Proof.Proofs

open Sys2Proof.Machine Sys2Proof.Laws

section
variable {s r : State} {c d n : Nat}

theorem doStagePass_enters {nx : Stage} (howner : activeOwner s c = some d) (hnext : succStage s c = some nx) (hlive : isLive s c = true)
    (hready : stageReady s c = true) (hawaits : awaitsOf s c = []) (href : firstRefusal s c = none)
    (hcredit : hasCredit s (getCtx s c).polder nx d = true) (hroom : nx.kind = .select → jobRoom s d = true) :
    doStagePass s c = enterStage (takeSearches s c d) c d nx := by
  have hmay : (decide (nx.kind ≠ .select) || jobRoom s d) = true := by
    by_cases h : nx.kind = .select
    · simp [hroom h]
    · simp [h]
  unfold doStagePass
  simp only [howner, hnext, hlive, hready, hawaits, href, hcredit, hmay, List.isEmpty_nil, Bool.and_self, if_true]

theorem doRetire_fin {st : Stage} (howner : activeOwner s c = some d) (hstage : getStage s c = some st) (hlive : isLive s c = true)
    (href : (getCtx s c).work.refuse = none) (hkind : st.kind ≠ .lookup) (hlast : st.succ = none) (hready : stageReady s c = true)
    (hawaits : awaitsOf s c = []) (hout : (getCtx s c).work.output = []) :
    doRetire s c = dropWeirs (modDie (retire (takeSearches (takeLists s c) c d) c Code.OK 0) d (dropDie c (getCtx s c).gen)) c (getCtx s c).gen := by
  unfold doRetire
  simp only [howner, hstage, hlive, href, hkind, hlast, hready, hawaits, hout, List.isEmpty_nil, Option.isSome_none, Option.isNone_none, decide_false,
    Bool.false_and, Bool.and_self, Bool.not_true, Bool.false_eq_true, if_false, if_true]

theorem doCompletionWrite_conn {p : Pending} (hp : nextPend s n [] s.pend = some p) (hsrc : p.src = .conn c) (hest : (getConn s c).st = .established) :
    doCompletionWrite s n = pushMsg { s with pend := s.pend.erase p } c .completion (some ((dWord p.words 0).toNat % 2 ^ 32)) (wordBytes p.words) := by
  unfold doCompletionWrite
  simp only [hp, hsrc]
  exact if_neg (by simp [hest])

theorem doCompletionWrite_ring {r1 r2 : State} {p : Pending} {m q : Nat} (hp : nextPend s n [] s.pend = some p) (hsrc : p.src = .ring m q)
    (haccess : hostAccess s none ((getReg s ⟨.BML_RING_CPL, m, q⟩).toNat + 64 * (cplProd s m q % cplSize s m q)) 64 true = (.ok, r1))
    (hweir : weirAsk r1 (fld (ringCfg s m q) 63 52) wBmlWr m 64 0 (.flow (flowTag 8 (64 * m + q) (cplProd s m q))) = (true, r2)) :
    doCompletionWrite s n =
      let i := cplProd s m q
      let w := setF (wrWords { r2 with pend := r2.pend.erase p } ((getReg s ⟨.BML_RING_CPL, m, q⟩).toNat + 64 * (i % cplSize s m q))
        (p.words.take 7 ++ [if i / cplSize s m q % 2 = 0 then 1 else 0])) ⟨.BML_RING_STS, m, q⟩ 31 0 ((i + 1) % 2 ^ 32)
      if fld (ringCfg s m q) 41 41 = 1 ∧ (getRing w m q).notify then bmlPush (modRing w m q fun g => { g with notify := false }) m 0x3A 0 0 0 q []
      else w := by
  unfold doCompletionWrite
  simp only [hp, hsrc, writeRing, haccess, hweir, Bool.not_true, Bool.false_eq_true, if_false]

end

/-- Settles O15. -/
theorem stagesAndRetirement : Obligations.StagesAndRetirement := by
  unfold Obligations.StagesAndRetirement
  refine ⟨?_, ?_, ?_, ?_⟩
  · rintro s r c t d nx rfl halive hawake howner hnext hlive hready hawaits href hcredit hroom
    exact exec_crest rfl halive hawake (congrArg settle (doStagePass_enters howner hnext hlive hready hawaits href hcredit hroom))
  · rintro s r c t d st rfl halive howner hstage hlive href hkind hlast hready hawaits hout
    exact exec_part rfl halive (congrArg settle (doRetire_fin howner hstage hlive href hkind hlast hready hawaits hout))
  · rintro s r n t p c rfl halive hp hsrc hest
    exact exec_part rfl halive (congrArg settle (doCompletionWrite_conn hp hsrc hest))
  · rintro s r r1 r2 n t p m q rfl halive hp hsrc i size a cfg haccess hweir w
    exact exec_part rfl halive (congrArg settle (doCompletionWrite_ring hp hsrc haccess hweir))

end Sys2Proof.Proofs
end

