-- ==== Sys2Proof/Proofs/PolderLife.lean ====
section
/-! PROOFS. The life of a polder (R109 to R111, R501) and the rates that it is held to (R114, R122 to R124). -/

namespace Sys2Proof.Proofs

open Sys2Proof.Machine Sys2Proof.Laws

/-- `u` has the polders, collections, tables, models and pending publications of `s`, at the same tick. -/
structure ObjectFrame (s u : State) : Prop where
  polders : u.polders = s.polders
  colls : u.colls = s.colls
  tables : u.tables = s.tables
  models : u.models = s.models
  pubs : u.pubs = s.pubs
  tick : u.tick = s.tick

namespace ObjectFrame

variable {s u v : State}

theorem refl (s : State) : ObjectFrame s s := ⟨rfl, rfl, rfl, rfl, rfl, rfl⟩

theorem trans (h : ObjectFrame s u) (h' : ObjectFrame u v) : ObjectFrame s v :=
  ⟨h'.polders.trans h.polders, h'.colls.trans h.colls, h'.tables.trans h.tables, h'.models.trans h.models, h'.pubs.trans h.pubs, h'.tick.trans h.tick⟩

theorem foldl {α : Type} {f : State → α → State} (hf : ∀ s x, ObjectFrame s (f s x)) (l : List α) (s : State) : ObjectFrame s (l.foldl f s) := by
  induction l generalizing s with
  | nil => exact refl s
  | cons x l ih => exact (hf s x).trans (ih _)

theorem releaseBlocks (s : State) (xs : List (Nat × Nat)) : ObjectFrame s (releaseBlocks s xs) :=
  foldl (f := fun s (b : Nat × Nat) => sysFree s b.1 b.2) (fun _ _ => ⟨rfl, rfl, rfl, rfl, rfl, rfl⟩) xs s

theorem dropRow (s : State) (x : Nat × Nat) : ObjectFrame s (dropRow s x) := by
  unfold Machine.dropRow
  simp only
  split
  · exact ⟨rfl, rfl, rfl, rfl, rfl, rfl⟩
  · exact ⟨rfl, rfl, rfl, rfl, rfl, rfl⟩

theorem seekOp (s : State) (goal : Nat) (t : Stamp) : ObjectFrame s (seekOp s goal t) := by
  unfold Machine.seekOp
  split
  · exact refl s
  · exact ⟨rfl, rfl, rfl, rfl, rfl, rfl⟩

theorem setFloor (s : State) : ObjectFrame s (setFloor s) := by
  have hset : ∀ v, ObjectFrame s (setF s rPwrOp 5 4 v) := fun _ => ⟨rfl, rfl, rfl, rfl, rfl, rfl⟩
  unfold Machine.setFloor
  simp only
  split
  · exact hset _
  · exact (hset _).trans (seekOp _ _ _)

end ObjectFrame

/-- What filtering a state's objects by polder leaves: none of polder `p`. -/
structure NoObjects (p : Nat) (s : State) : Prop where
  colls : ∀ e ∈ s.colls, e.2.polder ≠ p
  tables : ∀ e ∈ s.tables, e.2.polder ≠ p
  models : ∀ e ∈ s.models, e.2.polder ≠ p
  pubs : ∀ e ∈ s.pubs, e.polder ≠ p

theorem NoObjects.of_frame {p : Nat} {s u : State} (h : NoObjects p s) (hf : ObjectFrame s u) : NoObjects p u :=
  ⟨hf.colls ▸ h.colls, hf.tables ▸ h.tables, hf.models ▸ h.models, hf.pubs ▸ h.pubs⟩

theorem ne_of_mem_filter {α : Type} {f : α → Nat} {p : Nat} {l : List α} {e : α} (h : e ∈ l.filter (f · ≠ p)) : f e ≠ p :=
  of_decide_eq_true (List.mem_filter.1 h).2

theorem foldl_resetReg_tick (l : List Reg) (s : State) : (l.foldl resetReg s).tick = s.tick := foldl_keeps (f := resetReg) (·.tick) (fun _ _ => rfl) l s

theorem closeConns_tick (s : State) (p : Nat) : (closeConns s p).tick = s.tick :=
  foldl_keeps (f := fun s c => zeroFill s (s.fab.connArr + 64 * c) 64) (·.tick) (fun _ _ => rfl) _ _

/-- An empty DRAINING polder with nothing waiting leaves no object behind. -/
theorem doAbsent_gone {s : State} {p : Nat} (hdraining : (getPolder s p).st = .draining) (hlive : liveOf s p = [])
    (hwaits : completionWaits s p = false) (hruns : consolRuns s p = false) :
    getPolder (doAbsent s p) p = { Polder.none with since := s.tick.tick } ∧ NoObjects p (doAbsent s p) := by
  unfold doAbsent
  rw [if_neg (by simp [hdraining, hlive, hwaits, hruns])]
  extract_lets gone s1 s2 s3 s4 s5 s6 s7 img u fresh
  have hnone : NoObjects p s3 := ⟨fun _ => ne_of_mem_filter, fun _ => ne_of_mem_filter, fun _ => ne_of_mem_filter, fun _ => ne_of_mem_filter⟩
  have hframe : ObjectFrame s3 u := by
    have hfab : ObjectFrame s3 s5 := ⟨rfl, rfl, rfl, rfl, rfl, rfl⟩
    have hrows : ObjectFrame s6 s7 := .foldl ObjectFrame.dropRow _ _
    have himg : ObjectFrame s7 u := ⟨rfl, rfl, rfl, rfl, rfl, rfl⟩
    exact hfab.trans ((ObjectFrame.releaseBlocks _ _).trans (hrows.trans himg))
  have htick : s3.tick = s.tick :=
    (foldl_resetReg_tick _ _).trans (closeConns_tick s p)
  clear_value s3 u
  have hput : NoObjects p (setPolder u p { Polder.none with since := u.tick.tick }) :=
    ⟨(hnone.of_frame hframe).colls, (hnone.of_frame hframe).tables, (hnone.of_frame hframe).models, (hnone.of_frame hframe).pubs⟩
  have hfloor := ObjectFrame.setFloor (setPolder u p { Polder.none with since := u.tick.tick })
  refine ⟨?_, hput.of_frame hfloor⟩
  rw [getPolder, hfloor.polders]
  exact (mapGetD_mapSet_self _ _ _ _).trans (by rw [hframe.tick, htick])

section
variable {s : State} {p : Nat}

theorem doUnload_latches (hp : p ≠ 0) (hactive : (getPolder s p).st = .active) (hnone : (getPolder s p).unload = none) (abort : Bool) (t : Stamp) :
    doUnload s p abort t = setPolder s p { getPolder s p with unload := some (boundaryFor s t, abort) } :=
  if_neg (by simp [hp, hactive, hnone])

theorem doDraining_starts {u : Nat} {abort : Bool} (hactive : (getPolder s p).st = .active) (hunload : (getPolder s p).unload = some (u, abort))
    (hdue : u ≤ s.tick.tick) : doDraining s p = setPolder s p { getPolder s p with st := .draining, since := s.tick.tick } := by
  simp only [doDraining, hunload, hactive, hdue, and_self, if_true]

theorem doActivate_loaded {l : Loading} {q : LoadedPolder} {due : Nat} (hload : s.img.loading = some l) (hldue : l.due = some due)
    (hstaged : l.staged = some q) (hsts : imgState s = 3) (hdue : due ≤ s.tick.tick) (hrun : s.tick.running = true) (hbegun : s.tick.begun = true) :
    ∃ (u : State) (seals : Map Seal), doActivate s = { u with img := { u.img with loading := none, seals := mapSet seals l.polder ⟨q.svn, s.tick.tick, q.hash⟩ } } := by
  unfold doActivate
  simp only [hload, hldue, hstaged]
  rw [if_neg (by simp [hsts, hrun, hbegun, hdue])]
  exact ⟨_, _, rfl⟩

end

/-- Settles O16. -/
theorem polderLife : Obligations.PolderLife := by
  unfold Obligations.PolderLife
  refine ⟨?_, ?_, ?_, ?_⟩
  · intro s p abort t halive hp hactive hnone
    exact exec_part rfl halive (doUnload_latches (s := at_ s t) hp hactive hnone abort t)
  · intro s p u abort halive hactive hunload hdue
    exact exec_part rfl halive (doDraining_starts hactive hunload hdue)
  · intro s p halive hdraining hlive hwaits hruns
    obtain ⟨hpolder, hcolls, htables, hmodels, hpubs⟩ := doAbsent_gone hdraining hlive hwaits hruns
    exact ⟨doAbsent s p.val, exec_part rfl halive rfl, hpolder, hcolls, htables, hmodels, hpubs⟩
  · intro s l q due halive hboot hload hldue hstaged hsts hdue hrun hbegun
    obtain ⟨u, seals, hact⟩ := doActivate_loaded hload hldue hstaged hsts hdue hrun hbegun
    refine ⟨exec_part rfl halive rfl, ?_, ?_⟩
    · rw [hact]
    · rw [hact]
      exact mapGet_mapSet_self _ _ _

section
variable {s : State} {w : Nat} {t : Stamp} {u : WeirUnit} {us : List WeirUnit}

theorem doWeirPass_flow {id : Nat} (hqueue : (getWeir (weirFill s w t) w).queue = u :: us) (hwheel : u.wheel ≤ t)
    (htok : u.cost * 2 ^ 20 ≤ (getWeir (weirFill s w t) w).tok) (hfits : fits (weirFill s w t) t u.dur = true) (htag : u.tag = .flow id) :
    doWeirPass s w t = setWeir (weirFill s w t) w { getWeir (weirFill s w t) w with
      tok := (getWeir (weirFill s w t) w).tok - u.cost * 2 ^ 20, queue := us, passed := (getWeir (weirFill s w t) w).passed ++ [.flow id] } := by
  unfold doWeirPass
  generalize weirFill s w t = r at *
  simp only [hqueue, Nat.not_lt.2 hwheel, Nat.not_lt.2 htok, hfits, htag, Bool.not_true, Bool.false_eq_true, if_false]

theorem isLive_setWeir (s : State) (w : Nat) (v : Weir) (c : Nat) : isLive (setWeir s w v) c = isLive s c := rfl

theorem getCtx_setWeir (s : State) (w : Nat) (v : Weir) (c : Nat) : getCtx (setWeir s w v) c = getCtx s c := rfl

theorem doWeirPass_mutate {c g : Nat} (hqueue : (getWeir (weirFill s w t) w).queue = u :: us) (hwheel : u.wheel ≤ t)
    (htok : u.cost * 2 ^ 20 ≤ (getWeir (weirFill s w t) w).tok) (hfits : fits (weirFill s w t) t u.dur = true) (htag : u.tag = .mutate c g)
    (hlive : isLive (weirFill s w t) c = true) (hgen : (getCtx (weirFill s w t) c).gen = g) :
    doWeirPass s w t = mutatePassed (setWeir (weirFill s w t) w { getWeir (weirFill s w t) w with
      tok := (getWeir (weirFill s w t) w).tok - u.cost * 2 ^ 20, queue := us }) c := by
  unfold doWeirPass
  generalize weirFill s w t = r at *
  simp only [hqueue, Nat.not_lt.2 hwheel, Nat.not_lt.2 htok, hfits, htag, Bool.not_true, Bool.false_eq_true, if_false]
  refine if_pos ?_
  rw [isLive_setWeir, getCtx_setWeir, hlive, hgen, decide_eq_true rfl]
  rfl

end

/-- Settles O17. -/
theorem ratesAndWeirs : Obligations.RatesAndWeirs := by
  unfold Obligations.RatesAndWeirs
  refine ⟨?_, ?_, ?_, ?_, ?_, ?_⟩
  · intro s halive hbegun
    exact exec_part rfl halive (if_pos hbegun)
  · intro s v halive
    exact exec_part rfl halive rfl
  · intro s w v halive
    exact exec_part rfl halive rfl
  · intro s t halive
    exact exec_part rfl halive rfl
  · rintro s r w t u us id halive rfl hqueue hwheel htok hfits htag
    exact exec_part rfl halive (congrArg settle (doWeirPass_flow hqueue hwheel htok hfits htag))
  · rintro s r w t u us c g halive rfl hqueue hwheel htok hfits htag hlive hgen
    exact exec_part rfl halive (congrArg settle (doWeirPass_mutate hqueue hwheel htok hfits htag hlive hgen))

end Sys2Proof.Proofs
end

