-- ==== Sys2Proof/Proofs/WalkRows.lean ====
section
/-! PROOFS. Walks and merges (R165, R188, R205). -/

namespace Sys2Proof.Proofs

open Sys2Proof.Machine Sys2Proof.Laws

section
variable {s : State} {c part walker slot : Nat} {st : Stage}

/-- What a walk of a request's own partition asks of the slot, the stage and the lists that are there (R165). -/
structure MayWalk (s : State) (c part walker slot : Nat) (st : Stage) : Prop where
  stage : getStage s c = some st
  live : isLive s c = true
  kind : st.kind = .walk
  first : st.firstPart ≤ part
  last : part < st.firstPart + st.parts
  takes : slotTakes s (slotKey walker slot) (getCtx s c).polder (getCtx s c).stage (cWalkDie s (getColl s (dColl (getCtx s c).desc)) part) = true
  owner : activeOwner s c = some (cWalkDie s (getColl s (dColl (getCtx s c).desc)) part)
  reads : isMutation (dKind (getCtx s c).desc) = false
  idle : (s.walks.any fun e => e.2.ctx = c && e.2.gen = (getCtx s c).gen && e.2.part = part && e.2.item.isNone) = false
  open_ : ((getCtx s c).work.lists.any (·.src = part)) = false

/-- A walk that may start takes its query from the operand of a SEARCH or SCAN, and from the request otherwise. -/
theorem doWalkStart_starts (h : MayWalk s c part walker slot st) :
    doWalkStart s c part walker slot =
      if dKind (getCtx s c).desc = kSearch ∨ dKind (getCtx s c).desc = kScan then
        withBytes s c (operandOf s (getCtx s c)) (2 * cDim s (getColl s (dColl (getCtx s c).desc))) fun s bs =>
          setWalk s (slotKey walker slot) (newWalk s c part none none (bf16s bs))
      else setWalk s (slotKey walker slot) (newWalk s c part none none (getCtx s c).work.query) := by
  unfold doWalkStart
  simp only [h.stage, h.live, h.kind, h.first, h.last, h.takes, h.owner, h.reads, h.idle, h.open_, decide_true, Bool.true_or, Bool.and_self,
    Bool.not_true, Bool.false_eq_true, if_false, if_true, Bool.or_self]

theorem doBatch0_setup {key : Nat} {w : Walk} (hwalk : getWalk s key = some w) (hst : w.st = .setup) :
    doBatch0 s key = endBatch s key w (endTest (seedAll s (getColl s w.coll) (slotQueueLen (slotCfg s key))
      { w := { w with vers := (cPartSegs s (getColl s w.coll) w.part).map fun g => (g, cResolve s (getColl s w.coll) g w.pin) } }
      (epIds s (cResolveEp s (getColl s w.coll) w.part w.pin)))) := by
  unfold doBatch0
  simp only [hwalk]
  exact if_neg (not_not.2 hst)

theorem doExpand_ready {key : Nat} {w : Walk} (hwalk : getWalk s key = some w) (hst : w.st = .ready) :
    doExpand s key = endBatch s key w (walkRounds s (getColl s w.coll) (slotQueueLen (slotCfg s key)) (slotRounds (slotCfg s key)) { w := w }) := by
  unfold doExpand
  simp only [hwalk]
  exact if_neg (not_not.2 hst)

theorem doMerge_job {die : Nat} {j : Job} (hjob : (s.jobs.find? fun j => j.ctx = c && j.gen = (getCtx s c).gen && j.die = die) = some j)
    (howner : activeOwner s c = some die) : doMerge s die c = mergeJob s c die j := by
  unfold doMerge
  simp only [hjob]
  exact if_pos howner

end

/-- Settles O19. -/
theorem walkRows : Obligations.WalkRows := by
  unfold Obligations.WalkRows
  refine ⟨?_, ?_, ?_, ?_⟩
  · intro s s1 c part walker slot st halive hawake k key die n hstage hlive hkind hfirst hlast htakes howner hreads hidle hopen
    have hwalk : MayWalk s c.val part walker.val slot.val st := ⟨hstage, hlive, hkind, hfirst, hlast, htakes, howner, hreads, hidle, hopen⟩
    refine ⟨fun hsearch hscan => ?_, fun hop haccess => ?_⟩
    · exact exec_crest rfl halive hawake (congrArg settle ((doWalkStart_starts hwalk).trans (if_neg (not_or.2 ⟨hsearch, hscan⟩))))
    · refine ⟨usedOperand s s1 c.val (operandOf s k) n, ?_, exec_crest rfl halive hawake (congrArg settle ?_)⟩
      · unfold usedOperand
        simp only
        split
        · exact .inr rfl
        · exact .inl rfl
      · exact ((doWalkStart_starts hwalk).trans (if_pos hop)).trans (withBytes_ok haccess _)
  · rintro s r walker slot t w rfl halive hawake hmay key co hwalk hst vers
    exact exec_crest rfl halive hawake ((if_pos hmay).trans (doBatch0_setup hwalk hst))
  · rintro s r walker slot t w rfl halive hawake hmay key hwalk hst
    exact exec_crest rfl halive hawake ((if_pos hmay).trans (doExpand_ready hwalk hst))
  · rintro s r die c t j rfl halive hawake hmay hjob howner
    exact exec_crest rfl halive hawake ((if_pos hmay).trans (congrArg settle (doMerge_job hjob howner)))

end Sys2Proof.Proofs
end

