-- ==== Sys2Proof/Proofs/MutationRows.lean ====
section
/-! PROOFS. Apply steps, consolidation and replication (R225, R229, R233). -/

namespace Sys2Proof.Proofs

open Sys2Proof.Machine Sys2Proof.Laws

section
variable {s : State} {coll : Nat}

/-- The state with an apply step's work of a collection without replicas staged, from its start on. -/
def appliedStep (r1 : State) (coll : Nat) (t : Stamp) : State :=
  let commit := commitFor r1 t
  let a := applyWork r1 coll commit
  let u := setColl a.st coll { getColl a.st coll with
    stepTick := some r1.tick.tick
    consol := (getColl a.st coll).consol.filter fun x => !(a.cons.contains x.mseq) }
  if a.b.segs.isEmpty && a.b.eps.isEmpty && a.taken.isEmpty then u
  else
    let g := groupRange u coll a.lo a.hi
    stageGroup g.1 coll a.b g.2.1 g.2.2 t commit a.taken

theorem doApplyStep_applies {b : Stamp} (hloaded : (mapGet s.colls coll).isSome = true) (hwriter : (getColl s coll).writer = true)
    (hsingle : mReplicated s (getColl s coll) = false) (hrun : s.tick.running = true) (hbegun : s.tick.begun = true) (hnext : s.tick.nextAt = some b)
    (hnew : (getColl s coll).stepTick ≠ some s.tick.tick) (hnow : s.now ≤ b - bermNs s - (getColl s coll).stepB - us) :
    doApplyStep s coll = appliedStep (at_ s (b - bermNs s - (getColl s coll).stepB - us)) coll
      (b - bermNs s - (getColl s coll).stepB - us + (getColl s coll).stepB) := by
  have hstart : applyStart s (getColl s coll).stepB = some (b - bermNs s - (getColl s coll).stepB - us) := by
    simp only [applyStart, hnext, Option.map_some]
  have hloaded' : (mapGet s.colls coll).isNone = false := by
    rw [← Option.not_isSome, hloaded]
    rfl
  have hsingle' : ∀ t, mReplicated (at_ s t) (getColl s coll) = false := fun _ => hsingle
  unfold doApplyStep
  simp only [hstart, hloaded', hwriter, hrun, hbegun, decide_eq_false hnew, decide_eq_false (Nat.not_lt.2 hnow), hsingle', Bool.not_true, Bool.or_self,
    Bool.false_eq_true, if_false, Nat.add_zero]
  rfl

theorem doConsolidation_due {u : State} {seg m : Nat} (hloaded : (mapGet s.colls coll).isSome = true) (hseg : seg < cSegments s (getColl s coll))
    (hwriter : (getColl s coll).writer = true) (hnone : ((getColl s coll).consol.any (·.seg = seg)) = false)
    (hratio : 0 < mConsolRatio s (getColl s coll))
    (hdead : mConsolRatio s (getColl s coll) * cSegSize s (getColl s coll) seg
      ≤ (deadSet s (getColl s coll) seg (cResolve s (getColl s coll) seg s.tick.epoch)).length * 65536)
    (htake : takeMseq s (getColl s coll) = (u, m)) :
    doConsolidation s coll seg = setColl u coll { getColl u coll with consol := (getColl u coll).consol ++
      [{ seg := seg, mseq := m, pin := s.tick.epoch, dead := deadSet s (getColl s coll) seg (cResolve s (getColl s coll) seg s.tick.epoch) }] } := by
  have hloaded' : (mapGet s.colls coll).isNone = false := by
    rw [← Option.not_isSome, hloaded]
    rfl
  unfold doConsolidation
  simp only [hloaded', hseg, hwriter, hnone, hratio, hdead, htake, decide_true, Bool.and_self, Bool.true_or, Bool.not_true, Bool.or_self,
    Bool.false_eq_true, if_false]

theorem doReplicaApply_stages (hloaded : (mapGet s.colls coll).isSome = true) (hreplica : (getColl s coll).writer = false)
    (hrun : s.tick.running = true) (hbegun : s.tick.begun = true) (t : Stamp) :
    doReplicaApply s coll t = ((getColl s coll).images.filter fun i => decide (i.epoch ≤ s.tick.tick + 1)).foldl (fun s i =>
      let (items, eps) := Config.replDecode i.body
      match stageImages s coll i.lo i.hi i.epoch items eps t with
      | some s =>
        let s := setColl s coll { getColl s coll with images := (getColl s coll).images.erase i }
        sendFab s i.conn mReplStaged i.epoch 0 (BitVec.ofNat 64 i.hi) []
      | none => s) s := by
  have hloaded' : (mapGet s.colls coll).isNone = false := by
    rw [← Option.not_isSome, hloaded]
    rfl
  unfold doReplicaApply
  exact if_neg (by simp only [hloaded', hreplica, hrun, hbegun, Bool.not_true, Bool.or_self, Bool.false_eq_true, not_false_eq_true])

theorem doReplDecision_decides (hwriter : (getColl s coll).writer = true) (hrepl : mReplicated s (getColl s coll) = true)
    (hdue : dueGroups s coll s.tick.nextNum ≠ []) (hopen : ((dueGroups s coll s.tick.nextNum).all fun g => g.named = some s.tick.nextNum) = false) :
    doReplDecision s coll =
      let n := s.tick.nextNum
      let nodes := replicasOf s (getColl s coll)
      let ready := (dueGroups s coll n).takeWhile fun g => nodes.all g.staged.contains
      let r := if ready.length < (dueGroups s coll n).length then moveGroups s coll n ready.length else s
      ready.foldl (tellCommit nodes n) (setColl r coll { getColl r coll with
        groups := (getColl r coll).groups.map fun g => if g.commit ≤ n then { g with commit := n, named := some n } else g }) := by
  have hdue' : (dueGroups s coll s.tick.nextNum).isEmpty = false := by
    rw [List.isEmpty_eq_false_iff]
    exact hdue
  unfold doReplDecision
  simp only [hwriter, hrepl, hdue', hopen, Bool.not_true, Bool.or_self, Bool.false_eq_true, if_false]

end

/-- Settles O21. -/
theorem mutationRows : Obligations.MutationRows := by
  unfold Obligations.MutationRows
  refine ⟨?_, ?_, ?_, ?_⟩
  · rintro s r coll t b rfl halive hawake co start hloaded hwriter hsingle hrun hbegun hnext hnew hnow r1 commit a u
    exact exec_crest rfl halive hawake (congrArg (fun u => settle (sendImages u coll.val co.groups.length))
      (doApplyStep_applies hloaded hwriter hsingle hrun hbegun hnext hnew hnow))
  · intro s s' coll seg m halive hawake co dead hloaded hseg hwriter hnone hratio hdead htake
    exact exec_crest rfl halive hawake (doConsolidation_due hloaded hseg hwriter hnone hratio hdead htake)
  · rintro s r coll t rfl halive hawake hloaded hreplica hrun hbegun due
    exact exec_crest rfl halive hawake (congrArg settle (doReplicaApply_stages hloaded hreplica hrun hbegun t))
  · intro s coll halive co n due nodes ready hwriter hrepl hdue hopen r
    exact exec_part rfl halive (congrArg settle (doReplDecision_decides hwriter hrepl hdue hopen))

end Sys2Proof.Proofs
end

