-- ==== Sys2Proof/Proofs/ReplacementRows.lean ====
section
/-! PROOFS. Replacement plans (R236 to R240): the judgement at a plan's boundary, and its swaps. -/

namespace Sys2Proof.Proofs

open Sys2Proof.Machine Sys2Proof.Laws

/-! ### The loader's refusals -/

section
variable (s : State) (code : Nat) (v0 v1 : Word) (e : ImgErr)

/-- The registers and the loader after an operation ended with a code and the two words of its place. -/
def refusedWith (s : State) (code : Nat) (v0 v1 : Word) : State :=
  let s := setF (setF s rImgSts 47 45 5) rImgSts 63 48 code
  let s := setReg s ⟨.IMG_ERR0, 0, 0⟩ v0
  let s := setReg s ⟨.IMG_ERR1, 0, 0⟩ v1
  let s := bump s ⟨.IMG_CNT, 0, 0⟩ 31 0 1
  { s with img := { s.img with loading := none } }

theorem imgRefuse_eq : ∃ v0 v1, imgRefuse s e = refusedWith s e.code v0 v1 := ⟨_, _, rfl⟩

theorem getReg_refusedWith_sts : getReg (refusedWith s code v0 v1) rImgSts = getReg (setF (setF s rImgSts 47 45 5) rImgSts 63 48 code) rImgSts := by
  have herr0 : regAddr rImgSts ≠ regAddr ⟨.IMG_ERR0, 0, 0⟩ := by decide
  have herr1 : regAddr rImgSts ≠ regAddr ⟨.IMG_ERR1, 0, 0⟩ := by decide
  exact (getReg_setReg_of_ne _ v1 herr1).trans (getReg_setReg_of_ne _ v0 herr0)

/-- A refused operation reads state 5 and its code. -/
theorem imgRefuse_state : getF (imgRefuse s e) rImgSts 47 45 = 5 := by
  obtain ⟨v0, v1, h⟩ := imgRefuse_eq s e
  rw [h, getF, getReg_refusedWith_sts]
  exact (getF_setF_of_apart _ rImgSts _ (by decide) (by decide)).trans (getF_setF_self _ rImgSts _ (by decide))

theorem imgRefuse_code : getF (imgRefuse s e) rImgSts 63 48 = e.code % 2 ^ 16 := by
  obtain ⟨v0, v1, h⟩ := imgRefuse_eq s e
  rw [h, getF, getReg_refusedWith_sts]
  exact getF_setF_self _ rImgSts _ (by decide)

theorem imgRefuse_planning : (imgRefuse s e).img.planning = s.img.planning := by
  obtain ⟨v0, v1, h⟩ := imgRefuse_eq s e
  rw [h]
  rfl

end

theorem wrWords_img (s : State) (a : Nat) (ws : List Word) : (wrWords s a ws).img = s.img :=
  (congrArg State.img (wrBytes_frame s a (wordBytes ws)) : _)

section
variable {s : State} {coll : Nat}

theorem doPlanAccept_sound {x : Planning} (hplan : s.img.planning = some x) (hdue : x.due ≤ s.tick.tick)
    (hcode : planCode s x.polder x.region x.off true = 0) :
    doPlanAccept s = imgDone (setReg (planRun { s with img := { s.img with planning := none } } x.coll) ⟨.IMG_TICK, 0, 0⟩ (BitVec.ofNat 64 s.tick.tick)) := by
  unfold doPlanAccept
  simp only [hplan]
  exact (if_neg (Nat.not_lt.2 hdue)).trans (if_pos hcode)

/-- The state with an unsound plan dropped and its page marked refused. -/
def droppedPlan (s : State) (x : Planning) : State :=
  let code := planCode s x.polder x.region x.off true
  let u : State := { s with img := { s.img with planning := none }, colls := mapMod s.colls x.coll fun co => { co with plan := none } }
  planRefuse u ((regionAddr u x.polder x.region x.off 64).getD 0) code

theorem doPlanAccept_unsound {x : Planning} (hplan : s.img.planning = some x) (hdue : x.due ≤ s.tick.tick)
    (hcode : planCode s x.polder x.region x.off true ≠ 0) :
    doPlanAccept s = imgRefuse (droppedPlan s x) { code := planCode s x.polder x.region x.off true } := by
  unfold doPlanAccept
  simp only [hplan]
  exact (if_neg (Nat.not_lt.2 hdue)).trans (if_neg hcode)

theorem doAtomicSwap_swaps {p : Plan} (hplan : (getColl s coll).plan = some p) (hatomic : p.atomic = true) (hst : p.st = .running)
    (hat : p.swapAt = s.tick.epoch) (hnone : p.swaps = []) :
    doAtomicSwap s coll =
      let chk := checkEntries s (getColl s coll) p (versionPages s (getColl s coll).polder) (List.range p.segs) (List.range p.segs) []
      if chk.2 then endPlan s coll Code.REPLACE_PAGES else swapEntries s coll s.tick.epoch chk.1 true := by
  unfold doAtomicSwap
  simp only [hplan, hatomic, hst, hat, hnone, List.isEmpty_nil, decide_true, Bool.and_self, Bool.not_true, Bool.false_eq_true, if_false]

theorem doRollingSwap_swaps {p : Plan} (hplan : (getColl s coll).plan = some p) (hatomic : p.atomic = false) (hst : p.st = .running)
    (hr0 : p.r0 < s.tick.epoch) (hroll : p.rollAt ≠ s.tick.epoch) :
    doRollingSwap s coll =
      let co := getColl s coll
      let done := p.swaps.length
      let n := min (min p.perTick (p.window - (p.swaps.filter (·.freed.isNone)).length)) (min (p.seen - done) (p.segs - done))
      let all := (List.range n).map (done + ·)
      let chk := checkEntries s co p (versionPages s co.polder) all all []
      let u := setColl s coll { co with plan := some { p with rollAt := s.tick.epoch } }
      let r := if chk.1.isEmpty then u else swapEntries u coll s.tick.epoch chk.1 (p.segs ≤ done + chk.1.length)
      if chk.2 then endPlan r coll Code.REPLACE_PAGES else r := by
  unfold doRollingSwap
  simp only [hplan, hatomic, hst, decide_eq_false (Nat.not_le.2 hr0), decide_eq_false hroll, ne_eq, not_true_eq_false, decide_false, Bool.or_self,
    Bool.false_eq_true, if_false]

end

/-- Settles O22. -/
theorem replacementRows : Obligations.ReplacementRows := by
  unfold Obligations.ReplacementRows
  refine ⟨?_, ?_, ?_, ?_⟩
  · intro s x halive hplan hdue hcode r
    exact exec_part rfl halive (doPlanAccept_sound hplan hdue hcode)
  · intro s x halive hplan hdue hcode
    refine ⟨_, exec_part rfl halive (doPlanAccept_unsound hplan hdue hcode), ?_, imgRefuse_state _ _, imgRefuse_code _ _⟩
    rw [imgRefuse_planning]
    exact congrArg Loader.planning (wrWords_img _ _ _)
  · intro s coll p halive hplan hatomic hst hat hnone co chk
    exact exec_part rfl halive (congrArg (fun u => settle (sendImages u coll.val co.groups.length)) (doAtomicSwap_swaps hplan hatomic hst hat hnone))
  · intro s coll p halive hplan hatomic hst hr0 hroll co done n all chk u r
    exact exec_part rfl halive (congrArg (fun u => settle (sendImages u coll.val co.groups.length)) (doRollingSwap_swaps hplan hatomic hst hr0 hroll))

end Sys2Proof.Proofs
end

