-- ==== Sys2Proof/Proofs/TensorJobs.lean ====
section
/-! PROOFS. Jobs of a tensor tile without an error (R285 to R320): what each carries on, by the operator it stands at. -/

namespace Sys2Proof.Proofs

open Sys2Proof.Machine Sys2Proof.Laws

/-- A job without an error goes on from where it was noted. -/
theorem tileErr_none (s : State) (die tile : Nat) (ctxs : List Nat) (k : State → State) : tileErr s die tile ctxs ⟨0, 0⟩ k = k s := rfl

section
variable {s u : State} {die tile op slot key : Nat} {t : Stamp} {j : JobAt} {p : Pass} {k0 : Nat} {p0 : Pass} {rest : List (Nat × Pass)}

theorem doLinear_carries {slots : List Nat} {w : Weights} {ads : List Nat} (hjob : jobAt s die tile t = some j)
    (hop : (opAt j.model op).bind slicedWeights = some (w, ads))
    (hheld : let all := jobPasses s die j slots
      let fwd := all.filter fun e => e.2.back.isNone && opReady s j.model e.2 op
        && !(((opAt j.model op).map isItemOp).getD false && decide (e.2.cands.length < e.2.ids.length))
      fwd ++ (all.filter fun e => e.2.back = some op) = (k0, p0) :: rest) :
    doLinear s die tile op slots ⟨0, 0⟩ t =
      let all := jobPasses s die j slots
      let fwd := all.filter fun e => e.2.back.isNone && opReady s j.model e.2 op
        && !(((opAt j.model op).map isItemOp).getD false && decide (e.2.cands.length < e.2.ids.length))
      (all.filter fun e => e.2.back = some op).foldl (fun s e => backJob s e.1 j.model e.2 op)
        (linJob (noteJob s die tile 0 (k0 % 96) p0.layer) die tile op j w ads t fwd) := by
  unfold doLinear
  simp only at hheld ⊢
  simp only [hjob, hop, hheld, tileErr_none]

theorem doVector_carries {slots : List Nat} {o : ModelOp} (hjob : jobAt s die tile t = some j) (hop : opAt j.model op = some o)
    (hvec : isVectorOp o = true)
    (hheld : let all := jobPasses s die j slots
      (all.filter fun e => e.2.back.isNone && opReady s j.model e.2 op) ++ (all.filter fun e => e.2.back = some op) = (k0, p0) :: rest) :
    doVector s die tile op slots ⟨0, 0⟩ t =
      let all := jobPasses s die j slots
      (all.filter fun e => e.2.back = some op).foldl (fun s e => backJob s e.1 j.model e.2 op)
        (overPasses (fun key room p s => vecPass s op j.model o key room p) j.group.rowsMax
          (all.filter fun e => e.2.back.isNone && opReady s j.model e.2 op) (noteJob s die tile 1 (k0 % 96) p0.layer)) := by
  unfold doVector
  simp only at hheld ⊢
  simp only [hjob, hop, hheld, hvec, tileErr_none, Bool.not_true, Bool.false_eq_true, if_false]

theorem doEmbed_tokens {tok : Weights} {pos : Option Weights} {p' : Pass} (hjob : jobAt s die tile t = some j)
    (hpass : jobPasses s die j [slot] = [(key, p)]) (hop : opAt j.model op = some (.embed tok pos)) (hready : opReady s j.model p op = true)
    (hback : p.back = none)
    (hcode : firstCode (weightCode (noteJob s die tile 2 slot p.layer) j.model tok
      :: pos.toList.map (weightCode (noteJob s die tile 2 slot p.layer) j.model)) = 0)
    (hput : getPass (noteJob s die tile 2 slot p.layer) key = some p') :
    doEmbed s die tile op slot ⟨0, 0⟩ t =
      let u := noteJob s die tile 2 slot p.layer
      let have_ := (partRows p op 0).length
      let n := min j.group.rowsMax (opLen j.model p op - have_)
      finishPass (setPass u key { p' with
        outs := mapSet p'.outs (partKey op 0) (partRows p' op 0 ++ (embedRows u j.model p tok pos have_ n).map fun r => r.map asBf16) }) key := by
  have htoken : (isTokenOp (.embed tok pos) || isItemOp (.embed tok pos)) = true := rfl
  unfold doEmbed
  simp only [hjob, hpass, hop, hready, hback, htoken, tileErr_none, hcode, hput, Option.isSome_none, Bool.not_true, Bool.or_self, Bool.false_eq_true,
    if_false, ne_eq, not_true_eq_false]

theorem doAppend_appends {x : Operand} {layer qCol kCol vCol : Nat} (hjob : jobAt s die tile t = some j)
    (hpass : jobPasses s die j [slot] = [(key, p)]) (hop : opAt j.model op = some (.attention x layer qCol kCol vCol))
    (hready : opReady s j.model p op = true) (hback : p.back = none) (hn : min j.group.rowsMax (p.rows - mapGetD p.appended op 0) ≠ 0)
    (hfold : ((((operandRows (noteJob s die tile 3 slot layer) j.model p x).drop (mapGetD p.appended op 0)).take
        (min j.group.rowsMax (p.rows - mapGetD p.appended op 0))).zipIdx.foldl (fun acc e =>
      (List.range (mKvHeads (noteJob s die tile 3 slot layer) j.model)).foldl
        (appendOne j.model key layer kCol vCol (mapGetD p.appended op 0 + e.2) e.1) acc) (some (noteJob s die tile 3 slot layer))) = some u) :
    doAppend s die tile op slot ⟨0, 0⟩ t =
      let n := min j.group.rowsMax (p.rows - mapGetD p.appended op 0)
      modPass (bump u ⟨.TEN_CNT2, die, tile⟩ 31 0 (n * mKvHeads u j.model)) key fun q =>
        { q with appended := mapSet q.appended op (mapGetD p.appended op 0 + n), layer := layer } := by
  unfold doAppend
  simp only [hjob, hpass, hop, hready, hback, decide_eq_false hn, tileErr_none, hfold, Option.isSome_none, Bool.not_true, Bool.or_self,
    Bool.false_eq_true, if_false]

theorem doWeightReload_idle {r : State} (hfault : getF s ⟨.TEN_STS, die, tile⟩ 63 61 = 4)
    (hload : (tileGroup s die tile = none ∧ r = s) ∨ (∃ n m g, tileGroup s die tile = some (n, m, g) ∧ loadTile s m g tile = some r)) :
    doWeightReload s die tile = setF r ⟨.TEN_STS, die, tile⟩ 63 61 0 := by
  unfold doWeightReload
  rcases hload with ⟨hgroup, rfl⟩ | ⟨n, m, g, hgroup, hloaded⟩
  · simp only [hfault, hgroup, ne_eq, not_true_eq_false, if_false]
  · simp only [hfault, hgroup, hloaded, ne_eq, not_true_eq_false, if_false]

end

/-- Settles O27. -/
theorem tensorJobs : Obligations.TensorJobs := by
  unfold Obligations.TensorJobs
  refine ⟨?_, ?_, ?_, ?_, ?_, ?_⟩
  · rintro s r die tile op slots t j w ads k0 p0 rest rfl halive hawake hjob hop all fwd back hheld
    exact exec_crest rfl halive hawake (congrArg settle (doLinear_carries hjob hop hheld))
  · rintro s r die tile op slots t j o k0 p0 rest rfl halive hawake hjob hop hvec all fwd back hheld
    exact exec_crest rfl halive hawake (congrArg settle (doVector_carries hjob hop hvec hheld))
  · rintro s r die tile op key slot t j p p' tok pos rfl halive hawake hjob hpass hop hready hback u have_ n hcode hput
    exact exec_crest rfl halive hawake (congrArg settle (doEmbed_tokens hjob hpass hop hready hback hcode hput))
  · rintro s r u die tile op key layer qCol kCol vCol x slot t j p rfl halive hawake hjob hpass hop hready hback a n r1 hn hfold
    exact exec_crest rfl halive hawake (congrArg settle (doAppend_appends hjob hpass hop hready hback hn hfold))
  · intro s r die tile halive hawake hfault hload
    exact exec_crest rfl halive hawake (doWeightReload_idle hfault hload)
  · intro s die tile err k hcorrected hkind
    unfold tileErr
    simp only [hcorrected, hkind, if_true, if_false, List.foldl_nil]

end Sys2Proof.Proofs
end

