-- ==== Sys2Proof/Proofs/TensorAttention.lean ====
section
/-! PROOFS. Attention and its gradients, the optimiser, and the start of a pass (R300 to R320). -/

namespace Sys2Proof.Proofs

open Sys2Proof.Machine Sys2Proof.Laws

section
variable {s : State} {die tile op slot key layer qCol kCol vCol head qb : Nat} {x : Operand} {t : Stamp} {j : JobAt} {p : Pass}

/-- The counts of a tile's key blocks and of their cycles. -/
def countBlocks (s : State) (die tile done skip cycles : Nat) : State :=
  bump (bump (bump s ⟨.TEN_CNT2, die, tile⟩ 63 32 done) ⟨.TEN_CNT0, die, tile⟩ 31 0 skip) ⟨.TEN_CNT1, die, tile⟩ 63 0 cycles

theorem doAttn_carries {a : AttnRun} {done skip : Nat} (hjob : jobAt s die tile t = some j)
    (hpass : jobPasses s die j [slot] = [(key, p)]) (hop : opAt j.model op = some (.attention x layer qCol kCol vCol))
    (hready : opReady s j.model p op = true) (hback : p.back = none) (hrows : p.rows ≤ mapGetD p.appended op 0) (hhead : head < mHeads s j.model)
    (hqb : qb < qBlocks p) (hnew : mapGet p.blocks (blockKey op head qb) = none)
    (hgo : let r1 := noteJob s die tile 4 slot layer
      let ids := blockRows p qb
      let qs := ids.map fun i => (i, headPart r1 j.model p true qCol head i ((nth? (operandRows r1 j.model p x) i).getD []))
      let zero := List.replicate (mHeadDim r1 j.model) (0 : F32)
      let r0 := mapGetD p.attn (blockKey op head qb) ⟨0, ids.map fun _ => f32NegInf, ids.map fun _ => 0, ids.map fun _ => zero⟩
      attnGo r1 j.model p layer (kvHead r1 j.model head) qb qs (qBlocks p + 1) j.group.kbJob r0 (0, 0, 0) = (a, done, skip, 0)) :
    doAttn s die tile op slot head qb ⟨0, 0⟩ t =
      let r1 := noteJob s die tile 4 slot layer
      let u := countBlocks r1 die tile done skip (done * 2 * (mHeadDim r1 j.model / 64))
      let p1 := { p with attn := mapSet p.attn (blockKey op head qb) a, layer := layer }
      if a.next < qBlocks p1 then setPass u key p1
      else finishPass (setPass u key { p1 with
        blocks := mapSet p1.blocks (blockKey op head qb) ((a.o.zip a.l).map fun e => (e.1.map fun v => f32Div v e.2).map asBf16) }) key := by
  unfold doAttn
  simp only at hgo
  simp only [hjob, hpass, hop, hready, hback, decide_eq_false (Nat.not_lt.2 hrows), hhead, hqb, hnew, tileErr_none, hgo, Option.isSome_none,
    decide_true, Bool.not_true, Bool.or_self, Bool.false_eq_true, if_false, ne_eq, not_true_eq_false]
  rfl

@[simp] theorem mHeadDim_bump (s : State) (r : Reg) (hi lo n : Nat) (m : Model) : mHeadDim (bump s r hi lo n) m = mHeadDim s m := rfl

/-- How many key blocks the backward pass has been over for a query block of a head. -/
def backNext (p : Pass) (op head qb : Nat) : Nat := ((mapGet p.attn (backKey op head qb)).map (·.next)).getD 0

theorem doAttnBack_carries {kb done skip : Nat} {q : Pass} (hjob : jobAt s die tile t = some j)
    (hpass : jobPasses s die j [slot] = [(key, p)]) (hop : opAt j.model op = some (.attention x layer qCol kCol vCol))
    (hback : p.back = some op) (hhead : head < mHeads s j.model) (hqb : qb < qBlocks p) (hopen : backNext p op head qb < qBlocks p)
    (hbefore : ∀ q < qb, qBlocks p ≤ backNext p op head q)
    (hgo : let m := j.model
      let r1 := noteJob s die tile 5 slot layer
      let ids := blockRows p qb
      let rows := operandRows r1 m p x
      let qs := ids.map fun i => headPart r1 m p true qCol head i ((nth? rows i).getD [])
      let dos := ids.map fun i => (((nth? (gradRows p op) i).getD []).drop (head * mHeadDim r1 m)).take (mHeadDim r1 m)
      backGo r1 m p op head layer qb qs dos (mapGetD p.blocks (blockKey op head qb) []) (mapGetD p.attn (blockKey op head qb) ⟨0, [], [], []⟩)
        (qBlocks p + 1) j.group.kbJob (backNext p op head qb) (p, 0, 0) = (kb, q, done, skip))
    (hcode : let r1 := noteJob s die tile 5 slot layer
      let u := countBlocks r1 die tile done skip (done * 5 * (mHeadDim r1 j.model / 64))
      ((List.range kb).map (kvCode u j.model p layer (kvHead u j.model head))).find? (· ≠ 0) = none) :
    doAttnBack s die tile op slot head qb ⟨0, 0⟩ t =
      let m := j.model
      let r1 := noteJob s die tile 5 slot layer
      let u := countBlocks r1 die tile done skip (done * 5 * (mHeadDim r1 m / 64))
      let q1 := { q with attn := mapSet q.attn (backKey op head qb) ⟨kb, [], [], []⟩, layer := layer }
      if (List.range (mHeads u m)).all fun h => (List.range (qBlocks q1)).all fun b => decide (qBlocks q1 ≤ backNext q1 op h b) then
        advanceBack u key m (addGrad q1 x (attnGrad u m q1 op qCol kCol vCol (((operandRows r1 m p x).headD []).length))) op
      else setPass u key q1 := by
  unfold doAttnBack
  simp only [backNext, countBlocks] at *
  simp only [hjob, hpass, hop]
  rw [if_neg (by simp only [hback, hhead, hqb]; simpa using ⟨hopen, hbefore⟩), tileErr_none]
  simp only [hgo, mHeadDim_bump, hcode, Option.getD_none]
  exact if_neg (not_not.2 rfl)

/-! ### The optimiser -/

/-- A step whose examples have all run stands alone in its slot, with no pass of its own and no earlier step before it (R317). -/
structure StepReady (s : State) (die slot ad : Nat) (j : JobAt) (tr : Train) : Prop where
  train : mapGet s.trains (passKey die slot) = some tr
  adapter : tr.adapter = ad
  noPass : getPass s (passKey die slot) = none
  ran : (tr.optim.isEmpty && decide (tr.ran < dItems (getCtx s tr.ctx).desc)) = false
  mine : tr.optim.contains j.gi = false
  first : earlierStep s j.num ad tr.seq = false

variable {ad : Nat} {tr : Train}

theorem doOptim_nonfinite (hjob : jobAt s die tile t = some j) (h : StepReady s die slot ad j tr) (hloss : f32Finite tr.loss = false) :
    doOptim s die tile slot ad ⟨0, 0⟩ t = stepNonfinite (noteJob s die tile 6 slot 0) (passKey die slot) j.num j.model tr := by
  unfold doOptim
  simp only [hjob, h.train, h.adapter, h.noPass, h.ran, h.mine, h.first, hloss, tileErr_none, ne_eq, not_true_eq_false, decide_false,
    Option.isSome_none, Bool.or_self, Bool.not_false, Bool.true_or, Bool.false_eq_true, if_false, if_true]

theorem doOptim_slice {u : State} (hjob : jobAt s die tile t = some j) (h : StepReady s die slot ad j tr) (hnew : tr.newRec ≠ 0)
    (hloss : f32Finite tr.loss = true)
    (hfinite : ((List.range (adpSize (noteJob s die tile 6 slot 0) j.model ad)).any fun i => !f32Finite (mapGetD tr.acc i 0)) = false)
    (haccess : optAccess (noteJob s die tile 6 slot 0) j.model tr
      (optSlice (adpSize (noteJob s die tile 6 slot 0) j.model ad) (groupTiles j.model die) j.gi) = (.ok, u))
    (hleft : (tr.optim ++ [j.gi]).length < groupTiles j.model die) :
    doOptim s die tile slot ad ⟨0, 0⟩ t =
      let r := optimSlice u j.model tr (optSlice (adpSize (noteJob s die tile 6 slot 0) j.model ad) (groupTiles j.model die) j.gi)
      { r with trains := mapSet r.trains (passKey die slot) { tr with optim := tr.optim ++ [j.gi] } } := by
  unfold doOptim
  simp only [hjob, h.train, h.adapter, h.noPass, h.ran, h.mine, h.first, hloss, hfinite, haccess, hnew, hleft, tileErr_none, ne_eq,
    not_true_eq_false, not_false_eq_true, decide_false, Option.isSome_none, Bool.or_self, Bool.not_true, Bool.false_eq_true, if_false, if_true]

/-- The model of a request's stage is not touched by an access. -/
theorem stageModel_of_readFrame {u : State} (h : ReadFrame s u) (c : Nat) : stageModel u c = stageModel s c := by
  have hctx : getCtx u c = getCtx s c := congrArg (mapGetD · c Ctx.empty) h.ctxs
  have hpolder : ∀ p, getPolder u p = getPolder s p := fun p => congrArg (mapGetD · p Polder.none) h.polders
  have hkind : stageKindOf u c = stageKindOf s c := by
    unfold stageKindOf isLive getStage
    rw [hctx, hpolder]
  unfold stageModel
  rw [hctx, hkind]

theorem doPassStart_encode {c : Nat} {m : Model} (hmodel : getModel s (stageModel s c) = some m) (hlive : isLive s c = true)
    (hkind : stageKindOf s c = some .encode) (howner : activeOwner s c = some die) (hgroup : (groupOn m die).isSome = true)
    (hdone : (getCtx s c).work.done = false)
    (hnone : (s.passes.any (fun e => e.2.ctx = c && e.2.gen = (getCtx s c).gen)
      || s.trains.any (fun e => e.2.ctx = c && e.2.gen = (getCtx s c).gen)) = false)
    (hfree : slotFree s (passKey die slot) = true)
    (hroom : seqUsed s die (getCtx s c).polder < ((nth? (getPolder s (getCtx s c).polder).seqSlots die).getD 0)) :
    doPassStart s c die slot = withBytes s c (operandOf s (getCtx s c)) (dOpBytes (getCtx s c).desc) fun s' bs =>
      encodePass s' (passKey die slot) m (Pass.start c (getCtx s c).gen (stageModel s c) die (getCtx s c).pin) (getCtx s c).desc bs := by
  have hstage : modelStage (some .encode) = true := rfl
  unfold doPassStart
  simp only [hmodel, hlive, hkind, hstage, howner, hgroup, hdone, hnone, hfree, hroom, decide_true, Bool.not_false, Bool.and_self, Bool.not_true,
    Bool.false_eq_true, if_false, if_true, Option.some.injEq, reduceCtorEq]

end

/-- Settles O28. -/
theorem tensorAttention : Obligations.TensorAttention := by
  unfold Obligations.TensorAttention
  refine ⟨?_, ?_, ?_, ?_, ?_⟩
  · rintro s r die tile op key layer qCol kCol vCol head qb x slot t j p a done skip rfl halive hawake hjob hpass hop hready hback hrows hhead hqb hnew
      r1 ids qs zero r0 hgo u p1
    exact exec_crest rfl halive hawake (congrArg settle (doAttn_carries hjob hpass hop hready hback hrows hhead hqb hnew hgo))
  · rintro s r die tile op key layer qCol kCol vCol head qb x slot t j p rfl halive hawake hjob hpass hop hback hhead hqb hopen hbefore
      m r1 ids rows qs dos kb done skip q hgo u hcode q1
    exact exec_crest rfl halive hawake (congrArg settle (doAttnBack_carries hjob hpass hop hback hhead hqb hopen hbefore hgo hcode))
  · rintro s r die tile slot ad t j tr x rfl halive hawake hjob htrain hadapter hnone hoptim hran hfirst hloss rfl
    have hready : StepReady (at_ s t) die.val slot.val ad.val j tr :=
      ⟨htrain, hadapter, hnone, by rw [decide_eq_false (Nat.not_lt.2 hran), Bool.and_false], by rw [hoptim]; rfl, hfirst⟩
    exact exec_crest rfl halive hawake (congrArg settle (doOptim_nonfinite hjob hready hloss))
  · rintro s r die tile slot ad t j tr rfl halive hawake hjob htrain hadapter hnone hoptim hmine hfirst hnew hloss n gt ixs hfinite u haccess hleft
    have hready : StepReady (at_ s t) die.val slot.val ad.val j tr :=
      ⟨htrain, hadapter, hnone, by rw [List.isEmpty_eq_false_iff.2 hoptim, Bool.false_and], hmine, hfirst⟩
    exact exec_crest rfl halive hawake (congrArg settle (doOptim_slice hjob hready hnew hloss hfinite haccess hleft))
  · intro s c die slot m halive hawake k key hmodel hlive hkind howner hgroup hdone hnone hfree hroom
    refine exec_crest rfl halive hawake (congrArg settle ?_)
    rw [doPassStart_encode hmodel hlive hkind howner hgroup hdone hnone hfree hroom]
    refine withBytes_congr fun u bs hframe => ?_
    rw [stageModel_of_readFrame hframe]

end Sys2Proof.Proofs
end

