-- ==== Sys2Proof/Proofs/Requesters.lean ====
section
/-! PROOFS. Requesters that reach a block (R512, R516). -/

namespace Sys2Proof.Proofs

open Sys2Proof.Machine Sys2Proof.Laws

/-- The reeve, and a host whose image opens the block, have their command's effect. -/
theorem asRequester_reaches {s : State} {by_ : Requester} {unit : Nat} (hby : by_ ≠ .i3c) (hopen : ∀ h, by_ = .host h → blockOpen s h.val unit = true)
    (k : State) : asRequester s by_ unit k = k := by
  cases by_ with
  | host h => exact if_pos (hopen h rfl)
  | i3c => exact absurd rfl hby
  | reeve => rfl

end Sys2Proof.Proofs
end

