-- ==== Sys2Proof/Proofs/TouchedLines.lean ====
section
/-! PROOFS. What an access to lines notes (R364, R365): registers, counters, scrub queues and check words, and nothing else. -/

namespace Sys2Proof.Proofs

open Sys2Proof.Machine Sys2Proof.Laws

theorem setReg_eq (s : State) (r : Reg) (v : Word) : ∃ c, setReg s r v = { s with csr := c } := ⟨_, rfl⟩

theorem bump_eq (s : State) (r : Reg) (hi lo n : Nat) : ∃ c, bump s r hi lo n = { s with cnt := c } := ⟨_, rfl⟩

theorem noteEcc_eq (s : State) (line kind : Nat) : ∃ c n, noteEcc s line kind = { s with csr := c, cnt := n } := by
  obtain ⟨c, hc⟩ := setReg_eq s ⟨.MEM_ECC_LAST, line * 64 / stackBytes, 0⟩ (BitVec.ofNat 64 (kind * 2 ^ 62 + line * 64))
  unfold noteEcc
  simp only [hc]
  split
  · exact ⟨c, _, rfl⟩
  · split
    · exact ⟨c, _, rfl⟩
    · exact ⟨c, s.cnt, rfl⟩

theorem queueScrub_eq (s : State) (line : Nat) : ∃ b n, queueScrub s line = { s with bsus := b, cnt := n } := by
  unfold queueScrub
  simp only
  split
  · exact ⟨s.bsus, s.cnt, rfl⟩
  · split
    · exact ⟨_, s.cnt, rfl⟩
    · exact ⟨s.bsus, _, rfl⟩

theorem touchLine_eq (s : State) (line : Nat) : ∃ c n b k, touchLine s line = { s with csr := c, cnt := n, bsus := b, chk := k } := by
  have hnote := noteEcc_eq s line
  unfold touchLine
  split
  · exact ⟨s.csr, s.cnt, s.bsus, s.chk, rfl⟩
  · split
    · exact ⟨s.csr, s.cnt, s.bsus, s.chk, rfl⟩
    · obtain ⟨c, n, h⟩ := hnote 3
      exact ⟨c, n, s.bsus, s.chk, h⟩
    · obtain ⟨c, n, h⟩ := hnote 1
      obtain ⟨b, n', h'⟩ := queueScrub_eq (noteEcc s line 1) line
      rw [h', h]
      exact ⟨c, n', b, s.chk, rfl⟩
    · obtain ⟨c, n, h⟩ := hnote 2
      split
      · exact ⟨c, n, s.bsus, s.chk, h⟩
      · rw [h]
        exact ⟨c, n, s.bsus, _, rfl⟩

theorem foldl_touchLine_eq (l : List Nat) (s : State) :
    ∃ c n b k, l.foldl touchLine s = { s with csr := c, cnt := n, bsus := b, chk := k } := by
  induction l generalizing s with
  | nil => exact ⟨s.csr, s.cnt, s.bsus, s.chk, rfl⟩
  | cons x l ih =>
    obtain ⟨c, n, b, k, h⟩ := touchLine_eq s x
    obtain ⟨c', n', b', k', h'⟩ := ih (touchLine s x)
    rw [List.foldl_cons, h', h]
    exact ⟨c', n', b', k', rfl⟩

theorem touchRange_eq (s : State) (a n : Nat) : ∃ c m b k, touchRange s a n = { s with csr := c, cnt := m, bsus := b, chk := k } :=
  foldl_touchLine_eq (linesOf a n) s

end Sys2Proof.Proofs
end

