-- ==== Sys2Proof/Proofs/TableRows.lean ====
section
/-! PROOFS. Hot lists, rows read ahead, the apply step of a table and its moves (R329 to R345). -/

namespace Sys2Proof.Proofs

open Sys2Proof.Machine Sys2Proof.Laws

section
variable {s : State} {die tile row slot tab : Nat}

/-- What a hot list of `n` rows for a tile's table has to be (R333). -/
structure SoundHotList (s : State) (p off n : Nat) (g : TileGroup) (tb : Table) (rows : List Nat) : Prop where
  aligned : off % 64 = 0
  polder : tb.polder = p
  tenant : p ≠ 0
  some_ : n ≠ 0
  few : n ≤ 16384
  inTable : (rows.any fun x => decide (tRows s tb ≤ x)) = false
  fits : n * tStride s tb ≤ g.hotBytes

theorem doHotLoad_holds {a num : Nat} {m : Model} {g : TileGroup} {tb : Table}
    (haddr : regionAddr s (fld (getReg s ⟨.TEN_CFG, die, tile⟩) 63 52) (getF s ⟨.EMB_HOT_ADDR, die, 0⟩ 59 48) (getF s ⟨.EMB_HOT_ADDR, die, 0⟩ 47 0) 64
      = some a)
    (hgroup : tileGroup s die tile = some (num, m, g)) (htable : getTable s (fld (rdW s a) 63 56) = some tb)
    (hrange : (regionAddr s (fld (getReg s ⟨.TEN_CFG, die, tile⟩) 63 52) (getF s ⟨.EMB_HOT_ADDR, die, 0⟩ 59 48) (getF s ⟨.EMB_HOT_ADDR, die, 0⟩ 47 0)
      (64 + 4 * fld (rdW s a) 55 40)).isSome = true)
    (hsound : SoundHotList s (fld (getReg s ⟨.TEN_CFG, die, tile⟩) 63 52) (getF s ⟨.EMB_HOT_ADDR, die, 0⟩ 47 0) (fld (rdW s a) 55 40) g tb
      ((List.range (fld (rdW s a) 55 40)).map fun i => leNat (rdBytes s (a + 64 + 4 * i) 4))) :
    doHotLoad s die tile = { s with hotAsk := s.hotAsk.filter (fun h => !(h.die = die && h.tile = tile))
      ++ [⟨die, tile, fld (rdW s a) 63 56, (List.range (fld (rdW s a) 55 40)).map fun i => leNat (rdBytes s (a + 64 + 4 * i) 4)⟩] } := by
  obtain ⟨b, hb⟩ := Option.isSome_iff_exists.1 hrange
  obtain ⟨haligned, hpolder, htenant, hsome, hfew, hin, hfits⟩ := hsound
  unfold doHotLoad
  simp only [haddr, hgroup, htable, hb]
  refine if_neg ?_
  rintro (h | h | h | h | h | h | h)
  · exact h haligned
  · exact h hpolder
  · exact htenant h
  · exact hsome h
  · exact Nat.not_lt.2 hfew h
  · exact ne_true_of_eq_false hin h
  · exact Nat.not_lt.2 hfits h

theorem doHotFetch_fetches {h : Hot} {tb : Table} {a : Nat} (hhot : mapGet s.hots (die * 64 + tile) = some h) (hrow : row ∈ h.rows)
    (hnew : mapGet h.fetched row = none) (htable : getTable s h.table = some tb)
    (haddr : rowAddr s tb (tResolve s tb (h.validFrom row)) die row = some a) (hcode : rangeCode s a (tRowBytes s tb) = 0) :
    doHotFetch s die tile row = { touchRange s a (tRowBytes s tb) with
      hots := mapSet (touchRange s a (tRowBytes s tb)).hots (die * 64 + tile) { h with fetched := mapSet h.fetched row (h.validFrom row) } } := by
  unfold doHotFetch
  simp only [hhot, List.contains_iff_mem.2 hrow, hnew, htable, haddr, hcode, Option.isSome_none, Bool.not_true, Bool.or_self, Bool.false_eq_true,
    if_false, ne_eq, not_true_eq_false]

theorem doPrefetch_reads {p : Pass} {tb : Table} {m : Model} {fs : List Word} {ops : List ModelOp}
    (hpass : mapGet s.passes (die * 96 + slot) = some p) (htable : getTable s tab = some tb) (hmodel : getModel s p.model = some m)
    (hops : m.ops = .bag fs :: ops) (hwant : (p.bags.any fun b => (bagRows s ((nth? fs b.1).getD 0) b.2).contains (tab, row)) = true)
    (hon : fld (getReg s ⟨.EMB_CFG, die, 0⟩) 0 0 = 1)
    (hroom : aheadUsed s die + tStride s tb ≤ fld (getReg s ⟨.EMB_CFG, die, 0⟩) 63 48 * 1024)
    (hnew : (s.ahead.any fun x => x.die = die && x.slot = slot && x.table = tab && x.row = row) = false) :
    doPrefetch s die slot tab row
      = bump { s with ahead := s.ahead ++ [⟨die, slot, p.ctx, p.gen, tab, row, tStride s tb⟩] } ⟨.EMB_CNT1, die, 0⟩ 63 32 1 := by
  unfold doPrefetch
  simp only [hpass, htable, hmodel, hops, List.head?_cons, hwant, hon, decide_eq_false (Nat.not_lt.2 hroom), hnew, Nat.one_ne_zero, decide_false,
    Bool.not_true, Bool.or_self, Bool.false_eq_true, if_false]

/-- A table's step that goes through leaves the table noted for the tick, whatever its work. -/
theorem doTableApply_noted {r1 r2 : State} {tb : Table} {b : Stamp} {jobs : List Nat} (htable : getTable s tab = some tb)
    (hrun : s.tick.running = true) (hbegun : s.tick.begun = true) (hnext : s.tick.nextAt = some b) (hnew : tb.stepTick ≠ some s.tick.tick)
    (hnow : s.now ≤ b - bermNs s - tb.stepB - us)
    (hjudge : judgeUpdates (at_ s (b - bermNs s - tb.stepB - us)) tb (withinMax (at_ s (b - bermNs s - tb.stepB - us))
      (tApplyMax s tb) 0 (tableJobs (at_ s (b - bermNs s - tb.stepB - us)) tab)) = (false, r1, jobs))
    (haccess : accAccess r1 tb jobs = (false, r2)) :
    ∃ u tb', doTableApply s tab = setTable u tab tb' ∧ tb'.stepTick = some u.tick.tick := by
  have hstart : ((getTable s tab).bind fun tb => applyStart s tb.stepB) = some (b - bermNs s - tb.stepB - us) := by
    simp only [htable, Option.bind_some, applyStart, hnext, Option.map_some]
  have hmax : ∀ t, tApplyMax (at_ s t) tb = tApplyMax s tb := fun _ => rfl
  unfold doTableApply
  split
  case h_2 h =>
    exact (h tb _ htable hstart).elim
  next tb' start htb hst =>
    obtain rfl : tb' = tb := Option.some.inj (htb.symm.trans htable)
    rw [hst] at hstart
    have hat : start = b - bermNs s - tb'.stepB - us := Option.some.inj hstart
    rw [← hat] at hnow hjudge
    rw [if_neg (by simp [hrun, hbegun, hnew, hnow])]
    extract_lets s1 t jobs0
    rw [show judgeUpdates s1 tb' jobs0 = (false, r1, jobs) from hjudge]
    split
    next wait s2 jobs' hj =>
    obtain ⟨rfl, rfl, rfl⟩ : false = wait ∧ r1 = s2 ∧ jobs = jobs' := by simpa using hj
    rw [if_neg Bool.false_ne_true, haccess]
    split
    next wait s3 hacc =>
    obtain ⟨rfl, rfl⟩ : false = wait ∧ r2 = s3 := by simpa using hacc
    rw [if_neg Bool.false_ne_true]
    -- The step's work: whatever it is, the table is stored at its end.
    extract_lets live0 live flips late s4
    split
    extract_lets b0
    split
    extract_lets recs rows
    split
    extract_lets s5 s6 s7 writ
    split
    extract_lets keep tb1 tb2
    split
    · exact ⟨_, _, rfl, rfl⟩
    · exact ⟨_, _, rfl, rfl⟩

theorem doMoveCopy_copies {tb : Table} (htable : getTable s tab = some tb) (hrun : s.tick.running = true) (hnew : tb.stepTick ≠ some s.tick.tick) :
    doMoveCopy s tab =
      let todo := tb.moves.filter fun m => decide (m.taken < s.tick.tick) && m.copied ≠ some s.tick.tick
      let u := todo.foldl (fun s m =>
        let w := tEntry s (tResolve s tb s.tick.epoch) m.shard m.page
        if pteValid w then copyPage s (ptePage w) m.target
        else wrBytes s m.target (List.replicate 65536 0)) s
      modTable u tab fun t => { t with moves := t.moves.map fun m => if todo.contains m then { m with copied := some u.tick.tick } else m } := by
  unfold doMoveCopy
  rw [htable]
  exact if_neg (by simp [hrun, hnew])

end

/-- Settles O29. -/
theorem tableRows : Obligations.TableRows := by
  unfold Obligations.TableRows
  refine ⟨?_, ?_, ?_, ?_, ?_, ?_⟩
  · intro s by_ die tile a off num m g tb halive hby hopen r p reg hoff haddr hgroup w n rows htable hrange haligned hpolder htenant hsome hfew hin hfits
    subst hoff
    refine exec_part rfl halive ((asRequester_reaches hby hopen _).trans (congrArg settle ?_))
    exact doHotLoad_holds haddr hgroup htable hrange ⟨haligned, hpolder, htenant, hsome, hfew, hin, hfits⟩
  · intro s die tile h halive hbegun hask r v
    refine exec_part rfl halive ((if_pos hbegun).trans ?_)
    simp only [doHotSwitch, hask]
    rfl
  · intro s die tile row h tb a halive hawake hhot hrow hnew htable haddr hcode
    refine exec_crest rfl halive hawake ((doHotFetch_fetches hhot hrow hnew htable haddr hcode).trans ?_)
    obtain ⟨c, m, b, k, htouch⟩ := touchRange_eq s a (tRowBytes s tb)
    rw [htouch]
  · intro s die slot tab row p tb m fs ops halive hawake hpass htable hmodel hops hwant hon hroom hnew
    exact exec_crest rfl halive hawake (doPrefetch_reads hpass htable hmodel hops hwant hon hroom hnew)
  · rintro s r r1 r2 tab t b tb jobs rfl halive hawake htable hrun hbegun hnext hnew start hnow hjudge haccess
    obtain ⟨u, tb', happly, hstep⟩ := doTableApply_noted htable hrun hbegun hnext hnew hnow hjudge haccess
    refine ⟨_, tb', exec_crest rfl halive hawake rfl, rfl, ?_, ?_⟩
    · rw [happly]
      exact mapGet_mapSet_self _ _ _
    · rw [happly]
      exact hstep
  · rintro s r tab t tb rfl halive hawake htable hrun hnew todo u
    exact exec_crest rfl halive hawake (doMoveCopy_copies htable hrun hnew)

end Sys2Proof.Proofs
end

