-- ==== Sys2Proof/Proofs/MoverRows.lean ====
section
/-! PROOFS. Mover lists, copies, tiles, publications and the age of pool tiles (R361, R368 to R379). -/

namespace Sys2Proof.Proofs

open Sys2Proof.Machine Sys2Proof.Laws

section
variable {s u v : State} {die : Nat} {t : Stamp} {l : MovList} {ls : List MovList}

theorem doMoverCopy_header (hfront : movers s die = l :: ls) (hbegun : l.begun = false) (haccess : listAccess s (waiterOf true die) l.addr = (.ok, u))
    (hend : listEntries u l.addr = 0) :
    doMoverCopy s die = bump (setMovers (listHeader u l.addr 2 u.tick.tick 0 0) die ((movers u die).drop 1)) ⟨.MEM_MOV_CNT0, die, 0⟩ 31 0 1 := by
  unfold doMoverCopy
  simp only [hfront, hbegun, haccess, Bool.false_eq_true, if_false]
  exact (if_pos hend).trans rfl

theorem doMoverCopy_begins (hfront : movers s die = l :: ls) (hbegun : l.begun = false) (haccess : listAccess s (waiterOf true die) l.addr = (.ok, u))
    (hleft : listEntries u l.addr ≠ 0) (hop : (movEntry u l).op = 0) (hok : copyOk u l.polder (movEntry u l) = true) :
    doMoverCopy s die = beginEntry u die l (movEntry u l).tiles := by
  unfold doMoverCopy
  simp only [hfront, hbegun, haccess, hleft, hop, hok, Nat.zero_ne_one, and_self, Bool.false_eq_true, if_false, if_true]

theorem doMoverCopy_invalid (hfront : movers s die = l :: ls) (hbegun : l.begun = false) (haccess : listAccess s (waiterOf true die) l.addr = (.ok, u))
    (hleft : listEntries u l.addr ≠ 0) (hop : (movEntry u l).op = 0) (hok : copyOk u l.polder (movEntry u l) = false) :
    doMoverCopy s die = endMovList u die Code.MOVER_INVALID := by
  unfold doMoverCopy
  simp only [hfront, hbegun, haccess, hleft, hop, hok, Nat.zero_ne_one, and_false, Bool.false_eq_true, if_false]

/-- A tile of a copy with no end in a host window moves in one piece. -/
theorem doMoverTile_carries {bad : Bool} {gs gd : Region} (hfront : movers s die = l :: ls) (hbegun : l.begun = true)
    (hsrc : regionOf s l.polder (movEntry s l).src = some gs) (hdst : regionOf s l.polder (movEntry s l).dst = some gd) (hs2 : gs.tier ≠ 2)
    (hd2 : gd.tier ≠ 2) (hop : (movEntry s l).op = 0) (hbad : bad = true → gs.tier ≠ 1)
    (hfits : fits s t (accessBound die (gs.addr (srcByte (movEntry s l) l.tile 0)) + accessBound die (gd.addr ((movEntry s l).dstOff + 65536 * l.tile))
      + 256) = true)
    (hread : linesAccess s (waiterOf true die)
      (ascending ((List.range 2048).map fun i => lineOf (gs.addr (srcByte (movEntry s l) l.tile (32 * i))))) false = (.ok, u))
    (hwrite : tileAccess u (waiterOf true die) (gd.addr ((movEntry s l).dstOff + 65536 * l.tile)) 65536 true = (.ok, v)) :
    doMoverTile s die bad t =
      let e := movEntry s l
      let dst := gd.addr (e.dstOff + 65536 * l.tile)
      let w := bump (poolUse (poolUse (carryTile v (fun i => gs.addr (srcByte e l.tile i)) dst) l.polder e.src (srcByte e l.tile 0) 65536 false)
        l.polder e.dst (e.dstOff + 65536 * l.tile) 65536 true) ⟨.MEM_MOV_CNT0, die, 0⟩ 63 32 1
      if l.tile + 1 < e.tiles then setFront w die { l with tile := l.tile + 1, passed := false } else endMovEntry w die 0 := by
  have hnone : (bad && decide (gs.tier = 1)) = false := by
    cases bad with
    | false => rfl
    | true => simp [hbad rfl]
  unfold doMoverTile
  simp only [hfront, hsrc, hdst, hop, hbegun, hfits, hnone, hs2, hd2, hread, hwrite, Nat.zero_ne_one, decide_false, Bool.or_self, Bool.not_true,
    Bool.and_false, Bool.false_and, Bool.false_eq_true, if_false]

end

/-- Settles O30. -/
theorem moverRows : Obligations.MoverRows := by
  unfold Obligations.MoverRows
  refine ⟨?_, ?_, ?_, ?_⟩
  · intro s die by_ halive hby hopen r a
    exact exec_part rfl halive (asRequester_reaches hby hopen _)
  · rintro s r u die t l ls rfl halive hawake hfront hbegun haccess e
    refine ⟨fun hend => ?_, fun hleft hop hok => ?_, fun hleft hop hok => ?_⟩
    · exact exec_crest rfl halive hawake (congrArg settle (doMoverCopy_header hfront hbegun haccess hend))
    · exact exec_crest rfl halive hawake (congrArg settle (doMoverCopy_begins hfront hbegun haccess hleft hop hok))
    · exact exec_crest rfl halive hawake (congrArg settle (doMoverCopy_invalid hfront hbegun haccess hleft hop hok))
  · rintro s r u v die bad t l ls gs gd rfl halive hawake hfront hbegun e hsrc hdst hs2 hd2 hop hbad src dst hfits hread hwrite w
    exact exec_crest rfl halive hawake (congrArg settle (doMoverTile_carries hfront hbegun hsrc hdst hs2 hd2 hop hbad hfits hread hwrite))
  · intro s halive hbegun
    exact exec_part rfl halive (if_pos hbegun)

section
variable {s u v : State} {die h : Nat} {l : MovList} {ls : List MovList} {gs gd : Region}

/-- A publication's entry from a host's window into a host buffer that the host may write, within both (R378). -/
structure PublishEntry (u : State) (l : MovList) (h : Nat) (gs gd : Region) : Prop where
  left : listEntries u l.addr ≠ 0
  op : (movEntry u l).op = 1
  host : l.host = some h
  src : regionOf u l.polder (movEntry u l).src = some gs
  dst : regionOf u l.polder (movEntry u l).dst = some gd
  sound : ((movEntry u l).format = 0 && (movEntry u l).srcOff % 65536 = 0 && (movEntry u l).dstOff % 65536 = 0 && gs.tier = 2 && gs.host = h
    && gd.tier = 3 && bits gd.writers h h = 1 && (movEntry u l).arg ≠ 0 && decide ((movEntry u l).srcOff + 65536 * (movEntry u l).tiles ≤ gs.bytes)
    && decide ((movEntry u l).dstOff + 65536 * (movEntry u l).tiles ≤ (gd.bytes - 65536) / 2)) = true
  idle : pendingPub u l.polder (movEntry u l).dst = none

theorem doPublish_begins (hfront : movers s die = l :: ls) (hbegun : l.begun = false) (haccess : listAccess s (waiterOf true die) l.addr = (.ok, u))
    (he : PublishEntry u l h gs gd) (hnew : rdN u gd.base < (movEntry u l).arg)
    (hbuf : tileAccess u (waiterOf true die) (bufAddr gd (1 - activeBuf u gd)) ((gd.bytes - 65536) / 2) true = (.ok, v)) :
    doPublish s die =
      let e := movEntry u l
      beginEntry { v with pubs := v.pubs ++ [⟨l.polder, e.dst, e.arg, h, 65536 * e.tiles, if e.tiles = 0 then some (boundaryFor v v.now) else none⟩] }
        die l e.tiles := by
  obtain ⟨hleft, hop, hhost, hsrc, hdst, hsound, hidle⟩ := he
  unfold doPublish
  simp only [hfront, hbegun, haccess, hleft, hop, hhost, hsrc, hdst, hsound, hidle, hnew, hbuf, Option.elim_none, ne_eq, not_true_eq_false, or_self,
    Bool.not_true, Bool.false_eq_true, if_false, if_true]

theorem doPublish_stale (hfront : movers s die = l :: ls) (hbegun : l.begun = false) (haccess : listAccess s (waiterOf true die) l.addr = (.ok, u))
    (he : PublishEntry u l h gs gd) (hold : (movEntry u l).arg < rdN u gd.base) :
    doPublish s die = refusePub u die Code.PUBLISH_STALE h [] (movEntry u l).arg l.polder (movEntry u l).dst := by
  obtain ⟨hleft, hop, hhost, hsrc, hdst, hsound, hidle⟩ := he
  unfold doPublish
  simp only [hfront, hbegun, haccess, hleft, hop, hhost, hsrc, hdst, hsound, hidle, hold, Nat.not_lt.2 (Nat.le_of_lt hold), Option.elim_none, ne_eq,
    not_true_eq_false, or_self, Bool.not_true, Bool.false_eq_true, if_false, if_true]

theorem doFlip_flips {p reg c : Nat} {x : PubPend} {g : Region} (hpend : pendingPub s p reg = some x) (hregion : regionOf s p reg = some g)
    (hcommit : x.commit = some c) (hdue : c ≤ s.tick.epoch) (haccess : tileAccess s (waiterOf true g.die) g.base 64 true = (.ok, u)) :
    doFlip s p reg =
      let w := wrWords u g.base [BitVec.ofNat 64 x.version, BitVec.ofNat 64 ((1 - activeBuf u g) * 2 ^ 63 + u.tick.epoch), BitVec.ofNat 64 x.host,
        BitVec.ofNat 64 x.length, 0, 0, 0, 0]
      publishNotice { w with pubs := w.pubs.erase x } x.host 0 x.version p reg := by
  unfold doFlip
  simp only [hpend, hregion, haccess]
  exact if_neg (by simp [hcommit, hdue])

end

/-- Settles O31. -/
theorem publication : Obligations.Publication := by
  unfold Obligations.Publication
  refine ⟨?_, ?_⟩
  · rintro s r u v die t l ls h gs gd rfl halive hawake hfront hbegun haccess e hleft hop hhost hsrc hdst hformat hso hdo hs2 hsh hd3 hwriters harg
      hsb hdb hidle
    have he : PublishEntry u l h gs gd := by
      refine ⟨hleft, hop, hhost, hsrc, hdst, ?_, hidle⟩
      simp only [e] at *
      simp only [hformat, hso, hdo, hs2, hsh, hd3, hwriters, harg, hsb, hdb, decide_true, Bool.and_self, ne_eq, not_false_eq_true]
    refine ⟨fun hnew hbuf => ?_, fun hold => ?_⟩
    · exact exec_crest rfl halive hawake (congrArg settle (doPublish_begins hfront hbegun haccess he hnew hbuf))
    · exact exec_crest rfl halive hawake (congrArg settle (doPublish_stale hfront hbegun haccess he hold))
  · intro s r p reg x g c halive hpend hregion hcommit hdue haccess w
    exact exec_part rfl halive (congrArg settle (doFlip_flips hpend hregion hcommit hdue haccess))

end Sys2Proof.Proofs
end

