-- ==== Sys2Proof/Proofs/FlashAccess.lean ====
section
/-! PROOFS. Reading and writing units of the flash (R385 to R400). -/

namespace Sys2Proof.Proofs

open Sys2Proof.Machine Sys2Proof.Laws

section
variable {s v x : State} {ns u c : Nat} {n : FlashNs} {o : Option Nat}

theorem doFlashRead_plain (hns : getNs s ns = some n) (hmapped : entryMapped (mapEntry s n.newest u) = true) :
    doFlashRead s ns u none o = (readUnit s ns n.newest u o).1 := by
  simp only [doFlashRead, hns, hmapped, if_true]

/-- The vectors of a unit that a request still waits for, with the collection of each (R388). -/
def wantedIn (s : State) (c ns u : Nat) : List (Nat × Coll × Nat) :=
  let co := getColl s (dColl (getCtx s c).desc)
  (if cFullNs s co = ns then ((wantVecs s c).filter fun x => x.2.1 = u).map fun x => (x.1, co, x.2.2) else [])
    ++ ((wantTrain s c).filter fun x => cFullNs s x.2.1 = ns && x.2.2.1 = u).map fun x => (x.1, x.2.1, x.2.2.2)

theorem doFlashRead_request {code : Nat} {bs : List Byte} (hlive : isLive s c = true) (hwant : (wantedIn s c ns u).isEmpty = false)
    (howner : (activeOwner s c).isNone = false) (hns : getNs s ns = some n) (hhost : n.isHost = false) (hpolder : n.polder = (getCtx s c).polder)
    (hbound : n.bound = true)
    (hask : (if entryMapped (mapEntry s (resolveFrom s (getCtx s c).pin chainFuel n.newest) u) then
        flashAsk s (getCtx s c).polder wFlashRd (locCh (entryLoc (mapEntry s (resolveFrom s (getCtx s c).pin chainFuel n.newest) u))) (flowTag 1 c u)
      else (true, s)) = (true, v))
    (hread : readUnit v ns (resolveFrom s (getCtx s c).pin chainFuel n.newest) u o = (x, code, bs)) :
    doFlashRead s ns u (some c) o =
      if code ≠ 0 then failCtx x c code
      else modWork x c fun y => { y with vectors := (wantedIn s c ns u).foldl (fun m z => mapSet m z.1 (vecFrom x z.2.1 bs z.2.2)) y.vectors } := by
  unfold wantedIn at *
  unfold doFlashRead
  simp only at hwant ⊢
  simp only [hlive, hwant, howner, hns, hhost, hpolder, hbound, hask, hread, ne_eq, not_true_eq_false, decide_false, Bool.not_true, Bool.or_self,
    Bool.false_eq_true, if_false]

theorem doFlashLate_waits {io : Nat} {t : Stamp} (hio : io < 8192) (hlive : isLive s io = true) (hwaits : wantVecs s io ≠ [])
    (hlate : (getCtx s io).work.since + ioLimit s ≤ t) :
    doFlashLate s io t = failCtx (bump s ⟨.FSS_CNT1, lateToe s io, 0⟩ 31 0 1) io Code.FLASH_LATE := by
  unfold doFlashLate
  rw [if_pos hio]
  refine if_pos ?_
  simp only [hlive, List.isEmpty_eq_false_iff.2 hwaits, hlate, decide_true, Bool.not_false, Bool.true_or, Bool.and_self]

/-- What a mutation in its flash stage needs for a unit of its namespace (R220). -/
structure MayMerge (s : State) (c ns u : Nat) (n : FlashNs) : Prop where
  stage : standsIn s c .flashWr = true
  mutates : isMutation (dKind (getCtx s c).desc) = true
  keeps : dKind (getCtx s c).desc ≠ kDelete
  weir : (getCtx s c).work.weir = 2
  full : cFull s (getColl s (dColl (getCtx s c).desc)) = true
  fullNs : cFullNs s (getColl s (dColl (getCtx s c).desc)) = ns
  items : (itemsIn s c u).isEmpty = false
  found : getNs s ns = some n
  mine : n.isHost = false
  polder : n.polder = (getCtx s c).polder
  bound : n.bound = true
  free : (s.fss.wrs.any fun w => w.ns = ns && w.unit = u && w.hold.isSome) = false

theorem doUnitWrite_merges {off : Nat} {data old : List Byte} (h : MayMerge s c ns u n) (hread : readUnit s ns n.newest u (some 1) = (v, 0, old))
    (hwrite : writeUnit v (getCtx s c).polder ns u 0 (layVecs v c old (itemsIn s c u)) (some (c, (getCtx s c).gen)) none
      (some (c, (getCtx s c).gen)) (flowTag 2 c u) = (x, true, 0)) :
    doUnitWrite s ns u off data (some c) = modWork x c fun w => { w with vecDone := w.vecDone ++ (itemsIn s c u).map (·.1) } := by
  unfold doUnitWrite
  simp only [h.stage, h.mutates, h.keeps, h.weir, h.full, h.fullNs, h.items, h.found, h.mine, h.polder, h.bound, h.free, hread, hwrite, ne_eq,
    not_true_eq_false, not_false_eq_true, decide_false, decide_true, Bool.and_self, Bool.not_true, Bool.or_self, Bool.false_eq_true, if_false, if_true]

/-- Noting a list's unit keeps the writes. -/
theorem noteList_wrs (s : State) (n e : Nat) : (noteList s n e).fss.wrs = s.fss.wrs := rfl

/-- What both states of a choice keep, the choice keeps. -/
theorem ite_keeps {α β : Type} (g : α → β) {p : Prop} [Decidable p] {a b : α} {y : β} (ha : g a = y) (hb : g b = y) :
    g (if p then a else b) = y := by
  by_cases hp : p
  · rw [if_pos hp, ha]
  · rw [if_neg hp, hb]

theorem doProgramEnd_wrs {q : Nat} {t : Stamp} {w : FlashWr} (hfind : (s.fss.wrs.find? fun w => w.seq = q && w.commit.isNone) = some w) :
    (doProgramEnd s q t).fss.wrs = s.fss.wrs.map fun x =>
      if x.seq = q || (x.commit.isNone && locBlock x.loc = locBlock w.loc && Config.wordLine (locPage x.loc) = Config.wordLine (locPage w.loc))
      then { x with commit := some (boundaryFor s t) } else x := by
  unfold doProgramEnd
  rw [hfind]
  refine (foldl_keeps (·.fss.wrs) (fun s y => ?_) _ _).trans rfl
  cases y.ctx with
  | none => cases y.list <;> rfl
  | some g => cases y.list <;> exact ite_keeps (fun x : State => x.fss.wrs) rfl rfl

end

/-- Settles O33. -/
theorem flashAccess : Obligations.FlashAccess := by
  unfold Obligations.FlashAccess
  refine ⟨?_, ?_, ?_, ?_, ?_, ?_, ?_⟩
  · rintro s r ns u o t n rfl halive hns hmapped
    exact exec_part rfl halive (congrArg settle (doFlashRead_plain hns hmapped))
  · rintro s r v x ns u c o t n code bs rfl halive k co plain train want hlive hwant howner hns hhost hpolder hbound ver w hask hread
    exact exec_part rfl halive (congrArg settle (doFlashRead_request hlive hwant howner hns hhost hpolder hbound hask hread))
  · rintro s r io t rfl halive hio hlive hwaits hlate
    exact exec_part rfl halive (congrArg settle (doFlashLate_waits hio hlive hwaits hlate))
  · rintro s r ns u off data t n rfl halive hns
    refine exec_part rfl halive (congrArg settle ?_)
    simp only [doUnitWrite, Option.map_none, hns]
  · rintro s r v x ns u off data old c t n rfl halive k items hstage hmut hkeep hweir hfull hfullNs hitems hns hhost hpolder hbound hfree hread hwrite
    exact exec_part rfl halive (congrArg settle (doUnitWrite_merges
      ⟨hstage, hmut, hkeep, hweir, hfull, hfullNs, hitems, hns, hhost, hpolder, hbound, hfree⟩ hread hwrite))
  · intro s halive hberm
    refine exec_part rfl halive ?_
    unfold doPadding
    rw [hberm]
    rfl
  · rintro s r q t w rfl halive hfind
    exact ⟨_, exec_part rfl halive rfl, doProgramEnd_wrs hfind⟩

end Sys2Proof.Proofs
end

