-- ==== Sys2Proof/Proofs/FlashUpkeep.lean ====
section
/-! PROOFS. Upkeep and failures of the flash (R390 to R398), its lists, map commit and the commit log (R383, R401 to R407). -/

namespace Sys2Proof.Proofs

open Sys2Proof.Machine Sys2Proof.Laws

section
variable {s u v : State} {l b n i code : Nat} {bad : List Nat} {t : Stamp}

/-- The flash runs: FSS_STS.state is READY or above. -/
theorem not_starting (hrun : 2 ≤ fssState s) : ¬ fssState s < 2 := Nat.not_lt.2 hrun

theorem doGc_copies (hrun : 2 ≤ fssState s) (hgood : l ∈ goodLuns s) (hlow : freeBlocks s l < getF s ⟨.FSS_CFG, 0, 0⟩ 31 24)
    (hquiet : (s.fss.blks.any fun e =>
      blockLun e.1 = l && refreshDue { s with fss := { s.fss with gc := insertUniq l s.fss.gc } } e.1 t) = false)
    (hvictim : gcVictim { s with fss := { s.fss with gc := insertUniq l s.fss.gc } } l = some b) :
    doGc s l bad t = copyBlock { s with fss := { s.fss with gc := insertUniq l s.fss.gc } } b bad true := by
  have hgood : (goodLuns s).contains l = true := List.elem_eq_true_of_mem hgood
  unfold doGc
  rw [if_neg (by rw [hgood, decide_eq_false (not_starting hrun)]; decide), if_neg (by simp only [hlow, decide_true, Bool.true_or]; decide)]
  dsimp only [modFss]
  rw [if_neg (ne_true_of_eq_false hquiet), hvictim]

theorem doBlockErase_erases (hrun : 2 ≤ fssState s) (hclosed : (getBlk s b).st = .closed) (hempty : validPages s b = [])
    (hidle : (s.fss.wrs.any fun w => locBlock w.loc = b || w.reloc.elim false (fun src => locBlock src = b)) = false) :
    doBlockErase s b =
      let r := bump (setBlk s b { FlashBlk.fresh with erases := (getBlk s b).erases + 1 }) ⟨.FSS_CH_CNT1, blockCh b, 0⟩ 63 32 1
      { r with fss := { r.fss with pages := r.fss.pages.filter fun e => locBlock e.1 ≠ b } } := by
  refine if_neg ?_
  simp only [hidle, hclosed, hempty, not_starting hrun, ne_eq, not_true_eq_false, decide_false, List.isEmpty_nil, Bool.not_true, Bool.or_self,
    Bool.false_eq_true, not_false_eq_true]

theorem doProgramFailure_copies (hrun : 2 ≤ fssState s) (hused : (getBlk s b).st ≠ .free) :
    doProgramFailure s b = copyBlock (rewriteFrom (retireBlk s b) (· = b)) b [] false :=
  if_neg (by simp [not_starting hrun, hused])

theorem doEraseFailure_retires (hrun : 2 ≤ fssState s) (hclosed : (getBlk s b).st = .closed) : doEraseFailure s b = retireBlk s b :=
  if_neg (by simp [not_starting hrun, hclosed])

theorem regAddr_chCfg_ne_fssSts {ch i : Nat} (_ : ch < 32) (_ : i < 4) : regAddr ⟨.FSS_CH_CFG, ch, 0⟩ ≠ regAddr ⟨.FSS_STS, i, 0⟩ := by
  simp only [regAddr, RegName.place, classAddr, regAt, unitNo]
  omega

/-- A field written to the four FSS_STS leaves a channel's configuration. -/
theorem chCfg_setSts {ch : Nat} (hch : ch < 32) (s : State) (hi lo v : Nat) :
    chCfg ((List.range 4).foldl (fun s i => setF s ⟨.FSS_STS, i, 0⟩ hi lo v) s) ch = chCfg s ch := by
  rw [show List.range 4 = [0, 1, 2, 3] from rfl]
  simp only [List.foldl_cons, List.foldl_nil, chCfg]
  rw [getReg_setF_of_ne _ _ _ _ (regAddr_chCfg_ne_fssSts hch (by decide)), getReg_setF_of_ne _ _ _ _ (regAddr_chCfg_ne_fssSts hch (by decide)),
    getReg_setF_of_ne _ _ _ _ (regAddr_chCfg_ne_fssSts hch (by decide)), getReg_setF_of_ne _ _ _ _ (regAddr_chCfg_ne_fssSts hch (by decide))]

theorem chCfg_bump (s : State) (r : Reg) (hi lo n ch : Nat) : chCfg (bump s r hi lo n) ch = chCfg s ch := rfl

theorem chCfg_modBlk (s : State) (b ch : Nat) (f : FlashBlk → FlashBlk) : chCfg (modBlk s b f) ch = chCfg s ch := rfl

theorem chCfg_retireBlk {ch : Nat} (hch : ch < 32) (s : State) (b : Nat) : chCfg (retireBlk s b) ch = chCfg s ch := by
  refine ite_keeps (chCfg · ch) rfl (ite_keeps (chCfg · ch) ((chCfg_setSts hch _ _ _ _).trans ?_) ?_)
  all_goals rw [chCfg_bump, chCfg_setSts hch, chCfg_modBlk]

/-- The blocks of a LUN stay the same while they are retired one by one. -/
theorem retire_lunBlocks {l : Nat} (hl : l < 2048) (is : List Nat) {s v : State} (hcfg : chCfg s (lunCh l) = chCfg v (lunCh l)) :
    is.foldl (fun s i => retireBlk s (lunBlock s l i)) s = is.foldl (fun s i => retireBlk s (lunBlock v l i)) s := by
  have hch : lunCh l < 32 := by unfold lunCh; omega
  induction is generalizing s with
  | nil => simp only [List.foldl_nil]
  | cons i is ih =>
    have hper : blocksPer s (lunCh l) = blocksPer v (lunCh l) := congrArg (fld · 48 34) hcfg
    have hblock : lunBlock s l i = lunBlock v l i := by unfold lunBlock; rw [hper]
    simp only [List.foldl_cons]
    rw [ih ((chCfg_retireBlk hch s _).trans hcfg), hblock]

theorem doLunFailed_retires (hgood : s.fss.badLuns.contains l = false) (hl : l < 2048) :
    doLunFailed s l =
      let u := bump s ⟨.FSS_CH_CNT2, lunCh l, 0⟩ 31 16 1
      let v := rewriteFrom (poisonLun { u with fss := { u.fss with badLuns := insertUniq l u.fss.badLuns } } l) fun b => blockLun b = l
      (List.range (lunSize v l)).foldl (fun s i => retireBlk s (lunBlock v l i)) v := by
  have hfine : ¬ (s.fss.badLuns.contains l || decide (2048 ≤ l)) = true := by
    rw [hgood, decide_eq_false (Nat.not_le.2 hl)]
    decide
  unfold doLunFailed
  exact (if_neg hfine).trans (retire_lunBlocks hl _ rfl)

theorem doCheckpoint_writes (hrun : 2 ≤ fssState s)
    (hdue : s.fss.ckptTick + getF s ⟨.FSS_CFG, 0, 0⟩ 47 32 ≤ s.tick.tick ∨ getF s ⟨.FSS_CKPT, 0, 0⟩ 63 32 ≤ s.fss.ckptNew) :
    doCheckpoint s = writeCkpt s :=
  if_pos ⟨hrun, by simpa using hdue⟩

end

/-- A write of FSS_CFG with its fields in range enables flash as it says (R381). -/
theorem writeReg_flashCfg {s : State} {v : Word} (hranges : inRanges .FSS_CFG v = true) :
    writeReg s .reeve ⟨.FSS_CFG, 0, 0⟩ v s.now = doFlashEnable s v := by
  simp only [writeReg, hranges, if_true]

/-- Settles O34. -/
theorem flashUpkeep : Obligations.FlashUpkeep := by
  unfold Obligations.FlashUpkeep
  refine ⟨?_, ?_, ?_, ?_, ?_, ?_, ?_, ?_, ?_⟩
  · rintro s r lun b bad t rfl halive hrun hgood hlow u hquiet hvictim
    exact exec_part rfl halive (doGc_copies hrun hgood hlow hquiet hvictim)
  · rintro s r b bad t rfl halive hrun hdue
    exact exec_part rfl halive (if_pos ⟨hrun, hdue⟩)
  · intro s b halive hrun hclosed hempty hidle
    exact exec_part rfl halive (doBlockErase_erases hrun hclosed hempty hidle)
  · rintro s r b t rfl halive hrun hused
    exact exec_part rfl halive (doProgramFailure_copies hrun hused)
  · intro s b halive hrun hclosed
    exact exec_part rfl halive (doEraseFailure_retires hrun hclosed)
  · intro s l halive hgood hl
    exact exec_part rfl halive (doLunFailed_retires hgood hl)
  · intro s ch halive
    exact exec_part rfl halive rfl
  · intro s halive hrun hdue
    exact exec_part rfl halive (doCheckpoint_writes hrun hdue)
  · intro s v halive hranges
    exact exec_part rfl halive (congrArg settle (writeReg_flashCfg hranges))

section
variable {s r u v : State} {n i code : Nat} {t : Stamp} {l : FlashList} {e : FlEntry} {ok : List (Option Nat)}

theorem doListRead_outcome (hstart : startFl s n (fun op => op = 0 || decide (2 < op)) = (some (l, e), u))
    (hloop : unitLoop (fun s i => readStep s n l.polder e l.epoch i ((nth? ok i).getD none)) e.units e.units u l.unit = (v, i, code)) :
    doListRead s n ok = if code ≠ 0 then endFlList v n l code else if e.units ≤ i then endFlEntry v n l
      else modList v n l fun x => { x with unit := i } := by
  simp only [doListRead, hstart, hloop]

theorem doListWrite_outcome (hstart : startFl s n (fun op => op = 1) = (some (l, e), u))
    (hloop : unitLoop (fun s i => writeStep s n l.polder e i (some n)) e.units e.units u l.unit = (v, i, code)) :
    doListWrite s n = if code ≠ 0 then endFlList v n l code else if e.units ≤ i then endFlEntry v n l
      else modList v n l fun x => { x with unit := i } := by
  simp only [doListWrite, hstart, hloop]

theorem doListDiscard_marks (hstart : startFl s n (fun op => op = 2) = (some (l, e), u)) :
    doListDiscard s n t = endFlEntry { u with fss := { u.fss with
      marks := u.fss.marks ++ (List.range e.units).map fun i => ⟨u.fss.seq, e.ns, e.first + i, false, boundaryFor u t, some n⟩ } } n l := by
  unfold doListDiscard
  rw [hstart]
  rfl

/-- The state without the held changes of groups that are gone. -/
def withoutGone (s : State) : State := { s with fss := { s.fss with wrs := s.fss.wrs.filter fun w => !w.hold.elim false (holdGone s) } }

/-- The writes that a map commit at the published epoch takes. -/
def dueWrites (s : State) : List FlashWr :=
  (withoutGone s).fss.wrs.filter fun w => w.hold.isNone && w.commit.elim false fun c => decide (c ≤ s.tick.epoch)

/-- The marks that it takes. -/
def dueMarks (s : State) : List FlashMark := s.fss.marks.filter fun m => decide (m.commit ≤ s.tick.epoch)

/-- The map entries that its changes come to. -/
def dueChanges (s : State) : Updates := (sortedChanges (dueWrites s) (dueMarks s)).foldl (applyChange (withoutGone s)) []

theorem doMapCommit_writes (hws : dueWrites s ≠ []) (hms : dueMarks s = [])
    (hpub : ((ascending ((dueChanges s).map (·.1.1))).foldl (fun (acc : Option State) ns =>
      acc.bind fun s' => publishMap s' ns s.tick.epoch (((dueChanges s).filter fun x => x.1.1 = ns).map fun x => (x.1.2, x.2)))
      (some (withoutGone s))) = some r) :
    doMapCommit s = { r with fss := { r.fss with
      wrs := r.fss.wrs.filter fun w => !(dueWrites s).contains w
      marks := r.fss.marks.filter fun m => !(dueMarks s).contains m
      log := r.fss.log ++ [⟨s.tick.epoch, (dueWrites s).foldl (fun n w => max n w.seq) ((s.fss.log.getLast?).elim 0 (·.hi)), [], [], false⟩] } } := by
  have hsome : ¬ ((dueWrites s).isEmpty && (dueMarks s).isEmpty) = true := by simp [hws]
  unfold doMapCommit
  refine (if_neg hsome).trans ?_
  dsimp only
  split
  next h => exact absurd (h.symm.trans hpub) (by simp)
  next s' h =>
    obtain rfl := Option.some.inj (h.symm.trans hpub)
    have hnil : (s.fss.marks.filter fun m => decide (m.commit ≤ s.tick.epoch)) = [] := hms
    dsimp only [modFss] at hnil ⊢
    rw [hnil, hms]
    rfl

theorem doCommitLog_writes {x : LogRec} (hfind : (s.fss.log.find? fun y => !y.written) = some x) (hdue : x.epoch ≤ s.tick.tick) :
    doCommitLog s = settleLists { s with fss := { s.fss with
      log := s.fss.log.map fun y => if y = x then { x with written := true } else y
      durable := max s.fss.durable x.epoch } } := by
  unfold doCommitLog
  rw [hfind]
  exact if_neg (Nat.not_lt.2 hdue)

end

/-- Settles O35. -/
theorem flashListsAndCommit : Obligations.FlashListsAndCommit := by
  unfold Obligations.FlashListsAndCommit
  refine ⟨?_, ?_, ?_, ?_, ?_, ?_⟩
  · intro s n by_ halive hby hopen
    exact exec_part rfl halive (asRequester_reaches hby hopen _)
  · rintro s r u v n ok t l e i code rfl halive hstart hloop
    exact exec_part rfl halive (congrArg settle (doListRead_outcome hstart hloop))
  · rintro s r u v n t l e i code rfl halive hstart hloop
    exact exec_part rfl halive (congrArg settle (doListWrite_outcome hstart hloop))
  · rintro s r u n t l e rfl halive hstart
    exact exec_part rfl halive (congrArg settle (doListDiscard_marks hstart))
  · intro s r halive s0 ws ms ups hws hms hpub
    exact exec_part rfl halive (doMapCommit_writes hws hms hpub)
  · rintro s r t x rfl halive hfind hdue
    exact exec_part rfl halive (congrArg settle (doCommitLog_writes hfind hdue))

end Sys2Proof.Proofs
end

