-- ==== Sys2Proof/Proofs/Ports.lean ====
section
/-! PROOFS. Ports, their frames and their gates (R410 to R421). -/

namespace Sys2Proof.Proofs

open Sys2Proof.Machine Sys2Proof.Laws

section
variable {s : State} {n h l : Nat} {v : Word} {t : Stamp}

/-- Only the state that a change answers counts for the members that it loses. -/
theorem withMembers_congr {f g : State → State} (h : f s = g s) : withMembers f s = withMembers g s := by
  unfold withMembers
  rw [h]

/-- A change that loses no member connection is itself. -/
theorem withMembers_of_none {f : State → State} {u : State} (hf : f s = u) (h : lostMembers s u = []) : withMembers f s = u := by
  unfold withMembers
  simp only [hf, h, List.isEmpty_nil, if_true]

/-- The start of a port's training in its mode (R412). -/
def startPort (s : State) (n : Nat) (v : Word) : State :=
  setF (setF (setF (modPort s n fun x => { x with defer := some v }) (rPortCfg n) 63 52 (fld v 63 52)) (rPortCfg n) 37 36 (fld v 37 36))
    (rPortSts n) 51 48 (if fld v 37 36 = 1 then 1 else 5)

theorem doPortMode_starts (hmode : fld v 37 36 = 1 ∨ fld v 37 36 = 2) (hfields : portFieldsOk v = true) (htoe : s.toeLost.contains n = false)
    (hoff : portMode s n = 0) : doPortMode s n v = startPort s n v := by
  have h3 : fld v 37 36 ≠ 3 := by omega
  have h0 : fld v 37 36 ≠ 0 := by omega
  unfold doPortMode
  extract_lets mode cur
  rw [if_neg (by simp only [mode, h3, hfields, htoe, Bool.not_true, Bool.false_eq_true, or_self, not_false_eq_true])]
  exact (if_neg h0).trans (if_neg (not_not_intro hoff))

theorem doLane_trains (hon : portOn s n = true) (htrains : halfState s n (if portMode s n = 2 then l / 4 else 0) = 1) :
    doLane s n l =
      let h := if portMode s n = 2 then l / 4 else 0
      let r := setF s (rPortSts n) (56 + l) (56 + l) 1
      let lanes := getF r (rPortSts n) 63 56
      if (if portMode r n = 2 then bits lanes (4 * h + 3) (4 * h) = 15 else lanes = 255) then setHalf r n h 2 else r := by
  unfold doLane
  extract_lets h
  exact if_neg (by simp only [hon, h, htrains, Bool.not_true, Bool.false_eq_true, ne_eq, not_true_eq_false, or_self, not_false_eq_true])

theorem doFrame_outcome {aft fcs icrc : Bool} {vlan : Option Nat} {pcp bytes : Nat} (hon : portOn s n = true) :
    doFrame s n aft vlan pcp bytes fcs icrc =
      if fcs = false ∨ 4202 < bytes then violation s n
      else if aft = false then s
      else if vlan ≠ some (getF s (rPortCfg n) 63 52) then violation s n
      else if icrc = false then bumpAft s .AFT_CNT3 n 15 0 1
      else pfcAll (modPort s n fun x => { x with frames := x.frames ++ [(pcp, bytes)] }) n := by
  simp only [doFrame, hon, Bool.not_true, Bool.false_eq_true, if_false, Bool.not_eq_true']

theorem doPfc_outcome {quanta : List (Nat × Nat)} (hon : portOn s n = true) :
    doPfc s n h quanta t = quanta.foldl (fun s q => modPort s n fun x => { x with
      pauses := mapPut 0 x.pauses (8 * h + q.1) (if q.2 = 0 then 0 else t + cdiv (q.2 * 64) (halfRate s n)) }) (bumpAft s .AFT_CNT5 n 31 0 1) :=
  if_neg (by simp [hon])

end

/-- Settles O36. -/
theorem portRows : Obligations.PortRows := by
  unfold Obligations.PortRows
  refine ⟨?_, ?_, ?_, ?_, ?_, ?_, ?_⟩
  · intro s n v halive hmode hfields htoe hoff f
    exact exec_part rfl halive (congrArg settle (withMembers_congr (doPortMode_starts hmode hfields htoe hoff)))
  · intro s n l halive hon h htrains
    exact exec_part rfl halive (doLane_trains hon htrains)
  · intro s n h halive htrains
    exact exec_part rfl halive (if_pos htrains)
  · rintro s r n aft vlan pcp bytes fcs icrc t rfl halive hon
    exact exec_part rfl halive (doFrame_outcome hon)
  · rintro s r n h quanta t rfl halive hon
    exact exec_part rfl halive ((doPfc_outcome hon).trans List.foldl_map)
  · intro s n v halive hoff
    exact exec_part rfl halive (if_neg (not_not_intro hoff))
  · intro s n halive hbegun hasked
    exact exec_part rfl halive ((if_pos hbegun).trans (if_pos hasked))

end Sys2Proof.Proofs
end

