-- ==== Sys2Proof/Proofs/Connections.lean ====
section
/-! PROOFS. What a connection does with packets, acknowledges and timers (R64 to R66, R430 to R437). -/

namespace Sys2Proof.Proofs

open Sys2Proof.Machine Sys2Proof.Laws

@[simp] theorem getConn_setConn_self (s : State) (c : Nat) (k : Conn) : getConn (setConn s c k) c = k := mapGetD_mapSet_self _ _ _ _

theorem getConn_setConn_of_ne (s : State) {c x : Nat} (k : Conn) (h : x ≠ c) : getConn (setConn s c k) x = getConn s x :=
  mapGetD_mapSet_of_ne _ _ _ h

section
variable {s : State} {c n i kind wait q : Nat} {t : Stamp} {op : PktOp} {p : Packet} {a : AckPacket} {x : Parked}

/-- A packet of a cached connection with nothing parked is used in order with what is held (R431). -/
theorem arrive_cached (hon : portOn s (connPort s c) = true) (hcache : (getPort s (connPort s c)).cache.contains c = true)
    (hparked : ((getPort s (connPort s c)).parked.any (·.1 = c)) = false) :
    arrive s c x t = retryHeld (modPort
      (cacheUse (peerSeen (modPort (unIdle s) (connPort s c) fun y => { y with frames := y.frames.drop 1 }) c t) c) (connPort s c)
      fun y => { y with held := y.held ++ [(c, x)] }) c t := by
  unfold arrive
  refine (if_neg (by simp [hon])).trans (if_pos ⟨hcache, ?_⟩)
  rw [hparked]
  rfl

theorem doFetch_takes (hon : portOn s (connPort s c) = true) (hparked : ((getPort s (connPort s c)).parked.any (·.1 = c)) = true)
    (hroom : (getPort s (connPort s c)).cache.length < 2048) :
    doFetch s c t = retryHeld (bumpAft (modPort s (connPort s c) fun x =>
      { x with cache := c :: x.cache.filter (fun y => y ≠ c && (none : Option Nat) ≠ some y)
               parked := x.parked.filter (·.1 ≠ c), held := x.held ++ (getPort s (connPort s c)).parked.filter (·.1 = c) })
      .AFT_CNT4 (connPort s c) 31 0 1) c t := by
  have hfull : ¬ 2048 ≤ (getPort s (connPort s c)).cache.length := Nat.not_le.2 hroom
  simp only [doFetch, hon, hparked, hfull, Bool.not_true, Bool.or_self, Bool.false_eq_true, if_false, false_and]

end

/-- Settles O37. -/
theorem packetArrival : Obligations.PacketArrival := by
  unfold Obligations.PacketArrival
  refine ⟨?_, ?_, ?_, ?_⟩
  · rintro cmd op hcmd s r p t rfl halive n hon hcache hparked u
    have hdone := arrive_cached (x := .send op p) (t := t) hon hcache hparked
    simp only [List.mem_cons, Prod.mk.injEq, List.not_mem_nil, or_false] at hcmd
    obtain ⟨rfl, rfl⟩ | ⟨rfl, rfl⟩ | ⟨rfl, rfl⟩ | ⟨rfl, rfl⟩ | ⟨rfl, rfl⟩ | ⟨rfl, rfl⟩ := hcmd
    all_goals exact exec_part rfl halive (congrArg settle hdone)
  · rintro w cmd kind wait hcmd s r p t rfl halive n hon hcache hparked u
    have hdone := arrive_cached (x := .ack kind wait p) (t := t) hon hcache hparked
    simp only [List.mem_cons, Prod.mk.injEq, List.not_mem_nil, or_false] at hcmd
    obtain ⟨rfl, rfl, rfl⟩ | ⟨rfl, rfl, rfl⟩ | ⟨rfl, rfl, rfl⟩ := hcmd
    all_goals exact exec_part rfl halive (congrArg settle hdone)
  · intro s p halive n hon hcache hparked u done
    exact ⟨exec_part rfl halive (congrArg settle (arrive_cached hon hcache hparked)), fun hnone =>
      exec_part rfl halive (congrArg settle (withMembers_of_none (arrive_cached hon hcache hparked) hnone))⟩
  · rintro s r c t rfl halive n p hon hparked hroom u done hnone
    exact exec_part rfl halive (congrArg settle (withMembers_of_none (doFetch_takes hon hparked hroom) hnone))

section
variable {s : State} {c n i kind wait q : Nat} {t : Stamp} {op : PktOp} {p : Packet} {a : AckPacket}

/-- What an ESTABLISHED connection does with a packet that is no first one and has no ECN mark. -/
theorem processSend_next (hst : (getConn s c).st = .established) (hfirst : op.isFirst = false) (hce : p.ecnCe = false) :
    processSend s c op p t =
      let k := getConn s c
      let behind := (k.epsn % 2 ^ 24 + 2 ^ 24 - p.psn.toNat) % 2 ^ 24
      if behind = 0 then takePkt s c op p t
      else if behind ≤ 2 ^ 23 then (some (bumpAft (sendAckPkt s c (k.epsn + 2 ^ 24 - 1) 0x1F) .AFT_CNT1 (connPort s c) 63 32 1), s)
      else if k.seqNak.elim false fun x => x.1 = k.epsn && decide (t < x.2 + ackNs s (connPort s c)) then (some s, s)
      else (some (modConn (sendNak s c k.epsn 0x60) c fun k' => { k' with seqNak := some (k'.epsn, t) }), s) := by
  simp only [processSend, hst, hfirst, hce, reduceCtorEq, Bool.false_eq_true, false_and, if_false]

/-- An Acknowledge that is sent leaves the connection but for its congestion mark. -/
theorem getConn_sendNak (psn syn : Nat) : getConn (sendNak s c psn syn) c = { getConn s c with ce := false } := getConn_setConn_self s c _

theorem modConn_congr {f g : Conn → Conn} (h : f (getConn s c) = g (getConn s c)) : modConn s c f = modConn s c g :=
  congrArg (setConn s c) h

theorem processSend_closed (hst : (getConn s c).st = .closed) : processSend s c op p t = (some (sendNak s c p.psn.toNat 0x61), s) :=
  if_pos hst

end

/-- Settles O38. -/
theorem receiverSequence : Obligations.ReceiverSequence := by
  unfold Obligations.ReceiverSequence
  refine ⟨?_, fun s c op p t hst => processSend_closed hst⟩
  intro s c op p t hst hfirst hce k behind
  have hnext := processSend_next (p := p) (t := t) hst hfirst hce
  refine ⟨fun h0 => hnext.trans (if_pos h0), fun h1 h2 => ⟨_, ?_, rfl, rfl⟩, fun h2 hnak => ⟨_, ?_, rfl, rfl⟩⟩
  · exact hnext.trans ((if_neg (Nat.ne_of_gt h1)).trans (if_pos h2))
  · have h0 : behind ≠ 0 := by omega
    have hquiet : ¬ (k.seqNak.elim false fun x => x.1 = k.epsn && decide (t < x.2 + ackNs s (connPort s c))) = true := by
      rw [hnak]
      exact Bool.false_ne_true
    have hnoted : modConn (sendNak s c k.epsn 0x60) c (fun k' => { k' with seqNak := some (k'.epsn, t) })
        = modConn (sendNak s c k.epsn 0x60) c (fun k' => { k' with seqNak := some (k.epsn, t) }) :=
      modConn_congr (by rw [getConn_sendNak])
    rw [hnext, ← hnoted]
    exact (if_neg h0).trans ((if_neg (Nat.not_le.2 h2)).trans (if_neg hquiet))

section
variable {s : State} {c n i kind wait q : Nat} {t : Stamp} {a : AckPacket}

/-- What an ESTABLISHED connection does with an Acknowledge of its incarnation, without BECN, for an unacknowledged PSN. -/
theorem processAck_own (hst : (getConn s c).st = .established) (hown : a.incarn.toNat = (getConn s c).incarn) (hbecn : a.becn = false)
    (hq : unaIndex (getConn s c) a.psn.toNat = some q) :
    (processAck s c 0 wait a t = advance s c (q + 1) false t)
    ∧ (processAck s c 1 wait a t =
        if rnrRetry s (connPort s c) ≤ (if (getConn s c).rnrPsn = q then (getConn s c).rnrCount + 1 else 1) then loseConn s c 3 Code.RECV_NOT_READY
        else modConn s c fun k => { k with
          rnrPsn := q, rnrCount := if (getConn s c).rnrPsn = q then (getConn s c).rnrCount + 1 else 1
          rnrUntil := some (t + (wait + 1) * 10 * us) })
    ∧ (processAck s c 2 wait a t =
        if (getConn s c).nakAt.elim false fun x => x.1 = q && decide (t < x.2 + rtoNs (shrink s c) (connPort s c)) then shrink s c
        else modConn (shrink s c) c fun k => { k with cur := q, nakAt := some (q, t), paid := false })
    ∧ processAck s c 3 wait a t = loseConn s c 4 Code.CONN_CLOSED := by
  have hmine : ∀ kind, ackOwn (getConn s c) kind a = true := fun kind => by simp [ackOwn, hown]
  refine ⟨?_, ?_, ?_, ?_⟩
  all_goals simp only [processAck, hst, hbecn, hq, hmine, reduceCtorEq, or_self, Bool.not_true, Bool.false_eq_true, false_and, if_false]

theorem processAck_foreign (hst : (getConn s c).st = .established) (hown : ackOwn (getConn s c) kind a = false) :
    processAck s c kind wait a t = violation s (connPort s c) := by
  simp only [processAck, hst, hown, reduceCtorEq, or_self, Bool.not_false, if_true, if_false]

end

/-- Settles O39. -/
theorem ackRules : Obligations.AckRules := by
  unfold Obligations.AckRules
  refine ⟨?_, fun s c kind wait p t hst hown => processAck_foreign hst hown⟩
  intro s c wait q p t hst hown hbecn hq k
  obtain ⟨hack, hrnr, hseq, hinvalid⟩ := processAck_own (wait := wait) (t := t) hst hown hbecn hq
  refine ⟨hack, fun hnew hretry => ?_, fun hnone hnone' => ?_, hinvalid⟩
  · rw [hrnr, if_neg hnew, if_neg (Nat.not_le.2 hretry)]
  · rw [hseq, hnone]
    exact if_neg Bool.false_ne_true

section
variable {s : State} {c n i : Nat} {t : Stamp}

theorem doTimeout_again (hst : (getConn s c).st = .established) (hopen : (getConn s c).una ≠ (getConn s c).next)
    (hlate : (getConn s c).advAt + rtoNs s (connPort s c) ≤ t) :
    doTimeout s c t =
      let u := bumpAft s .AFT_CNT0 (connPort s c) 31 0 1
      if retryMax u (connPort s c) ≤ (getConn s c).timeouts + 1 then loseConn u c 2 Code.CONN_LOST
      else modConn (shrink u c) c fun k' => { k' with timeouts := k'.timeouts + 1, cur := k'.una, advAt := t, paid := false } := by
  unfold doTimeout
  refine if_neg ?_
  simp only [hst, hopen, Nat.not_lt.2 hlate, ne_eq, not_true_eq_false, false_and, or_self, not_false_eq_true]

theorem doKeepalive_seen {tick : Nat} (hon : portOn s n = true) (hvalid : peerValid s n i = true) :
    doKeepalive s n i tick t =
      let u := setPeer s n i { getPeer s n i with st := 2, last := tickOf s t }
      let own := tickOf u t
      if u.tick.running && u.tick.begun && tick ≠ own && tick ≠ own + 1 && tick + 1 ≠ own then
        let v := becomeUnaligned (setBit u (rTck .TCK_STS) 5)
        { v with tick := { v.tick with mismatch := true } }
      else u := by
  unfold doKeepalive
  exact if_neg (by simp [hon, hvalid])

theorem doKeepaliveSend_sends (hon : portOn s n = true) (hrun : s.tick.running = true) (hbegun : s.tick.begun = true)
    (honce : (getPort s n).kaTick ≠ some s.tick.tick) :
    doKeepaliveSend s n =
      let peers := (List.range 1024).filter fun i => peerValid s n i && halfState s n (peerHalf s n i) = 2
      let u := modPort s n fun x => { x with kaTick := some s.tick.tick }
      { u with out := u.out ++ peers.map fun i => .keepalive n i u.tick.tick (keepaliveHeader u n i) } := by
  unfold doKeepaliveSend
  exact if_neg (by simp [hon, hrun, hbegun, honce])

theorem doReopen_reopens {k : Conn} (hk : getConn s (getF s ⟨.AFT_CONN_SEL, n, 0⟩ 17 0) = k) (hlost : k.st = .lost)
    (hport : connPort s (getF s ⟨.AFT_CONN_SEL, n, 0⟩ 17 0) = n) (hfresh : k.reopen = false) :
    doReopen s n = setConn s (getF s ⟨.AFT_CONN_SEL, n, 0⟩ 17 0) { k with
      incarn := (k.incarn + 1) % 256, reopen := true, next := 0, una := 0, cur := 0, alloc := 0, epsn := 0, tally := 0
      w := connWinMax s (getF s ⟨.AFT_CONN_SEL, n, 0⟩ 17 0), fell := none, timeouts := 0, rnrPsn := 0, rnrCount := 0, nakAt := none
      seqNak := none, ce := false, paid := false, waited := false, msn := 0 } := by
  subst hk
  unfold doReopen
  exact if_neg (by simp [hlost, hport, hfresh])

end

/-- Settles O40. -/
theorem connectionTimers : Obligations.ConnectionTimers := by
  unfold Obligations.ConnectionTimers
  refine ⟨?_, ?_, ?_, ?_, ?_, ?_, ?_, ?_, ?_⟩
  · rintro s r c t rfl halive k n hst hopen hlate u lost
    have hagain := doTimeout_again hst hopen hlate
    exact ⟨fun hbelow hnone => exec_part rfl halive (congrArg settle
        (withMembers_of_none (hagain.trans (if_neg (Nat.not_le.2 hbelow))) hnone)),
      fun hlimit hnone => exec_part rfl halive (congrArg settle (withMembers_of_none (hagain.trans (if_pos hlimit)) hnone))⟩
  · rintro s r c t u rfl halive huntil hu
    refine exec_part rfl halive ?_
    simp only [doRnrEnd, huntil, hu, if_true]
  · rintro s r c t f rfl halive hfrom hdue hsome
    refine exec_part rfl halive ?_
    simp only [doAckDelay, hfrom, hdue, hsome, ne_eq, not_false_eq_true, and_self, if_true]
  · intro s c halive hst honce hon
    refine exec_part rfl halive (if_neg ?_)
    simp only [hst, honce, hon, ne_eq, not_true_eq_false, Bool.not_true, Bool.false_eq_true, or_self, not_false_eq_true]
  · rintro s r n i tick t rfl halive hon hvalid u own
    have hseen := doKeepalive_seen (tick := tick.toNat) (t := t) hon hvalid
    refine ⟨fun hnear => exec_part rfl halive (hseen.trans (if_neg ?_)), fun hrun hbegun h0 h1 h2 =>
      ⟨_, exec_part rfl halive (hseen.trans (if_pos ?_)), rfl⟩⟩
    · intro hfar
      simp only [Bool.and_eq_true, decide_eq_true_eq, ne_eq] at hfar
      obtain ⟨⟨⟨-, h0⟩, h1⟩, h2⟩ := hfar
      rcases hnear with h | h | h
      exacts [h0 h, h1 h, h2 h]
    · simp only [Bool.and_eq_true, decide_eq_true_eq]
      exact ⟨⟨⟨⟨hrun, hbegun⟩, h0⟩, h1⟩, h2⟩
  · intro s n halive hon hrun hbegun honce peers u
    exact exec_part rfl halive (doKeepaliveSend_sends hon hrun hbegun honce)
  · intro s n i halive hdue node s1 s2
    refine exec_part rfl halive (congrArg settle (if_neg ?_))
    simp [hdue]
  · intro s n halive c hst hport hfresh
    refine ⟨_, exec_part rfl halive (doReopen_reopens rfl hst hport hfresh), ?_, ?_, ?_, ?_, ?_, fun x hx => getConn_setConn_of_ne s _ hx, rfl⟩
    all_goals rw [getConn_setConn_self]
    exact hst
  · intro s c halive hbegun hreopen hst
    exact exec_part rfl halive ((if_pos hbegun).trans (if_pos ⟨hreopen, hst⟩))

end Sys2Proof.Proofs
end

