-- ==== Sys2Proof/Proofs/SendQueue.lean ====
section
/-! PROOFS. Doorbells, send entries, chains and egress (R417, R435, R438 to R440). -/

namespace Sys2Proof.Proofs

open Sys2Proof.Machine Sys2Proof.Laws

section
variable {s u w : State} {c n h d op a : Nat} {t : Stamp} {v : Word} {host : Option Nat}

/-- The entries that a doorbell announces beyond the consumer index (R435). -/
def doorbellAhead (s : State) (v : Word) : Nat :=
  (fld v 15 0 + 65536 - (if fld v 45 45 = 1 then (getConn s (fld v 63 46)).rqCons else (getConn s (fld v 63 46)).sqCons) % 65536) % 65536

/-- The size of the queue that it names. -/
def doorbellSize (s : State) (v : Word) : Nat := if fld v 45 45 = 1 then rqSize s (fld v 63 46) else sqSize s (fld v 63 46)

/-- Whether its requester reaches the connection's polder. -/
def doorbellGranted (s : State) (host : Option Nat) (c : Nat) : Bool :=
  host.elim true fun h => s.img.ranges.any fun x => x.1 = h && decide (x.2.1 ≤ connPolder s c) && decide (connPolder s c ≤ x.2.2)

theorem doDoorbell_announces (hst : (getConn (unIdle s) (fld v 63 46)).st = .established) (hkind : connKind (unIdle s) (fld v 63 46) = 0)
    (hport : connPort (unIdle s) (fld v 63 46) = n) (hgrant : doorbellGranted (unIdle s) host (fld v 63 46) = true)
    (hfits : doorbellAhead (unIdle s) v ≤ doorbellSize (unIdle s) v) :
    doDoorbell s n host v = modConn (unIdle s) (fld v 63 46) fun x =>
      let k := getConn (unIdle s) (fld v 63 46)
      if fld v 45 45 = 1 then { x with rqProd := max k.rqProd (k.rqCons + doorbellAhead (unIdle s) v) }
      else { x with sqProd := max k.sqProd (k.sqCons + doorbellAhead (unIdle s) v) } := by
  have hfine : ¬ ((getConn (unIdle s) (fld v 63 46)).st = .closed ∨ connKind (unIdle s) (fld v 63 46) ≠ 0 ∨ connPort (unIdle s) (fld v 63 46) ≠ n
      ∨ (!doorbellGranted (unIdle s) host (fld v 63 46)) = true ∨ doorbellSize (unIdle s) v < doorbellAhead (unIdle s) v) := by
    simp only [hst, hkind, hport, hgrant, Nat.not_lt.2 hfits, reduceCtorEq, ne_eq, not_true_eq_false, Bool.not_true, Bool.false_eq_true, or_self,
      not_false_eq_true]
  have hlost : ¬ ((getConn (unIdle s) (fld v 63 46)).st = .lost ∧ fld v 45 45 = 0) := by simp [hst]
  refine (if_neg hfine).trans ((if_neg hlost).trans (modConn_congr ?_))
  unfold doorbellAhead
  dsimp only
  split <;> rfl

theorem doDoorbell_discards (hwhy : (getConn (unIdle s) (fld v 63 46)).st = .closed ∨ connKind (unIdle s) (fld v 63 46) ≠ 0
      ∨ connPort (unIdle s) (fld v 63 46) ≠ n ∨ doorbellGranted (unIdle s) host (fld v 63 46) = false
      ∨ doorbellSize (unIdle s) v < doorbellAhead (unIdle s) v) :
    doDoorbell s n host v = bumpAft (unIdle s) .AFT_CNT3 n 31 16 1 :=
  if_pos (by simp only [Bool.not_eq_true']; exact hwhy)

theorem doEntry_nop (hready : headReady s c = true) (ha : sqEntry s c (getConn s c).sqCons = a)
    (hread : hostAccess s (some (connWho c)) a 32 false = (.ok, u)) (hop : fld (rdW u a) 63 60 = 2) (hnowait : fld (rdW u (a + 16)) 60 60 = 0) :
    doEntry s c 2 = endEntry u c Code.OK := by
  simp only [doEntry, hready, ha, hread, hop, hnowait, decide_true, Bool.true_or, Bool.not_true, Bool.false_eq_true, if_true, if_false, zero_ne_one,
    false_and]

theorem doEntry_sends (hready : headReady s c = true) (ha : sqEntry s c (getConn s c).sqCons = a)
    (hread : hostAccess s (some (connWho c)) a 32 false = (.ok, u)) (hop : fld (rdW u a) 63 60 = op) (hsend : op < 2)
    (hnowait : fld (rdW u (a + 16)) 60 60 = 0) (hn : fld (rdW u (a + 8)) 63 32 = n) (h0 : n ≠ 0) (hmax : n ≤ 2 ^ 24)
    (hd : regionAddr u (connPolder u c) (fld (rdW u a) 59 48) (fld (rdW u a) 47 0) n = some d)
    (hdata : hostAccess u (some (connWho c)) d n false = (.ok, w)) :
    doEntry s c op =
      let p := poolUse w (connPolder w c) (fld (rdW u a) 59 48) (fld (rdW u a) 47 0) n false
      modConn (pushMsg p c .entry (if op = 1 then some (fld (rdW u (a + 8)) 31 0) else none) (rdBytes p d n)) c fun k => { k with busy := true } := by
  have hcan : ¬ (2 < op ∨ n = 0 ∨ 2 ^ 24 < n) := by omega
  have hnop : op ≠ 2 := by omega
  simp only [doEntry, hready, ha, hread, hop, hnowait, hn, hcan, hnop, hd, hdata, decide_true, Bool.true_or, Bool.not_true, Bool.false_eq_true,
    if_false, zero_ne_one, false_and]

theorem doChainStart_free (hready : headReady s c = true) (ha : sqEntry s c (getConn s c).sqCons = a) (hchained : fld (rdW s (a + 16)) 60 60 = 1)
    (hcode : chainCode s c (rdW s (a + 16)) = 0) (hmet : chainMet s (rdW s (a + 16)) (rdW s (a + 24)) = true) :
    doChainStart s c = modConn s c fun k => { k with chained := true } := by
  simp only [doChainStart, hready, ha, hchained, hcode, hmet, Bool.not_true, Bool.false_eq_true, one_ne_zero, or_self, ne_eq, not_true_eq_false,
    if_false, if_true]

theorem doEgress_sends {sent : Option Nat} (hon : portOn s n = true) (hup : halfState s n h = 2)
    (htry : (let mine := (s.fab.conns.filter fun e => connPort s e.1 = n && connHalf s e.1 = h && sendable s e.1 t).map (·.1)
      let last := mapGetD (getPort s n).rr h 0
      let order := mine.filter (fun c => last < c) ++ mine.filter (fun c => c ≤ last)
      tryEgress s t ((List.range 8).reverse.flatMap fun k => order.filter fun c => connClass s c = k)) = (u, sent)) :
    doEgress s n h t = sent.elim u fun c => modPort u n fun x => { x with rr := mapSet x.rr h c } := by
  unfold doEgress
  refine (if_neg (by simp [hon, hup])).trans ?_
  dsimp only at htry ⊢
  rw [htry]
  cases sent <;> rfl

end

/-- Settles O41. -/
theorem sendQueue : Obligations.SendQueue := by
  unfold Obligations.SendQueue
  refine ⟨?_, ?_, ?_, ?_, ?_⟩
  · intro s n by_ v halive hby hopen r c rq k cons size ahead granted
    refine ⟨fun hst hkind hport hgrant hfits => ?_, fun hwhy => ?_⟩
    · refine exec_part rfl halive ((asRequester_reaches hby hopen _).trans (congrArg settle ?_))
      refine (doDoorbell_announces hst hkind hport hgrant hfits).trans (modConn_congr ?_)
      by_cases hrq : fld v 45 45 = 1 <;> simp only [hrq, r, c, k, rq, cons, ahead, if_true, if_false, doorbellAhead]
    · exact exec_part rfl halive ((asRequester_reaches hby hopen _).trans (congrArg settle (doDoorbell_discards hwhy)))
  · rintro s r u c t rfl halive hready a hread hop hnowait
    exact exec_part rfl halive (congrArg settle (doEntry_nop hready rfl hread hop hnowait))
  · rintro s r u w c t d rfl halive hready a hread hnowait n h0 hmax hd hdata sent
    exact ⟨fun hop => exec_part rfl halive (congrArg settle (doEntry_sends hready rfl hread hop (by decide) hnowait rfl h0 hmax hd hdata)),
      fun hop => exec_part rfl halive (congrArg settle (doEntry_sends hready rfl hread hop (by decide) hnowait rfl h0 hmax hd hdata))⟩
  · intro s c halive hready a hchained hcode hmet
    exact exec_part rfl halive (congrArg settle (doChainStart_free hready rfl hchained hcode hmet))
  · rintro s r u n h t sent rfl halive hon hup mine last order htry
    exact exec_part rfl halive (congrArg settle (doEgress_sends hon hup htry))

end Sys2Proof.Proofs
end

