-- ==== Sys2Proof/Proofs/Collectives.lean ====
section
/-! PROOFS. Collectives: fan-out and the member messages (R443 to R449), and the release of superseded versions (R58). -/

namespace Sys2Proof.Proofs

open Sys2Proof.Machine Sys2Proof.Laws

section
variable {s : State} {c : Nat} {m : FabMsg} {t : Stamp}

theorem doFanout_unaligned (hstand : standsIn s c .fanout = true) (hdone : (getCtx s c).work.done = false)
    (hmember : (getCtx s c).src.isMember = false) (halign : s.tick.align = .unaligned ∨ s.tick.align = .acquiring) :
    doFanout s c = failCtx s c Code.EPOCH_UNALIGNED := by
  simp only [doFanout, hstand, hdone, hmember, halign, Bool.not_true, Bool.or_self, Bool.false_eq_true, if_false, if_true]

/-- The shards that a fan-out of a request asks, its own among them (R444). -/
def fanShards (s : State) (c : Nat) (m : ShardMap) (e0 : MapEntry) : List (Option Shardlet) :=
  let own := cShard s (getColl s (dColl (getCtx s c).desc))
  let u := bump s collCnt 63 32 1
  (sortBy (fun a b => decide (a.shard < b.shard)) (⟨own, 0, 0, []⟩ :: m.entries.filter fun e => (some e0.group = some e.group) && decide (e.shard ≠ own))).map
    fun e => if e.shard = own then some ⟨own, none, none⟩ else (pickNode u (getCtx s c).polder [] e).map fun n => (⟨e.shard, some n, none⟩ : Shardlet)

theorem doFanout_aligned {m : ShardMap} {e0 : MapEntry} (hstand : standsIn s c .fanout = true) (hdone : (getCtx s c).work.done = false)
    (hmember : (getCtx s c).src.isMember = false) (hun : s.tick.align ≠ .unaligned) (hacq : s.tick.align ≠ .acquiring)
    (hmap : mapAtEpoch s (getCtx s c).pin = some m) (hown : entryOfShard (some m) (cShard s (getColl s (dColl (getCtx s c).desc))) = some e0) :
    doFanout s c =
      let u := bump s collCnt 63 32 1
      let g : Gather := { attempt := 0, shards := (fanShards s c m e0).filterMap id, failed := [] }
      if (fanShards s c m e0).all Option.isSome then sendSubs (modWork u c fun w => { w with gather := some g, done := true }) c g
      else failCtx (bump u collCnt 15 0 1) c Code.COLL_MEMBER_LOST := by
  unfold doFanout
  simp only [hstand, hdone, hmember, hun, hacq, hmap, hown, Bool.not_true, Bool.or_self, Bool.false_eq_true, or_self, if_false, Option.map_some,
    Option.elim_some]
  rfl

/-- The operand of a SUB, in a block of the system area where it carries one. -/
def subOperand (s : State) (op : List Byte) : State × Nat := if op.isEmpty then (s, 0) else sysPut s op

theorem subOperand_fst (s : State) (op : List Byte) : (subOperand s op).1 = if op.isEmpty then s else (sysPut s op).1 := by
  unfold subOperand
  split <;> rfl

theorem subOperand_snd (s : State) (op : List Byte) : (subOperand s op).2 = if op.isEmpty then 0 else (sysPut s op).2 := by
  unfold subOperand
  split <;> rfl

theorem doSub_outcome (hpath : toePath s (connPort s m.conn.val) = true) (hhears : hears s m 2 mSub = true) :
    doSub s m t =
      let n := 8 * (8 + fld (BitVec.ofNat 64 (leNat (m.body.take 8))) 23 16)
      let d := leWords (n / 8) m.body
      let v := (subOperand (takeInbox s m.conn.val) (m.body.drop n)).1
      let src : Src := .member ⟨m.conn.val, m.origin.toNat, m.context.val, m.gen.toNat, m.attempt, m.arg0.toNat % 2 ^ 24, m.arg1.toNat,
        (subOperand (takeInbox s m.conn.val) (m.body.drop n)).2, (m.body.drop n).length⟩
      let why := subCode v d (m.arg0.toNat % 2 ^ 24)
      if why = Code.REPLICA_IN_DOUBT then refuseDesc v src d (connPolder v m.conn.val) why (ctxUnit (homeDie m.context.val)) 0
      else if why ≠ 0 then refuseIntake v src d (connPolder v m.conn.val) why
      else intake v src d (connPolder v m.conn.val) t (connPort v m.conn.val) m.conn.val 0 := by
  unfold doSub
  exact if_neg (by simp [hpath, hhears])

theorem doListMsg_outcome {g : Gather} (hhears : hears s m 2 mList = true)
    (hgather : (getCtx (takeInbox s m.conn.val) m.context.val).work.gather = some g) (hlive : isLive (takeInbox s m.conn.val) m.context.val = true)
    (hgen : (getCtx (takeInbox s m.conn.val) m.context.val).gen = m.gen.toNat) (hattempt : g.attempt = m.attempt)
    (horigin : m.origin.toNat = myNode (takeInbox s m.conn.val)) :
    doListMsg s m =
      let u := takeInbox s m.conn.val
      let code := m.arg0.toNat % 65536
      let shards := g.shards.map fun y =>
        if y.node = some (connNode u m.conn.val) ∧ y.shard = (parseList m.body).1 then { y with list := some (parseList m.body).2 } else y
      if served code then modWork u m.context.val fun w => { w with gather := some { g with shards := shards } }
      else if code = Code.EPOCH_GONE ∨ code = Code.EPOCH_AHEAD then failCtx (abortMembers u m.context.val g [connNode u m.conn.val]) m.context.val code
      else memberFailure u m.context.val [connNode u m.conn.val] := by
  unfold doListMsg
  simp only [hhears, hgather, hlive, hgen, hattempt, horigin, ne_eq, not_true_eq_false, decide_false, Bool.not_true, Bool.or_self, Bool.false_eq_true,
    if_false]

end

/-- Settles O42. -/
theorem collectiveRows : Obligations.CollectiveRows := by
  unfold Obligations.CollectiveRows
  refine ⟨?_, ?_, ?_, ?_, ?_⟩
  · rintro s r c t m e0 rfl halive k hstand hdone hmember
    refine ⟨fun halign => exec_part rfl halive (congrArg settle (doFanout_unaligned hstand hdone hmember halign)), ?_⟩
    intro hun hacq hmap own hown u group all chosen g
    exact exec_part rfl halive (congrArg settle (doFanout_aligned hstand hdone hmember hun hacq hmap hown))
  · rintro s r m t rfl halive hpath hhears u n d v a src why
    refine exec_part rfl halive (congrArg settle ((doSub_outcome hpath hhears).trans ?_))
    dsimp only
    rw [subOperand_fst, subOperand_snd]
  · rintro s r m t g rfl halive hhears u c code hgather hlive hgen hattempt horigin shards
    exact exec_part rfl halive (congrArg settle (doListMsg_outcome hhears hgather hlive hgen hattempt horigin))
  · intro s m halive hhears u
    exact exec_part rfl halive (congrArg settle (if_neg (by simp [hhears])))
  · intro s coll halive hloaded
    exact exec_part rfl halive (if_neg (ne_true_of_eq_false hloaded))

end Sys2Proof.Proofs
end

