-- ==== Sys2Proof/Proofs/MapChange.lean ====
section
/-! PROOFS. The two phases of a shard map change (R451, R452), replication, pools and relays (R233, R234, R453 to R455). -/

namespace Sys2Proof.Proofs

open Sys2Proof.Machine Sys2Proof.Laws

section
variable {s : State} {m : FabMsg} {t : Stamp} {p : Proposal} {q : Prepared}

theorem doPrepare_answers (hother : m.origin.toNat ≠ myNode s) (hhears : hears s m 3 mPrepare = true) :
    doPrepare s m =
      let u := takeInbox s m.conn.val
      let why := if mapVersion u ≠ m.arg0.toNat then 1 else if u.tick.align ≠ .aligned then 2 else if u.fab.prep.isSome || u.fab.prop.isSome then 3 else 0
      if why ≠ 0 then sendFab u m.conn.val mRefuse m.epoch (BitVec.ofNat 64 why) m.arg1 []
      else sendFab { u with fab := { u.fab with prep := some ⟨m.arg0.toNat, m.arg1.toNat, m.epoch, m.conn.val, (prepareBody m.body).1,
        (prepareBody m.body).2, none, false⟩ } } m.conn.val mPrepared m.epoch 0 m.arg1 [] := by
  unfold doPrepare
  exact (if_neg hother).trans (if_neg (by simp [hhears]))

/-- What the proposer does with an answer (R451): it counts a PREPARED of its version and marks a refusal. -/
theorem doPrepared_outcome {ok : Bool} (hprop : s.fab.prop = some p) (hhears : hears s m 3 (if ok then mPrepared else mRefuse) = true) :
    doPrepared s m ok =
      let u := takeInbox s m.conn.val
      { u with fab := { u.fab with prop := some (if !ok then { p with refused := true }
        else if p.new_ = m.arg1.toNat then { p with yes := insertUniq (connNode u m.conn.val) p.yes } else p) } } := by
  have hkept : (takeInbox s m.conn.val).fab.prop = some p := hprop
  unfold doPrepared
  refine (if_neg (by simp [hhears])).trans ?_
  simp only [modFab, hkept, Option.map_some]

theorem doMapDecision_outcome (hprop : s.fab.prop = some p) :
    doMapDecision s =
      let inTime := decide (s.tick.nextNum < p.at_) || (s.tick.nextNum = p.at_ && !inBerm s s.now)
      let all := p.parts.all p.yes.contains
      let u : State := { s with fab := { s.fab with prop := none } }
      if !p.refused && !all && inTime then s
      else if !p.refused && all && inTime then
        p.parts.foldl (fun v n => sendShard v n mCommit p.at_ 0 (BitVec.ofNat 64 p.new_) [])
          { u with fab := { u.fab with prep := some ⟨p.old, p.new_, p.at_, 0, p.entries, p.removed, some p.at_, false⟩ } }
      else p.parts.foldl (fun v n => sendShard v n mMapAbort p.at_ 0 (BitVec.ofNat 64 p.new_) [])
        { u with fab := { u.fab with aborted := p.new_ :: u.fab.aborted } } := by
  unfold doMapDecision
  rw [hprop]
  rfl

theorem doCommit_publishes (hhears : hears s m 3 mCommit = true) (hprep : (takeInbox s m.conn.val).fab.prep = some q) (hmine : q.new_ = m.arg1.toNat)
    (hsure : q.doubt = false) :
    doCommit s m t =
      let u := takeInbox s m.conn.val
      { u with fab := { u.fab with prep := some (if beforeFreeze u q.at_ t then { q with commit := some q.at_ } else q) } } := by
  unfold doCommit
  refine (if_neg (by simp [hhears])).trans ?_
  simp only [modFab, hprep, hmine, hsure, Option.map_some, Bool.not_false, true_and]

theorem doMapAbort_discards (hhears : hears s m 3 mMapAbort = true) (hprep : (takeInbox s m.conn.val).fab.prep = some q)
    (hmine : q.new_ = m.arg1.toNat) (hopen : q.commit = none) :
    doMapAbort s m = let u := takeInbox s m.conn.val; { u with fab := { u.fab with prep := none } } := by
  unfold doMapAbort
  refine (if_neg (by simp [hhears])).trans ?_
  simp only [modFab, hprep, Option.filter_some, hmine, hopen, decide_true, Option.isNone_none, Bool.and_self, Bool.not_true, Bool.false_eq_true,
    if_false]

theorem doInDoubt_doubts (hprep : s.fab.prep = some q) (hopen : q.commit = none) (hlate : beforeFreeze s q.at_ s.now = false) :
    doInDoubt s = { s with fab := { s.fab with prep := some { q with doubt := true } } } := by
  simp only [doInDoubt, modFab, hprep, hopen, hlate, Option.map_some, Option.isNone_none, Bool.not_false, and_self, if_true]

theorem doStatusSend_asks (hprep : s.fab.prep = some q) (hdoubt : q.doubt = true) (hopen : q.commit = none) (honce : s.fab.statusAt ≠ some s.tick.tick) :
    doStatusSend s =
      let u : State := { s with fab := { s.fab with statusAt := some s.tick.tick } }
      (mapNodes u q.entries).foldl (fun v n => sendShard v n mStatus q.at_ 0 (BitVec.ofNat 64 q.new_) []) u := by
  have hask : ¬ (!q.doubt || q.commit.isSome || decide (s.fab.statusAt = some s.tick.tick)) = true := by simp [hdoubt, hopen, honce]
  unfold doStatusSend
  split
  next p h =>
    obtain rfl := Option.some.inj (h.symm.trans hprep)
    exact if_neg hask
  next h => exact absurd (h.symm.trans hprep) (by simp)

theorem doStatus_answers (hhears : hears s m 3 mStatus = true) :
    doStatus s m =
      let u := takeInbox s m.conn.val
      match u.fab.maps.find? fun x => x.version = m.arg1.toNat with
      | some x => sendFab u m.conn.val mOutcome m.epoch 1 (BitVec.ofNat 64 x.from_) []
      | none => sendFab u m.conn.val mOutcome m.epoch (if u.fab.aborted.contains m.arg1.toNat then 2 else 0) m.arg1 [] := by
  unfold doStatus
  exact if_neg (by simp [hhears])

theorem doOutcome_settles (hhears : hears s m 3 mOutcome = true) (hprep : (takeInbox s m.conn.val).fab.prep = some q) (hdoubt : q.doubt = true) :
    doOutcome s m =
      let u := takeInbox s m.conn.val
      { u with fab := { u.fab with
        prep := if m.arg0.toNat = 1 then some { q with commit := some u.tick.nextNum } else if m.arg0.toNat = 2 then none else some q } } := by
  unfold doOutcome
  refine (if_neg (by simp [hhears])).trans ?_
  simp only [modFab, hprep, hdoubt, Option.bind_some, Bool.not_true, Bool.false_eq_true, if_false]

end

/-- Settles O43. -/
theorem mapChange : Obligations.MapChange := by
  unfold Obligations.MapChange
  refine ⟨?_, ?_, ?_, ?_, ?_, ?_, ?_, ?_, ?_⟩
  · intro s m halive hother hhears u why
    exact exec_part rfl halive (congrArg settle (doPrepare_answers hother hhears))
  · intro s m p halive hprop u
    refine ⟨fun hhears hmine => ?_, fun hhears => ?_⟩
    · have hyes := doPrepared_outcome (ok := true) hprop hhears
      simp only [Bool.not_true, Bool.false_eq_true, if_false, if_pos hmine] at hyes
      exact exec_part rfl halive (congrArg settle hyes)
    · exact exec_part rfl halive (congrArg settle (doPrepared_outcome (ok := false) hprop hhears))
  · intro s p halive hprop inTime all u
    have hout := doMapDecision_outcome hprop
    refine ⟨fun hkept hall htime => ?_, fun hwhy => ?_⟩
    · refine exec_part rfl halive (congrArg settle (hout.trans ((if_neg ?_).trans (if_pos ?_))))
      · change ¬ (!p.refused && !all && inTime) = true
        simp [hall]
      · change (!p.refused && all && inTime) = true
        simp [hkept, hall, htime]
    · have hno : ∀ b, ¬ (!p.refused && b && inTime) = true := fun b => by
        rcases hwhy with h | h <;> simp [h]
      exact exec_part rfl halive (congrArg settle (hout.trans ((if_neg (hno _)).trans (if_neg (hno _)))))
  · rintro s r m p t rfl halive hhears u hprep hmine hsure
    exact exec_part rfl halive (congrArg settle (doCommit_publishes hhears hprep hmine hsure))
  · intro s m p halive hhears u hprep hmine hopen
    exact exec_part rfl halive (congrArg settle (doMapAbort_discards hhears hprep hmine hopen))
  · intro s p halive hprep hopen hlate
    exact exec_part rfl halive (doInDoubt_doubts hprep hopen hlate)
  · intro s p halive hprep hdoubt hopen honce u
    exact exec_part rfl halive (congrArg settle (doStatusSend_asks hprep hdoubt hopen honce))
  · intro s m halive hhears u
    have hanswer := doStatus_answers hhears
    refine ⟨fun x hx => exec_part rfl halive (congrArg settle (hanswer.trans ?_)), fun hnone =>
      exec_part rfl halive (congrArg settle (hanswer.trans ?_))⟩
    · dsimp only
      rw [hx]
    · dsimp only
      rw [hnone]
  · intro s m p halive hhears u hprep hdoubt after
    exact exec_part rfl halive (congrArg settle (doOutcome_settles hhears hprep hdoubt))

section
variable {s : State} {m : FabMsg} {coll : Nat} {t : Stamp}

/-- A replication message that is heard for a loaded collection acts. -/
theorem heard {type : Nat} (hhears : hears s m 3 type = true) (hloaded : (mapGet s.colls coll).isNone = false) :
    ¬ ((!hears s m 3 type) = true ∨ (mapGet s.colls coll).isNone = true) := by
  simp only [hhears, hloaded, Bool.not_true, Bool.false_eq_true, or_self, not_false_eq_true]

theorem doReplStage_holds (hhears : hears s m 3 mReplStage = true) (hloaded : (mapGet s.colls coll).isNone = false) :
    doReplStage s m coll =
      let u := takeInbox s m.conn.val
      let co := getColl u coll
      setColl u coll (if m.epoch = u.tick.tick + 1 ∨ m.epoch = u.tick.tick + 2
        then { co with images := co.images ++ [⟨m.conn.val, m.arg0.toNat, m.arg1.toNat, m.epoch, m.body⟩] } else { co with inDoubt := true }) := by
  unfold doReplStage
  refine (if_neg (heard hhears hloaded)).trans ?_
  dsimp only
  by_cases hdue : m.epoch = (takeInbox s m.conn.val).tick.tick + 1 ∨ m.epoch = (takeInbox s m.conn.val).tick.tick + 2
  · rw [if_pos hdue, if_neg (by tauto)]
  · rw [if_neg hdue, if_pos (by tauto)]

theorem doReplCommit_names (hhears : hears s m 3 mReplCommit = true) (hloaded : (mapGet s.colls coll).isNone = false) :
    doReplCommit s m coll t =
      let u := takeInbox s m.conn.val
      let co := getColl u coll
      if beforeFreeze u m.epoch t = false then u else setColl u coll { co with
        groups := co.groups.map fun g => if g.mseqHi = m.arg1.toNat then { g with commit := m.epoch, named := some m.epoch } else g } := by
  unfold doReplCommit
  refine (if_neg (heard hhears hloaded)).trans ?_
  simp only [Bool.not_eq_true']

theorem doPool2_denied {write : Bool} {steps : List (Option Nat)} (hhears : hears s m 4 (if write then mPoolWrite else mPoolRead) = true)
    (hrelay : connRelayEn s m.conn.val = false) (hns : connPoolNs (takeInbox s m.conn.val) m.conn.val = 0) :
    doPool2 s m write steps t = poolDone (takeInbox s m.conn.val) m.conn.val Code.POOL_DENIED [] := by
  unfold doPool2
  exact (if_neg (by simp [hhears, hrelay])).trans (if_pos hns)

/-- A pool message that may act, for its namespace (R454). -/
structure PoolMay (u : State) (m : FabMsg) (n : FlashNs) : Prop where
  bound_ : connPoolNs u m.conn.val ≠ 0
  found : getNs u (connPoolNs u m.conn.val) = some n
  host : n.isHost = true
  bound : n.bound = true
  polder : n.polder = connPolder u m.conn.val
  some_ : m.arg1.toNat % 65536 ≠ 0
  within : m.arg0.toNat + m.arg1.toNat % 65536 ≤ n.units

/-- The flash job of a pool message. -/
def poolJob (u : State) (m : FabMsg) (write : Bool) (data : List Byte) (steps : List (Option Nat)) (t : Stamp) : PoolJob :=
  ⟨u.fab.poolNext, m.conn.val, write, m.arg0.toNat, m.arg1.toNat % 65536, 0, data, steps, t, u.tick.epoch, none⟩

theorem doPool2_starts {write : Bool} {steps : List (Option Nat)} {n : FlashNs}
    (hhears : hears s m 4 (if write then mPoolWrite else mPoolRead) = true) (hrelay : connRelayEn s m.conn.val = false)
    (hmay : PoolMay (takeInbox s m.conn.val) m n) :
    doPool2 s m write steps t =
      let u := takeInbox s m.conn.val
      let j := poolJob u m write (if write then m.body else []) steps t
      stepPool { u with fab := { u.fab with pool := u.fab.pool ++ [j], poolNext := u.fab.poolNext + 1 } } j := by
  have hnot : ¬ ((!n.isHost) = true ∨ (!n.bound) = true ∨ n.polder ≠ connPolder (takeInbox s m.conn.val) m.conn.val) := by
    simp [hmay.host, hmay.bound, hmay.polder]
  unfold doPool2
  refine (if_neg (by simp [hhears, hrelay])).trans ((if_neg hmay.bound_).trans ?_)
  dsimp only
  rw [hmay.found]
  exact (if_neg hnot).trans ((if_neg hmay.some_).trans (if_neg (Nat.not_lt.2 hmay.within)))

end

/-- Settles O44. -/
theorem replicasAndPools : Obligations.ReplicasAndPools := by
  unfold Obligations.ReplicasAndPools
  refine ⟨?_, ?_, ?_, ?_, ?_⟩
  · intro s m coll halive hloaded u co
    exact ⟨fun hhears => exec_part rfl halive (congrArg settle (doReplStage_holds hhears hloaded)),
      fun hhears => exec_part rfl halive (congrArg settle (if_neg (heard hhears hloaded))),
      fun hhears => exec_part rfl halive (congrArg settle (if_neg (heard hhears hloaded)))⟩
  · rintro s r m coll t rfl halive hhears hloaded u co
    exact exec_part rfl halive (congrArg settle (doReplCommit_names hhears hloaded))
  · rintro s r m okSteps t rfl halive hrelay u first units id job start
    refine ⟨fun hns => ⟨fun hhears => ?_, fun hhears => ?_⟩, fun n h0 hn hhost hbound hpolder hsome hin => ⟨fun hhears => ?_, fun hhears => ?_⟩⟩
    · exact exec_part rfl halive (congrArg settle (doPool2_denied (write := false) hhears hrelay hns))
    · exact exec_part rfl halive (congrArg settle (doPool2_denied (write := true) hhears hrelay hns))
    · exact exec_part rfl halive (congrArg settle (doPool2_starts (write := false) hhears hrelay ⟨h0, hn, hhost, hbound, hpolder, hsome, hin⟩))
    · exact exec_part rfl halive (congrArg settle (doPool2_starts (write := true) hhears hrelay ⟨h0, hn, hhost, hbound, hpolder, hsome, hin⟩))
  · rintro s r m t rfl halive hhears
    exact exec_part rfl halive (if_pos hhears)
  · rintro s r c bytes t rfl halive hhears hfront hrelay hst
    exact exec_part rfl halive (congrArg settle (if_neg (by simp [hhears, hfront, hrelay, hst])))

end Sys2Proof.Proofs
end

