-- ==== Sys2Proof/Proofs/Links.lean ====
section
/-! PROOFS. Training and retraining of a link and its flits (R463 to R471). -/

namespace Sys2Proof.Proofs

open Sys2Proof.Machine Sys2Proof.Laws

section
variable {s : State} {n : Nat} {t : Stamp} {tr : BmlTrain} {bytes f : List Byte}

/-- Training in TRAINING (R463 to R466): the lanes, then the INIT content, then ACTIVE with a heartbeat. -/
theorem doTraining_outcome (hst : bmlState s n = 1) :
    doTraining s n tr t =
      let sts : Reg := ⟨.BML_LINK_STS, n, 0⟩
      let lanes := alignLanes s n tr.lanesOk.toNat
      if lanes = 0 then setF (bmlDown s n t) sts 8 6 2
      else if !initOk tr then setF (bmlDown s n t) sts 8 6 3
      else
        let u := setF (setF (setF (setF (setF s sts 20 13 lanes) sts 12 9 (if lanes = 255 then 8 else 4)) sts 31 21 tr.rttNs) sts 8 6 3) sts 5 4 2
        let credit := (List.range 4).map fun i => (4 + i, (nth? tr.farRes i).getD 0)
        sendHb (modBml u n fun x => { BmlPort.fresh with
          trainAt := none, ever := true, since := t, credit := credit, pool := tr.farPool, crd := some (getReg u ⟨.BML_CRD, n, 0⟩), hbSeq := x.hbSeq
          rings := x.rings, gone := x.gone }) n t := by
  have hfirst : ¬ (!(decide (bmlState s n = 3) || decide (bmlState s n = 1) || mayTrain s n t)) = true := by simp [hst]
  have hre : decide (bmlState s n = 3) = false := by simp [hst]
  unfold doTraining
  rw [hre] at hfirst ⊢
  exact if_neg hfirst

theorem doRetrain_begins {v k : Nat} (hst : bmlState s n = 2) (hnak : (getBml s n).nakSame = some (v, k)) (hk : 8 ≤ k) :
    doRetrain s n t = bump (modBml (setF (setF s ⟨.BML_LINK_STS, n, 0⟩ 5 4 3) ⟨.BML_LINK_STS, n, 0⟩ 8 6 2) n fun x =>
      { x with since := t, inits := 0, initLast := [], nakSame := none }) ⟨.BML_CNT1, n, 0⟩ 31 0 1 :=
  if_pos ⟨hst, Or.inl (by simp [hnak, hk])⟩

theorem doInitFlit_answers (hst : bmlState s n = 1 ∨ bmlState s n = 3) (hopen : openFlit bytes = some f) (hkind : hdKind (flitHead f) = 3) :
    doInitFlit s n bytes t =
      let u := setF (modBml s n fun x => { x with inits := if x.initLast = initContent f then x.inits + 1 else 1, initLast := initContent f })
        ⟨.BML_LINK_STS, n, 0⟩ 8 6 3
      { u with out := u.out ++ [.flit n (sealFlit (leBytes 6 (3 * 2 ^ 46) ++ initPayload (at_ u t) n ((f.drop 32).take 8) ++ List.replicate 198 0))] } := by
  have htrains : ¬ (bmlState s n ≠ 1 ∧ bmlState s n ≠ 3) := by omega
  unfold doInitFlit
  rw [if_neg htrains, hopen]
  exact if_neg (not_not_intro hkind)

theorem doNakFlit_outcome (hst : bmlState s n = 2) (hopen : openFlit bytes = some f) (hkind : hdKind (flitHead f) = 2) :
    doNakFlit s n bytes t =
      let v := hdAck (flitHead f)
      let s := readHeader s n (flitHead f)
      let x := getBml s n
      let count := match x.nakSame with
        | some (u, k) => if u = v then k + 1 else 1
        | none => 1
      let s := modBml s n fun x => { x with nakSame := some (v, count) }
      let fresh := match x.resent with
        | some (u, t0) => u ≠ v || decide (t0 + us ≤ t)
        | none => true
      doRetrain (if fresh then
        bump (resend (modBml s n fun x => { x with resent := some (v, t) }) n) ⟨.BML_LINK_STS, n, 0⟩ 63 32 x.replay.length else s) n t := by
  unfold doNakFlit
  rw [if_neg (not_not_intro hst), hopen]
  exact if_neg (not_not_intro hkind)

/-- A second NAK of one value within a microsecond is only counted (R469). -/
theorem doNakFlit_again {v k : Nat} {t0 : Stamp} (hst : bmlState s n = 2) (hopen : openFlit bytes = some f) (hkind : hdKind (flitHead f) = 2)
    (hv : hdAck (flitHead f) = v) (hsame : (getBml (readHeader s n (flitHead f)) n).nakSame = some (v, k))
    (hresent : (getBml (readHeader s n (flitHead f)) n).resent = some (v, t0)) (hsoon : t < t0 + us) :
    doNakFlit s n bytes t = doRetrain (modBml (readHeader s n (flitHead f)) n fun x => { x with nakSame := some (v, k + 1) }) n t := by
  simp only [doNakFlit_outcome hst hopen hkind, hv, hsame, hresent, Nat.not_le.2 hsoon, ne_eq, not_true_eq_false, decide_false, Bool.or_self,
    Bool.false_eq_true, if_true, if_false]

/-- The first NAK has the unacknowledged flits sent again (R469). -/
theorem doNakFlit_first (hst : bmlState s n = 2) (hopen : openFlit bytes = some f) (hkind : hdKind (flitHead f) = 2)
    (hsame : (getBml (readHeader s n (flitHead f)) n).nakSame = none) (hresent : (getBml (readHeader s n (flitHead f)) n).resent = none) :
    doNakFlit s n bytes t =
      let v := hdAck (flitHead f)
      let u := readHeader s n (flitHead f)
      doRetrain (bump (resend (modBml (modBml u n fun x => { x with nakSame := some (v, 1) }) n fun x => { x with resent := some (v, t) }) n)
        ⟨.BML_LINK_STS, n, 0⟩ 63 32 (getBml u n).replay.length) n t := by
  simp only [doNakFlit_outcome hst hopen hkind, hsame, hresent, if_true]

theorem doIdleFlit_reads (hst : bmlState s n = 2) (hopen : openFlit bytes = some f) (hkind : hdKind (flitHead f) = 1) :
    doIdleFlit s n bytes = readHeader s n (flitHead f) := by
  unfold doIdleFlit
  rw [if_neg (not_not_intro hst), hopen]
  exact if_pos hkind

/-- A DATA flit with another sequence number gives no message, and a NAK unless one is out (R468). -/
theorem takeData_missed (hst : bmlState s n = 2) (hopen : openFlit bytes = some f) (hkind : hdKind (flitHead f) = 0)
    (hseq : hdSeq (flitHead f) ≠ (getBml s n).rxNext) : takeData s n bytes = (if (getBml s n).missing then s else sendNakFlit s n, []) := by
  unfold takeData
  rw [if_neg (not_not_intro hst), hopen]
  exact (if_neg (not_not_intro hkind)).trans (if_pos hseq)

theorem takeData_broken (hst : bmlState s n = 2) (hopen : openFlit bytes = none) :
    takeData s n bytes = (if (getBml s n).missing then s else sendNakFlit s n, []) := by
  unfold takeData
  rw [if_neg (not_not_intro hst), hopen]

/-- A flit whose taking moves the expected number on is taken, and its whole messages act in order. -/
theorem doDataFlit_taken (hmoved : (getBml (settle ((takeData s n bytes).2.foldl (takeMsg n t) (takeData s n bytes).1)) n).rxNext ≠ (getBml s n).rxNext) :
    doDataFlit s n bytes t = idleBack (settle ((takeData s n bytes).2.foldl (takeMsg n t) (takeData s n bytes).1)) n (flitsOut s n) := by
  unfold doDataFlit
  exact if_neg hmoved

end

/-- Settles O45. -/
theorem linkTraining : Obligations.LinkTraining := by
  unfold Obligations.LinkTraining
  refine ⟨?_, ?_, ?_, ?_, ?_, ?_, ?_⟩
  · rintro s r n tr t rfl halive hst sts lanes
    have hout := doTraining_outcome (tr := tr) (t := t) hst
    refine ⟨fun h0 => exec_part rfl halive (congrArg settle (hout.trans (if_pos h0))), fun h0 hinit => ?_, fun h0 hinit => ?_⟩
    · exact exec_part rfl halive (congrArg settle (hout.trans ((if_neg h0).trans (if_pos (by simp [hinit])))))
    · exact exec_part rfl halive (congrArg settle (hout.trans ((if_neg h0).trans (if_neg (by simp [hinit])))))
  · rintro s r n t rfl halive hmay
    exact exec_part rfl halive (if_neg (by simp [hmay]))
  · rintro s r n t v k rfl halive hst hnak hk
    exact exec_part rfl halive (doRetrain_begins hst hnak hk)
  · rintro s r n t rfl halive hst hlate
    exact exec_part rfl halive (congrArg settle (if_pos ⟨hst, hlate⟩))
  · rintro s r n bytes f t rfl halive hst hopen hkind u
    exact exec_part rfl halive (doInitFlit_answers hst hopen hkind)
  · rintro s r n t rfl halive hst hmissing hlate
    exact exec_part rfl halive (if_pos ⟨hst, hmissing, hlate⟩)
  · intro cmd name hcmd s n v halive w
    simp only [List.mem_cons, Prod.mk.injEq, List.not_mem_nil, or_false] at hcmd
    obtain ⟨rfl, rfl⟩ | ⟨rfl, rfl⟩ := hcmd
    · exact exec_part rfl halive rfl
    · exact exec_part rfl halive rfl

/-- Settles O46. -/
theorem flitRows : Obligations.FlitRows := by
  unfold Obligations.FlitRows
  refine ⟨?_, ?_, ?_, fun r n bytes hst hopen => takeData_broken hst hopen⟩
  · rintro s r n bytes f t rfl halive hst hopen hkind
    exact ⟨fun hseq hmoved => exec_part rfl halive (doDataFlit_taken hmoved), fun hseq => takeData_missed hst hopen hkind hseq⟩
  · intro s n bytes f halive hst hopen hkind
    exact exec_part rfl halive (congrArg settle (doIdleFlit_reads hst hopen hkind))
  · rintro s r n bytes f t rfl halive hst hopen hkind v u seen
    exact ⟨fun k hsame t0 hresent hsoon => exec_part rfl halive (congrArg settle (doNakFlit_again hst hopen hkind rfl hsame hresent hsoon)),
      fun hsame hresent => exec_part rfl halive (congrArg settle (doNakFlit_first hst hopen hkind hsame hresent))⟩

end Sys2Proof.Proofs
end

