-- ==== Sys2Proof/Proofs/HostLines.lean ====
section
/-! PROOFS. A host's requests on memory lines (R369, R475 to R478), its register accesses, heartbeats and doorbells (R480 to R489). -/

namespace Sys2Proof.Proofs

open Sys2Proof.Machine Sys2Proof.Laws

section
variable {s u : State} {h n addr tag type ring ix seq : Nat} {data : List Byte} {t : Stamp} {x : Recall} {keep queue : Bool}

theorem doMemReq_outcome (hheard : memHeard s h = (true, u)) :
    doMemReq s h type addr tag data t =
      let v := meterFill (wakeAt u 2 t) h t
      let q : HostReq := ⟨h, type, addr / 64, tag, data, false⟩
      if reqWaits v q (getBml v h).waitq then modBml v h fun x => { x with waitq := x.waitq ++ [withMark v q] } else serveReq v q t := by
  unfold doMemReq
  rw [hheard]
  rfl

theorem serveReq_refused {q : HostReq} (hreason : memReason s q.host q.addr (q.type = 2 || q.type = 3) ≠ 0) :
    serveReq s q t = memAnswer s q 0x25 (memReason s q.host q.addr (q.type = 2 || q.type = 3)) [] :=
  if_pos hreason

theorem serveReq_served {q : HostReq} (htype : q.type = 1 ∨ q.type = 2 ∨ q.type = 3 ∨ q.type = 4)
    (hreason : memReason s q.host q.addr (q.type = 2 || q.type = 3) = 0) :
    serveReq s q t = if q.type = 1 then takeRdS (meterLine s q.host t) q else if q.type = 2 then takeRdO (meterLine s q.host t) q
      else if q.type = 3 then takeWrLine (meterLine s q.host t) q else takeDrop s q := by
  refine (if_neg (not_not_intro hreason)).trans ?_
  rcases htype with h | h | h | h <;> simp [h]

theorem doWriteBack_outcome (hheard : memHeard s h = (true, u)) :
    doWriteBack s h addr tag data keep =
      let line := addr / 64
      let q : HostReq := ⟨h, if keep then 0x08 else 0x09, line, tag, data, false⟩
      let reason := memReason u h line false
      if reason ≠ 0 then memAnswer u q 0x25 reason []
      else if !holdsOwned u h line then memAnswer u q 0x24 0 []
      else
        let v := dirSet (wrBytes u (line * 64) data) line (if keep then mkShared (2 ^ h) else 0)
        memAnswer (if (getWin v h).recalls.any fun x => x.line = line && x.acked then endRecall v h line else v) q 0x24 0 [] := by
  unfold doWriteBack
  rw [hheard]
  rfl

theorem doSnpAck_outcome (hheard : memHeard s h = (true, u)) (hrecall : (getWin u h).recalls.find? (·.line = addr / 64) = some x) :
    doSnpAck s h addr =
      let line := addr / 64
      if x.kind = 0x2A then endRecall (if holdsShared u h line then dirSet u line (mkShared (dirSharers (dirGet u line) - 2 ^ h)) else u) h line
      else if holdsOwned u h line then
        modWin u h fun w => { w with recalls := w.recalls.map fun y => if y.line = line then { y with acked := true } else y }
      else endRecall u h line := by
  simp only [doSnpAck, hheard, hrecall, Bool.not_true, Bool.false_eq_true, if_false]

theorem doSnpData_outcome (hheard : memHeard s h = (true, u)) (hrecall : (getWin u h).recalls.find? (·.line = addr / 64) = some x) :
    doSnpData s h addr data =
      let line := addr / 64
      endRecall (if holdsOwned u h line && !memLost u (line * 64)
        then dirSet (wrBytes u (line * 64) data) line (if x.kind = 0x28 then mkShared (2 ^ h) else 0) else u) h line := by
  simp only [doSnpData, hheard, hrecall, Bool.not_true, Bool.false_eq_true, if_false]

end

/-- Settles O47. -/
theorem hostLines : Obligations.HostLines := by
  unfold Obligations.HostLines
  refine ⟨?_, ?_, ?_⟩
  · rintro data cmd type body hcmd s r h addr tag t rfl halive hheard u q
    have hout := doMemReq_outcome (type := type) (addr := addr.toNat) (tag := tag.toNat) (data := body) (t := t) hheard
    have hexec : ∀ v, doMemReq (at_ s t) h.val type addr.toNat tag.toNat body t = v → exec (cmd h addr tag t) s = .next (settle v) := by
      intro v hv
      simp only [List.mem_cons, Prod.mk.injEq, List.not_mem_nil, or_false] at hcmd
      obtain ⟨rfl, rfl, rfl⟩ | ⟨rfl, rfl, rfl⟩ | ⟨rfl, rfl, rfl⟩ | ⟨rfl, rfl, rfl⟩ := hcmd
      all_goals exact exec_part rfl halive (congrArg settle hv)
    have htype : type = 1 ∨ type = 2 ∨ type = 3 ∨ type = 4 := by
      simp only [List.mem_cons, Prod.mk.injEq, List.not_mem_nil, or_false] at hcmd
      omega
    refine ⟨fun hwaits => hexec _ (hout.trans (if_pos hwaits)), fun hfree => ⟨fun hreason => hexec _ ?_, fun hreason => hexec _ ?_⟩⟩
    · exact hout.trans ((if_neg (ne_true_of_eq_false hfree)).trans (serveReq_refused hreason))
    · exact hout.trans ((if_neg (ne_true_of_eq_false hfree)).trans (serveReq_served htype hreason))
  · rintro keep s r h addr tag data t rfl halive hheard cmd u line q reason
    have hout := doWriteBack_outcome (addr := addr.toNat) (tag := tag.toNat) (data := data) (keep := keep) hheard
    have hexec : ∀ v, doWriteBack (at_ s t) h.val addr.toNat tag.toNat data keep = v → exec cmd s = .next (settle v) := by
      intro v hv
      cases keep
      · exact exec_part rfl halive (congrArg settle hv)
      · exact exec_part rfl halive (congrArg settle hv)
    refine ⟨fun hreason => hexec _ (hout.trans (if_pos hreason)), fun hreason howned => hexec _ ?_, fun hreason howned => hexec _ ?_⟩
    · exact hout.trans ((if_neg (not_not_intro hreason)).trans (if_pos (congrArg (!·) howned)))
    · exact hout.trans ((if_neg (not_not_intro hreason)).trans (if_neg (ne_true_of_eq_false (congrArg (!·) howned))))
  · rintro s r h addr x t rfl halive hheard u line hrecall
    have hout := doSnpAck_outcome hheard hrecall
    exact ⟨fun hkind => exec_part rfl halive (congrArg settle (hout.trans (if_pos hkind))),
      fun hkind howned => exec_part rfl halive (congrArg settle (hout.trans ((if_neg hkind).trans (if_pos howned)))),
      fun data => exec_part rfl halive (congrArg settle (doSnpData_outcome hheard hrecall))⟩

section
variable {s : State} {h : Port} {n addr tag ring ix seq : Nat} {v : Word} {t : Stamp} {queue : Bool} {g : Reg}

theorem doCsr_read (hheard : csrHeard s h.val = (true, s)) :
    doCsr s h addr tag none t = bmlPush (busRead s (.host h) addr).1 h.val 0x30 0 addr tag 0
      (leBytes 8 (busRead s (.host h) addr).2.toNat ++ List.replicate 8 0) := by
  unfold doCsr
  rw [hheard]
  rfl

theorem doCsr_write (hheard : csrHeard s h.val = (true, s)) : doCsr s h addr tag (some v) t = busWrite s (.host h) addr v t := by
  unfold doCsr
  rw [hheard]
  rfl

theorem busWrite_reg (hg : target s (.host h) addr = .reg g) :
    busWrite s (.host h) addr v t = if hostWrites g.name then writeReg s (.host h) g v t else s := by
  simp only [busWrite, hg]

theorem busWrite_refused {p : Nat} (hp : target s (.host h) addr = .refused p) : busWrite s (.host h) addr v t = bump s ⟨.BML_CNT0, p, 0⟩ 31 0 1 := by
  simp only [busWrite, hp]

theorem doAttach_sets (hst : bmlState s n = 2) (hseen : (getBml s n).hbSeen = true) (hnew : getF s ⟨.BML_LINK_STS, n, 0⟩ 3 3 = 0) :
    doAttach s n =
      let u := setF s ⟨.BML_LINK_STS, n, 0⟩ 3 3 1
      modBml u n fun x => if (getWin u n).st = .closed then { x with attachPend := false, gone := false } else { x with attachPend := true } := by
  unfold doAttach
  refine (if_pos ⟨hst, hseen⟩).trans ?_
  simp only [hnew, decide_true, Bool.not_true, Bool.false_and, Bool.false_eq_true, if_false]
  split <;> rfl

theorem hostDoorbell_heard (hheard : csrHeard s h.val = (true, s)) (hopen : blockOpen s h.val (unitNo (4 + h.val) 2 0) = true) :
    hostDoorbell s h ring queue ix = doRingDoorbell s h.val ring queue ix := by
  unfold hostDoorbell
  rw [hheard]
  exact asRequester_reaches (by_ := .host h) (by simp) (fun x hx => by cases hx; exact hopen) _

/-- A ring on which a host's doorbell may act (R489). -/
structure RingTakes (u : State) (n ring : Nat) : Prop where
  on : ringOn u n ring = true
  kept : (getRing u n ring).wipe = []
  there : (getBml u n).gone = false

theorem doRingDoorbell_producer (hring : RingTakes (wakeAt (unIdle s) 2 s.now) n ring)
    (hback : dist32 ix (getRing (wakeAt (unIdle s) 2 s.now) n ring).cmdProd < 2 ^ 31)
    (hfits : dist32 ix (cmdCons (wakeAt (unIdle s) 2 s.now) n ring) ≤ cmdSize (wakeAt (unIdle s) 2 s.now) n ring) :
    doRingDoorbell s n ring false ix = modRing (wakeAt (unIdle s) 2 s.now) n ring fun g => { g with cmdProd := ix } := by
  unfold doRingDoorbell
  refine (if_neg ?_).trans (if_neg Bool.false_ne_true)
  simp only [hring.on, hring.kept, hring.there, Nat.not_le.2 hback, Nat.not_lt.2 hfits, Bool.false_eq_true, if_false, Bool.not_true, List.isEmpty_nil,
    decide_false, Bool.or_self, not_false_eq_true]

theorem doRingDoorbell_consumer (hring : RingTakes (wakeAt (unIdle s) 2 s.now) n ring)
    (hback : dist32 ix (getRing (wakeAt (unIdle s) 2 s.now) n ring).cplCons < 2 ^ 31)
    (hwritten : dist32 ix (cplProd (wakeAt (unIdle s) 2 s.now) n ring) = 0 ∨ 2 ^ 31 ≤ dist32 ix (cplProd (wakeAt (unIdle s) 2 s.now) n ring)) :
    doRingDoorbell s n ring true ix = modRing (wakeAt (unIdle s) 2 s.now) n ring fun g => { g with cplCons := ix, notify := true } := by
  have hnot : ¬ (dist32 ix (cplProd (wakeAt (unIdle s) 2 s.now) n ring) ≠ 0 ∧ dist32 ix (cplProd (wakeAt (unIdle s) 2 s.now) n ring) < 2 ^ 31) := by
    omega
  unfold doRingDoorbell
  refine (if_neg ?_).trans (if_pos rfl)
  simp only [hring.on, hring.kept, hring.there, Nat.not_le.2 hback, hnot, if_true, Bool.not_true, List.isEmpty_nil, decide_false, Bool.or_self,
    Bool.false_eq_true, not_false_eq_true]

end

/-- Settles O48. -/
theorem hostRows : Obligations.HostRows := by
  unfold Obligations.HostRows
  refine ⟨?_, ?_, ?_, ?_, ?_, ?_⟩
  · intro s h addr tag halive hheard
    exact exec_part rfl halive (congrArg settle (doCsr_read hheard))
  · rintro s r h addr v t rfl halive hheard
    refine ⟨fun g hg hwrites => exec_part rfl halive (congrArg settle ?_), fun g hg hwrites => exec_part rfl halive (congrArg settle ?_),
      fun p hp => exec_part rfl halive (congrArg settle ((doCsr_write hheard).trans (busWrite_refused hp)))⟩
    · exact (doCsr_write hheard).trans ((busWrite_reg hg).trans (if_pos hwrites))
    · exact (doCsr_write hheard).trans ((busWrite_reg hg).trans (if_neg (ne_true_of_eq_false hwrites)))
  · rintro s r n t due rfl halive hst hnext hdue seq
    refine exec_part rfl halive (congrArg settle (if_pos ⟨hst, ?_⟩))
    simp [hnext, hdue]
  · rintro s r n seq t rfl halive hst u rest
    exact exec_part rfl halive (congrArg settle (if_neg (not_not_intro hst)))
  · intro s n halive hst hseen hnew u
    exact exec_part rfl halive (congrArg settle (doAttach_sets hst hseen hnew))
  · rintro s r n ring index t rfl halive hheard hopen u g hon hkept hthere
    have hring : RingTakes (wakeAt (unIdle (at_ s t)) 2 (at_ s t).now) n.val ring.val := ⟨hon, hkept, hthere⟩
    exact ⟨fun hback hfits => exec_part rfl halive (congrArg settle ((hostDoorbell_heard hheard hopen).trans (doRingDoorbell_producer hring hback hfits))),
      fun hback hwritten =>
        exec_part rfl halive (congrArg settle ((hostDoorbell_heard hheard hopen).trans (doRingDoorbell_consumer hring hback hwritten)))⟩

end Sys2Proof.Proofs
end

