-- ==== Sys2Proof/Proofs/ImageOperations.lean ====
section
/-! PROOFS. The loader's operations and the owner's claim (R506 to R513). -/

namespace Sys2Proof.Proofs

open Sys2Proof.Machine Sys2Proof.Laws

/-- A requester acts on a block that I3C reaches and its image, where it is a host, opens. -/
theorem asRequester_open {s : State} {by_ : Requester} {unit : Nat} (hi3c : i3cReach unit = true)
    (hopen : ∀ h, by_ = .host h → blockOpen s h.val unit = true) (k : State) : asRequester s by_ unit k = k := by
  cases by_ with
  | host h => exact if_pos (hopen h rfl)
  | i3c => exact if_pos hi3c
  | reeve => rfl

theorem i3cReach_imgUnit : i3cReach imgUnit = true := by decide

theorem i3cReach_rvUnit : i3cReach rvUnit = true := by decide

section
variable {s u v : State} {n : Nat} {abort : Bool} {t : Stamp} {l : Loading} {bs : List Byte}

theorem doLoad_begins (hidle : imgBusy s = false) (hboot : bootState s ≠ 2) (hrun : s.tick.running = true)
    (hin : inRequester s n (imgSrc s) (imgLen s) = true) :
    doLoad s n =
      let u := imgTake s 1 (imgArgPolder s) n
      advanceLoad { u with img := { u.img with loading := some ⟨imgArgPolder s, n, imgSrc u, imgLen u, [], none, none⟩ } } := by
  unfold doLoad
  refine if_neg ?_
  simp only [hidle, hboot, hrun, hin, Bool.false_eq_true, Bool.not_true, or_self, not_false_eq_true]

theorem doImgUnload_taken (hidle : imgBusy s = false) (hboot : bootState s ≠ 2) (hp : imgArgPolder s ≠ 0)
    (hst : (getPolder s (imgArgPolder s)).st = .active) :
    doImgUnload s n abort t =
      let u := imgTake s 2 (imgArgPolder s) n
      if mayName u n (imgArgPolder s) = false then imgRefuse u { code := Code.HOST_DENIED }
      else imgDone (doUnload u (imgArgPolder s) abort t) := by
  unfold doImgUnload
  refine (if_neg ?_).trans ?_
  · simp only [hidle, hboot, hp, hst, Bool.false_eq_true, ne_eq, not_true_eq_false, or_self, not_false_eq_true]
  · simp only [Bool.not_eq_true']

/-- The plan's region, offset and record address that IMG_ARG names (R509). -/
def planAt (s u : State) : Nat :=
  (regionAddr u (imgArgPolder s) (getF s ⟨.IMG_ARG, 0, 0⟩ 51 40) (getF s ⟨.IMG_ARG, 0, 0⟩ 39 0) 64).getD 0

theorem doPlan_taken (hidle : imgBusy s = false) (hboot : bootState s ≠ 2) (hrun : s.tick.running = true) :
    doPlan s n t =
      let p := imgArgPolder s
      let region := getF s ⟨.IMG_ARG, 0, 0⟩ 51 40
      let off := getF s ⟨.IMG_ARG, 0, 0⟩ 39 0
      let u := imgTake s 3 p n
      if !mayName u n p then imgRefuse u { code := Code.HOST_DENIED }
      else if planCode u p region off false ≠ 0 then
        imgRefuse (if planAt s u = 0 then u else planRefuse u (planAt s u) (planCode u p region off false)) { code := planCode u p region off false }
      else
        let v := setF (planWait u (planAt s u) (boundaryFor u t)) rImgSts 47 45 3
        { v with img := { v.img with planning := some ⟨(planHdr v (planAt s u)).coll, boundaryFor u t, p, region, off⟩ } } := by
  unfold doPlan
  refine if_neg ?_
  simp only [hidle, hboot, hrun, Bool.false_eq_true, Bool.not_true, or_self, not_false_eq_true]

theorem doStagingEnd_fault (hl : s.img.loading = some l) (hst : imgState s = 2) : doStagingEnd s true t = imgRefuse s { code := Code.LOAD_FAULT } := by
  unfold doStagingEnd
  rw [hl]
  exact (if_neg (not_not_intro hst)).trans (if_pos rfl)

theorem doStagingEnd_read (hl : s.img.loading = some l) (hst : imgState s = 2) (hread : imgRead s l.addr l.image.length = (.ok, u, bs)) :
    doStagingEnd s false t =
      if imgHash bs ≠ imgHash l.image then imgRefuse u { code := Code.BAD_SIGNATURE }
      else match stageImage u l.image t with
        | none => imgRefuse u { code := Code.LOAD_FAULT }
        | some (s, q) =>
          let s := seekOp (setF s rImgSts 47 45 3) (min s.pwr.goal (imgProof l.image)) t
          { s with img := { s.img with loading := some { l with due := some (boundaryFor s t), staged := some q } } } := by
  unfold doStagingEnd
  rw [hl]
  refine (if_neg (not_not_intro hst)).trans ((if_neg Bool.false_ne_true).trans ?_)
  rw [hread] <;> rfl

theorem doAttest_begins (hidle : imgBusy s = false) (hin : inRequester s n (imgSrc s) 32 = true) (hout : inRequester s n (imgSrc s + 64) (imgLen s) = true)
    (hlen : attestLen s ≤ imgLen s) : doAttest s n = advanceAttest (imgTake s 4 0 n) := by
  refine if_neg ?_
  simp only [hidle, hin, hout, Nat.not_lt.2 hlen, Bool.false_eq_true, Bool.not_true, or_self, not_false_eq_true]

theorem doUpdate_begins (hidle : imgBusy s = false) (hin : inRequester s n (imgSrc s) (imgLen s) = true) :
    doUpdate s n = advanceUpdate (imgTake s 5 0 n) := by
  refine if_neg ?_
  simp only [hidle, hin, Bool.false_eq_true, Bool.not_true, or_self, not_false_eq_true]

theorem doClaim_noMagic {by_ : Requester} (hmagic : (claimBytes s).take 4 ≠ ascii "EFZO") : doClaim s by_ = setBit s ⟨.RV_CLAIM_CTL, 0, 0⟩ 1 :=
  if_neg fun h => hmagic h.1

/-- A sound first claim over I3C is stored with its key's hash (R513). -/
theorem doClaim_first (hfirst : s.img.owner = List.replicate 32 0) (hmagic : (claimBytes s).take 4 = ascii "EFZO")
    (hzero : (claimBytes s).drop 136 = List.replicate 56 0)
    (hsig : ecdsaVerify (sha256 ((claimBytes s).take 72)) ((((claimBytes s).drop 8).take 64).take 32) ((((claimBytes s).drop 8).take 64).drop 32)
      (((claimBytes s).drop 72).take 32) (((claimBytes s).drop 104).take 32) = true) :
    doClaim s .i3c = writeFloor (norPut s 0x4000 (claimBytes s)) (getF s rRvFloor 31 0) (getF s rRvSvn 63 32)
      (sha256 (((claimBytes s).drop 8).take 64)) := by
  unfold doClaim
  refine if_pos ⟨hmagic, hzero, ?_, ?_, ?_⟩
  · simp only [hfirst, if_true, hsig]
  · simp only [hfirst, if_true, decide_true]
  · simp only [hfirst, decide_true, Bool.true_or]

end

/-- Settles O49. -/
theorem imageOperations : Obligations.ImageOperations := by
  unfold Obligations.ImageOperations
  refine ⟨?_, ?_, ?_, ?_⟩
  · rintro s r by_ t rfl halive hopen n p
    have hreach := fun k => asRequester_open i3cReach_imgUnit hopen k
    refine ⟨fun hbusy => ⟨fun abort => ?_, ?_, ?_⟩, ?_, ?_, fun hidle hboot hrun => ?_⟩
    · exact exec_part rfl halive ((hreach _).trans (congrArg settle (if_pos (Or.inl hbusy))))
    · exact exec_part rfl halive ((hreach _).trans (congrArg settle (if_pos (Or.inl hbusy))))
    · exact exec_part rfl halive ((hreach _).trans (congrArg settle (if_pos (Or.inl hbusy))))
    · intro hidle hboot hrun hin u
      exact exec_part rfl halive ((hreach _).trans (congrArg settle (doLoad_begins hidle hboot hrun hin)))
    · intro hidle hboot hp hst abort
      exact exec_part rfl halive ((hreach _).trans (congrArg settle (doImgUnload_taken hidle hboot hp hst)))
    · intro region off u a
      have hplan := doPlan_taken (n := n) (t := t) hidle hboot hrun
      refine ⟨?_, ?_, ?_⟩
      · intro hname
        exact exec_part rfl halive ((hreach _).trans (congrArg settle (hplan.trans (if_pos (congrArg (!·) hname)))))
      · intro hname hcode v
        have hout := (hplan.trans (if_neg (ne_true_of_eq_false (congrArg (!·) hname)))).trans (if_neg (not_not_intro hcode))
        exact exec_part rfl halive ((hreach _).trans (congrArg settle hout))
      · intro hname hcode
        have hout := (hplan.trans (if_neg (ne_true_of_eq_false (congrArg (!·) hname)))).trans (if_pos hcode)
        exact exec_part rfl halive ((hreach _).trans (congrArg settle hout))
  · rintro s r t l rfl halive hl hst
    refine ⟨exec_part rfl halive (congrArg settle (doStagingEnd_fault hl hst)), ?_, ?_⟩
    · intro u bs hread hhash
      exact exec_part rfl halive (congrArg settle ((doStagingEnd_read hl hst hread).trans (if_pos hhash)))
    · intro u bs v q hread hhash hstage w
      refine exec_part rfl halive (congrArg settle ((doStagingEnd_read hl hst hread).trans ((if_neg (not_not_intro hhash)).trans ?_)))
      rw [hstage]
  · intro s by_ halive hopen hidle n
    have hreach := fun k => asRequester_open i3cReach_imgUnit hopen k
    exact ⟨fun hin hout hlen => exec_part rfl halive ((hreach _).trans (congrArg settle (doAttest_begins hidle hin hout hlen))),
      fun hin => exec_part rfl halive ((hreach _).trans (congrArg settle (doUpdate_begins hidle hin)))⟩
  · intro s by_ halive hopen bs key
    have hreach := fun k => asRequester_open i3cReach_rvUnit hopen k
    refine ⟨fun hmagic => exec_part rfl halive ((hreach _).trans (doClaim_noMagic hmagic)), ?_⟩
    rintro rfl hfirst hmagic hzero hsig
    exact exec_part rfl halive ((hreach _).trans (doClaim_first hfirst hmagic hzero hsig))

end Sys2Proof.Proofs
end

