-- ==== Sys2Proof/Proofs/BootAndLinks.lean ====
section
/-! PROOFS. Boot, the links of the package and declared failures (R31 to R36, R514, R536). -/

namespace Sys2Proof.Proofs

open Sys2Proof.Machine Sys2Proof.Laws

section
variable {s : State} {a b src : Nat} {t : Stamp} {v : Word} {puf : Bool} {e : BootEnv}

/-- The part at the start of a boot from OFF: after reset, with the rails up (R514). -/
def risen (s : State) (src : Nat) : State :=
  setF (modPwr (Sys2Proof.Machine.afterReset s) fun p => { p with railsUp := true }) rPwrWake 14 8 (if src < 7 then 2 ^ src else 0)

theorem alive_risen (hreset : s.pwr.resetN = true) : alive (risen s src) = true := hreset

theorem wake_regAddr_ne_boot : regAddr rRvBoot ≠ regAddr rPwrWake := by decide

theorem fatal_regAddr_ne_boot : regAddr rRvBoot ≠ regAddr ⟨.PWR_FATAL, 0, 0⟩ := by decide

theorem getReg_afterReset (s : State) {r : Reg} (hr : regAddr r ≠ regAddr ⟨.PWR_FATAL, 0, 0⟩) :
    getReg (Sys2Proof.Machine.afterReset s) r = regReset r.name :=
  (getReg_setReg_of_ne _ _ hr).trans (getReg_of_csr rfl r)

theorem boot_risen : getReg (risen s src) rRvBoot = 0 :=
  (getReg_setF_of_ne _ _ _ _ wake_regAddr_ne_boot).trans (getReg_afterReset s fatal_regAddr_ne_boot)

/-- A boot from OFF with a wake event, the supplies in range and RESET_N high (R514). -/
theorem doBoot_fromOff (hoff : pwrState s = 4) (hwake : s.pwr.wake = some (src, t)) (hvin : s.pwr.vinOk = true) (hvaux : s.pwr.vauxOk = true)
    (hreset : s.pwr.resetN = true) : doBoot s puf e = bootSteps (linksTrained (risen s src) e.badLinks) puf e := by
  have hrise : (if s.pwr.vinOk = true ∧ s.pwr.vauxOk = true ∧ s.pwr.resetN = true then risen s src else s) = risen s src :=
    if_pos ⟨hvin, hvaux, hreset⟩
  unfold doBoot
  rw [if_pos hoff, hwake]
  dsimp only
  unfold risen at hrise
  rw [hrise]
  change (if alive (risen s src) = true ∧ getReg (risen s src) rRvBoot = 0 then _ else _) = _
  rw [if_pos ⟨alive_risen hreset, boot_risen⟩]
  rfl

theorem doBoot_asleep (hoff : pwrState s = 4) (hwake : s.pwr.wake = none) (hrails : s.pwr.railsUp = false) : doBoot s puf e = s := by
  unfold doBoot
  rw [if_pos hoff, hwake]
  exact if_neg fun h => Bool.false_ne_true ((congrArg (· && s.pwr.resetN) hrails).symm.trans h.1)

/-- A boot whose PUF does not reconstruct ends FAILED in step 3. -/
theorem doBoot_noPuf (hoff : pwrState s ≠ 4) (halive : alive s = true) (hboot : getReg s rRvBoot = 0) :
    doBoot s false e = setBoot (linksTrained s e.badLinks) 3 3 1 e.ms := by
  unfold doBoot
  rw [if_neg hoff]
  exact (if_pos ⟨halive, hboot⟩).trans (if_pos rfl)

theorem doLinkTimeout_fails (hends : linkEnds a b = true) (hdown : linkState s a b < 2) (hboot : bootState (failLink s a b) = 0) :
    doLinkTimeout s a b = setReg (failLink s a b) ⟨.RV_BOOT, 0, 0⟩ (BitVec.ofNat 64 (8 * 2 ^ 56 + 3 * 2 ^ 54 + 4 * 2 ^ 50)) := by
  unfold doLinkTimeout
  exact (if_neg (by simp [hends, hdown])).trans (if_pos hboot)

theorem doLinkFailed_loses (hends : linkEnds a b = true) :
    doLinkFailed s a b =
      let u := stopEntry (failLink s a b) 4
      if max a b = 4 then loseCrest u (min a b) else if 4 < max a b then loseToe u (max a b - 4) else loseCrest u (max a b) := by
  unfold doLinkFailed
  exact if_neg (by simp [hends])

theorem doLinkCfg_outcome (hends : linkEnds a b = true) (hshut : getF s ⟨.MEM_LINK_CFG, a, b⟩ 16 16 = 0) :
    doLinkCfg s a b v =
      let r : Reg := ⟨.MEM_LINK_CFG, a, b⟩
      let u := setF s r 9 0 (fld v 9 0)
      if fld v 16 16 = 0 then u
      else if (linkReserves u a b).all (fun n => decide (4 ≤ n)) && decide ((linkReserves u a b).foldl (· + ·) (fld v 9 0) ≤ linkBuffer a b) then
        pumpLinks (setF u r 16 16 1)
      else setBit u ⟨.MEM_LINK_STS, a, b⟩ 3 := by
  have hopen : ¬ ((!linkEnds a b) = true ∨ getF s (linkReg .MEM_LINK_CFG a b) 16 16 = 1) := by simp [hends, linkReg, hshut]
  unfold doLinkCfg
  exact if_neg hopen

end

/-- Settles O50. -/
theorem bootAndLinks : Obligations.BootAndLinks := by
  unfold Obligations.BootAndLinks
  refine ⟨?_, ?_, ?_, ?_, ?_, ?_, ?_⟩
  · intro s puf stacksUp flash bad ms hoff ends e
    refine ⟨?_, fun hwake hrails => congrArg Host.Outcome.next (doBoot_asleep hoff hwake hrails)⟩
    intro src t hwake hvin hvaux hreset up
    exact congrArg Host.Outcome.next (doBoot_fromOff hoff hwake hvin hvaux hreset)
  · intro s stacksUp flash bad ms hoff halive hboot
    exact congrArg Host.Outcome.next (doBoot_noPuf hoff halive hboot)
  · intro s a b halive hends hdown hbooting u hboot hnone
    exact exec_part rfl halive (congrArg settle (withMembers_of_none (doLinkTimeout_fails hends hdown hboot) hnone))
  · intro s a b halive hends
    exact exec_part rfl halive (congrArg settle (withMembers_congr (doLinkFailed_loses hends)))
  · intro s a b v halive hends hshut r u
    have hout := doLinkCfg_outcome (v := v) hends hshut
    refine ⟨fun h0 => exec_part rfl halive (hout.trans (if_pos h0)), ?_⟩
    intro h1 fits
    have h0 : ¬ fld v 16 16 = 0 := by omega
    exact exec_part rfl halive (hout.trans (if_neg h0))
  · intro s st p halive
    exact exec_part rfl halive rfl
  · intro s d st halive
    exact ⟨exec_part rfl halive rfl, exec_part rfl halive rfl⟩

end Sys2Proof.Proofs
end

