-- ==== Sys2Proof/Proofs/RegisterRows.lean ====
section
/-! PROOFS. Register writes, unmapped accesses and grants (R9, R516). -/

namespace Sys2Proof.Proofs

open Sys2Proof.Machine Sys2Proof.Laws

/-- The registers that only store, of those that RegisterRows names. -/
def plainRegs : List RegName :=
  [.PLD_CTX, .WLK_SLOT_CFG, .MEM_BSU_CFG, .TEN_SEQ_SEL, .NUM_SCL_SEL, .EMB_LOAD_SEL, .MEM_MOV_ADDR, .FSS_LIST_ADDR, .MEM_SCRUB_CFG, .PWR_CAP,
    .PWR_WAKE, .IMG_SRC, .IMG_LEN, .IMG_ARG, .RV_CLAIM_DATA]

theorem actsOn_plain : ∀ n ∈ plainRegs, actsOn n = false := by decide

section
variable {s : State} {g : Reg} {v : Word} {t : Stamp} {by_ : Requester} {addr : Nat}

theorem writeReg_plain (hg : g.name ∈ plainRegs) : writeReg s by_ g v t = storeReg s g v := by
  simp only [plainRegs, List.mem_cons, List.not_mem_nil, or_false] at hg
  rcases hg with h | h | h | h | h | h | h | h | h | h | h | h | h | h | h <;> simp only [writeReg, h]

theorem doRegisterWrite_plain (htarget : target s .reeve addr = .reg g) (hg : g.name ∈ plainRegs) :
    doRegisterWrite s .reeve addr v t = storeReg s g v := by
  simp only [doRegisterWrite, busWrite, htarget, actsOn_plain _ hg, Bool.false_eq_true, if_false, writeReg_plain hg]

/-- What the note of an unmapped access leaves: the address, its direction, and every other register. -/
theorem noteUnmapped_eq (a : Word) (isWrite : Bool) :
    ∃ w, noteUnmapped s by_ a isWrite = setF (setF (setReg (setReg s ⟨.RV_BADADDR, 0, 0⟩ a) ⟨.RV_BADSRC, 0, 0⟩ w) ⟨.RV_BADSRC, 0, 0⟩ 31 16 (badSource by_))
      ⟨.RV_BADSRC, 0, 0⟩ 15 15 (b2n isWrite) := ⟨_, rfl⟩

theorem badAddr_ne_badSrc : regAddr ⟨.RV_BADADDR, 0, 0⟩ ≠ regAddr ⟨.RV_BADSRC, 0, 0⟩ := by decide

theorem noteUnmapped_csr (a : Word) (isWrite : Bool) : noteUnmapped s by_ a isWrite = { s with csr := (noteUnmapped s by_ a isWrite).csr } := rfl

theorem badAddr_noteUnmapped (a : Word) (isWrite : Bool) : getReg (noteUnmapped s by_ a isWrite) ⟨.RV_BADADDR, 0, 0⟩ = a := by
  obtain ⟨w, hw⟩ := noteUnmapped_eq (s := s) (by_ := by_) a isWrite
  rw [hw, getReg_setF_of_ne _ _ _ _ badAddr_ne_badSrc, getReg_setF_of_ne _ _ _ _ badAddr_ne_badSrc, getReg_setReg_of_ne _ _ badAddr_ne_badSrc,
    getReg_setReg_self]

theorem badSrc_noteUnmapped (a : Word) (isWrite : Bool) :
    getF (noteUnmapped s by_ a isWrite) ⟨.RV_BADSRC, 0, 0⟩ 15 15 = if isWrite then 1 else 0 := by
  obtain ⟨w, hw⟩ := noteUnmapped_eq (s := s) (by_ := by_) a isWrite
  rw [hw, getF_setF_self _ _ _ (by decide)]
  cases isWrite <;> rfl

theorem getReg_noteUnmapped (a : Word) (isWrite : Bool) {x : Reg} (ha : regAddr x ≠ regAddr ⟨.RV_BADADDR, 0, 0⟩)
    (hs : regAddr x ≠ regAddr ⟨.RV_BADSRC, 0, 0⟩) : getReg (noteUnmapped s by_ a isWrite) x = getReg s x := by
  obtain ⟨w, hw⟩ := noteUnmapped_eq (s := s) (by_ := by_) a isWrite
  rw [hw, getReg_setF_of_ne _ _ _ _ hs, getReg_setF_of_ne _ _ _ _ hs, getReg_setReg_of_ne _ _ hs, getReg_setReg_of_ne _ _ ha]

end

/-- Settles O51. -/
theorem registerRows : Obligations.RegisterRows := by
  unfold Obligations.RegisterRows
  refine ⟨?_, ?_, ?_⟩
  · rintro s r addr v t g rfl halive htarget hg w
    have hwrite := doRegisterWrite_plain (v := v) (t := t) htarget hg
    refine ⟨fun hin => ⟨_, exec_part rfl halive (hwrite.trans (if_pos hin)), rfl, getReg_setReg_self _ _ _, fun x hx => getReg_setReg_of_ne _ _ hx⟩,
      fun hout => exec_part rfl halive (hwrite.trans (if_neg (ne_true_of_eq_false hout)))⟩
  · intro s by_ addr isWrite halive hplace
    have hnote : doUnmapped s by_ addr isWrite = noteUnmapped s by_ addr isWrite := by simp only [doUnmapped, hplace]
    exact ⟨_, exec_part rfl halive hnote, noteUnmapped_csr addr isWrite, badAddr_noteUnmapped addr isWrite, badSrc_noteUnmapped addr isWrite,
      fun x ha hs => getReg_noteUnmapped addr isWrite ha hs⟩
  · intro s k h unit
    exact ⟨fun hopen => if_pos hopen, fun hshut => if_neg (ne_true_of_eq_false hshut)⟩

end Sys2Proof.Proofs
end

