-- ==== Sys2Proof/Proofs/PowerStates.lean ====
section
/-! PROOFS. Entering and leaving power states (R521 to R529). -/

namespace Sys2Proof.Proofs

open Sys2Proof.Machine Sys2Proof.Laws

theorem i3cReach_pwrUnit : i3cReach pwrUnit = true := by decide

section
variable {s b : State} {target src : Nat} {t t0 : Stamp} {e : Entering}

theorem doEnter_begins (hfree : s.pwr.entry = none) (h2 : 2 ≤ target) (h4 : target ≤ 4) (hdeeper : pwrState s < target) (hrun : s.tick.running = true) :
    doEnter s target t = modPwr (setF s rPwrState 6 4 target) fun p =>
      { p with entry := some { target := target, abort := decide (getF s ⟨.PWR_CTL, 0, 0⟩ 3 3 = 1), b := boundaryFor s t, refuser := none } } := by
  have hcan : ¬ (s.pwr.entry.isSome = true ∨ target < 2 ∨ 4 < target ∨ target ≤ pwrState s) := by
    simp only [hfree, Option.isSome_none, Bool.false_eq_true, false_or]
    omega
  unfold doEnter
  refine (if_neg hcan).trans ((if_pos hrun).trans ?_)
  simp only [hrun, if_true]

theorem doEnter_notDeeper (h : target ≤ pwrState s) : doEnter s target t = setBit s ⟨.PWR_CTL, 0, 0⟩ 10 := if_pos (.inr (.inr (.inr h)))

theorem doStateEntry_enters (he : s.pwr.entry = some e) (hdrain : e.abort = false) (hdue : e.b ≤ s.tick.tick)
    (hpass : firstRefuser (entryCkpt s e) e.target e.b false = none) : doStateEntry s = enterState (entryCkpt s e) e.target := by
  unfold doStateEntry
  rw [he]
  refine (if_neg ?_).trans (if_pos ?_)
  · simp only [hdrain, Nat.not_lt.2 hdue, Bool.false_eq_true, or_self, not_false_eq_true]
  · rw [hpass]
    rfl

theorem doDrainRefusal_refuses {reason kind who : Nat} (he : s.pwr.entry = some e) (hdrain : e.abort = false)
    (hover : e.b + drainTicks s ≤ s.tick.tick) (hfails : firstRefuser s e.target e.b false = some (reason, kind, who)) :
    doDrainRefusal s = refuseEntry s s.tick.tick reason kind who false := by
  simp only [doDrainRefusal, he, hdrain, Nat.not_lt.2 hover, hfails, Bool.false_eq_true, or_self, if_false]

theorem wakeAt_noted (hin : sourceIn src (pwrState s) = true) (hen : getF s rPwrWake src src = 1) (hvaux : s.pwr.vauxOk = true)
    (hoff : pwrState s = 4) (hvin : s.pwr.vinOk = false) :
    wakeAt s src t = modPwr (setF s rPwrWake 14 8 (2 ^ src)) fun p => { p with woken := some src } := by
  unfold wakeAt
  refine (if_neg ?_).trans (if_pos ⟨hoff, congrArg (!·) hvin⟩)
  simp only [hin, hen, hvaux, Bool.not_true, one_ne_zero, decide_false, Bool.or_self, Bool.false_eq_true, not_false_eq_true]

theorem wakeAt_kept (hin : sourceIn src (pwrState s) = true) (hen : getF s rPwrWake src src = 1) (hvaux : s.pwr.vauxOk = true)
    (hcan : pwrState s ≠ 4 ∨ s.pwr.vinOk = true) (hnone : s.pwr.wake = none) :
    wakeAt s src t =
      let u := modPwr s fun p => { p with wake := some (src, t) }
      if pwrState s = 2 then seekOp u (opWanted u) t else u := by
  have hhear : ¬ (!sourceIn src (pwrState s) || decide (getF s rPwrWake src src = 0) || !s.pwr.vauxOk) = true := by
    simp only [hin, hen, hvaux, Bool.not_true, one_ne_zero, decide_false, Bool.or_self, Bool.false_eq_true, not_false_eq_true]
  have hup : ¬ (pwrState s = 4 ∧ (!s.pwr.vinOk) = true) := by
    rcases hcan with h | h <;> simp [h]
  have hfirst : ¬ s.pwr.wake.isSome = true := by simp [hnone]
  unfold wakeAt
  exact (if_neg hhear).trans ((if_neg hup).trans (if_neg hfirst))

theorem sourceIn_wakeN : sourceIn 0 4 = true := by decide

theorem doSleepExit_leaves (hwake : s.pwr.wake = some (src, t)) (hsleep : pwrState s = 2) (hrun : s.tick.running = true) (hdue : t + 10 * us ≤ s.tick.base) :
    doSleepExit s = setPower (raiseTo (seekOp (noteWake s) (opWanted (noteWake s)) (noteWake s).now) (opWanted (noteWake s))) 0 := by
  unfold doSleepExit
  rw [hwake]
  exact if_pos ⟨hsleep, hrun, hdue⟩

/-- Seeking an operating point leaves the loader. -/
theorem seekOp_img (goal : Nat) : (seekOp s goal t).img = s.img := ite_keeps (fun x : State => x.img) rfl rfl

/-- The ports as they were before DEEP (R529). -/
def portsBack (s : State) : State :=
  (List.range 4).foldl (fun s n => if fld (getPort s n).kept 37 36 = 0 then s else doPortMode s n (getPort s n).kept) s

theorem doDeepExit_leaves (hdeep : pwrState s = 3) (hwake : s.pwr.wake.isSome = true) (hflash : getF (setPower (noteWake s) 0) ⟨.FSS_CFG, 0, 0⟩ 0 0 = 0)
    (hsched : (portsBack (setPower (noteWake s) 0)).img.sched = none) :
    doDeepExit s t =
      let b := portsBack (setPower (noteWake s) 0)
      seekOp b (opWanted b) t := by
  have hleave : ¬ (pwrState s ≠ 3 ∨ s.pwr.wake.isNone = true) := by
    rw [← Option.not_isSome]
    simp [hdeep, hwake]
  have hoff : ¬ (getF (setPower (noteWake s) 0) ⟨.FSS_CFG, 0, 0⟩ 0 0 = 1 ∧ (setPower (noteWake s) 0).fss.ckpt.isSome = true) := by
    rw [hflash]
    exact fun h => zero_ne_one h.1
  unfold doDeepExit
  rw [if_neg hleave]
  dsimp only
  rw [if_neg hoff]
  have hkept : (seekOp (portsBack (setPower (noteWake s) 0)) (opWanted (portsBack (setPower (noteWake s) 0))) t).img.sched = none := by
    rw [seekOp_img, hsched]
  split
  next h => exact absurd (h.symm.trans hkept) (by simp)
  next => rfl

end

/-- Settles O52. -/
theorem powerStates : Obligations.PowerStates := by
  unfold Obligations.PowerStates
  refine ⟨?_, ?_, ?_, ?_, ?_, ?_, ?_, ?_, ?_⟩
  · rintro cmd target hcmd s r by_ t rfl halive hopen
    have hexec : ∀ v, doEnter (at_ s t) target t = v → exec (cmd by_ t) s = .next (settle v) := by
      intro v hv
      simp only [List.mem_cons, Prod.mk.injEq, List.not_mem_nil, or_false] at hcmd
      obtain ⟨rfl, rfl⟩ | ⟨rfl, rfl⟩ | ⟨rfl, rfl⟩ := hcmd
      all_goals exact exec_part rfl halive ((asRequester_open i3cReach_pwrUnit hopen _).trans (congrArg settle hv))
    have htarget : 2 ≤ target ∧ target ≤ 4 := by
      simp only [List.mem_cons, Prod.mk.injEq, List.not_mem_nil, or_false] at hcmd
      omega
    exact ⟨fun hfree hdeeper hrun => hexec _ (doEnter_begins hfree htarget.1 htarget.2 hdeeper hrun), fun h => hexec _ (doEnter_notDeeper h)⟩
  · intro s e halive he hdrain hdue hpass
    exact exec_part rfl halive (congrArg settle (doStateEntry_enters he hdrain hdue hpass))
  · intro s e reason kind who halive he hdrain hover hfails
    exact exec_part rfl halive (doDrainRefusal_refuses he hdrain hover hfails)
  · rintro s r t rfl halive hon
    have hexec : ∀ by_ : Requester, by_ = .i3c ∨ by_ = .reeve → exec (.wake by_ t) s = .next (settle (doWake (at_ s t) by_ t)) := by
      intro by_ hby
      refine congrArg Host.Outcome.next ((if_neg hon).trans ((onPart_alive halive _).trans (asRequester_open i3cReach_pwrUnit ?_ _)))
      rintro h rfl
      simp at hby
    exact ⟨hexec .i3c (.inl rfl), hexec .reeve (.inr rfl)⟩
  · rintro s r src t rfl hin hen hvaux
    refine ⟨fun hoff hvin => congrArg Host.Outcome.next (wakeAt_noted hin hen hvaux hoff hvin), ?_⟩
    intro hcan hnone u
    exact congrArg Host.Outcome.next (wakeAt_kept hin hen hvaux hcan hnone)
  · rintro s r t0 t rfl hoff hvin hvaux hnone hen
    have hkept := wakeAt_kept (t := t) (by rw [hoff]; exact sourceIn_wakeN) hen hvaux (.inr hvin) hnone
    have hnot : ¬ pwrState (at_ s t) = 2 := by omega
    exact congrArg Host.Outcome.next (congrArg (fun x => if t0 + us ≤ t then x else at_ s t) (hkept.trans (if_neg hnot)))
  · rintro s r t rfl halive hset hdue
    exact exec_part rfl halive (if_pos ⟨hset, hdue⟩)
  · intro s src t halive hwake hsleep hrun hdue u
    exact exec_part rfl halive (doSleepExit_leaves hwake hsleep hrun hdue)
  · rintro s r t rfl halive hdeep hwake hsched a hflash b hsched'
    exact exec_part rfl halive (congrArg settle (doDeepExit_leaves hdeep hwake hflash hsched'))

end Sys2Proof.Proofs
end

