-- ==== Sys2Proof/Proofs/Supply.lean ====
section
/-! PROOFS. Operating points, sensors and fatal causes (R531 to R537), supplies, reset and JTAG (R549 to R554). -/

namespace Sys2Proof.Proofs

open Sys2Proof.Machine Sys2Proof.Laws

section
variable {s : State} {target cause : Nat} {t a : Stamp} {m : Sensors}

theorem doOpTarget_sought (hfloor : target ≤ opFloor s) (hgoal : s.pwr.goal = opWanted s) (hactive : pwrState (setF s rPwrOp 1 0 target) = 0) :
    doOpTarget s target t = seekOp (setF s rPwrOp 1 0 target) (opWanted (setF s rPwrOp 1 0 target)) t := by
  have hon : ¬ (pwrState (setF s rPwrOp 1 0 target) ≠ 0 ∧ pwrState (setF s rPwrOp 1 0 target) ≠ 1) := fun h => h.1 hactive
  unfold doOpTarget
  exact (if_neg (Nat.not_lt.2 hfloor)).trans ((if_neg hon).trans (if_pos hgoal))

/-- The state after a sample with the package's current at most 70 A (R531 to R533). -/
def sampled (s : State) (m : Sensors) (t : Stamp) : State :=
  let tj := maxInt m.tj
  let ts := maxInt m.ts
  let ltj : Int := getF s ⟨.PWR_CAP, 0, 0⟩ 51 44
  let lts : Int := getF s ⟨.PWR_CAP, 0, 0⟩ 43 36
  let cap := getF s ⟨.PWR_CAP, 0, 0⟩ 63 52
  let cool := decide (tj + 5 ≤ ltj) && decide (ts + 5 ≤ lts) && decide (10 * m.pmean100 < 9 * cap)
  modPwr (setReg s ⟨.PWR_SENSE, 0, 0⟩ (BitVec.ofNat 64
      (m.vin % 2 ^ 16 * 2 ^ 48 + m.pin % 2 ^ 16 * 2 ^ 32 + sense 8 tj * 2 ^ 24 + sense 8 ts * 2 ^ 16))) fun p => { p with
    temps := m.tj ++ m.ts, peaks := (p.peaks.zip (m.tj ++ m.ts)).map fun x => max x.1 x.2
    hot := decide (ltj < tj) || decide (lts < ts) || decide (cap < m.pmean100)
    coolAt := if cool then some (p.coolAt.getD t) else none, over70 := none, over85 := none
    emergOn := decide (105 < tj) || decide (95 < ts) }

theorem doSample_outcome (hiin : m.iin ≤ 70) :
    doSample s m t = if 115 < maxInt m.tj ∨ 105 < maxInt m.ts then doFatal (sampled s m t) 1
      else alert (if (decide (105 < maxInt m.tj) || decide (95 < maxInt m.ts)) && (sampled s m t).pwr.emergAt.isNone then emergency (sampled s m t) t
        else sampled s m t) := by
  have h70 : ¬ 70 < m.iin := Nat.not_lt.2 hiin
  have h85 : ¬ 85 < m.iin := by omega
  unfold doSample
  rw [if_neg h70, if_neg h85]
  simp only [Option.elim_none, Bool.or_false]
  rfl

theorem doEmergReturn_returns (hemerg : s.pwr.emergAt = some a) (hclear : s.pwr.emergOn = false) (hdue : a + 1000 * us ≤ t) :
    doEmergReturn s t = alert (modPwr (setF s rPwrOp 6 6 0) fun p => { p with emergAt := none, rampAt := some (t, vcore s t) }) := by
  unfold doEmergReturn
  rw [hemerg]
  exact if_neg (by simp only [hclear, Nat.not_lt.2 hdue, Bool.false_eq_true, or_self, not_false_eq_true])

theorem doThrottle_slows (hfirst : s.pwr.stepAt = none) (hactive : pwrState s = 0) (hhot : s.pwr.hot = true) (hroom : s.pwr.goal < opFloor s) :
    doThrottle s t =
      let u := modPwr s fun p => { p with stepAt := some t }
      bumpLive (seekOp u (u.pwr.goal + 1) t) ⟨.PWR_CNT4, 0, 0⟩ 63 32 1 := by
  have hnow : ¬ (s.pwr.stepAt.elim false (fun a => decide (t < a + 1000 * us)) = true ∨ (pwrState s ≠ 0 ∧ pwrState s ≠ 1)) := by
    simp [hfirst, hactive]
  unfold doThrottle
  exact (if_neg hnow).trans ((if_pos hhot).trans (if_neg (Nat.not_le.2 hroom)))

/-- A fatal cause that is not a thermal one turns the part off and leaves its tick and number (R537). -/
theorem doFatal_turnsOff (hon : pwrState s ≠ 4) (hcause : 2 < cause) :
    doFatal s cause =
      let u := pumpAll (flushPend s)
      setReg (goOff u) ⟨.PWR_FATAL, 0, 0⟩ (BitVec.ofNat 64 (u.tick.tick % 2 ^ 48 * 2 ^ 16 + cause)) := by
  have hcool : ¬ (cause = 1 ∨ cause = 2) := by omega
  unfold doFatal
  refine (if_neg hon).trans ?_
  dsimp only
  rw [if_neg hcool]
  exact if_neg (Nat.not_le.2 hcause)

theorem two_lt_fatalNum : ∀ c : FatalCause, c ≠ .thermal → c ≠ .current → 2 < fatalNum c
  | .thermal, h, _ => absurd rfl h
  | .current, _, h => absurd rfl h
  | .supply, _, _ => by decide
  | .reeveWatchdog, _, _ => by decide
  | .packageUnit, _, _ => by decide
  | .t0Lost, _, _ => by decide
  | .noCrest, _, _ => by decide

end

/-- Settles O53. -/
theorem operatingPoints : Obligations.OperatingPoints := by
  unfold Obligations.OperatingPoints
  refine ⟨?_, ?_, ?_, ?_, ?_, ?_⟩
  · intro s by_ target halive hopen
    have hreach := fun k => asRequester_open i3cReach_pwrUnit hopen k
    refine ⟨fun hslow => exec_part rfl halive ((hreach _).trans (if_pos hslow)), ?_⟩
    intro hfloor hgoal hactive u hstill
    exact exec_part rfl halive ((hreach _).trans (doOpTarget_sought hfloor hgoal hstill))
  · rintro s r t rfl halive hquiet
    refine exec_part rfl halive (if_pos ?_)
    rcases hquiet with h | h
    · rw [h, Bool.not_false, Bool.true_or, Bool.true_or]
    · rw [h, Bool.or_true]
  · rintro s r m t rfl hrails hiin tj ts ltj lts cap cool u
    have hsample : exec (.sensorSample m t) s = .next (doSample (at_ s t) m t) := congrArg Host.Outcome.next (if_pos hrails)
    rw [hsample, doSample_outcome hiin]
    refine ⟨fun htj hts => congrArg Host.Outcome.next ?_, fun hhigh => congrArg Host.Outcome.next (if_pos hhigh)⟩
    have hbelow : ¬ (115 < tj ∨ 105 < ts) := by omega
    have hcalm : ¬ ((decide (105 < tj) || decide (95 < ts)) && (sampled (at_ s t) m t).pwr.emergAt.isNone) = true := by
      simp [Int.not_lt.2 htj, Int.not_lt.2 hts]
    exact (if_neg hbelow).trans (congrArg alert (if_neg hcalm))
  · rintro s r t a rfl halive hemerg hclear hdue
    exact exec_part rfl halive (doEmergReturn_returns hemerg hclear hdue)
  · rintro s r t rfl halive hfirst hactive hhot hroom u
    exact exec_part rfl halive (doThrottle_slows hfirst hactive hhot hroom)
  · rintro s r t rfl hon
    dsimp only
    exact ⟨fun cause hth hcu => congrArg Host.Outcome.next (doFatal_turnsOff hon (two_lt_fatalNum cause hth hcu)),
      congrArg Host.Outcome.next (doFatal_turnsOff hon (by decide))⟩

section
variable {s : State} {t t0 : Stamp}

theorem getReg_modPwr (s : State) (f : Power → Power) (r : Reg) : getReg (modPwr s f) r = getReg s r := rfl

/-- The training of the links leaves the power block. -/
theorem trainLinks_pwr (s : State) : (trainLinks s).pwr = s.pwr := by
  unfold trainLinks
  refine foldl_keeps (fun x : State => x.pwr) (fun s e => ?_) _ _
  split <;> rfl

/-- What the rise of RESET_N leaves of JTAG's instruction (R554). -/
def jtagLeft (op : JtagOp) : JtagOp := if op = .extest ∨ op = .clamp ∨ op = .highz then .bypass else op

theorem jtag_settles (u : State) :
    (if u.pwr.jtag = .extest ∨ u.pwr.jtag = .clamp ∨ u.pwr.jtag = .highz then modPwr u fun p => { p with jtag := .bypass } else u)
      = { u with pwr := { u.pwr with jtag := jtagLeft u.pwr.jtag } } := by
  unfold jtagLeft
  split <;> rfl

/-- The part once RESET_N is high: its links train where the rails are up. -/
def resetHigh (s : State) : State :=
  let high : State := { s with pwr := { s.pwr with resetN := true } }
  if s.pwr.railsUp then trainLinks high else high

theorem jtag_resetHigh (s : State) : (resetHigh s).pwr.jtag = s.pwr.jtag := by
  unfold resetHigh
  dsimp only
  split
  · rw [trainLinks_pwr]
  · rfl

theorem doResetRise_outcome (s : State) :
    doResetRise s = { resetHigh s with pwr := { (resetHigh s).pwr with jtag := jtagLeft s.pwr.jtag } } := by
  have hsettles := jtag_settles (resetHigh s)
  rw [jtag_resetHigh] at hsettles
  rw [← hsettles, ← jtag_resetHigh]
  rfl

/-- A part that is off has its state in PWR_STATE and its rails down. -/
theorem pwrState_goOff (s : State) : pwrState (goOff s) = 4 := by
  unfold goOff pwrState getF
  rw [getReg_setReg_self]
  simp only [fld, bits, BitVec.toNat_ofNat, Nat.shiftRight_zero]
  omega

theorem alive_goOff (s : State) : alive (goOff s) = false := rfl

theorem doVinCollapse_turnsOff (hon : pwrState s ≠ 4) :
    doVinCollapse s = setReg (goOff { s with pwr := { s.pwr with vinOk := false, wake := none } }) ⟨.PWR_FATAL, 0, 0⟩
      (BitVec.ofNat 64 (s.tick.tick % 2 ^ 48 * 2 ^ 16 + 3)) := by
  unfold doVinCollapse
  exact if_neg hon

/-- The state in which a loss of VAUX finds the part's registers (R553). -/
def beforeVauxLoss (s : State) : State := if pwrState s = 4 then s else goOff s

theorem doVauxLoss_outcome (hlong : t0 + 10 * us ≤ t) :
    doVauxLoss s t0 t = modPwr (setReg (resetReg (beforeVauxLoss s) rPwrWake) ⟨.PWR_FATAL, 0, 0⟩ 0) fun p =>
      { p with vauxOk := false, wake := none, woken := none } := by
  unfold doVauxLoss
  exact if_neg (Nat.not_lt.2 hlong)

theorem doVinOk_woken {src : Nat} (hoff : pwrState s = 4) (hw : s.pwr.woken = some src) :
    doVinOk s t = { s with pwr := { s.pwr with vinOk := true, wake := some (src, t), woken := none } } := by
  unfold doVinOk
  refine (if_neg (not_not_intro hoff)).trans ?_
  dsimp only [modPwr]
  rw [hw]

theorem doVinOk_auto (hoff : pwrState s = 4) (hw : s.pwr.woken = none) :
    doVinOk s t = { s with pwr := { s.pwr with
      vinOk := true, wake := if s.pwr.autoon = true ∧ s.pwr.vauxOk = true then some (7, t) else s.pwr.wake } } := by
  have hauto : ∀ (p : Prop) [Decidable p] (x : Option (Nat × Stamp)),
      (if p then modPwr (modPwr s fun p => { p with vinOk := true }) fun p => { p with wake := x } else modPwr s fun p => { p with vinOk := true })
        = { s with pwr := { s.pwr with vinOk := true, wake := if p then x else s.pwr.wake } } := by
    intro p _ x
    split <;> rfl
  unfold doVinOk
  refine (if_neg (not_not_intro hoff)).trans ?_
  dsimp only
  split
  next h => exact absurd (h.symm.trans hw) (by simp)
  next => exact hauto (s.pwr.autoon = true ∧ s.pwr.vauxOk = true) (some (7, t))

end

/-- Settles O54. -/
theorem supplyAndPins : Obligations.SupplyAndPins := by
  unfold Obligations.SupplyAndPins
  refine ⟨?_, ?_, ?_, ?_, ?_, ?_, ?_, ?_⟩
  · rintro s r t0 t rfl hlong u
    refine ⟨congrArg Host.Outcome.next ((if_neg (Nat.not_lt.2 hlong)).trans ?_), Bool.and_false _⟩
    by_cases hoff : pwrState (at_ s t) = 4
    · rw [if_pos hoff, show u = at_ s t from if_pos hoff]
      rfl
    · rw [if_neg hoff, show u = Sys2Proof.Machine.afterReset (at_ s t) from if_neg hoff]
      rfl
  · intro s left high u
    exact congrArg Host.Outcome.next (doResetRise_outcome s)
  · intro s autoon a hvaux
    exact ⟨_, congrArg Host.Outcome.next (if_neg (ne_true_of_eq_false hvaux)), rfl, (getReg_modPwr _ _ _).trans (getReg_setReg_self _ _ _),
      fun x hx => (getReg_modPwr _ _ _).trans (getReg_setReg_of_ne _ _ hx)⟩
  · rintro s r t0 t rfl hlong hoff
    exact congrArg Host.Outcome.next ((if_neg (Nat.not_lt.2 hlong)).trans (doFatal_off (s := modPwr (at_ s t) fun p => { p with vinOk := false, wake := none }) hoff 3))
  · intro s hon u v
    refine ⟨congrArg Host.Outcome.next (doVinCollapse_turnsOff hon), rfl, ?_⟩
    have hkept : getReg v rPwrState = getReg (goOff u) rPwrState := getReg_setReg_of_ne _ _ fatal_regAddr_ne
    exact (congrArg (fld · 2 0) hkept).trans (pwrState_goOff u)
  · rintro s r t0 t rfl hlong
    refine ⟨_, congrArg Host.Outcome.next (doVauxLoss_outcome hlong), (getReg_modPwr _ _ _).trans (getReg_setReg_self _ _ _), rfl, rfl, rfl, fun hon => ?_⟩
    have hoff : beforeVauxLoss (at_ s t) = goOff (at_ s t) := if_neg hon
    rw [hoff]
    rfl
  · intro s hoff
    refine ⟨fun src hw => congrArg Host.Outcome.next (doVinOk_woken hoff hw), ?_⟩
    intro hw seen
    exact congrArg Host.Outcome.next (doVinOk_auto hoff hw)
  · intro s op acts
    refine congrArg Host.Outcome.next (congrArg (fun j => { s with pwr := { s.pwr with jtag := j } }) ?_)
    refine ite_congr (propext ?_) (fun _ => rfl) (fun _ => rfl)
    cases s.pwr.railsUp <;> cases s.pwr.resetN <;> simp [or_assoc]

end Sys2Proof.Proofs
end
